-- ==== Sys2Proof/Word.lean ====
section
/-! DEFINITION. The word types of the L6 (R1, R206). -/

namespace Sys2Proof

/-- A byte. -/
abbrev Byte := BitVec 8
/-- A scalar register (R206). -/
abbrev Word := BitVec 64
/-- A vector register, 64 bytes, byte b at bits [8b+7:8b] (R222). -/
abbrev Vec := BitVec 512

/-- A register of a thread, by file: scalar, vector, predicate, directional, norm, control (R206, R222, R224). -/
inductive Reg where
  | s (n : Nat)
  | v (n : Nat)
  | p (n : Nat)
  | d (n : Nat)
  | n (k : Nat)
  /-- A control register, by its number (R224). -/
  | c (n : Nat)
  deriving DecidableEq, Repr

end Sys2Proof
end

