-- ==== Sys2Proof/Syntax.lean ====
section
/-! DEFINITION. The instructions, tile commands, logit words and operations of the L6: one constructor of `Instr` per
row of spec/opcode_table.json, in the table's order. A core or logit word carries the table's fields (a field that the
table gives in two parts is one operand, its high part first); a tile command names the tile and queue whose head it is
(its 256-bit word lies in the queue, R198, R264); an operation or event carries what it concerns: the number of a
request, a tile, a port, or the message that comes from outside. -/

namespace Sys2Proof

/-- The rows of the opcode table. `z` is the settle bit of a slot A word (R190). -/
inductive Instr where
  /-- NOP Slot A no-operation; the settle bit may be set on it. (R204) -/
  | nop (z : BitVec 1)
  /-- ADD rd gets rs1 + rs2 modulo 2^64. (R207) -/
  | add (z : BitVec 1) (d a b : BitVec 5)
  /-- SUB rd gets rs1 - rs2 modulo 2^64. (R207) -/
  | sub (z : BitVec 1) (d a b : BitVec 5)
  /-- AND rd gets the bitwise AND of rs1 and rs2. (R207) -/
  | and (z : BitVec 1) (d a b : BitVec 5)
  /-- OR rd gets the bitwise OR of rs1 and rs2. (R207) -/
  | or (z : BitVec 1) (d a b : BitVec 5)
  /-- XOR rd gets the bitwise XOR of rs1 and rs2. (R207) -/
  | xor (z : BitVec 1) (d a b : BitVec 5)
  /-- SHL rd gets rs1 shifted left by rs2[5:0]. (R207) -/
  | shl (z : BitVec 1) (d a b : BitVec 5)
  /-- SHR rd gets rs1 shifted right logically by rs2[5:0]. (R207) -/
  | shr (z : BitVec 1) (d a b : BitVec 5)
  /-- SRA rd gets rs1 shifted right arithmetically by rs2[5:0]. (R207) -/
  | sra (z : BitVec 1) (d a b : BitVec 5)
  /-- SLT rd gets 1 when rs1 is less than rs2 as signed values, else 0. (R207) -/
  | slt (z : BitVec 1) (d a b : BitVec 5)
  /-- SLTN rd gets 1 when rs1 is less than rs2 as natural values, else 0. (R207) -/
  | sltn (z : BitVec 1) (d a b : BitVec 5)
  /-- MIN rd gets the signed minimum of rs1 and rs2. (R207) -/
  | min (z : BitVec 1) (d a b : BitVec 5)
  /-- MAX rd gets the signed maximum of rs1 and rs2. (R207) -/
  | max (z : BitVec 1) (d a b : BitVec 5)
  /-- MINN rd gets the natural minimum of rs1 and rs2. (R207) -/
  | minn (z : BitVec 1) (d a b : BitVec 5)
  /-- MAXN rd gets the natural maximum of rs1 and rs2. (R207) -/
  | maxn (z : BitVec 1) (d a b : BitVec 5)
  /-- SEL rd gets rs1 when the old rd is non-zero, else rs2. (R207) -/
  | sel (z : BitVec 1) (d a b : BitVec 5)
  /-- CLZ rd gets the number of leading zero bits of rs1. (R207) -/
  | clz (z : BitVec 1) (d a : BitVec 5)
  /-- POPC rd gets the number of one bits of rs1. (R207) -/
  | popc (z : BitVec 1) (d a : BitVec 5)
  /-- MUL rd gets the low 64 bits of the product. (R208) -/
  | mul (z : BitVec 1) (d a b : BitVec 5)
  /-- MULH rd gets the high 64 bits of the signed product. (R208) -/
  | mulh (z : BitVec 1) (d a b : BitVec 5)
  /-- MULHN rd gets the high 64 bits of the natural product. (R208) -/
  | mulhn (z : BitVec 1) (d a b : BitVec 5)
  /-- DIV rd gets the signed quotient truncated toward zero; it never traps. (R208) -/
  | div (z : BitVec 1) (d a b : BitVec 5)
  /-- DIVN rd gets the natural quotient; it never traps. (R208) -/
  | divn (z : BitVec 1) (d a b : BitVec 5)
  /-- REM rd gets the signed remainder, which carries the sign of rs1. (R208) -/
  | rem (z : BitVec 1) (d a b : BitVec 5)
  /-- REMN rd gets the natural remainder. (R208) -/
  | remn (z : BitVec 1) (d a b : BitVec 5)
  /-- ADDI rd gets rs1 plus the signed immediate. (R209) -/
  | addi (z : BitVec 1) (d a : BitVec 5) (i : BitVec 10)
  /-- ANDI rd gets rs1 AND the natural immediate. (R209) -/
  | andi (z : BitVec 1) (d a : BitVec 5) (i : BitVec 10)
  /-- ORI rd gets rs1 OR the natural immediate. (R209) -/
  | ori (z : BitVec 1) (d a : BitVec 5) (i : BitVec 10)
  /-- XORI rd gets rs1 XOR the natural immediate. (R209) -/
  | xori (z : BitVec 1) (d a : BitVec 5) (i : BitVec 10)
  /-- SLTI rd gets 1 when rs1 is less than the signed immediate, else 0. (R209) -/
  | slti (z : BitVec 1) (d a : BitVec 5) (i : BitVec 10)
  /-- SHLI rd gets rs1 shifted left by the immediate SH. (R210) -/
  | shli (z : BitVec 1) (d a : BitVec 5) (h : BitVec 6)
  /-- SHRI rd gets rs1 shifted right logically by the immediate SH. (R210) -/
  | shri (z : BitVec 1) (d a : BitVec 5) (h : BitVec 6)
  /-- SRAI rd gets rs1 shifted right arithmetically by the immediate SH. (R210) -/
  | srai (z : BitVec 1) (d a : BitVec 5) (h : BitVec 6)
  /-- BFX Extracts a zero-extended bit field of rs1 into rd. (R211) -/
  | bfx (z : BitVec 1) (d a : BitVec 5) (l p : BitVec 6)
  /-- BFI Inserts the low bits of rs1 into a bit field of rd. (R211) -/
  | bfi (z : BitVec 1) (d a : BitVec 5) (l p : BitVec 6)
  /-- LIMH Sets rd[63:32] from the immediate and keeps rd[31:0]. (R212) -/
  | limh (z : BitVec 1) (d : BitVec 5) (i : BitVec 10)
  /-- LEA Forms an own-scratchpad on-chip address (BASE 0) or a PC-relative address (BASE 1). (R213) -/
  | lea (z : BitVec 1) (d b : BitVec 5) (i : BitVec 10)
  /-- LEAP Rewrites the coordinate fields of an address to name a peer core of the group. (R215) -/
  | leap (z : BitVec 1) (d a i : BitVec 5)
  /-- BCC Conditional branch that compares two registers. (R216) -/
  | bcc (z : BitVec 1) (c : BitVec 3) (a b : BitVec 5) (i : BitVec 10)
  /-- BCCZ Conditional branch that compares a register with zero. (R216) -/
  | bccz (z : BitVec 1) (c : BitVec 3) (a : BitVec 5) (i : BitVec 10)
  /-- JMP Jumps to PC + 8·W. (R217) -/
  | jmp (z : BitVec 1) (i : BitVec 10)
  /-- JAL Writes the return address PC + 8 into rd and jumps. (R217) -/
  | jal (z : BitVec 1) (d : BitVec 5) (i : BitVec 10)
  /-- JR Jumps to the address held in rs1. (R217) -/
  | jr (z : BitVec 1) (a : BitVec 5)
  /-- EXIT Waits as a settle mark does, then ends the thread or acts as R219 gives for its kind of thread. (R219) -/
  | exit (z : BitVec 1)
  /-- LDB Loads a byte, sign-extended. (R240) -/
  | ldb (z : BitVec 1) (d a : BitVec 5) (i : BitVec 10)
  /-- LDBZ Loads a byte, zero-extended. (R240) -/
  | ldbz (z : BitVec 1) (d a : BitVec 5) (i : BitVec 10)
  /-- LDH Loads a halfword, sign-extended. (R240) -/
  | ldh (z : BitVec 1) (d a : BitVec 5) (i : BitVec 10)
  /-- LDHZ Loads a halfword, zero-extended. (R240) -/
  | ldhz (z : BitVec 1) (d a : BitVec 5) (i : BitVec 10)
  /-- LDW Loads a word, sign-extended. (R240) -/
  | ldw (z : BitVec 1) (d a : BitVec 5) (i : BitVec 10)
  /-- LDWZ Loads a word, zero-extended. (R240) -/
  | ldwz (z : BitVec 1) (d a : BitVec 5) (i : BitVec 10)
  /-- LDD Loads a doubleword. (R240) -/
  | ldd (z : BitVec 1) (d a : BitVec 5) (i : BitVec 10)
  /-- STB Stores a byte. (R240) -/
  | stb (z : BitVec 1) (d a : BitVec 5) (i : BitVec 10)
  /-- STH Stores a halfword. (R240) -/
  | sth (z : BitVec 1) (d a : BitVec 5) (i : BitVec 10)
  /-- STW Stores a word. (R240) -/
  | stw (z : BitVec 1) (d a : BitVec 5) (i : BitVec 10)
  /-- STD Stores a doubleword. (R240) -/
  | std (z : BitVec 1) (d a : BitVec 5) (i : BitVec 10)
  /-- VLD Predicated 64-byte vector load; it sets the register's tag. (R242) -/
  | vld (z : BitVec 1) (v : BitVec 4) (a : BitVec 5) (g : BitVec 3) (f : BitVec 4) (i : BitVec 8)
  /-- VST Predicated 64-byte vector store. (R242) -/
  | vst (z : BitVec 1) (v : BitVec 4) (a : BitVec 5) (g : BitVec 3) (i : BitVec 8)
  /-- VLDS Strided vector load. (R243) -/
  | vlds (z : BitVec 1) (v : BitVec 4) (a : BitVec 5) (g : BitVec 3) (f : BitVec 4) (t : BitVec 5)
  /-- VGTH Vector gather through an index vector. (R244) -/
  | vgth (z : BitVec 1) (v : BitVec 4) (a : BitVec 5) (g : BitVec 3) (f x : BitVec 4)
  /-- VSCT Vector scatter through an index vector, in lane order to each home. (R244) -/
  | vsct (z : BitVec 1) (v : BitVec 4) (a : BitVec 5) (g : BitVec 3) (f x : BitVec 4)
  /-- LDV Versioned acquire load that waits for the word's VER window. (R245) -/
  | ldv (z : BitVec 1) (d a : BitVec 5) (n : BitVec 6) (i : BitVec 9)
  /-- STV Release store that increments the word's VER. (R246) -/
  | stv (z : BitVec 1) (d a : BitVec 5) (i : BitVec 10)
  /-- LDFE Waits for the full bit, returns the word and empties it. (R246) -/
  | ldfe (z : BitVec 1) (d a : BitVec 5) (i : BitVec 10)
  /-- STFE Waits for the empty bit, writes the word and fills it. (R246) -/
  | stfe (z : BitVec 1) (d a : BitVec 5) (i : BitVec 10)
  /-- AMO Atomic read-modify-write at the home that returns the old value. (R250) -/
  | amo (z : BitVec 1) (d a b : BitVec 5) (w : BitVec 1) (p : BitVec 4)
  /-- AMOC Atomic compare-and-swap at the home. (R250) -/
  | amoc (z : BitVec 1) (d a b : BitVec 5) (w : BitVec 1)
  /-- RED Fire-and-forget reduction that a remote-update thread performs at the home. (R251) -/
  | red (z : BitVec 1) (a b : BitVec 5) (w : BitVec 1) (p : BitVec 4)
  /-- VRCL Resets VER to 0 over a scratchpad range, or traps VERSION_WINDOW. (R247) -/
  | vrcl (z : BitVec 1) (a b : BitVec 5)
  /-- WATCH Registers the thread as watcher of a local word. (R248) -/
  | watch (z : BitVec 1) (d a : BitVec 5)
  /-- UNWATCH Releases the thread's watch of a word. (R248) -/
  | unwatch (z : BitVec 1) (a : BitVec 5)
  /-- WAIT Parks until the thread's ready bit is set, then clears it. (R248) -/
  | wait (z : BitVec 1)
  /-- PFH Prefetch hint that fills a cache-slice line. (R252) -/
  | pfh (z : BitVec 1) (a : BitVec 5)
  /-- TCLS Sets a cache line's class and reuse count. (R252) -/
  | tcls (z : BitVec 1) (a : BitVec 5) (c : BitVec 2) (r : BitVec 4)
  /-- FENCE Orders the thread's accesses by kind and scope. (R86) -/
  | fence (z : BitVec 1) (s : BitVec 3) (k : BitVec 2)
  /-- SPAWN Sends a new thread to a target core or ANY; a release that parks until answered. (R254) -/
  | spawn (z : BitVec 1) (s a : BitVec 5) (n : BitVec 4) (l y : BitVec 1) (i : BitVec 9)
  /-- RCALL Remote call to the unit nearest an address; a release with an expected reply. (R255) -/
  | rcall (z : BitVec 1) (s a n : BitVec 5) (v : BitVec 4) (c : BitVec 3)
  /-- RRET Settles, sends the reply registers and ends the callee. (R257) -/
  | rret (z : BitVec 1) (s : BitVec 5) (v n : BitVec 4) (c : BitVec 3)
  /-- MIGR Moves the thread's workspace to the unit nearest an address. (R258) -/
  | migr (z : BitVec 1) (a : BitVec 5)
  /-- JOIN Adds a member to a barrier object. (R259) -/
  | join (z : BitVec 1) (a : BitVec 5)
  /-- LEAVE Drops a member from a barrier object without arriving. (R259) -/
  | leave (z : BitVec 1) (a : BitVec 5)
  /-- GBAR Arrives at a barrier and waits for the phase flip. (R259) -/
  | gbar (z : BitVec 1) (d a : BitVec 5)
  /-- GBARD Arrives at a barrier and drops from every later phase. (R259) -/
  | gbard (z : BitVec 1) (a : BitVec 5)
  /-- GQRY Reads the PHASE and ARRIVED fields of a barrier object. (R259) -/
  | gqry (z : BitVec 1) (d a : BitVec 5)
  /-- SPEC Starts speculative execution with a write log and a read set. (R121) -/
  | spec (z : BitVec 1)
  /-- COMMIT Validates and applies the speculation log, and writes the outcome. (R122) -/
  | commit (z : BitVec 1) (d : BitVec 5)
  /-- ABORT Discards the speculation log. (R260) -/
  | abort (z : BitVec 1)
  /-- PMRG Combines the in-box partial with the own record and forwards the result along the line. (R262) -/
  | pmrg (z : BitVec 1) (d a b : BitVec 5) (v f : BitVec 1)
  /-- SEND Release send of a two-register message to a thread's receive queue. (R263) -/
  | send (z : BitVec 1) (a s : BitVec 5)
  /-- RECV Waits for a message and acquires it. (R263) -/
  | recv (z : BitVec 1) (d : BitVec 5)
  /-- PUSH Checks a tile command word and hands it to an engine queue; a release. (R264) -/
  | push (z : BitVec 1) (r : BitVec 5) (q : BitVec 2)
  /-- POP Takes the queue's oldest completion element and acquires what it reports. (R266) -/
  | pop (z : BitVec 1) (d : BitVec 5) (q : BitVec 2)
  /-- FSTAT Reads a queue's counts of queued, in-flight and unpopped commands. (R266) -/
  | fstat (z : BitVec 1) (d : BitVec 5) (q : BitVec 2)
  /-- SEMP Waits for a semaphore count above 0, then decrements it; an acquire. (R267) -/
  | semp (z : BitVec 1) (n : BitVec 4)
  /-- SEMV Increments a semaphore count, held at issue; a release. (R267) -/
  | semv (z : BitVec 1) (n : BitVec 4)
  /-- EVPOP Takes the oldest event-queue record. (R268) -/
  | evpop (z : BitVec 1) (d : BitVec 5)
  /-- HGET Reads one histogram counter. (R268) -/
  | hget (z : BitVec 1) (d a : BitVec 5)
  /-- HCLR Clears the histogram bins, ZCNT and SPCNT. (R268) -/
  | hclr (z : BitVec 1)
  /-- CSRR Reads a control register. (R224) -/
  | csrr (z : BitVec 1) (d : BitVec 5) (n : BitVec 9)
  /-- CSRW Writes a control register. (R224) -/
  | csrw (z : BitVec 1) (a : BitVec 5) (n : BitVec 9)
  /-- TRAP Traps SOFTWARE precisely, with a code. (R228) -/
  | trap (z : BitVec 1) (c : BitVec 10)
  /-- BRK Traps BREAK precisely, with a code. (R228) -/
  | brk (z : BitVec 1) (c : BitVec 10)
  /-- RTE The supervisor resumes a trapped thread in one of four modes. (R170) -/
  | rte (z : BitVec 1) (d a : BitVec 5) (m : BitVec 2)
  /-- IDLE The supervisor takes the oldest trap-queue entry, parking while the queue is empty. (R229) -/
  | idle (z : BitVec 1) (d : BitVec 5)
  /-- FRZ Freezes the thread in a position. (R171) -/
  | frz (z : BitVec 1) (d a : BitVec 5)
  /-- THAW Undoes an FRZ freeze. (R171) -/
  | thaw (z : BitVec 1) (d a : BitVec 5)
  /-- SLOTQ Reads the state of an issue position. (R231) -/
  | slotq (z : BitVec 1) (d a : BitVec 5)
  /-- VWID Returns the number of vector lanes of a given element size. (R232) -/
  | vwid (z : BitVec 1) (d : BitVec 5) (c : BitVec 10)
  /-- RDTK Reads the module-wide TICK counter. (R232) -/
  | rdtk (z : BitVec 1) (d : BitVec 5)
  /-- SBSR Swaps SBCNT with a new value in one step. (R233) -/
  | sbsr (z : BitVec 1) (d a : BitVec 5)
  /-- DUSK_DRAIN Context 0 starts draining a named tile. (R182) -/
  | duskDrain (z : BitVec 1) (d a : BitVec 5)
  /-- DUSK_RELEASE Context 0 releases a drained tile to the dispatcher. (R182) -/
  | duskRelease (z : BitVec 1) (d a : BitVec 5)
  /-- LCMW Remaps a drained logical tile to a physical slot. (R186) -/
  | lcmw (z : BitVec 1) (d a b : BitVec 5)
  /-- SCAN Runs the in-field scan pattern set on a core of a drained tile. (R184) -/
  | scan (z : BitVec 1) (d a : BitVec 5)
  /-- REP Repeats the next bundle, stepping the selected register fields. (R194) -/
  | rep (c : BitVec 8) (m : BitVec 6) (t : BitVec 3)
  /-- NOPV Slot B no-operation. (R204) -/
  | nopv 
  /-- VADD Element-wise add, rounded or saturating. (R272) -/
  | vadd (d a b : BitVec 4) (g : BitVec 3) (f : BitVec 4) (r : BitVec 3) (p : BitVec 4)
  /-- VSUB Element-wise subtract. (R272) -/
  | vsub (d a b : BitVec 4) (g : BitVec 3) (f : BitVec 4) (r : BitVec 3) (p : BitVec 4)
  /-- VMUL Element-wise multiply. (R272) -/
  | vmul (d a b : BitVec 4) (g : BitVec 3) (f : BitVec 4) (r : BitVec 3) (p : BitVec 4)
  /-- VFMA Fused multiply-add with one rounding. (R272) -/
  | vfma (d a b : BitVec 4) (g : BitVec 3) (f : BitVec 4) (r : BitVec 3) (p : BitVec 4)
  /-- VFMS Fused multiply-subtract with one rounding. (R272) -/
  | vfms (d a b : BitVec 4) (g : BitVec 3) (f : BitVec 4) (r : BitVec 3) (p : BitVec 4)
  /-- VMIN Element-wise minimum. (R274) -/
  | vmin (d a b : BitVec 4) (g : BitVec 3) (f : BitVec 4) (p : BitVec 7)
  /-- VMAX Element-wise maximum. (R274) -/
  | vmax (d a b : BitVec 4) (g : BitVec 3) (f : BitVec 4) (p : BitVec 7)
  /-- VABS Element-wise absolute value. (R274) -/
  | vabs (d a : BitVec 4) (g : BitVec 3) (f : BitVec 4) (p : BitVec 7)
  /-- VNEG Element-wise negation. (R274) -/
  | vneg (d a : BitVec 4) (g : BitVec 3) (f : BitVec 4) (p : BitVec 7)
  /-- VCMP Element-wise compare that writes a predicate. (R275) -/
  | vcmp (d : BitVec 3) (a b : BitVec 4) (g : BitVec 3) (f : BitVec 4) (c : BitVec 7)
  /-- VSEL Selects each byte from vs1 or vs2 by a predicate. (R276) -/
  | vsel (d a b : BitVec 4) (g : BitVec 3)
  /-- VAND Byte-wise AND. (R277) -/
  | vand (d a b : BitVec 4) (g : BitVec 3)
  /-- VOR Byte-wise OR. (R277) -/
  | vor (d a b : BitVec 4) (g : BitVec 3)
  /-- VXOR Byte-wise XOR. (R277) -/
  | vxor (d a b : BitVec 4) (g : BitVec 3)
  /-- VNOT Byte-wise NOT. (R277) -/
  | vnot (d a : BitVec 4) (g : BitVec 3)
  /-- VSHL Element-wise shift left. (R278) -/
  | vshl (d a b : BitVec 4) (g : BitVec 3) (f : BitVec 4) (p : BitVec 7)
  /-- VSHR Element-wise logical shift right. (R278) -/
  | vshr (d a b : BitVec 4) (g : BitVec 3) (f : BitVec 4) (p : BitVec 7)
  /-- VSRA Element-wise arithmetic shift right. (R278) -/
  | vsra (d a b : BitVec 4) (g : BitVec 3) (f : BitVec 4) (p : BitVec 7)
  /-- VCVT Converts elements between formats, widening or narrowing by part. (R279) -/
  | vcvt (d a h : BitVec 4) (g : BitVec 3) (f : BitVec 4) (r : BitVec 3) (s : BitVec 4)
  /-- VPERM Permutes elements by an index vector. (R281) -/
  | vperm (d a b : BitVec 4) (g : BitVec 3) (f : BitVec 4)
  /-- VBCAST Broadcasts a scalar into active elements. (R282) -/
  | vbcast (d : BitVec 4) (a : BitVec 5) (g : BitVec 3) (f : BitVec 4)
  /-- VEXTR Extracts one element into a scalar register. (R282) -/
  | vextr (v : BitVec 4) (a b : BitVec 5) (f : BitVec 4) (e : BitVec 1)
  /-- VINS Inserts a scalar into one element. (R282) -/
  | vins (v : BitVec 4) (a b : BitVec 5) (f : BitVec 4)
  /-- VMOV Copies active bytes with the tag. (R283) -/
  | vmov (d a : BitVec 4) (g : BitVec 3)
  /-- VIOTA Writes element indices or prefix counts. (R283) -/
  | viota (d : BitVec 4) (g : BitVec 3) (f : BitVec 4) (x : BitVec 1)
  /-- VORD Turns values into order-preserving natural keys. (R284) -/
  | vord (d a : BitVec 4) (g : BitVec 3) (f : BitVec 4) (x : BitVec 1)
  /-- VDIG Extracts a digit field of each element. (R285) -/
  | vdig (d a : BitVec 4) (g : BitVec 3) (f : BitVec 4) (w : BitVec 2) (s : BitVec 5)
  /-- VHADD Adds histogram increments into scratchpad bins. (R286) -/
  | vhadd (v a b : BitVec 4) (g : BitVec 3) (f : BitVec 4) (x : BitVec 1)
  /-- PWHILE Sets predicate elements while sa + i < sb. (R289) -/
  | pwhile (d : BitVec 3) (a b : BitVec 5) (g : BitVec 3) (f : BitVec 4) (n : BitVec 1)
  /-- PAND Predicate AND. (R290) -/
  | pand (d a b g : BitVec 3)
  /-- POR Predicate OR. (R290) -/
  | por (d a b g : BitVec 3)
  /-- PXOR Predicate XOR. (R290) -/
  | pxor (d a b g : BitVec 3)
  /-- PNOT Predicate NOT. (R290) -/
  | pnot (d a g : BitVec 3)
  /-- PCNT Counts the elements active in both predicates. (R291) -/
  | pcnt (p : BitVec 3) (d : BitVec 5) (g : BitVec 3) (f : BitVec 4)
  /-- PFIRST Keeps only the first active element. (R292) -/
  | pfirst (d a g : BitVec 3) (f : BitVec 4)
  /-- PSET Sets the active elements below k. (R292) -/
  | pset (d g : BitVec 3) (f : BitVec 4) (k : BitVec 7)
  /-- VTOD Converts vector elements to a renormalised direction. (R61) -/
  | vtod (d : BitVec 3) (v : BitVec 4) (g : BitVec 2) (f : BitVec 4) (r : BitVec 3)
  /-- DTOV Converts a direction to ordinary elements. (R62) -/
  | dtov (v : BitVec 4) (a : BitVec 3) (g : BitVec 2) (f : BitVec 4) (r : BitVec 3)
  /-- DADD Adds two directions and renormalises. (R295) -/
  | dadd (d a b : BitVec 3) (g : BitVec 2) (r : BitVec 3)
  /-- DSUB Subtracts two directions and renormalises. (R295) -/
  | dsub (d a b : BitVec 3) (g : BitVec 2) (r : BitVec 3)
  /-- DSCL Adds δ to a group's norm. (R59) -/
  | dscl (d : BitVec 3) (s : BitVec 5) (g : BitVec 2)
  /-- DSETN Writes a group's norm code. (R297) -/
  | dsetn (d : BitVec 3) (s : BitVec 5) (g : BitVec 2)
  /-- DNEG Copies a direction with its components negated. (R298) -/
  | dneg (d a : BitVec 3) (g : BitVec 2)
  /-- DMOV Copies a direction. (R298) -/
  | dmov (d a : BitVec 3) (g : BitVec 2)
  /-- DCOS Exact component dot product, rounded once to F32. (R60) -/
  | dcos (s : BitVec 5) (a b : BitVec 3) (g : BitVec 2) (r : BitVec 3)
  /-- DNRM Reads a group's norm into a scalar register. (R299) -/
  | dnrm (s : BitVec 5) (a : BitVec 3) (g : BitVec 2) (r : BitVec 3)
  /-- DREN Renormalises a group. (R296) -/
  | dren (d a : BitVec 3) (g : BitVec 2) (r : BitVec 3)
  /-- DLERP Interpolates two directions and renormalises. (R295) -/
  | dlerp (d a b : BitVec 3) (g : BitVec 2) (r : BitVec 3) (t : BitVec 4)
  /-- VDIV Correctly rounded element-wise division. (R288) -/
  | vdiv (d a b : BitVec 4) (g : BitVec 3) (f : BitVec 4) (r : BitVec 3)
  /-- VSQRT Correctly rounded square root. (R288) -/
  | vsqrt (d a : BitVec 4) (g : BitVec 3) (f : BitVec 4) (r : BitVec 3)
  /-- VRCP Correctly rounded reciprocal. (R49) -/
  | vrcp (d a : BitVec 4) (g : BitVec 3) (f : BitVec 4) (r : BitVec 3)
  /-- VRSQ Correctly rounded reciprocal square root. (R49) -/
  | vrsq (d a : BitVec 4) (g : BitVec 3) (f : BitVec 4) (r : BitVec 3)
  /-- VEXP2 Correctly rounded 2^x. (R49) -/
  | vexp2 (d a : BitVec 4) (g : BitVec 3) (f : BitVec 4) (r : BitVec 3)
  /-- VLOG2 Correctly rounded log2. (R49) -/
  | vlog2 (d a : BitVec 4) (g : BitVec 3) (f : BitVec 4) (r : BitVec 3)
  /-- VSIN Correctly rounded sine. (R50) -/
  | vsin (d a : BitVec 4) (g : BitVec 3) (f : BitVec 4) (r : BitVec 3)
  /-- VCOS Correctly rounded cosine. (R50) -/
  | vcos (d a : BitVec 4) (g : BitVec 3) (f : BitVec 4) (r : BitVec 3)
  /-- VTANH Correctly rounded hyperbolic tangent. (R49) -/
  | vtanh (d a : BitVec 4) (g : BitVec 3) (f : BitVec 4) (r : BitVec 3)
  /-- VRED Reduces lanes with a fixed pairwise tree into element 0. (R52) -/
  | vred (d a : BitVec 4) (g : BitVec 3) (f : BitVec 4) (r : BitVec 3) (p : BitVec 4)
  /-- IMM32 Widens the immediate of the slot A form in the same bundle. (R192) -/
  | imm32 (i : BitVec 26)
  /-- LNOP Logit no-operation. (R326) -/
  | lnop 
  /-- LLDK Loads the chunk's stored logits. (R326) -/
  | lldk (d : BitVec 4)
  /-- LCNT Loads the COUNT table entries as F32. (R326) -/
  | lcnt (d : BitVec 4)
  /-- LHIS Loads the history bits as 1.0 or +0. (R326) -/
  | lhis (d : BitVec 4)
  /-- LBIA Loads the BF16 biases widened to F32. (R326) -/
  | lbia (d : BitVec 4)
  /-- LBAN Replaces banned lanes with -∞. (R326) -/
  | lban (d a : BitVec 4)
  /-- LADD Lane-wise add. (R326) -/
  | ladd (d a b : BitVec 4)
  /-- LSUB Lane-wise subtract. (R326) -/
  | lsub (d a b : BitVec 4)
  /-- LMUL Lane-wise multiply. (R326) -/
  | lmul (d a b : BitVec 4)
  /-- LSEL Lane-wise select by a non-zero test. (R326) -/
  | lsel (d a b c : BitVec 4)
  /-- LCMP Lane-wise compare that writes 1.0 or +0. (R326) -/
  | lcmp (d a b : BitVec 4) (c : BitVec 3)
  /-- LMAX Lane-wise maximum. (R326) -/
  | lmax (d a b : BitVec 4)
  /-- LMIN Lane-wise minimum. (R326) -/
  | lmin (d a b : BitVec 4)
  /-- LSCL Scales lanes by 2^k. (R326) -/
  | lscl (d a : BitVec 4) (k : BitVec 9)
  /-- LCLP Clamps lanes to ±|xb|. (R326) -/
  | lclp (d a b : BitVec 4)
  /-- LPEN Applies a repetition penalty by the constant Ck. (R326) -/
  | lpen (d a b : BitVec 4) (k : BitVec 3)
  /-- LTOPK Offers the lanes to the filter's Take, first LTOPK of a run only. (R327) -/
  | ltopk (a : BitVec 4)
  /-- LMOV Copies a logit register. (R326) -/
  | lmov (d a : BitVec 4)
  /-- LIMM_CONST Loads the header constant Ck into every lane. (R326) -/
  | limmConst (d : BitVec 4) (k : BitVec 3)
  /-- LIMM_VALUE Loads an F32 whose top 13 bits come from the immediate. (R326) -/
  | limmValue (d : BitVec 4) (v : BitVec 13)
  /-- LHALT Ends the logit program run. (R326) -/
  | lhalt 
  /-- CLD Contracting load: the matrix engine starts a stream against the resident operand into the accumulator. (R307) -/
  | cld (t q : Nat)
  /-- CLD_SECTOR_REPLY A stream sector's reply lands and its contributions enter the accumulator. (R64) -/
  | cldSectorReply (t k sec : Nat)
  /-- WLD Copies rows from memory into the resident buffer and sets TOGGLE. (R314) -/
  | wld (t q : Nat)
  /-- ALD Copies rows from memory into the activation buffer. (R314) -/
  | ald (t q : Nat)
  /-- AST Copies buffer rows out to memory. (R314) -/
  | ast (t q : Nat)
  /-- CZR Zeroes an accumulator range and its guard store. (R310) -/
  | czr (t q : Nat)
  /-- CRD Rounds accumulator elements into the activation buffer. (R312) -/
  | crd (t q : Nat)
  /-- CVT Converts buffer elements between formats, optionally counting a histogram. (R313) -/
  | cvt (t q : Nat)
  /-- CPY Copies a byte range. (R315) -/
  | cpy (t q : Nat)
  /-- GTH Gathers table rows into the activation buffer. (R316) -/
  | gth (t q : Nat)
  /-- SCT Scatters activation rows into a table. (R316) -/
  | sct (t q : Nat)
  /-- XFR Transfers rows into another tile's activation buffer. (R317) -/
  | xfr (t q : Nat)
  /-- FILL Fills a range with a 64-bit pattern. (R315) -/
  | fill (t q : Nat)
  /-- TDSC Writes a tile descriptor. (R318) -/
  | tdsc (t q : Nat)
  /-- SMX Forms per-row softmax partials (m, s) from an accumulator. (R311) -/
  | smx (t q : Nat)
  /-- SAVE The context-save engine saves a drained tile into a save area. (R319) -/
  | save (t q : Nat)
  /-- RSTR The context-save engine restores a drained tile from a save area. (R319) -/
  | rstr (t q : Nat)
  /-- COMPLETION_POST A command finishes, posts its STATUS bits to the barrier object and its completion element. (R265) -/
  | completionPost (t q k : Nat)
  /-- LAUNCH A launch message arrives at a dispatcher, is checked, and is accepted or rejected. (R104) -/
  | launch (die sg g ep : Nat) (hdr : BitVec 512) (list : List (BitVec 32))
  /-- DISPATCH Once prerequisites are met and tiles are free, the dispatcher starts a launch's tile tasks. (R106) -/
  | dispatch (die : Nat)
  /-- TASK_RETIRE A tile task retires once its threads have exited and its writes are performed. (R97) -/
  | taskRetire (lid t : Nat)
  /-- PREEMPT_THAW After the last pre-empting thread on a core exits, the victims thaw at the next rotation. (R125) -/
  | preemptThaw (core : Nat)
  /-- REQUEST_ARRIVAL An access request reaches its home, is checked, and is applied, parked or refused. (R159) -/
  | requestArrival (rid j : Nat)
  /-- LONG_LATENCY_RESULT A long-latency result lands and writes its register, or is held as a failure. (R25) -/
  | longLatencyResult (th k : Nat)
  /-- REFUSAL A refused request returns to its core and is resent at the thread's next turn. (R112) -/
  | refusal (rid : Nat)
  /-- RETRY_LIMIT After RETRYLIM consecutive refusals the request is given up and a deferred trap is raised. (R112) -/
  | retryLimit (rid : Nat)
  /-- DRAINED_RESEND A request refused with the drained mark is resent, at most once every 64 rotations. (R182) -/
  | drainedResend (rid : Nat)
  /-- DEFERRED_TRAP The oldest held failure strikes at the thread's next issue and writes the trap record. (R168) -/
  | deferredTrap (th : Nat)
  /-- SPAWN_ARRIVAL A SPAWN reaches its target and claims a free position or is refused. (R116) -/
  | spawnArrival (rid : Nat)
  /-- SPAWN_ANSWER The answer lands: the sender resumes, or runs the child inline on a refusal. (R117) -/
  | spawnAnswer (rid : Nat)
  /-- SPAWN_COUNT_REFRESH Every 64 cycles, the free-position counts used by SPAWN ANY are refreshed. (R116) -/
  | spawnCountRefresh (die : Nat)
  /-- RCALL_ARRIVAL An RCALL reaches its unit, and a callee starts or is parked or refused. (R256) -/
  | rcallArrival (rid : Nat)
  /-- RCALL_REPLY A reply lands in the caller's registers as an acquire. (R93) -/
  | rcallReply (rid : Nat)
  /-- FAULT_RECORD A callee's fault record reaches the caller, which traps REMOTE_FAULT. (R173) -/
  | faultRecord (rid : Nat)
  /-- RCALL_TIMEOUT RCTIMEOUT expires with no reply, and the caller traps. (R120) -/
  | rcallTimeout (th call : Nat)
  /-- MIGR_ARRIVAL A migrating workspace reaches its unit and is accepted, parked or refused. (R258) -/
  | migrArrival (rid : Nat)
  /-- MIGR_ANSWER The migration answer lands; the old position frees or the thread resends. (R258) -/
  | migrAnswer (rid : Nat)
  /-- PARKED_ARRIVAL_START An arrival parked for want of a position starts when a position frees. (R111) -/
  | parkedArrivalStart (core : Nat)
  /-- SEND_ARRIVAL A message reaches a position's receive queue, or is refused when the queue is full. (R263) -/
  | sendArrival (rid : Nat)
  /-- RED_ARRIVAL A RED reaches its home port core, and a remote-update thread applies it or it is refused. (R119) -/
  | redArrival (rid : Nat)
  /-- INBOX_WRITE A PMRG outgoing record is written into the next core's in-box once it is empty. (R262) -/
  | inboxWrite (rid : Nat)
  /-- BARRIER_HOME_APPLY Barrier operations reaching the home in a cycle are applied in a fixed order. (R114) -/
  | barrierHomeApply (rids : List Nat)
  /-- BARRIER_POLL A parked GBAR re-reads PHASE at a remote home, at most every 16 rotations. (R115) -/
  | barrierPoll (th : Nat)
  /-- WALK_COMPLETE A page walk completes or fails; the translation is installed or the fault is posted. (R154) -/
  | walkComplete (port slot : Nat)
  /-- STREAM_FAULT_TIMEOUT With no answer 1 ms after a fault is posted, the stalled stream ends with FAULT. (R155) -/
  | streamFaultTimeout (port slot : Nat)
  /-- FLTPOP A read of FLTPOP removes and returns the oldest stream-fault entry. (R156) -/
  | fltpop (port : Nat)
  /-- FLTRSP_REPLAY A FLTRSP write with ACT 1 replays the walk of a stalled stream. (R156) -/
  | fltrspReplay (port tag : Nat)
  /-- FLTRSP_FAIL A FLTRSP write with ACT 2 ends the stalled stream with FAULT. (R156) -/
  | fltrspFail (port tag : Nat)
  /-- TINV_PAGE A TINV write drops every translation of one page of a context module-wide. (R157) -/
  | tinvPage (port ctx vpn : Nat)
  /-- TINV_ALL A TINV write with ALL drops every translation of a context module-wide. (R157) -/
  | tinvAll (port ctx : Nat)
  /-- INVALIDATION_DONE Accesses translated by dropped entries are performed and BUSY clears. (R157) -/
  | invalidationDone (port : Nat)
  /-- CTXBASE_WRITE A CTXBASE write is copied to every port core. (R151) -/
  | ctxbaseWrite (v : BitVec 64)
  /-- STKOWN_WRITE Changes a stack core's owner once its callees end, clearing its SRAM. (R158) -/
  | stkownWrite (port : Nat) (v : BitVec 64)
  /-- OWNER_WRITE A store to a free tile's OWNER changes its context and starts the scrub. (R158) -/
  | ownerWrite (t : Nat) (v : BitVec 64)
  /-- SCRUB_DONE The tile clear ends and SCRUB returns to 0. (R158) -/
  | scrubDone (t : Nat)
  /-- ERRPOP A read of ERRPOP removes and returns the oldest error-log entry. (R179) -/
  | errpop (port : Nat)
  /-- REGISTER_WRITE A write to a port-core control register that has no behaviour of its own (CPRIO, MCRFM, HPCTL). (R142) -/
  | registerWrite (port off : Nat) (v : BitVec 64)
  /-- TREELD A store loads and checks a reduction tree table into a slot. (R350) -/
  | treeld (die : Nat) (v : BitVec 64)
  /-- CLGO A store checks a collective command block and starts a collective reduction. (R351) -/
  | clgo (die : Nat) (v : BitVec 64)
  /-- COLLECTIVE_DONE A collective's result is written to DST and DONE is written as a release. (R351) -/
  | collectiveDone (die k : Nat)
  /-- BUDGET_PERIOD Every 1 µs the arbiters set budgets and grant queued commands. (R146) -/
  | budgetPeriod (die measured inlet junction : Nat)
  /-- HOT_PAGE_PERIOD At the end of each tracker period a hot page is selected and migrated. (R144) -/
  | hotPagePeriod (port : Nat)
  /-- RFMPB A bank's activation count rises through a level and a refresh-management command is issued. (R137) -/
  | rfmpb (port bank level : Nat)
  /-- STARVE An injection head waits 64 cycles and its router raises STARVE. (R132) -/
  | starve (die node : Nat)
  /-- PACKET_REASSEMBLED An endpoint completes a packet and its target accepts or refuses it. (R134) -/
  | packetReassembled (die node tag : Nat) (accept : Bool)
  /-- BRIDGE_FORWARD A bridge sends a whole packet onto a link or into its die. (R135) -/
  | bridgeForward (link : Nat)
  /-- LINK_FLIT_RECEIVE A link flit arrives and is checked by CRC and sequence, then accepted, discarded or answered. (R180) -/
  | linkFlitReceive (link : Nat) (crcOk : Bool)
  /-- LINK_REPLAY The transmitter receives the expected sequence number and resends from it. (R180) -/
  | linkReplay (link expected : Nat)
  /-- LINK_RETRAIN After too many CRC errors or failed replays the link retrains. (R180) -/
  | linkRetrain (link : Nat)
  /-- LINK_RETRAIN_DONE Retraining ends; replay resumes, or the link goes down after three failures. (R180) -/
  | linkRetrainDone (link : Nat) (ok : Bool)
  /-- LINKDOWN A down link's traffic moves to another link, or rerouting as R181 gives. (R346) -/
  | linkdown (link : Nat)
  /-- INBOUND_REQUEST A host or peer request arrives over the fabric and is checked and performed or denied. (R347) -/
  | inboundRequest (die ep ctx : Nat) (va : BitVec 64) (size : Nat) (write ord rel : Bool) (data : BitVec 512)
  /-- FABRIC_GRANT A peer grants a fabric window to the L6. (R348) -/
  | fabricGrant (lo hi : Nat)
  /-- FABRIC_REVOKE A peer revokes a fabric window; later requests are answered gone. (R348) -/
  | fabricRevoke (lo hi : Nat)
  /-- BIND A store of 1 to BIND binds the logit window after checking header and program. (R322) -/
  | bind (rid j : Nat)
  /-- UNBIND A store of 0 to BIND unbinds the window. (R322) -/
  | unbind (rid j : Nat)
  /-- LOGIT_STORE The filter accepts a store to a logit window and sets the chunk's CUR or NEXT mask. (R353) -/
  | logitStore (rid j : Nat)
  /-- CHUNK_RUN The filter runs the logit program on a chunk whose CUR mask is full. (R323) -/
  | chunkRun (win chunk : Nat)
  /-- SAMPLER_RESEND A refused sampling-thread start is resent every 64 rotations. (R329) -/
  | samplerResend (win : Nat)
  /-- DRAIN_COMPLETE A drain completes and DUSK's result lands. (R182) -/
  | drainComplete (t : Nat)
  /-- SCAN_BLOCK_DONE A scan block ends and its MISR signature is compared; a failure fences the slot and logs SCANFAIL. (R354) -/
  | scanBlockDone (t : Nat) (same : Bool)
  /-- SCAN_ABORT A class-0 launch at the head of its class aborts a scan of its tile. (R185) -/
  | scanAbort (t : Nat)
  /-- SCAN_CLEAR_DONE The post-scan clear ends, fresh supervisors start, and SCAN's result lands. (R355) -/
  | scanClearDone (t : Nat)
  /-- WEAR Every 24 hours the ageing monitors update WEAR, and may log an entry. (R189) -/
  | wear (sg drift hours pred : Nat)
  /-- DAWN At power-up the boot ROM runs the DAWN steps up to device ready or DAWN-HOLD. (R163) -/
  | dawn (ok : Bool)
  /-- FIRMWARE_IMAGE The host supplies a firmware image, which is verified and placed. (R163) -/
  | firmwareImage (image sigR sigS keyR keyS : List (BitVec 8)) (secVer : Nat) (entry : BitVec 48)
  /-- ATTESTATION_QUOTE A quote with the host's nonce is signed with both keys and returned. (R164) -/
  | attestationQuote (nonce : List (BitVec 8))
  /-- MANAGEMENT_QUERY A read-only management port query reports status. (R352) -/
  | managementQuery (item : Nat)
  /-- REFRESH The pseudo-channel controller issues a periodic refresh that blocks only the bank it affects. (R136) -/
  | refresh (port bank : Nat)
  /-- HOP_CYCLE In each 2-cycle hop, every mesh router ranks arriving flits by age, routes or deflects them, and takes injections. (R131) -/
  | hopCycle (die : Nat)
  /-- LINK_ACKNOWLEDGE A transmitter receives an acknowledgement and frees the flits it covers from its unacknowledged store. (R180) -/
  | linkAcknowledge (link upto : Nat)
  /-- COLLECTIVE_VALUE_RECEIVED A participant's collective unit receives a child's partial value, or the root's result coming down the tree, over the fabric. (R351) -/
  | collectiveValueReceived (die k child : Nat) (data : List (BitVec 8))
  /-- FRAME_COPY_DONE A placement migration's frame copy ends, and the translation is updated and invalidated and the held accesses pass to the new home. (R144) -/
  | frameCopyDone (port : Nat)
  /-- ALLOCATION A 64 KiB-page allocation for a die takes frames from that die's channels and advances the die's cursor. (R143) -/
  | allocation (die frames : Nat)
  deriving DecidableEq, Repr

end Sys2Proof
end

