-- ==== Sys2Proof/Config.lean ====
section
/-! DEFINITION. What is fixed for one L6 and what its spec leaves open: the figures of R13, the moves an L6 can make, and
the free values. A free value is an opaque constant: no proof can see what it is, so a claim holds whatever it is. -/

namespace Sys2Proof

/-- What a host or peer sends to a die over the fabric. -/
inductive PeerMsg where
  /-- A request (R347). -/
  | request (ep ctx : Nat) (va : BitVec 64) (size : Nat) (write ord rel : Bool) (data : BitVec 512)
  /-- A LAUNCH message (R103). -/
  | launch (sg g ep : Nat) (hdr : BitVec 512) (list : List (BitVec 32))
  /-- A grant and a revoke of a window of endpoints (R348). -/
  | grant (lo hi : Nat)
  | revoke (lo hi : Nat)
  /-- A participant's value for a collective, or the root's result (R351). -/
  | value (k child : Nat) (data : List Byte)
  /-- A firmware image (R163). -/
  | firmware (image sigR sigS keyR keyS : List Byte) (secVer : Nat) (entry : BitVec 48)
  deriving DecidableEq, Repr, Inhabited

/-- What moves next (log 1). -/
inductive Move where
  /-- The next turn of a core's barrel (R108). -/
  | turn (core : Nat)
  /-- An operation or event of the opcode table. -/
  | event (i : Instr)
  /-- The Vesper filter begins a run of one chunk, to be made instruction by instruction (R323). -/
  | chunkBegin (win chunk : Nat)
  /-- The next logit instruction of the run of a window (R324). -/
  | logit (win : Nat)
  /-- n core cycles pass: TICK counts them (R224). -/
  | time (n : Nat)
  /-- A memory cell unit of 8 bytes takes an uncorrectable error (R177). -/
  | upset (unit : Nat)
  /-- Single-bit errors that reads of a core's memories have corrected (R177, R179). -/
  | corrected (core n : Nat)
  /-- The channel controller of a port core serves a claim (R136). -/
  | serve (port : Nat)
  /-- Parts of requests, each by its request and place, meet in one cycle: at one bank, or at one output of a butterfly (R130). -/
  | contend (bank : Bool) (claims : List (Nat × Nat))
  /-- An allocation for a die of n pages of 32 MiB, or else of 2 MiB (R143). -/
  | largePages (die n : Nat) (large : Bool)
  /-- A peer sends a die a message over the fabric (R344, R347). -/
  | peer (die ep : Nat) (m : PeerMsg)
  deriving DecidableEq, Repr, Inhabited

namespace Config

/-- The next move where State's agenda names none (log 1). -/
opaque nextMove : Nat → Move
/-- The entry that a full translation cache gives up (R154 names no replacement; log 10). -/
opaque tlbVictim : Nat → Nat
/-- Where the search for a free frame of a channel begins, by channel and draw (R143, R144; log 27). -/
opaque freeFrame : Nat → Nat → Nat
/-- The DRAM bank, and the row in it, of a line of 128 bytes (R136; log 41). -/
opaque dramBank : Nat → Nat
/-- The row. -/
opaque dramRow : Nat → Nat
/-- tREFI in core cycles (R137; log 41). -/
opaque tRefi : Nat
/-- tRFM in core cycles (R137; log 41). -/
opaque tRfm : Nat
/-- The time for which a refresh blocks its bank (R136; log 41). -/
opaque tRfc : Nat
/-- The router at which a link's bridge stands (R135; log 8). -/
opaque bridgeNode : Nat → Fin 8
/-- What a peer answers to a load of a fabric address, by the draw's number (R348; log 19). -/
opaque peerByte : Nat → Nat → Byte
/-- The context-save engine's own form: byte i of an area, by the draw's number (R319; log 15). -/
opaque saveByte : Nat → Nat → Byte
/-- What DNEG makes of a component of −2, which only a store can place in a direction, by its index (R58; log 21). -/
opaque dqNegMin : Nat → BitVec 16
/-- The same, less one, where every component would else be 0, which R56 forbids (log 21). -/
opaque dqNegNonzero : Nat → Fin 65535
/-- SHA-384 (R163; log 11). -/
opaque sha384 : List Byte → Vector Byte 48
/-- RSA-3072 verification of a digest under a key (R163; log 11). -/
opaque rsaVerify : List Byte → List Byte → List Byte → Bool
/-- SLH-DSA verification (R163; log 11). -/
opaque slhVerify : List Byte → List Byte → List Byte → Bool
/-- The RSA-3072 signature of the quote's fields, 384 bytes (R164; log 11). -/
opaque rsaSign : List Byte → Vector Byte 384
/-- The SLH-DSA signature of the quote's fields, 16,224 bytes (R164; log 11). -/
opaque slhSign : List Byte → Vector Byte 16224
/-- The fused hashes of the two public keys (R163; log 11). -/
opaque fusedKeyR : Vector Byte 48
/-- The fused hash of the SLH-DSA key (R163; log 11). -/
opaque fusedKeyS : Vector Byte 48
/-- What placing a firmware image writes, at physical addresses (R163; log 25). -/
opaque fwWrites : List Byte → List (Nat × Byte)
/-- The context table that it sets (R163; log 25). -/
opaque fwCtxbase : List Byte → BitVec 64
/-- The tile owners that it sets (R163; log 25). -/
opaque fwOwners : List Byte → List (Nat × BitVec 6)
/-- The fused minimum security version (R163; log 11). -/
opaque fusedMinVersion : Nat
/-- The fused 16-byte device identity (R164; log 11). -/
opaque fusedIdentity : Vector Byte 16

/-- Scratchpad offsets of the workspaces W0 to W19 end here (R161, R222). -/
def wsEnd : Nat := 0xA000
/-- Workspace size (R222). -/
def wsSize : Nat := 2048
/-- Outstanding-request slots of a core (R147). -/
def slots : Nat := 32
/-- Frames of HBM: no memory lies at or above frame 18,874,368 (R143). -/
def frames : Nat := 18874368
/-- Cycles of one microsecond at 2 GHz (R2). -/
def cyclesPerUs : Nat := 2000
/-- Vector width in bits, VWIDTH (R224). -/
def vwidth : Nat := 512
/-- The highest LCORE (R15). -/
def maxLcore : Nat := 28031

end Config
end Sys2Proof
end

