-- ==== Sys2Proof/WellFormed.lean ====
section
/-! DEFINITION. What makes a decoded word an instruction of the L6: the checks of R205 that depend on the word alone,
in that rule's order. `selOk`: every selection is assigned (reason 1). `resOk`: fields that a form leaves unused are
zero (reason 2; the fixed zero bits are the decoder's). `rndOk`: no rounding code 7 (reason 4). `limOk`: formats,
counts, indexes and ranges are within their limits (reason 7). The checks between the two slots stand in Decode. -/

namespace Sys2Proof

/-- An encoding check of R205 that failed, in the order of its table. -/
inductive Illegal where
  /-- Reason 1: an unassigned major opcode or selection. -/
  | unassigned
  /-- Reason 2: a reserved field or bit not zero. -/
  | reserved
  /-- Reason 4: rounding code 7. -/
  | rounding
  /-- Reason 7: a format, count, index, range or field value beyond its limit. -/
  | limit
  /-- Reason 5: both slots name one destination register. -/
  | sameDest
  deriving DecidableEq, Repr

/-- The ILLEGAL reason of R166. -/
def Illegal.reason : Illegal → Nat
  | .unassigned => 1 | .reserved => 2 | .rounding => 4 | .limit => 7 | .sameDest => 5

/-- The place in R205's order. -/
def Illegal.order : Illegal → Nat
  | .unassigned => 1 | .reserved => 2 | .rounding => 3 | .limit => 4 | .sameDest => 5

namespace Fmt
/-- A floating-point vector format: F32, F16 or BF16 (R27, R38). -/
def isFloat (f : BitVec 4) : Bool := f == 1 || f == 2 || f == 3
/-- An integer vector format: I8, I16 or I32. -/
def isInt (f : BitVec 4) : Bool := f == 5 || f == 6 || f == 7
/-- Float or integer arithmetic format. -/
def isArith (f : BitVec 4) : Bool := isFloat f || isInt f
/-- Any format with an element size: 1 to 7. -/
def isElem (f : BitVec 4) : Bool := 1 ≤ f.toNat && f.toNat ≤ 7
/-- Element size in bytes (R269); RAW counts bytes (R291, R292). -/
def size (f : BitVec 4) : Nat :=
  if f == 1 || f == 7 then 4 else if f == 2 || f == 3 || f == 6 || f == 15 then 2 else 1
/-- Element count of a 64-byte register (R269). -/
def count (f : BitVec 4) : Nat := 64 / size f
end Fmt

/-- Control register numbers of R224 that CSRW may write. -/
def csrWritable (n : BitVec 9) : Bool :=
  n == 4 || n == 5 || n == 7 || n == 13 || n == 14 || n == 15

/-- Reason 1 of R205, for selections the decoder keeps as operands (R195, R196, R213, R216, R224, R249 to R251, R271). -/
def Instr.selOk : Instr → Bool
  | .lea _ _ b _ => b.toNat ≤ 1
  | .bcc _ c _ _ _ => c.toNat ≤ 5
  | .bccz _ c _ _ => c.toNat ≤ 5
  | .amo _ _ _ _ w p => p.toNat ≤ 8 || (p == 9 && w == 0)
  | .red _ _ _ w p => p.toNat ≤ 7 || (p == 9 && w == 0)
  | .fence _ s k => s.toNat ≤ 6 && k != 0
  | .csrr _ _ n => n.toNat ≤ 15
  | .csrw _ _ n => n.toNat ≤ 15
  | .vadd _ _ _ _ f _ p | .vsub _ _ _ _ f _ p | .vmul _ _ _ _ f _ p =>
      if Fmt.isFloat f then p == 0 else p.toNat ≤ 3
  | .vfma _ _ _ _ _ _ p | .vfms _ _ _ _ _ _ p => p == 0
  | .vmin _ _ _ _ f p | .vmax _ _ _ _ f p => p == 0 || (p == 2 && !Fmt.isFloat f)
  | .vabs _ _ _ f p | .vneg _ _ _ f p => p == 0 || (p == 1 && !Fmt.isFloat f)
  | .vcmp _ _ _ _ f c => c.toNat % 8 ≤ 5 && c.toNat / 16 == 0 && !(Fmt.isFloat f && c.toNat / 8 == 1)
  | .vshl _ _ _ _ _ p | .vshr _ _ _ _ _ p | .vsra _ _ _ _ _ p =>
      if p.toNat / 64 == 0 then p == 0 else p.toNat / 32 % 2 == 0
  | .vred _ _ _ _ _ p => p == 0 || p == 1 || p == 2 || p == 9 || p == 10
  | _ => true

/-- Reason 2 of R205, for fields that the other fields of the word leave unused (R191, R257, R278). -/
def Instr.resOk : Instr → Bool
  | .spawn _ s a n _ y _ => (n != 0 || s == 0) && (y == 0 || a == 0)
  | .rret _ _ v _ c => c != 0 || v == 0
  | .vshl _ _ b _ _ p | .vshr _ _ b _ _ p | .vsra _ _ b _ _ p => p.toNat / 64 == 0 || b == 0
  | .vhadd _ _ b _ _ x => x == 1 || b == 0
  | _ => true

/-- Reason 4 of R205: code 7 in a form that has a rounding field. -/
def Instr.rndOk : Instr → Bool
  | .vadd _ _ _ _ _ r _ | .vsub _ _ _ _ _ r _ | .vmul _ _ _ _ _ r _ | .vfma _ _ _ _ _ r _ | .vfms _ _ _ _ _ r _ => r != 7
  | .vcvt _ _ _ _ _ r _ => r != 7
  | .vtod _ _ _ _ r | .dtov _ _ _ _ r => r != 7
  | .dadd _ _ _ _ r | .dsub _ _ _ _ r | .dcos _ _ _ _ r => r != 7
  | .dnrm _ _ _ r | .dren _ _ _ r => r != 7
  | .dlerp _ _ _ _ r _ => r != 7
  | .vdiv _ _ _ _ _ r => r != 7
  | .vsqrt _ _ _ _ r | .vrcp _ _ _ _ r | .vrsq _ _ _ _ r | .vexp2 _ _ _ _ r | .vlog2 _ _ _ _ r => r != 7
  | .vsin _ _ _ _ r | .vcos _ _ _ _ r | .vtanh _ _ _ _ r => r != 7
  | .vred _ _ _ _ r _ => r != 7
  | _ => true

/-- A directional group base is a multiple of 2^G (R55, R293). -/
def groupOk (k : BitVec 3) (g : BitVec 2) : Bool := k.toNat % 2 ^ g.toNat == 0

/-- Vector registers that VTOD reads or DTOV writes (R294). -/
def dirVecCount (f : BitVec 4) (g : BitVec 2) : Nat := if f == 1 then 2 ^ (g.toNat + 1) else 2 ^ g.toNat

/-- The part H of a VCVT is within its limit (R279). -/
def partOk (src dst : BitVec 4) (h : Nat) : Bool :=
  let ns := Fmt.count src
  let nd := Fmt.count dst
  if ns > nd then h < ns / nd else if ns < nd then h < nd / ns else h == 0

/-- Reason 7 of R205, as each instruction's rule gives it. DEDUCED (log 16): a source tag of VCVT that is no format is a format code
not accepted. -/
def Instr.limOk : Instr → Bool
  | .bfx _ _ _ l p | .bfi _ _ _ l p => p.toNat + l.toNat + 1 ≤ 64
  | .vld _ _ _ _ f _ => f.toNat ≤ 7
  | .vlds _ _ _ _ f _ => Fmt.isElem f
  | .vgth _ _ _ _ f _ | .vsct _ _ _ _ f _ => Fmt.isElem f
  | .spawn _ s _ n _ _ _ => n.toNat ≤ 8 && s.toNat + n.toNat ≤ 32
  | .rcall _ s _ n v c => n.toNat ≤ 16 && c.toNat ≤ 4 && s.toNat + n.toNat ≤ 32 && v.toNat + c.toNat ≤ 16
  | .rret _ s v n c => n.toNat ≤ 8 && c.toNat ≤ 4 && s.toNat + n.toNat ≤ 32 && v.toNat + c.toNat ≤ 16
  | .send _ _ s => s.toNat ≤ 30
  | .recv _ d => d.toNat ≤ 29
  | .push _ k _ => k.toNat ≤ 28
  | .csrw _ _ n => csrWritable n
  | .vwid _ _ c => c == 0 || c == 1 || c == 2 || c == 4
  | .vadd _ _ _ _ f r _ | .vsub _ _ _ _ f r _ | .vmul _ _ _ _ f r _ =>
      Fmt.isFloat f || (Fmt.isInt f && r == 0)
  | .vfma _ _ _ _ f _ _ | .vfms _ _ _ _ f _ _ => Fmt.isFloat f
  | .vmin _ _ _ _ f _ | .vmax _ _ _ _ f _ => Fmt.isArith f
  | .vabs _ _ _ f _ | .vneg _ _ _ f _ => Fmt.isArith f
  | .vcmp _ _ _ _ f _ => Fmt.isArith f
  | .vshl _ _ _ _ f p | .vshr _ _ _ _ f p | .vsra _ _ _ _ f p =>
      Fmt.isInt f && (p.toNat / 64 == 0 || p.toNat % 32 < 8 * Fmt.size f)
  | .vcvt _ _ h _ f _ s => Fmt.isElem f && Fmt.isElem s && partOk s f h.toNat
  | .vred _ _ _ f r p =>
      (Fmt.isFloat f && p != 9 && p != 10) || (Fmt.isInt f && r == 0)
  | .vperm _ _ _ _ f => Fmt.isElem f
  | .vbcast _ _ _ f => Fmt.isElem f
  | .vextr _ _ _ f _ => Fmt.isElem f
  | .vins _ _ _ f => Fmt.isElem f
  | .viota _ _ f _ => Fmt.isInt f
  | .vord _ _ _ f _ => Fmt.isArith f
  | .vdig _ _ _ f w s => Fmt.isInt f && s.toNat + 2 ^ w.toNat ≤ 8 * Fmt.size f
  | .vhadd _ _ _ _ f _ => Fmt.isInt f
  | .pwhile _ _ _ _ f _ => Fmt.isElem f
  | .pcnt _ _ _ f => f.toNat ≤ 7
  | .pfirst _ _ _ f => f.toNat ≤ 7
  | .pset _ _ f k => f.toNat ≤ 7 && k.toNat ≤ 64
  | .vtod d v g f _ => Fmt.isFloat f && groupOk d g && v.toNat + dirVecCount f g ≤ 16
  | .dtov v a g f _ => Fmt.isFloat f && groupOk a g && v.toNat + dirVecCount f g ≤ 16
  | .dadd d a b g _ | .dsub d a b g _ => groupOk d g && groupOk a g && groupOk b g
  | .dscl d _ g | .dsetn d _ g => groupOk d g
  | .dneg d a g | .dmov d a g => groupOk d g && groupOk a g
  | .dcos _ a b g _ => groupOk a g && groupOk b g
  | .dnrm _ a g _ => groupOk a g
  | .dren d a g _ => groupOk d g && groupOk a g
  | .dlerp d a b g _ _ => groupOk d g && groupOk a g && groupOk b g
  | .vdiv _ _ _ _ f _ => Fmt.isFloat f
  | .vsqrt _ _ _ f _ | .vrcp _ _ _ f _ | .vrsq _ _ _ f _ | .vexp2 _ _ _ f _ | .vlog2 _ _ _ f _ => Fmt.isFloat f
  | .vsin _ _ _ f _ | .vcos _ _ _ f _ | .vtanh _ _ _ f _ => Fmt.isFloat f
  | .lcmp _ _ _ c => c.toNat ≤ 5
  | _ => true

/-- A well-formed instruction: one that the checks of R205 on the word alone let pass. -/
def WellFormed (i : Instr) : Bool := i.selOk && i.resOk && i.rndOk && i.limOk

end Sys2Proof
end

