-- ==== Sys2Proof/Decode.lean ====
section
/-! DEFINITION. The decoder and the encoder of the L6's 32-bit words (R190 to R196, R201, R202): slot A words (bit 31
the settle mark), slot B words, logit program words; the 64-bit bundle with the checks between its two slots (R192,
R197, R205); the 256-bit tile command word (R198 to R200, R300 to R319). The decoder is total: it answers an
instruction or the check of R205 that failed first. A word is decoded by its selections; its reserved bits are those in
which it differs from the encoding of what was selected. -/

namespace Sys2Proof

/-- Bits [lo+len-1:lo] of a word. -/
def fld (w lo len : Nat) : Nat := w / 2 ^ lo % 2 ^ len

/-- A word: its fixed bits and each field at its low bit. -/
def place (fixed : Nat) : List (Nat × Nat) → Nat
  | [] => fixed
  | (v, lo) :: fs => v * 2 ^ lo + place fixed fs

/-- The encoding of a core or logit word with every field in its place (R191, R193, R201); 0 for a row that is no
word. -/
def encode : Instr → Nat
  | .nop z => place 0x00000000 [(z.toNat, 31)]
  | .add z d a b => place 0x02000000 [(z.toNat, 31), (d.toNat, 20), (a.toNat, 15), (b.toNat, 10)]
  | .sub z d a b => place 0x02000001 [(z.toNat, 31), (d.toNat, 20), (a.toNat, 15), (b.toNat, 10)]
  | .and z d a b => place 0x02000002 [(z.toNat, 31), (d.toNat, 20), (a.toNat, 15), (b.toNat, 10)]
  | .or z d a b => place 0x02000003 [(z.toNat, 31), (d.toNat, 20), (a.toNat, 15), (b.toNat, 10)]
  | .xor z d a b => place 0x02000004 [(z.toNat, 31), (d.toNat, 20), (a.toNat, 15), (b.toNat, 10)]
  | .shl z d a b => place 0x02000005 [(z.toNat, 31), (d.toNat, 20), (a.toNat, 15), (b.toNat, 10)]
  | .shr z d a b => place 0x02000006 [(z.toNat, 31), (d.toNat, 20), (a.toNat, 15), (b.toNat, 10)]
  | .sra z d a b => place 0x02000007 [(z.toNat, 31), (d.toNat, 20), (a.toNat, 15), (b.toNat, 10)]
  | .slt z d a b => place 0x02000008 [(z.toNat, 31), (d.toNat, 20), (a.toNat, 15), (b.toNat, 10)]
  | .sltn z d a b => place 0x02000009 [(z.toNat, 31), (d.toNat, 20), (a.toNat, 15), (b.toNat, 10)]
  | .min z d a b => place 0x0200000A [(z.toNat, 31), (d.toNat, 20), (a.toNat, 15), (b.toNat, 10)]
  | .max z d a b => place 0x0200000B [(z.toNat, 31), (d.toNat, 20), (a.toNat, 15), (b.toNat, 10)]
  | .minn z d a b => place 0x0200000C [(z.toNat, 31), (d.toNat, 20), (a.toNat, 15), (b.toNat, 10)]
  | .maxn z d a b => place 0x0200000D [(z.toNat, 31), (d.toNat, 20), (a.toNat, 15), (b.toNat, 10)]
  | .sel z d a b => place 0x0200000E [(z.toNat, 31), (d.toNat, 20), (a.toNat, 15), (b.toNat, 10)]
  | .clz z d a => place 0x0200000F [(z.toNat, 31), (d.toNat, 20), (a.toNat, 15)]
  | .popc z d a => place 0x02000010 [(z.toNat, 31), (d.toNat, 20), (a.toNat, 15)]
  | .mul z d a b => place 0x04000000 [(z.toNat, 31), (d.toNat, 20), (a.toNat, 15), (b.toNat, 10)]
  | .mulh z d a b => place 0x04000001 [(z.toNat, 31), (d.toNat, 20), (a.toNat, 15), (b.toNat, 10)]
  | .mulhn z d a b => place 0x04000002 [(z.toNat, 31), (d.toNat, 20), (a.toNat, 15), (b.toNat, 10)]
  | .div z d a b => place 0x04000003 [(z.toNat, 31), (d.toNat, 20), (a.toNat, 15), (b.toNat, 10)]
  | .divn z d a b => place 0x04000004 [(z.toNat, 31), (d.toNat, 20), (a.toNat, 15), (b.toNat, 10)]
  | .rem z d a b => place 0x04000005 [(z.toNat, 31), (d.toNat, 20), (a.toNat, 15), (b.toNat, 10)]
  | .remn z d a b => place 0x04000006 [(z.toNat, 31), (d.toNat, 20), (a.toNat, 15), (b.toNat, 10)]
  | .addi z d a i => place 0x06000000 [(z.toNat, 31), (d.toNat, 20), (a.toNat, 15), (i.toNat, 0)]
  | .andi z d a i => place 0x08000000 [(z.toNat, 31), (d.toNat, 20), (a.toNat, 15), (i.toNat, 0)]
  | .ori z d a i => place 0x0A000000 [(z.toNat, 31), (d.toNat, 20), (a.toNat, 15), (i.toNat, 0)]
  | .xori z d a i => place 0x0C000000 [(z.toNat, 31), (d.toNat, 20), (a.toNat, 15), (i.toNat, 0)]
  | .slti z d a i => place 0x0E000000 [(z.toNat, 31), (d.toNat, 20), (a.toNat, 15), (i.toNat, 0)]
  | .shli z d a h => place 0x10000000 [(z.toNat, 31), (d.toNat, 20), (a.toNat, 15), (h.toNat, 0)]
  | .shri z d a h => place 0x10000100 [(z.toNat, 31), (d.toNat, 20), (a.toNat, 15), (h.toNat, 0)]
  | .srai z d a h => place 0x10000200 [(z.toNat, 31), (d.toNat, 20), (a.toNat, 15), (h.toNat, 0)]
  | .bfx z d a l p => place 0x12000000 [(z.toNat, 31), (d.toNat, 20), (a.toNat, 15), (l.toNat, 9), (p.toNat, 3)]
  | .bfi z d a l p => place 0x14000000 [(z.toNat, 31), (d.toNat, 20), (a.toNat, 15), (l.toNat, 9), (p.toNat, 3)]
  | .limh z d i => place 0x16000000 [(z.toNat, 31), (d.toNat, 20), (i.toNat, 0)]
  | .lea z d b i => place 0x18000000 [(z.toNat, 31), (d.toNat, 20), (b.toNat, 10), (i.toNat, 0)]
  | .leap z d a i => place 0x1A000000 [(z.toNat, 31), (d.toNat, 20), (a.toNat, 15), (i.toNat, 0)]
  | .bcc z c a b i => place 0x20000000 [(z.toNat, 31), (c.toNat, 22), (a.toNat, 15), (b.toNat, 10), (i.toNat, 0)]
  | .bccz z c a i => place 0x22000000 [(z.toNat, 31), (c.toNat, 22), (a.toNat, 15), (i.toNat, 0)]
  | .jmp z i => place 0x24000000 [(z.toNat, 31), (i.toNat, 0)]
  | .jal z d i => place 0x26000000 [(z.toNat, 31), (d.toNat, 20), (i.toNat, 0)]
  | .jr z a => place 0x28000000 [(z.toNat, 31), (a.toNat, 15)]
  | .exit z => place 0x2A000000 [(z.toNat, 31)]
  | .ldb z d a i => place 0x30000000 [(z.toNat, 31), (d.toNat, 20), (a.toNat, 15), (i.toNat, 0)]
  | .ldbz z d a i => place 0x32000000 [(z.toNat, 31), (d.toNat, 20), (a.toNat, 15), (i.toNat, 0)]
  | .ldh z d a i => place 0x34000000 [(z.toNat, 31), (d.toNat, 20), (a.toNat, 15), (i.toNat, 0)]
  | .ldhz z d a i => place 0x36000000 [(z.toNat, 31), (d.toNat, 20), (a.toNat, 15), (i.toNat, 0)]
  | .ldw z d a i => place 0x38000000 [(z.toNat, 31), (d.toNat, 20), (a.toNat, 15), (i.toNat, 0)]
  | .ldwz z d a i => place 0x3A000000 [(z.toNat, 31), (d.toNat, 20), (a.toNat, 15), (i.toNat, 0)]
  | .ldd z d a i => place 0x3C000000 [(z.toNat, 31), (d.toNat, 20), (a.toNat, 15), (i.toNat, 0)]
  | .stb z d a i => place 0x3E000000 [(z.toNat, 31), (d.toNat, 20), (a.toNat, 15), (i.toNat, 0)]
  | .sth z d a i => place 0x40000000 [(z.toNat, 31), (d.toNat, 20), (a.toNat, 15), (i.toNat, 0)]
  | .stw z d a i => place 0x42000000 [(z.toNat, 31), (d.toNat, 20), (a.toNat, 15), (i.toNat, 0)]
  | .std z d a i => place 0x44000000 [(z.toNat, 31), (d.toNat, 20), (a.toNat, 15), (i.toNat, 0)]
  | .vld z v a g f i => place 0x46000000 [(z.toNat, 31), (v.toNat, 20), (a.toNat, 15), (g.toNat, 12), (f.toNat, 8), (i.toNat, 0)]
  | .vst z v a g i => place 0x48000000 [(z.toNat, 31), (v.toNat, 20), (a.toNat, 15), (g.toNat, 12), (i.toNat, 0)]
  | .vlds z v a g f t => place 0x4A000000 [(z.toNat, 31), (v.toNat, 20), (a.toNat, 15), (g.toNat, 12), (f.toNat, 8), (t.toNat, 3)]
  | .vgth z v a g f x => place 0x4C000000 [(z.toNat, 31), (v.toNat, 20), (a.toNat, 15), (g.toNat, 12), (f.toNat, 8), (x.toNat, 4)]
  | .vsct z v a g f x => place 0x4E000000 [(z.toNat, 31), (v.toNat, 20), (a.toNat, 15), (g.toNat, 12), (f.toNat, 8), (x.toNat, 4)]
  | .ldv z d a n i => place 0x50000000 [(z.toNat, 31), (d.toNat, 20), (a.toNat, 15), (n.toNat, 9), (i.toNat, 0)]
  | .stv z d a i => place 0x52000000 [(z.toNat, 31), (d.toNat, 20), (a.toNat, 15), (i.toNat, 0)]
  | .ldfe z d a i => place 0x54000000 [(z.toNat, 31), (d.toNat, 20), (a.toNat, 15), (i.toNat, 0)]
  | .stfe z d a i => place 0x56000000 [(z.toNat, 31), (d.toNat, 20), (a.toNat, 15), (i.toNat, 0)]
  | .amo z d a b w p => place 0x58000000 [(z.toNat, 31), (d.toNat, 20), (a.toNat, 15), (b.toNat, 10), (w.toNat, 4), (p.toNat, 0)]
  | .amoc z d a b w => place 0x5800010A [(z.toNat, 31), (d.toNat, 20), (a.toNat, 15), (b.toNat, 10), (w.toNat, 4)]
  | .red z a b w p => place 0x5A000000 [(z.toNat, 31), (a.toNat, 15), (b.toNat, 10), (w.toNat, 4), (p.toNat, 0)]
  | .vrcl z a b => place 0x5C000040 [(z.toNat, 31), (a.toNat, 15), (b.toNat, 10)]
  | .watch z d a => place 0x5C000080 [(z.toNat, 31), (d.toNat, 20), (a.toNat, 15)]
  | .unwatch z a => place 0x5C0000C0 [(z.toNat, 31), (a.toNat, 15)]
  | .wait z => place 0x5C000100 [(z.toNat, 31)]
  | .pfh z a => place 0x5C000140 [(z.toNat, 31), (a.toNat, 15)]
  | .tcls z a c r => place 0x5C000180 [(z.toNat, 31), (a.toNat, 15), (c.toNat, 4), (r.toNat, 0)]
  | .fence z s k => place 0x5E000000 [(z.toNat, 31), (s.toNat, 2), (k.toNat, 0)]
  | .spawn z s a n l y i => place 0x60000000 [(z.toNat, 31), (s.toNat, 20), (a.toNat, 15), (n.toNat, 11), (l.toNat, 10), (y.toNat, 9), (i.toNat, 0)]
  | .rcall z s a n v c => place 0x62000000 [(z.toNat, 31), (s.toNat, 20), (a.toNat, 15), (n.toNat, 10), (v.toNat, 6), (c.toNat, 3)]
  | .rret z s v n c => place 0x64000000 [(z.toNat, 31), (s.toNat, 20), (v.toNat, 16), (n.toNat, 11), (c.toNat, 8)]
  | .migr z a => place 0x66000000 [(z.toNat, 31), (a.toNat, 15)]
  | .join z a => place 0x68000000 [(z.toNat, 31), (a.toNat, 15)]
  | .leave z a => place 0x68000001 [(z.toNat, 31), (a.toNat, 15)]
  | .gbar z d a => place 0x68000002 [(z.toNat, 31), (d.toNat, 20), (a.toNat, 15)]
  | .gbard z a => place 0x68000003 [(z.toNat, 31), (a.toNat, 15)]
  | .gqry z d a => place 0x68000004 [(z.toNat, 31), (d.toNat, 20), (a.toNat, 15)]
  | .spec z => place 0x6A000000 [(z.toNat, 31)]
  | .commit z d => place 0x6A000001 [(z.toNat, 31), (d.toNat, 20)]
  | .abort z => place 0x6A000002 [(z.toNat, 31)]
  | .pmrg z d a b v f => place 0x6C000000 [(z.toNat, 31), (d.toNat, 20), (a.toNat, 15), (b.toNat, 10), (v.toNat, 1), (f.toNat, 0)]
  | .send z a s => place 0x6E000000 [(z.toNat, 31), (a.toNat, 15), (s.toNat, 10)]
  | .recv z d => place 0x6E000001 [(z.toNat, 31), (d.toNat, 20)]
  | .push z r q => place 0x70000000 [(z.toNat, 31), (r.toNat, 20), (q.toNat, 0)]
  | .pop z d q => place 0x72000000 [(z.toNat, 31), (d.toNat, 20), (q.toNat, 0)]
  | .fstat z d q => place 0x72000100 [(z.toNat, 31), (d.toNat, 20), (q.toNat, 0)]
  | .semp z n => place 0x74000000 [(z.toNat, 31), (n.toNat, 0)]
  | .semv z n => place 0x74000100 [(z.toNat, 31), (n.toNat, 0)]
  | .evpop z d => place 0x76000000 [(z.toNat, 31), (d.toNat, 20)]
  | .hget z d a => place 0x76000100 [(z.toNat, 31), (d.toNat, 20), (a.toNat, 15)]
  | .hclr z => place 0x76000200 [(z.toNat, 31)]
  | .csrr z d n => place 0x78000000 [(z.toNat, 31), (d.toNat, 20), (n.toNat, 0)]
  | .csrw z a n => place 0x78000200 [(z.toNat, 31), (a.toNat, 15), (n.toNat, 0)]
  | .trap z c => place 0x7A000000 [(z.toNat, 31), (c.toNat, 0)]
  | .brk z c => place 0x7A000400 [(z.toNat, 31), (c.toNat, 0)]
  | .rte z d a m => place 0x7A000800 [(z.toNat, 31), (d.toNat, 20), (a.toNat, 15), (m.toNat, 0)]
  | .idle z d => place 0x7A000C00 [(z.toNat, 31), (d.toNat, 20)]
  | .frz z d a => place 0x7A001000 [(z.toNat, 31), (d.toNat, 20), (a.toNat, 15)]
  | .thaw z d a => place 0x7A001400 [(z.toNat, 31), (d.toNat, 20), (a.toNat, 15)]
  | .slotq z d a => place 0x7A001800 [(z.toNat, 31), (d.toNat, 20), (a.toNat, 15)]
  | .vwid z d c => place 0x7A001C00 [(z.toNat, 31), (d.toNat, 20), (c.toNat, 0)]
  | .rdtk z d => place 0x7A002000 [(z.toNat, 31), (d.toNat, 20)]
  | .sbsr z d a => place 0x7A002400 [(z.toNat, 31), (d.toNat, 20), (a.toNat, 15)]
  | .duskDrain z d a => place 0x7C000001 [(z.toNat, 31), (d.toNat, 20), (a.toNat, 15)]
  | .duskRelease z d a => place 0x7C000000 [(z.toNat, 31), (d.toNat, 20), (a.toNat, 15)]
  | .lcmw z d a b => place 0x7C000100 [(z.toNat, 31), (d.toNat, 20), (a.toNat, 15), (b.toNat, 10)]
  | .scan z d a => place 0x7C000200 [(z.toNat, 31), (d.toNat, 20), (a.toNat, 15)]
  | .rep c m t => place 0x7E000000 [(c.toNat, 17), (m.toNat, 11), (t.toNat, 8)]
  | .nopv => place 0x00000000 []
  | .vadd d a b g f r p => place 0x04000000 [(d.toNat, 22), (a.toNat, 18), (b.toNat, 14), (g.toNat, 11), (f.toNat, 7), (r.toNat, 4), (p.toNat, 0)]
  | .vsub d a b g f r p => place 0x08000000 [(d.toNat, 22), (a.toNat, 18), (b.toNat, 14), (g.toNat, 11), (f.toNat, 7), (r.toNat, 4), (p.toNat, 0)]
  | .vmul d a b g f r p => place 0x0C000000 [(d.toNat, 22), (a.toNat, 18), (b.toNat, 14), (g.toNat, 11), (f.toNat, 7), (r.toNat, 4), (p.toNat, 0)]
  | .vfma d a b g f r p => place 0x10000000 [(d.toNat, 22), (a.toNat, 18), (b.toNat, 14), (g.toNat, 11), (f.toNat, 7), (r.toNat, 4), (p.toNat, 0)]
  | .vfms d a b g f r p => place 0x14000000 [(d.toNat, 22), (a.toNat, 18), (b.toNat, 14), (g.toNat, 11), (f.toNat, 7), (r.toNat, 4), (p.toNat, 0)]
  | .vmin d a b g f p => place 0x18000000 [(d.toNat, 22), (a.toNat, 18), (b.toNat, 14), (g.toNat, 11), (f.toNat, 7), (p.toNat, 0)]
  | .vmax d a b g f p => place 0x1C000000 [(d.toNat, 22), (a.toNat, 18), (b.toNat, 14), (g.toNat, 11), (f.toNat, 7), (p.toNat, 0)]
  | .vabs d a g f p => place 0x20000000 [(d.toNat, 22), (a.toNat, 18), (g.toNat, 11), (f.toNat, 7), (p.toNat, 0)]
  | .vneg d a g f p => place 0x24000000 [(d.toNat, 22), (a.toNat, 18), (g.toNat, 11), (f.toNat, 7), (p.toNat, 0)]
  | .vcmp d a b g f c => place 0x28000000 [(d.toNat, 22), (a.toNat, 18), (b.toNat, 14), (g.toNat, 11), (f.toNat, 7), (c.toNat, 0)]
  | .vsel d a b g => place 0x2C000000 [(d.toNat, 22), (a.toNat, 18), (b.toNat, 14), (g.toNat, 11)]
  | .vand d a b g => place 0x30000000 [(d.toNat, 22), (a.toNat, 18), (b.toNat, 14), (g.toNat, 11)]
  | .vor d a b g => place 0x34000000 [(d.toNat, 22), (a.toNat, 18), (b.toNat, 14), (g.toNat, 11)]
  | .vxor d a b g => place 0x38000000 [(d.toNat, 22), (a.toNat, 18), (b.toNat, 14), (g.toNat, 11)]
  | .vnot d a g => place 0x3C000000 [(d.toNat, 22), (a.toNat, 18), (g.toNat, 11)]
  | .vshl d a b g f p => place 0x40000000 [(d.toNat, 22), (a.toNat, 18), (b.toNat, 14), (g.toNat, 11), (f.toNat, 7), (p.toNat, 0)]
  | .vshr d a b g f p => place 0x44000000 [(d.toNat, 22), (a.toNat, 18), (b.toNat, 14), (g.toNat, 11), (f.toNat, 7), (p.toNat, 0)]
  | .vsra d a b g f p => place 0x48000000 [(d.toNat, 22), (a.toNat, 18), (b.toNat, 14), (g.toNat, 11), (f.toNat, 7), (p.toNat, 0)]
  | .vcvt d a h g f r s => place 0x4C000000 [(d.toNat, 22), (a.toNat, 18), (h.toNat, 14), (g.toNat, 11), (f.toNat, 7), (r.toNat, 4), (s.toNat, 0)]
  | .vperm d a b g f => place 0x50000000 [(d.toNat, 22), (a.toNat, 18), (b.toNat, 14), (g.toNat, 11), (f.toNat, 7)]
  | .vbcast d a g f => place 0x54000000 [(d.toNat, 22), (fld a.toNat 0 4, 18), (fld a.toNat 4 1, 6), (g.toNat, 11), (f.toNat, 7)]
  | .vextr v a b f e => place 0x58000000 [(v.toNat, 22), (fld a.toNat 0 4, 18), (fld a.toNat 4 1, 6), (fld b.toNat 0 4, 14), (fld b.toNat 4 1, 5), (f.toNat, 7), (e.toNat, 0)]
  | .vins v a b f => place 0x5C000000 [(v.toNat, 22), (fld a.toNat 0 4, 18), (fld a.toNat 4 1, 6), (fld b.toNat 0 4, 14), (fld b.toNat 4 1, 5), (f.toNat, 7)]
  | .vmov d a g => place 0x60000000 [(d.toNat, 22), (a.toNat, 18), (g.toNat, 11)]
  | .viota d g f x => place 0x64000000 [(d.toNat, 22), (g.toNat, 11), (f.toNat, 7), (x.toNat, 0)]
  | .vord d a g f x => place 0x68000000 [(d.toNat, 22), (a.toNat, 18), (g.toNat, 11), (f.toNat, 7), (x.toNat, 0)]
  | .vdig d a g f w s => place 0x6C000000 [(d.toNat, 22), (a.toNat, 18), (g.toNat, 11), (f.toNat, 7), (w.toNat, 5), (s.toNat, 0)]
  | .vhadd v a b g f x => place 0x70000000 [(v.toNat, 22), (a.toNat, 18), (b.toNat, 14), (g.toNat, 11), (f.toNat, 7), (x.toNat, 0)]
  | .pwhile d a b g f n => place 0x80000000 [(d.toNat, 22), (fld a.toNat 0 4, 18), (fld a.toNat 4 1, 6), (fld b.toNat 0 4, 14), (fld b.toNat 4 1, 5), (g.toNat, 11), (f.toNat, 7), (n.toNat, 0)]
  | .pand d a b g => place 0x84000000 [(d.toNat, 22), (a.toNat, 18), (b.toNat, 14), (g.toNat, 11)]
  | .por d a b g => place 0x88000000 [(d.toNat, 22), (a.toNat, 18), (b.toNat, 14), (g.toNat, 11)]
  | .pxor d a b g => place 0x8C000000 [(d.toNat, 22), (a.toNat, 18), (b.toNat, 14), (g.toNat, 11)]
  | .pnot d a g => place 0x90000000 [(d.toNat, 22), (a.toNat, 18), (g.toNat, 11)]
  | .pcnt p d g f => place 0x94000000 [(p.toNat, 22), (fld d.toNat 0 4, 18), (fld d.toNat 4 1, 6), (g.toNat, 11), (f.toNat, 7)]
  | .pfirst d a g f => place 0x98000000 [(d.toNat, 22), (a.toNat, 18), (g.toNat, 11), (f.toNat, 7)]
  | .pset d g f k => place 0x9C000000 [(d.toNat, 22), (g.toNat, 11), (f.toNat, 7), (k.toNat, 0)]
  | .vtod d v g f r => place 0xA0000000 [(d.toNat, 22), (v.toNat, 18), (g.toNat, 11), (f.toNat, 7), (r.toNat, 4)]
  | .dtov v a g f r => place 0xA4000000 [(v.toNat, 22), (a.toNat, 18), (g.toNat, 11), (f.toNat, 7), (r.toNat, 4)]
  | .dadd d a b g r => place 0xA8000780 [(d.toNat, 22), (a.toNat, 18), (b.toNat, 14), (g.toNat, 11), (r.toNat, 4)]
  | .dsub d a b g r => place 0xA8000781 [(d.toNat, 22), (a.toNat, 18), (b.toNat, 14), (g.toNat, 11), (r.toNat, 4)]
  | .dscl d s g => place 0xAC000780 [(d.toNat, 22), (s.toNat, 17), (g.toNat, 11)]
  | .dsetn d s g => place 0xAC000781 [(d.toNat, 22), (s.toNat, 17), (g.toNat, 11)]
  | .dneg d a g => place 0xB0000780 [(d.toNat, 22), (a.toNat, 18), (g.toNat, 11)]
  | .dmov d a g => place 0xB0000781 [(d.toNat, 22), (a.toNat, 18), (g.toNat, 11)]
  | .dcos s a b g r => place 0xB4000780 [(s.toNat, 21), (a.toNat, 18), (b.toNat, 14), (g.toNat, 11), (r.toNat, 4)]
  | .dnrm s a g r => place 0xB4000781 [(s.toNat, 21), (a.toNat, 18), (g.toNat, 11), (r.toNat, 4)]
  | .dren d a g r => place 0xB8000780 [(d.toNat, 22), (a.toNat, 18), (g.toNat, 11), (r.toNat, 4)]
  | .dlerp d a b g r t => place 0xBC000780 [(d.toNat, 22), (a.toNat, 18), (b.toNat, 14), (g.toNat, 11), (r.toNat, 4), (t.toNat, 0)]
  | .vdiv d a b g f r => place 0xC0000000 [(d.toNat, 22), (a.toNat, 18), (b.toNat, 14), (g.toNat, 11), (f.toNat, 7), (r.toNat, 4)]
  | .vsqrt d a g f r => place 0xC4000000 [(d.toNat, 22), (a.toNat, 18), (g.toNat, 11), (f.toNat, 7), (r.toNat, 4)]
  | .vrcp d a g f r => place 0xC8000000 [(d.toNat, 22), (a.toNat, 18), (g.toNat, 11), (f.toNat, 7), (r.toNat, 4)]
  | .vrsq d a g f r => place 0xC8000001 [(d.toNat, 22), (a.toNat, 18), (g.toNat, 11), (f.toNat, 7), (r.toNat, 4)]
  | .vexp2 d a g f r => place 0xCC000000 [(d.toNat, 22), (a.toNat, 18), (g.toNat, 11), (f.toNat, 7), (r.toNat, 4)]
  | .vlog2 d a g f r => place 0xCC000001 [(d.toNat, 22), (a.toNat, 18), (g.toNat, 11), (f.toNat, 7), (r.toNat, 4)]
  | .vsin d a g f r => place 0xD0000000 [(d.toNat, 22), (a.toNat, 18), (g.toNat, 11), (f.toNat, 7), (r.toNat, 4)]
  | .vcos d a g f r => place 0xD0000001 [(d.toNat, 22), (a.toNat, 18), (g.toNat, 11), (f.toNat, 7), (r.toNat, 4)]
  | .vtanh d a g f r => place 0xD4000000 [(d.toNat, 22), (a.toNat, 18), (g.toNat, 11), (f.toNat, 7), (r.toNat, 4)]
  | .vred d a g f r p => place 0xD8000000 [(d.toNat, 22), (a.toNat, 18), (g.toNat, 11), (f.toNat, 7), (r.toNat, 4), (p.toNat, 0)]
  | .imm32 i => place 0xF8000000 [(i.toNat, 0)]
  | .lnop => place 0x00000000 []
  | .lldk d => place 0x04000000 [(d.toNat, 22)]
  | .lcnt d => place 0x08000000 [(d.toNat, 22)]
  | .lhis d => place 0x0C000000 [(d.toNat, 22)]
  | .lbia d => place 0x10000000 [(d.toNat, 22)]
  | .lban d a => place 0x14000000 [(d.toNat, 22), (a.toNat, 18)]
  | .ladd d a b => place 0x18000000 [(d.toNat, 22), (a.toNat, 18), (b.toNat, 14)]
  | .lsub d a b => place 0x1C000000 [(d.toNat, 22), (a.toNat, 18), (b.toNat, 14)]
  | .lmul d a b => place 0x20000000 [(d.toNat, 22), (a.toNat, 18), (b.toNat, 14)]
  | .lsel d a b c => place 0x24000000 [(d.toNat, 22), (a.toNat, 18), (b.toNat, 14), (c.toNat, 0)]
  | .lcmp d a b c => place 0x28000000 [(d.toNat, 22), (a.toNat, 18), (b.toNat, 14), (c.toNat, 0)]
  | .lmax d a b => place 0x2C000000 [(d.toNat, 22), (a.toNat, 18), (b.toNat, 14)]
  | .lmin d a b => place 0x30000000 [(d.toNat, 22), (a.toNat, 18), (b.toNat, 14)]
  | .lscl d a k => place 0x34000000 [(d.toNat, 22), (a.toNat, 18), (k.toNat, 0)]
  | .lclp d a b => place 0x38000000 [(d.toNat, 22), (a.toNat, 18), (b.toNat, 14)]
  | .lpen d a b k => place 0x3C000000 [(d.toNat, 22), (a.toNat, 18), (b.toNat, 14), (k.toNat, 0)]
  | .ltopk a => place 0x40000000 [(a.toNat, 18)]
  | .lmov d a => place 0x44000000 [(d.toNat, 22), (a.toNat, 18)]
  | .limmConst d k => place 0x48002000 [(d.toNat, 22), (k.toNat, 0)]
  | .limmValue d v => place 0x48000000 [(d.toNat, 22), (v.toNat, 0)]
  | .lhalt => place 0xFC000000 []
  | _ => 0

/-- The slot A form that the major opcode and the selections name (R195); none for an unassigned one. -/
def selectA (w : Nat) : Option Instr :=
  match fld w 25 6 with
  | 0x00 => some (.nop (BitVec.ofNat 1 (fld w 31 1)))
  | 0x01 => match fld w 0 10 with
    | 0 => some (.add (BitVec.ofNat 1 (fld w 31 1)) (BitVec.ofNat 5 (fld w 20 5)) (BitVec.ofNat 5 (fld w 15 5)) (BitVec.ofNat 5 (fld w 10 5)))
    | 1 => some (.sub (BitVec.ofNat 1 (fld w 31 1)) (BitVec.ofNat 5 (fld w 20 5)) (BitVec.ofNat 5 (fld w 15 5)) (BitVec.ofNat 5 (fld w 10 5)))
    | 2 => some (.and (BitVec.ofNat 1 (fld w 31 1)) (BitVec.ofNat 5 (fld w 20 5)) (BitVec.ofNat 5 (fld w 15 5)) (BitVec.ofNat 5 (fld w 10 5)))
    | 3 => some (.or (BitVec.ofNat 1 (fld w 31 1)) (BitVec.ofNat 5 (fld w 20 5)) (BitVec.ofNat 5 (fld w 15 5)) (BitVec.ofNat 5 (fld w 10 5)))
    | 4 => some (.xor (BitVec.ofNat 1 (fld w 31 1)) (BitVec.ofNat 5 (fld w 20 5)) (BitVec.ofNat 5 (fld w 15 5)) (BitVec.ofNat 5 (fld w 10 5)))
    | 5 => some (.shl (BitVec.ofNat 1 (fld w 31 1)) (BitVec.ofNat 5 (fld w 20 5)) (BitVec.ofNat 5 (fld w 15 5)) (BitVec.ofNat 5 (fld w 10 5)))
    | 6 => some (.shr (BitVec.ofNat 1 (fld w 31 1)) (BitVec.ofNat 5 (fld w 20 5)) (BitVec.ofNat 5 (fld w 15 5)) (BitVec.ofNat 5 (fld w 10 5)))
    | 7 => some (.sra (BitVec.ofNat 1 (fld w 31 1)) (BitVec.ofNat 5 (fld w 20 5)) (BitVec.ofNat 5 (fld w 15 5)) (BitVec.ofNat 5 (fld w 10 5)))
    | 8 => some (.slt (BitVec.ofNat 1 (fld w 31 1)) (BitVec.ofNat 5 (fld w 20 5)) (BitVec.ofNat 5 (fld w 15 5)) (BitVec.ofNat 5 (fld w 10 5)))
    | 9 => some (.sltn (BitVec.ofNat 1 (fld w 31 1)) (BitVec.ofNat 5 (fld w 20 5)) (BitVec.ofNat 5 (fld w 15 5)) (BitVec.ofNat 5 (fld w 10 5)))
    | 10 => some (.min (BitVec.ofNat 1 (fld w 31 1)) (BitVec.ofNat 5 (fld w 20 5)) (BitVec.ofNat 5 (fld w 15 5)) (BitVec.ofNat 5 (fld w 10 5)))
    | 11 => some (.max (BitVec.ofNat 1 (fld w 31 1)) (BitVec.ofNat 5 (fld w 20 5)) (BitVec.ofNat 5 (fld w 15 5)) (BitVec.ofNat 5 (fld w 10 5)))
    | 12 => some (.minn (BitVec.ofNat 1 (fld w 31 1)) (BitVec.ofNat 5 (fld w 20 5)) (BitVec.ofNat 5 (fld w 15 5)) (BitVec.ofNat 5 (fld w 10 5)))
    | 13 => some (.maxn (BitVec.ofNat 1 (fld w 31 1)) (BitVec.ofNat 5 (fld w 20 5)) (BitVec.ofNat 5 (fld w 15 5)) (BitVec.ofNat 5 (fld w 10 5)))
    | 14 => some (.sel (BitVec.ofNat 1 (fld w 31 1)) (BitVec.ofNat 5 (fld w 20 5)) (BitVec.ofNat 5 (fld w 15 5)) (BitVec.ofNat 5 (fld w 10 5)))
    | 15 => some (.clz (BitVec.ofNat 1 (fld w 31 1)) (BitVec.ofNat 5 (fld w 20 5)) (BitVec.ofNat 5 (fld w 15 5)))
    | 16 => some (.popc (BitVec.ofNat 1 (fld w 31 1)) (BitVec.ofNat 5 (fld w 20 5)) (BitVec.ofNat 5 (fld w 15 5)))
    | _ => none
  | 0x02 => match fld w 0 10 with
    | 0 => some (.mul (BitVec.ofNat 1 (fld w 31 1)) (BitVec.ofNat 5 (fld w 20 5)) (BitVec.ofNat 5 (fld w 15 5)) (BitVec.ofNat 5 (fld w 10 5)))
    | 1 => some (.mulh (BitVec.ofNat 1 (fld w 31 1)) (BitVec.ofNat 5 (fld w 20 5)) (BitVec.ofNat 5 (fld w 15 5)) (BitVec.ofNat 5 (fld w 10 5)))
    | 2 => some (.mulhn (BitVec.ofNat 1 (fld w 31 1)) (BitVec.ofNat 5 (fld w 20 5)) (BitVec.ofNat 5 (fld w 15 5)) (BitVec.ofNat 5 (fld w 10 5)))
    | 3 => some (.div (BitVec.ofNat 1 (fld w 31 1)) (BitVec.ofNat 5 (fld w 20 5)) (BitVec.ofNat 5 (fld w 15 5)) (BitVec.ofNat 5 (fld w 10 5)))
    | 4 => some (.divn (BitVec.ofNat 1 (fld w 31 1)) (BitVec.ofNat 5 (fld w 20 5)) (BitVec.ofNat 5 (fld w 15 5)) (BitVec.ofNat 5 (fld w 10 5)))
    | 5 => some (.rem (BitVec.ofNat 1 (fld w 31 1)) (BitVec.ofNat 5 (fld w 20 5)) (BitVec.ofNat 5 (fld w 15 5)) (BitVec.ofNat 5 (fld w 10 5)))
    | 6 => some (.remn (BitVec.ofNat 1 (fld w 31 1)) (BitVec.ofNat 5 (fld w 20 5)) (BitVec.ofNat 5 (fld w 15 5)) (BitVec.ofNat 5 (fld w 10 5)))
    | _ => none
  | 0x03 => some (.addi (BitVec.ofNat 1 (fld w 31 1)) (BitVec.ofNat 5 (fld w 20 5)) (BitVec.ofNat 5 (fld w 15 5)) (BitVec.ofNat 10 (fld w 0 10)))
  | 0x04 => some (.andi (BitVec.ofNat 1 (fld w 31 1)) (BitVec.ofNat 5 (fld w 20 5)) (BitVec.ofNat 5 (fld w 15 5)) (BitVec.ofNat 10 (fld w 0 10)))
  | 0x05 => some (.ori (BitVec.ofNat 1 (fld w 31 1)) (BitVec.ofNat 5 (fld w 20 5)) (BitVec.ofNat 5 (fld w 15 5)) (BitVec.ofNat 10 (fld w 0 10)))
  | 0x06 => some (.xori (BitVec.ofNat 1 (fld w 31 1)) (BitVec.ofNat 5 (fld w 20 5)) (BitVec.ofNat 5 (fld w 15 5)) (BitVec.ofNat 10 (fld w 0 10)))
  | 0x07 => some (.slti (BitVec.ofNat 1 (fld w 31 1)) (BitVec.ofNat 5 (fld w 20 5)) (BitVec.ofNat 5 (fld w 15 5)) (BitVec.ofNat 10 (fld w 0 10)))
  | 0x08 => match fld w 8 2 with
    | 0 => some (.shli (BitVec.ofNat 1 (fld w 31 1)) (BitVec.ofNat 5 (fld w 20 5)) (BitVec.ofNat 5 (fld w 15 5)) (BitVec.ofNat 6 (fld w 0 6)))
    | 1 => some (.shri (BitVec.ofNat 1 (fld w 31 1)) (BitVec.ofNat 5 (fld w 20 5)) (BitVec.ofNat 5 (fld w 15 5)) (BitVec.ofNat 6 (fld w 0 6)))
    | 2 => some (.srai (BitVec.ofNat 1 (fld w 31 1)) (BitVec.ofNat 5 (fld w 20 5)) (BitVec.ofNat 5 (fld w 15 5)) (BitVec.ofNat 6 (fld w 0 6)))
    | _ => none
  | 0x09 => some (.bfx (BitVec.ofNat 1 (fld w 31 1)) (BitVec.ofNat 5 (fld w 20 5)) (BitVec.ofNat 5 (fld w 15 5)) (BitVec.ofNat 6 (fld w 9 6)) (BitVec.ofNat 6 (fld w 3 6)))
  | 0x0A => some (.bfi (BitVec.ofNat 1 (fld w 31 1)) (BitVec.ofNat 5 (fld w 20 5)) (BitVec.ofNat 5 (fld w 15 5)) (BitVec.ofNat 6 (fld w 9 6)) (BitVec.ofNat 6 (fld w 3 6)))
  | 0x0B => some (.limh (BitVec.ofNat 1 (fld w 31 1)) (BitVec.ofNat 5 (fld w 20 5)) (BitVec.ofNat 10 (fld w 0 10)))
  | 0x0C => some (.lea (BitVec.ofNat 1 (fld w 31 1)) (BitVec.ofNat 5 (fld w 20 5)) (BitVec.ofNat 5 (fld w 10 5)) (BitVec.ofNat 10 (fld w 0 10)))
  | 0x0D => some (.leap (BitVec.ofNat 1 (fld w 31 1)) (BitVec.ofNat 5 (fld w 20 5)) (BitVec.ofNat 5 (fld w 15 5)) (BitVec.ofNat 5 (fld w 0 5)))
  | 0x10 => some (.bcc (BitVec.ofNat 1 (fld w 31 1)) (BitVec.ofNat 3 (fld w 22 3)) (BitVec.ofNat 5 (fld w 15 5)) (BitVec.ofNat 5 (fld w 10 5)) (BitVec.ofNat 10 (fld w 0 10)))
  | 0x11 => some (.bccz (BitVec.ofNat 1 (fld w 31 1)) (BitVec.ofNat 3 (fld w 22 3)) (BitVec.ofNat 5 (fld w 15 5)) (BitVec.ofNat 10 (fld w 0 10)))
  | 0x12 => some (.jmp (BitVec.ofNat 1 (fld w 31 1)) (BitVec.ofNat 10 (fld w 0 10)))
  | 0x13 => some (.jal (BitVec.ofNat 1 (fld w 31 1)) (BitVec.ofNat 5 (fld w 20 5)) (BitVec.ofNat 10 (fld w 0 10)))
  | 0x14 => some (.jr (BitVec.ofNat 1 (fld w 31 1)) (BitVec.ofNat 5 (fld w 15 5)))
  | 0x15 => some (.exit (BitVec.ofNat 1 (fld w 31 1)))
  | 0x18 => some (.ldb (BitVec.ofNat 1 (fld w 31 1)) (BitVec.ofNat 5 (fld w 20 5)) (BitVec.ofNat 5 (fld w 15 5)) (BitVec.ofNat 10 (fld w 0 10)))
  | 0x19 => some (.ldbz (BitVec.ofNat 1 (fld w 31 1)) (BitVec.ofNat 5 (fld w 20 5)) (BitVec.ofNat 5 (fld w 15 5)) (BitVec.ofNat 10 (fld w 0 10)))
  | 0x1A => some (.ldh (BitVec.ofNat 1 (fld w 31 1)) (BitVec.ofNat 5 (fld w 20 5)) (BitVec.ofNat 5 (fld w 15 5)) (BitVec.ofNat 10 (fld w 0 10)))
  | 0x1B => some (.ldhz (BitVec.ofNat 1 (fld w 31 1)) (BitVec.ofNat 5 (fld w 20 5)) (BitVec.ofNat 5 (fld w 15 5)) (BitVec.ofNat 10 (fld w 0 10)))
  | 0x1C => some (.ldw (BitVec.ofNat 1 (fld w 31 1)) (BitVec.ofNat 5 (fld w 20 5)) (BitVec.ofNat 5 (fld w 15 5)) (BitVec.ofNat 10 (fld w 0 10)))
  | 0x1D => some (.ldwz (BitVec.ofNat 1 (fld w 31 1)) (BitVec.ofNat 5 (fld w 20 5)) (BitVec.ofNat 5 (fld w 15 5)) (BitVec.ofNat 10 (fld w 0 10)))
  | 0x1E => some (.ldd (BitVec.ofNat 1 (fld w 31 1)) (BitVec.ofNat 5 (fld w 20 5)) (BitVec.ofNat 5 (fld w 15 5)) (BitVec.ofNat 10 (fld w 0 10)))
  | 0x1F => some (.stb (BitVec.ofNat 1 (fld w 31 1)) (BitVec.ofNat 5 (fld w 20 5)) (BitVec.ofNat 5 (fld w 15 5)) (BitVec.ofNat 10 (fld w 0 10)))
  | 0x20 => some (.sth (BitVec.ofNat 1 (fld w 31 1)) (BitVec.ofNat 5 (fld w 20 5)) (BitVec.ofNat 5 (fld w 15 5)) (BitVec.ofNat 10 (fld w 0 10)))
  | 0x21 => some (.stw (BitVec.ofNat 1 (fld w 31 1)) (BitVec.ofNat 5 (fld w 20 5)) (BitVec.ofNat 5 (fld w 15 5)) (BitVec.ofNat 10 (fld w 0 10)))
  | 0x22 => some (.std (BitVec.ofNat 1 (fld w 31 1)) (BitVec.ofNat 5 (fld w 20 5)) (BitVec.ofNat 5 (fld w 15 5)) (BitVec.ofNat 10 (fld w 0 10)))
  | 0x23 => some (.vld (BitVec.ofNat 1 (fld w 31 1)) (BitVec.ofNat 4 (fld w 20 4)) (BitVec.ofNat 5 (fld w 15 5)) (BitVec.ofNat 3 (fld w 12 3)) (BitVec.ofNat 4 (fld w 8 4)) (BitVec.ofNat 8 (fld w 0 8)))
  | 0x24 => some (.vst (BitVec.ofNat 1 (fld w 31 1)) (BitVec.ofNat 4 (fld w 20 4)) (BitVec.ofNat 5 (fld w 15 5)) (BitVec.ofNat 3 (fld w 12 3)) (BitVec.ofNat 8 (fld w 0 8)))
  | 0x25 => some (.vlds (BitVec.ofNat 1 (fld w 31 1)) (BitVec.ofNat 4 (fld w 20 4)) (BitVec.ofNat 5 (fld w 15 5)) (BitVec.ofNat 3 (fld w 12 3)) (BitVec.ofNat 4 (fld w 8 4)) (BitVec.ofNat 5 (fld w 3 5)))
  | 0x26 => some (.vgth (BitVec.ofNat 1 (fld w 31 1)) (BitVec.ofNat 4 (fld w 20 4)) (BitVec.ofNat 5 (fld w 15 5)) (BitVec.ofNat 3 (fld w 12 3)) (BitVec.ofNat 4 (fld w 8 4)) (BitVec.ofNat 4 (fld w 4 4)))
  | 0x27 => some (.vsct (BitVec.ofNat 1 (fld w 31 1)) (BitVec.ofNat 4 (fld w 20 4)) (BitVec.ofNat 5 (fld w 15 5)) (BitVec.ofNat 3 (fld w 12 3)) (BitVec.ofNat 4 (fld w 8 4)) (BitVec.ofNat 4 (fld w 4 4)))
  | 0x28 => some (.ldv (BitVec.ofNat 1 (fld w 31 1)) (BitVec.ofNat 5 (fld w 20 5)) (BitVec.ofNat 5 (fld w 15 5)) (BitVec.ofNat 6 (fld w 9 6)) (BitVec.ofNat 9 (fld w 0 9)))
  | 0x29 => some (.stv (BitVec.ofNat 1 (fld w 31 1)) (BitVec.ofNat 5 (fld w 20 5)) (BitVec.ofNat 5 (fld w 15 5)) (BitVec.ofNat 10 (fld w 0 10)))
  | 0x2A => some (.ldfe (BitVec.ofNat 1 (fld w 31 1)) (BitVec.ofNat 5 (fld w 20 5)) (BitVec.ofNat 5 (fld w 15 5)) (BitVec.ofNat 10 (fld w 0 10)))
  | 0x2B => some (.stfe (BitVec.ofNat 1 (fld w 31 1)) (BitVec.ofNat 5 (fld w 20 5)) (BitVec.ofNat 5 (fld w 15 5)) (BitVec.ofNat 10 (fld w 0 10)))
  | 0x2C => match fld w 8 2 with
    | 0 => some (.amo (BitVec.ofNat 1 (fld w 31 1)) (BitVec.ofNat 5 (fld w 20 5)) (BitVec.ofNat 5 (fld w 15 5)) (BitVec.ofNat 5 (fld w 10 5)) (BitVec.ofNat 1 (fld w 4 1)) (BitVec.ofNat 4 (fld w 0 4)))
    | 1 => some (.amoc (BitVec.ofNat 1 (fld w 31 1)) (BitVec.ofNat 5 (fld w 20 5)) (BitVec.ofNat 5 (fld w 15 5)) (BitVec.ofNat 5 (fld w 10 5)) (BitVec.ofNat 1 (fld w 4 1)))
    | _ => none
  | 0x2D => some (.red (BitVec.ofNat 1 (fld w 31 1)) (BitVec.ofNat 5 (fld w 15 5)) (BitVec.ofNat 5 (fld w 10 5)) (BitVec.ofNat 1 (fld w 4 1)) (BitVec.ofNat 4 (fld w 0 4)))
  | 0x2E => match fld w 6 4 with
    | 1 => some (.vrcl (BitVec.ofNat 1 (fld w 31 1)) (BitVec.ofNat 5 (fld w 15 5)) (BitVec.ofNat 5 (fld w 10 5)))
    | 2 => some (.watch (BitVec.ofNat 1 (fld w 31 1)) (BitVec.ofNat 5 (fld w 20 5)) (BitVec.ofNat 5 (fld w 15 5)))
    | 3 => some (.unwatch (BitVec.ofNat 1 (fld w 31 1)) (BitVec.ofNat 5 (fld w 15 5)))
    | 4 => some (.wait (BitVec.ofNat 1 (fld w 31 1)))
    | 5 => some (.pfh (BitVec.ofNat 1 (fld w 31 1)) (BitVec.ofNat 5 (fld w 15 5)))
    | 6 => some (.tcls (BitVec.ofNat 1 (fld w 31 1)) (BitVec.ofNat 5 (fld w 15 5)) (BitVec.ofNat 2 (fld w 4 2)) (BitVec.ofNat 4 (fld w 0 4)))
    | _ => none
  | 0x2F => some (.fence (BitVec.ofNat 1 (fld w 31 1)) (BitVec.ofNat 3 (fld w 2 3)) (BitVec.ofNat 2 (fld w 0 2)))
  | 0x30 => some (.spawn (BitVec.ofNat 1 (fld w 31 1)) (BitVec.ofNat 5 (fld w 20 5)) (BitVec.ofNat 5 (fld w 15 5)) (BitVec.ofNat 4 (fld w 11 4)) (BitVec.ofNat 1 (fld w 10 1)) (BitVec.ofNat 1 (fld w 9 1)) (BitVec.ofNat 9 (fld w 0 9)))
  | 0x31 => some (.rcall (BitVec.ofNat 1 (fld w 31 1)) (BitVec.ofNat 5 (fld w 20 5)) (BitVec.ofNat 5 (fld w 15 5)) (BitVec.ofNat 5 (fld w 10 5)) (BitVec.ofNat 4 (fld w 6 4)) (BitVec.ofNat 3 (fld w 3 3)))
  | 0x32 => some (.rret (BitVec.ofNat 1 (fld w 31 1)) (BitVec.ofNat 5 (fld w 20 5)) (BitVec.ofNat 4 (fld w 16 4)) (BitVec.ofNat 4 (fld w 11 4)) (BitVec.ofNat 3 (fld w 8 3)))
  | 0x33 => some (.migr (BitVec.ofNat 1 (fld w 31 1)) (BitVec.ofNat 5 (fld w 15 5)))
  | 0x34 => match fld w 0 10 with
    | 0 => some (.join (BitVec.ofNat 1 (fld w 31 1)) (BitVec.ofNat 5 (fld w 15 5)))
    | 1 => some (.leave (BitVec.ofNat 1 (fld w 31 1)) (BitVec.ofNat 5 (fld w 15 5)))
    | 2 => some (.gbar (BitVec.ofNat 1 (fld w 31 1)) (BitVec.ofNat 5 (fld w 20 5)) (BitVec.ofNat 5 (fld w 15 5)))
    | 3 => some (.gbard (BitVec.ofNat 1 (fld w 31 1)) (BitVec.ofNat 5 (fld w 15 5)))
    | 4 => some (.gqry (BitVec.ofNat 1 (fld w 31 1)) (BitVec.ofNat 5 (fld w 20 5)) (BitVec.ofNat 5 (fld w 15 5)))
    | _ => none
  | 0x35 => match fld w 0 10 with
    | 0 => some (.spec (BitVec.ofNat 1 (fld w 31 1)))
    | 1 => some (.commit (BitVec.ofNat 1 (fld w 31 1)) (BitVec.ofNat 5 (fld w 20 5)))
    | 2 => some (.abort (BitVec.ofNat 1 (fld w 31 1)))
    | _ => none
  | 0x36 => some (.pmrg (BitVec.ofNat 1 (fld w 31 1)) (BitVec.ofNat 5 (fld w 20 5)) (BitVec.ofNat 5 (fld w 15 5)) (BitVec.ofNat 5 (fld w 10 5)) (BitVec.ofNat 1 (fld w 1 1)) (BitVec.ofNat 1 (fld w 0 1)))
  | 0x37 => match fld w 0 10 with
    | 0 => some (.send (BitVec.ofNat 1 (fld w 31 1)) (BitVec.ofNat 5 (fld w 15 5)) (BitVec.ofNat 5 (fld w 10 5)))
    | 1 => some (.recv (BitVec.ofNat 1 (fld w 31 1)) (BitVec.ofNat 5 (fld w 20 5)))
    | _ => none
  | 0x38 => some (.push (BitVec.ofNat 1 (fld w 31 1)) (BitVec.ofNat 5 (fld w 20 5)) (BitVec.ofNat 2 (fld w 0 2)))
  | 0x39 => match fld w 8 2 with
    | 0 => some (.pop (BitVec.ofNat 1 (fld w 31 1)) (BitVec.ofNat 5 (fld w 20 5)) (BitVec.ofNat 2 (fld w 0 2)))
    | 1 => some (.fstat (BitVec.ofNat 1 (fld w 31 1)) (BitVec.ofNat 5 (fld w 20 5)) (BitVec.ofNat 2 (fld w 0 2)))
    | _ => none
  | 0x3A => match fld w 8 2 with
    | 0 => some (.semp (BitVec.ofNat 1 (fld w 31 1)) (BitVec.ofNat 4 (fld w 0 4)))
    | 1 => some (.semv (BitVec.ofNat 1 (fld w 31 1)) (BitVec.ofNat 4 (fld w 0 4)))
    | _ => none
  | 0x3B => match fld w 8 2 with
    | 0 => some (.evpop (BitVec.ofNat 1 (fld w 31 1)) (BitVec.ofNat 5 (fld w 20 5)))
    | 1 => some (.hget (BitVec.ofNat 1 (fld w 31 1)) (BitVec.ofNat 5 (fld w 20 5)) (BitVec.ofNat 5 (fld w 15 5)))
    | 2 => some (.hclr (BitVec.ofNat 1 (fld w 31 1)))
    | _ => none
  | 0x3C => match fld w 9 1 with
    | 0 => some (.csrr (BitVec.ofNat 1 (fld w 31 1)) (BitVec.ofNat 5 (fld w 20 5)) (BitVec.ofNat 9 (fld w 0 9)))
    | 1 => some (.csrw (BitVec.ofNat 1 (fld w 31 1)) (BitVec.ofNat 5 (fld w 15 5)) (BitVec.ofNat 9 (fld w 0 9)))
    | _ => none
  | 0x3D => match fld w 10 5 with
    | 0 => some (.trap (BitVec.ofNat 1 (fld w 31 1)) (BitVec.ofNat 10 (fld w 0 10)))
    | 1 => some (.brk (BitVec.ofNat 1 (fld w 31 1)) (BitVec.ofNat 10 (fld w 0 10)))
    | 2 => some (.rte (BitVec.ofNat 1 (fld w 31 1)) (BitVec.ofNat 5 (fld w 20 5)) (BitVec.ofNat 5 (fld w 15 5)) (BitVec.ofNat 2 (fld w 0 2)))
    | 3 => some (.idle (BitVec.ofNat 1 (fld w 31 1)) (BitVec.ofNat 5 (fld w 20 5)))
    | 4 => some (.frz (BitVec.ofNat 1 (fld w 31 1)) (BitVec.ofNat 5 (fld w 20 5)) (BitVec.ofNat 5 (fld w 15 5)))
    | 5 => some (.thaw (BitVec.ofNat 1 (fld w 31 1)) (BitVec.ofNat 5 (fld w 20 5)) (BitVec.ofNat 5 (fld w 15 5)))
    | 6 => some (.slotq (BitVec.ofNat 1 (fld w 31 1)) (BitVec.ofNat 5 (fld w 20 5)) (BitVec.ofNat 5 (fld w 15 5)))
    | 7 => some (.vwid (BitVec.ofNat 1 (fld w 31 1)) (BitVec.ofNat 5 (fld w 20 5)) (BitVec.ofNat 10 (fld w 0 10)))
    | 8 => some (.rdtk (BitVec.ofNat 1 (fld w 31 1)) (BitVec.ofNat 5 (fld w 20 5)))
    | 9 => some (.sbsr (BitVec.ofNat 1 (fld w 31 1)) (BitVec.ofNat 5 (fld w 20 5)) (BitVec.ofNat 5 (fld w 15 5)))
    | _ => none
  | 0x3E => match fld w 0 10 with
    | 1 => some (.duskDrain (BitVec.ofNat 1 (fld w 31 1)) (BitVec.ofNat 5 (fld w 20 5)) (BitVec.ofNat 5 (fld w 15 5)))
    | 0 => some (.duskRelease (BitVec.ofNat 1 (fld w 31 1)) (BitVec.ofNat 5 (fld w 20 5)) (BitVec.ofNat 5 (fld w 15 5)))
    | 256 => some (.lcmw (BitVec.ofNat 1 (fld w 31 1)) (BitVec.ofNat 5 (fld w 20 5)) (BitVec.ofNat 5 (fld w 15 5)) (BitVec.ofNat 5 (fld w 10 5)))
    | 512 => some (.scan (BitVec.ofNat 1 (fld w 31 1)) (BitVec.ofNat 5 (fld w 20 5)) (BitVec.ofNat 5 (fld w 15 5)))
    | _ => none
  | 0x3F => some (.rep (BitVec.ofNat 8 (fld w 17 8)) (BitVec.ofNat 6 (fld w 11 6)) (BitVec.ofNat 3 (fld w 8 3)))
  | _ => none

/-- The slot B form that the major opcode and the selections name (R196). -/
def selectB (w : Nat) : Option Instr :=
  match fld w 26 6 with
  | 0x00 => some (.nopv)
  | 0x01 => some (.vadd (BitVec.ofNat 4 (fld w 22 4)) (BitVec.ofNat 4 (fld w 18 4)) (BitVec.ofNat 4 (fld w 14 4)) (BitVec.ofNat 3 (fld w 11 3)) (BitVec.ofNat 4 (fld w 7 4)) (BitVec.ofNat 3 (fld w 4 3)) (BitVec.ofNat 4 (fld w 0 4)))
  | 0x02 => some (.vsub (BitVec.ofNat 4 (fld w 22 4)) (BitVec.ofNat 4 (fld w 18 4)) (BitVec.ofNat 4 (fld w 14 4)) (BitVec.ofNat 3 (fld w 11 3)) (BitVec.ofNat 4 (fld w 7 4)) (BitVec.ofNat 3 (fld w 4 3)) (BitVec.ofNat 4 (fld w 0 4)))
  | 0x03 => some (.vmul (BitVec.ofNat 4 (fld w 22 4)) (BitVec.ofNat 4 (fld w 18 4)) (BitVec.ofNat 4 (fld w 14 4)) (BitVec.ofNat 3 (fld w 11 3)) (BitVec.ofNat 4 (fld w 7 4)) (BitVec.ofNat 3 (fld w 4 3)) (BitVec.ofNat 4 (fld w 0 4)))
  | 0x04 => some (.vfma (BitVec.ofNat 4 (fld w 22 4)) (BitVec.ofNat 4 (fld w 18 4)) (BitVec.ofNat 4 (fld w 14 4)) (BitVec.ofNat 3 (fld w 11 3)) (BitVec.ofNat 4 (fld w 7 4)) (BitVec.ofNat 3 (fld w 4 3)) (BitVec.ofNat 4 (fld w 0 4)))
  | 0x05 => some (.vfms (BitVec.ofNat 4 (fld w 22 4)) (BitVec.ofNat 4 (fld w 18 4)) (BitVec.ofNat 4 (fld w 14 4)) (BitVec.ofNat 3 (fld w 11 3)) (BitVec.ofNat 4 (fld w 7 4)) (BitVec.ofNat 3 (fld w 4 3)) (BitVec.ofNat 4 (fld w 0 4)))
  | 0x06 => some (.vmin (BitVec.ofNat 4 (fld w 22 4)) (BitVec.ofNat 4 (fld w 18 4)) (BitVec.ofNat 4 (fld w 14 4)) (BitVec.ofNat 3 (fld w 11 3)) (BitVec.ofNat 4 (fld w 7 4)) (BitVec.ofNat 7 (fld w 0 7)))
  | 0x07 => some (.vmax (BitVec.ofNat 4 (fld w 22 4)) (BitVec.ofNat 4 (fld w 18 4)) (BitVec.ofNat 4 (fld w 14 4)) (BitVec.ofNat 3 (fld w 11 3)) (BitVec.ofNat 4 (fld w 7 4)) (BitVec.ofNat 7 (fld w 0 7)))
  | 0x08 => some (.vabs (BitVec.ofNat 4 (fld w 22 4)) (BitVec.ofNat 4 (fld w 18 4)) (BitVec.ofNat 3 (fld w 11 3)) (BitVec.ofNat 4 (fld w 7 4)) (BitVec.ofNat 7 (fld w 0 7)))
  | 0x09 => some (.vneg (BitVec.ofNat 4 (fld w 22 4)) (BitVec.ofNat 4 (fld w 18 4)) (BitVec.ofNat 3 (fld w 11 3)) (BitVec.ofNat 4 (fld w 7 4)) (BitVec.ofNat 7 (fld w 0 7)))
  | 0x0A => some (.vcmp (BitVec.ofNat 3 (fld w 22 3)) (BitVec.ofNat 4 (fld w 18 4)) (BitVec.ofNat 4 (fld w 14 4)) (BitVec.ofNat 3 (fld w 11 3)) (BitVec.ofNat 4 (fld w 7 4)) (BitVec.ofNat 7 (fld w 0 7)))
  | 0x0B => some (.vsel (BitVec.ofNat 4 (fld w 22 4)) (BitVec.ofNat 4 (fld w 18 4)) (BitVec.ofNat 4 (fld w 14 4)) (BitVec.ofNat 3 (fld w 11 3)))
  | 0x0C => some (.vand (BitVec.ofNat 4 (fld w 22 4)) (BitVec.ofNat 4 (fld w 18 4)) (BitVec.ofNat 4 (fld w 14 4)) (BitVec.ofNat 3 (fld w 11 3)))
  | 0x0D => some (.vor (BitVec.ofNat 4 (fld w 22 4)) (BitVec.ofNat 4 (fld w 18 4)) (BitVec.ofNat 4 (fld w 14 4)) (BitVec.ofNat 3 (fld w 11 3)))
  | 0x0E => some (.vxor (BitVec.ofNat 4 (fld w 22 4)) (BitVec.ofNat 4 (fld w 18 4)) (BitVec.ofNat 4 (fld w 14 4)) (BitVec.ofNat 3 (fld w 11 3)))
  | 0x0F => some (.vnot (BitVec.ofNat 4 (fld w 22 4)) (BitVec.ofNat 4 (fld w 18 4)) (BitVec.ofNat 3 (fld w 11 3)))
  | 0x10 => some (.vshl (BitVec.ofNat 4 (fld w 22 4)) (BitVec.ofNat 4 (fld w 18 4)) (BitVec.ofNat 4 (fld w 14 4)) (BitVec.ofNat 3 (fld w 11 3)) (BitVec.ofNat 4 (fld w 7 4)) (BitVec.ofNat 7 (fld w 0 7)))
  | 0x11 => some (.vshr (BitVec.ofNat 4 (fld w 22 4)) (BitVec.ofNat 4 (fld w 18 4)) (BitVec.ofNat 4 (fld w 14 4)) (BitVec.ofNat 3 (fld w 11 3)) (BitVec.ofNat 4 (fld w 7 4)) (BitVec.ofNat 7 (fld w 0 7)))
  | 0x12 => some (.vsra (BitVec.ofNat 4 (fld w 22 4)) (BitVec.ofNat 4 (fld w 18 4)) (BitVec.ofNat 4 (fld w 14 4)) (BitVec.ofNat 3 (fld w 11 3)) (BitVec.ofNat 4 (fld w 7 4)) (BitVec.ofNat 7 (fld w 0 7)))
  | 0x13 => some (.vcvt (BitVec.ofNat 4 (fld w 22 4)) (BitVec.ofNat 4 (fld w 18 4)) (BitVec.ofNat 4 (fld w 14 4)) (BitVec.ofNat 3 (fld w 11 3)) (BitVec.ofNat 4 (fld w 7 4)) (BitVec.ofNat 3 (fld w 4 3)) (BitVec.ofNat 4 (fld w 0 4)))
  | 0x14 => some (.vperm (BitVec.ofNat 4 (fld w 22 4)) (BitVec.ofNat 4 (fld w 18 4)) (BitVec.ofNat 4 (fld w 14 4)) (BitVec.ofNat 3 (fld w 11 3)) (BitVec.ofNat 4 (fld w 7 4)))
  | 0x15 => some (.vbcast (BitVec.ofNat 4 (fld w 22 4)) (BitVec.ofNat 5 (fld w 6 1 * 2 ^ 4 + fld w 18 4)) (BitVec.ofNat 3 (fld w 11 3)) (BitVec.ofNat 4 (fld w 7 4)))
  | 0x16 => some (.vextr (BitVec.ofNat 4 (fld w 22 4)) (BitVec.ofNat 5 (fld w 6 1 * 2 ^ 4 + fld w 18 4)) (BitVec.ofNat 5 (fld w 5 1 * 2 ^ 4 + fld w 14 4)) (BitVec.ofNat 4 (fld w 7 4)) (BitVec.ofNat 1 (fld w 0 1)))
  | 0x17 => some (.vins (BitVec.ofNat 4 (fld w 22 4)) (BitVec.ofNat 5 (fld w 6 1 * 2 ^ 4 + fld w 18 4)) (BitVec.ofNat 5 (fld w 5 1 * 2 ^ 4 + fld w 14 4)) (BitVec.ofNat 4 (fld w 7 4)))
  | 0x18 => some (.vmov (BitVec.ofNat 4 (fld w 22 4)) (BitVec.ofNat 4 (fld w 18 4)) (BitVec.ofNat 3 (fld w 11 3)))
  | 0x19 => some (.viota (BitVec.ofNat 4 (fld w 22 4)) (BitVec.ofNat 3 (fld w 11 3)) (BitVec.ofNat 4 (fld w 7 4)) (BitVec.ofNat 1 (fld w 0 1)))
  | 0x1A => some (.vord (BitVec.ofNat 4 (fld w 22 4)) (BitVec.ofNat 4 (fld w 18 4)) (BitVec.ofNat 3 (fld w 11 3)) (BitVec.ofNat 4 (fld w 7 4)) (BitVec.ofNat 1 (fld w 0 1)))
  | 0x1B => some (.vdig (BitVec.ofNat 4 (fld w 22 4)) (BitVec.ofNat 4 (fld w 18 4)) (BitVec.ofNat 3 (fld w 11 3)) (BitVec.ofNat 4 (fld w 7 4)) (BitVec.ofNat 2 (fld w 5 2)) (BitVec.ofNat 5 (fld w 0 5)))
  | 0x1C => some (.vhadd (BitVec.ofNat 4 (fld w 22 4)) (BitVec.ofNat 4 (fld w 18 4)) (BitVec.ofNat 4 (fld w 14 4)) (BitVec.ofNat 3 (fld w 11 3)) (BitVec.ofNat 4 (fld w 7 4)) (BitVec.ofNat 1 (fld w 0 1)))
  | 0x20 => some (.pwhile (BitVec.ofNat 3 (fld w 22 3)) (BitVec.ofNat 5 (fld w 6 1 * 2 ^ 4 + fld w 18 4)) (BitVec.ofNat 5 (fld w 5 1 * 2 ^ 4 + fld w 14 4)) (BitVec.ofNat 3 (fld w 11 3)) (BitVec.ofNat 4 (fld w 7 4)) (BitVec.ofNat 1 (fld w 0 1)))
  | 0x21 => some (.pand (BitVec.ofNat 3 (fld w 22 3)) (BitVec.ofNat 3 (fld w 18 3)) (BitVec.ofNat 3 (fld w 14 3)) (BitVec.ofNat 3 (fld w 11 3)))
  | 0x22 => some (.por (BitVec.ofNat 3 (fld w 22 3)) (BitVec.ofNat 3 (fld w 18 3)) (BitVec.ofNat 3 (fld w 14 3)) (BitVec.ofNat 3 (fld w 11 3)))
  | 0x23 => some (.pxor (BitVec.ofNat 3 (fld w 22 3)) (BitVec.ofNat 3 (fld w 18 3)) (BitVec.ofNat 3 (fld w 14 3)) (BitVec.ofNat 3 (fld w 11 3)))
  | 0x24 => some (.pnot (BitVec.ofNat 3 (fld w 22 3)) (BitVec.ofNat 3 (fld w 18 3)) (BitVec.ofNat 3 (fld w 11 3)))
  | 0x25 => some (.pcnt (BitVec.ofNat 3 (fld w 22 3)) (BitVec.ofNat 5 (fld w 6 1 * 2 ^ 4 + fld w 18 4)) (BitVec.ofNat 3 (fld w 11 3)) (BitVec.ofNat 4 (fld w 7 4)))
  | 0x26 => some (.pfirst (BitVec.ofNat 3 (fld w 22 3)) (BitVec.ofNat 3 (fld w 18 3)) (BitVec.ofNat 3 (fld w 11 3)) (BitVec.ofNat 4 (fld w 7 4)))
  | 0x27 => some (.pset (BitVec.ofNat 3 (fld w 22 3)) (BitVec.ofNat 3 (fld w 11 3)) (BitVec.ofNat 4 (fld w 7 4)) (BitVec.ofNat 7 (fld w 0 7)))
  | 0x28 => some (.vtod (BitVec.ofNat 3 (fld w 22 3)) (BitVec.ofNat 4 (fld w 18 4)) (BitVec.ofNat 2 (fld w 11 2)) (BitVec.ofNat 4 (fld w 7 4)) (BitVec.ofNat 3 (fld w 4 3)))
  | 0x29 => some (.dtov (BitVec.ofNat 4 (fld w 22 4)) (BitVec.ofNat 3 (fld w 18 3)) (BitVec.ofNat 2 (fld w 11 2)) (BitVec.ofNat 4 (fld w 7 4)) (BitVec.ofNat 3 (fld w 4 3)))
  | 0x2A => match fld w 0 4 with
    | 0 => some (.dadd (BitVec.ofNat 3 (fld w 22 3)) (BitVec.ofNat 3 (fld w 18 3)) (BitVec.ofNat 3 (fld w 14 3)) (BitVec.ofNat 2 (fld w 11 2)) (BitVec.ofNat 3 (fld w 4 3)))
    | 1 => some (.dsub (BitVec.ofNat 3 (fld w 22 3)) (BitVec.ofNat 3 (fld w 18 3)) (BitVec.ofNat 3 (fld w 14 3)) (BitVec.ofNat 2 (fld w 11 2)) (BitVec.ofNat 3 (fld w 4 3)))
    | _ => none
  | 0x2B => match fld w 0 4 with
    | 0 => some (.dscl (BitVec.ofNat 3 (fld w 22 3)) (BitVec.ofNat 5 (fld w 17 5)) (BitVec.ofNat 2 (fld w 11 2)))
    | 1 => some (.dsetn (BitVec.ofNat 3 (fld w 22 3)) (BitVec.ofNat 5 (fld w 17 5)) (BitVec.ofNat 2 (fld w 11 2)))
    | _ => none
  | 0x2C => match fld w 0 4 with
    | 0 => some (.dneg (BitVec.ofNat 3 (fld w 22 3)) (BitVec.ofNat 3 (fld w 18 3)) (BitVec.ofNat 2 (fld w 11 2)))
    | 1 => some (.dmov (BitVec.ofNat 3 (fld w 22 3)) (BitVec.ofNat 3 (fld w 18 3)) (BitVec.ofNat 2 (fld w 11 2)))
    | _ => none
  | 0x2D => match fld w 0 4 with
    | 0 => some (.dcos (BitVec.ofNat 5 (fld w 21 5)) (BitVec.ofNat 3 (fld w 18 3)) (BitVec.ofNat 3 (fld w 14 3)) (BitVec.ofNat 2 (fld w 11 2)) (BitVec.ofNat 3 (fld w 4 3)))
    | 1 => some (.dnrm (BitVec.ofNat 5 (fld w 21 5)) (BitVec.ofNat 3 (fld w 18 3)) (BitVec.ofNat 2 (fld w 11 2)) (BitVec.ofNat 3 (fld w 4 3)))
    | _ => none
  | 0x2E => some (.dren (BitVec.ofNat 3 (fld w 22 3)) (BitVec.ofNat 3 (fld w 18 3)) (BitVec.ofNat 2 (fld w 11 2)) (BitVec.ofNat 3 (fld w 4 3)))
  | 0x2F => some (.dlerp (BitVec.ofNat 3 (fld w 22 3)) (BitVec.ofNat 3 (fld w 18 3)) (BitVec.ofNat 3 (fld w 14 3)) (BitVec.ofNat 2 (fld w 11 2)) (BitVec.ofNat 3 (fld w 4 3)) (BitVec.ofNat 4 (fld w 0 4)))
  | 0x30 => some (.vdiv (BitVec.ofNat 4 (fld w 22 4)) (BitVec.ofNat 4 (fld w 18 4)) (BitVec.ofNat 4 (fld w 14 4)) (BitVec.ofNat 3 (fld w 11 3)) (BitVec.ofNat 4 (fld w 7 4)) (BitVec.ofNat 3 (fld w 4 3)))
  | 0x31 => some (.vsqrt (BitVec.ofNat 4 (fld w 22 4)) (BitVec.ofNat 4 (fld w 18 4)) (BitVec.ofNat 3 (fld w 11 3)) (BitVec.ofNat 4 (fld w 7 4)) (BitVec.ofNat 3 (fld w 4 3)))
  | 0x32 => match fld w 0 4 with
    | 0 => some (.vrcp (BitVec.ofNat 4 (fld w 22 4)) (BitVec.ofNat 4 (fld w 18 4)) (BitVec.ofNat 3 (fld w 11 3)) (BitVec.ofNat 4 (fld w 7 4)) (BitVec.ofNat 3 (fld w 4 3)))
    | 1 => some (.vrsq (BitVec.ofNat 4 (fld w 22 4)) (BitVec.ofNat 4 (fld w 18 4)) (BitVec.ofNat 3 (fld w 11 3)) (BitVec.ofNat 4 (fld w 7 4)) (BitVec.ofNat 3 (fld w 4 3)))
    | _ => none
  | 0x33 => match fld w 0 4 with
    | 0 => some (.vexp2 (BitVec.ofNat 4 (fld w 22 4)) (BitVec.ofNat 4 (fld w 18 4)) (BitVec.ofNat 3 (fld w 11 3)) (BitVec.ofNat 4 (fld w 7 4)) (BitVec.ofNat 3 (fld w 4 3)))
    | 1 => some (.vlog2 (BitVec.ofNat 4 (fld w 22 4)) (BitVec.ofNat 4 (fld w 18 4)) (BitVec.ofNat 3 (fld w 11 3)) (BitVec.ofNat 4 (fld w 7 4)) (BitVec.ofNat 3 (fld w 4 3)))
    | _ => none
  | 0x34 => match fld w 0 4 with
    | 0 => some (.vsin (BitVec.ofNat 4 (fld w 22 4)) (BitVec.ofNat 4 (fld w 18 4)) (BitVec.ofNat 3 (fld w 11 3)) (BitVec.ofNat 4 (fld w 7 4)) (BitVec.ofNat 3 (fld w 4 3)))
    | 1 => some (.vcos (BitVec.ofNat 4 (fld w 22 4)) (BitVec.ofNat 4 (fld w 18 4)) (BitVec.ofNat 3 (fld w 11 3)) (BitVec.ofNat 4 (fld w 7 4)) (BitVec.ofNat 3 (fld w 4 3)))
    | _ => none
  | 0x35 => some (.vtanh (BitVec.ofNat 4 (fld w 22 4)) (BitVec.ofNat 4 (fld w 18 4)) (BitVec.ofNat 3 (fld w 11 3)) (BitVec.ofNat 4 (fld w 7 4)) (BitVec.ofNat 3 (fld w 4 3)))
  | 0x36 => some (.vred (BitVec.ofNat 4 (fld w 22 4)) (BitVec.ofNat 4 (fld w 18 4)) (BitVec.ofNat 3 (fld w 11 3)) (BitVec.ofNat 4 (fld w 7 4)) (BitVec.ofNat 3 (fld w 4 3)) (BitVec.ofNat 4 (fld w 0 4)))
  | 0x3E => some (.imm32 (BitVec.ofNat 26 (fld w 0 26)))
  | _ => none

/-- The logit instruction of the word (R202, R326). -/
def selectL (w : Nat) : Option Instr :=
  match fld w 26 6 with
  | 0x00 => some (.lnop)
  | 0x01 => some (.lldk (BitVec.ofNat 4 (fld w 22 4)))
  | 0x02 => some (.lcnt (BitVec.ofNat 4 (fld w 22 4)))
  | 0x03 => some (.lhis (BitVec.ofNat 4 (fld w 22 4)))
  | 0x04 => some (.lbia (BitVec.ofNat 4 (fld w 22 4)))
  | 0x05 => some (.lban (BitVec.ofNat 4 (fld w 22 4)) (BitVec.ofNat 4 (fld w 18 4)))
  | 0x06 => some (.ladd (BitVec.ofNat 4 (fld w 22 4)) (BitVec.ofNat 4 (fld w 18 4)) (BitVec.ofNat 4 (fld w 14 4)))
  | 0x07 => some (.lsub (BitVec.ofNat 4 (fld w 22 4)) (BitVec.ofNat 4 (fld w 18 4)) (BitVec.ofNat 4 (fld w 14 4)))
  | 0x08 => some (.lmul (BitVec.ofNat 4 (fld w 22 4)) (BitVec.ofNat 4 (fld w 18 4)) (BitVec.ofNat 4 (fld w 14 4)))
  | 0x09 => some (.lsel (BitVec.ofNat 4 (fld w 22 4)) (BitVec.ofNat 4 (fld w 18 4)) (BitVec.ofNat 4 (fld w 14 4)) (BitVec.ofNat 4 (fld w 0 4)))
  | 0x0A => some (.lcmp (BitVec.ofNat 4 (fld w 22 4)) (BitVec.ofNat 4 (fld w 18 4)) (BitVec.ofNat 4 (fld w 14 4)) (BitVec.ofNat 3 (fld w 0 3)))
  | 0x0B => some (.lmax (BitVec.ofNat 4 (fld w 22 4)) (BitVec.ofNat 4 (fld w 18 4)) (BitVec.ofNat 4 (fld w 14 4)))
  | 0x0C => some (.lmin (BitVec.ofNat 4 (fld w 22 4)) (BitVec.ofNat 4 (fld w 18 4)) (BitVec.ofNat 4 (fld w 14 4)))
  | 0x0D => some (.lscl (BitVec.ofNat 4 (fld w 22 4)) (BitVec.ofNat 4 (fld w 18 4)) (BitVec.ofNat 9 (fld w 0 9)))
  | 0x0E => some (.lclp (BitVec.ofNat 4 (fld w 22 4)) (BitVec.ofNat 4 (fld w 18 4)) (BitVec.ofNat 4 (fld w 14 4)))
  | 0x0F => some (.lpen (BitVec.ofNat 4 (fld w 22 4)) (BitVec.ofNat 4 (fld w 18 4)) (BitVec.ofNat 4 (fld w 14 4)) (BitVec.ofNat 3 (fld w 0 3)))
  | 0x10 => some (.ltopk (BitVec.ofNat 4 (fld w 18 4)))
  | 0x11 => some (.lmov (BitVec.ofNat 4 (fld w 22 4)) (BitVec.ofNat 4 (fld w 18 4)))
  | 0x12 => match fld w 13 1 with
    | 1 => some (.limmConst (BitVec.ofNat 4 (fld w 22 4)) (BitVec.ofNat 3 (fld w 0 3)))
    | 0 => some (.limmValue (BitVec.ofNat 4 (fld w 22 4)) (BitVec.ofNat 13 (fld w 0 13)))
    | _ => none
  | 0x3F => some (.lhalt)
  | _ => none
/-- Bits whose mismatch is an unassigned selection, not a reserved field (R195, R271). DEDUCED (log 16): OPT of VTOD, DTOV and DREN, of
which R293 calls an unused bit reserved, is among them. -/
def optMask : Instr → Nat
  | .amoc .. => 0x0F
  | .red .. => 0x300
  | .vsel .. | .vand .. | .vor .. | .vxor .. | .vnot .. | .vmov .. | .vperm .. => 0x7F
  | .viota .. | .vord .. | .vhadd .. => 0x7E
  | .vbcast .. | .vins .. | .pcnt .. => 0x1F
  | .vextr .. | .pwhile .. => 0x1E
  | .pand .. | .por .. | .pxor .. | .pnot .. | .pfirst .. => 0x7F
  | .vtod .. | .dtov .. | .dren .. | .vdiv .. | .vsqrt .. | .vtanh .. => 0x0F
  | _ => 0

/-- Bits that hold a format code of which the form accepts one value only (R242, R276, R277, R283, R290, R293). -/
def fmtMask : Instr → Nat
  | .vst .. => 0xF00
  | .vsel .. | .vand .. | .vor .. | .vxor .. | .vnot .. | .vmov .. => 0x780
  | .pand .. | .por .. | .pxor .. | .pnot .. => 0x780
  | .dadd .. | .dsub .. | .dscl .. | .dsetn .. | .dneg .. | .dmov .. | .dcos .. | .dnrm .. | .dren .. | .dlerp .. => 0x780
  | _ => 0

/-- The checks of R205 on one word that was selected as `i`, in order. -/
def checkWord (w : Nat) (i : Instr) : Except Illegal Instr :=
  let diff := Nat.xor w (encode i)
  let opt := Nat.land diff (optMask i)
  let fmt := Nat.land diff (fmtMask i)
  if !i.selOk || opt != 0 then .error .unassigned
  else if !i.resOk || Nat.xor diff (Nat.lor opt fmt) != 0 then .error .reserved
  else if !i.rndOk then .error .rounding
  else if !i.limOk || fmt != 0 then .error .limit
  else .ok i

/-- Decodes a slot A word, bit 31 being the settle mark (R190, R191, R195). -/
def decodeA (w : Nat) : Except Illegal Instr :=
  match selectA w with
  | some i => checkWord w i
  | none => .error .unassigned

/-- Decodes a slot B word (R193, R196). -/
def decodeB (w : Nat) : Except Illegal Instr :=
  match selectB w with
  | some i => checkWord w i
  | none => .error .unassigned

/-- Decodes a logit program word (R201, R203). -/
def decodeL (w : Nat) : Except Illegal Instr :=
  match selectL w with
  | some i => checkWord w i
  | none => .error .unassigned

/-- The instruction a 32-bit word of the opcode table's numbering stands for. Slot A, slot B and logit words overlap:
the word is read as slot A's where that is an instruction, else as slot B's, else as a logit program's (log 5). -/
def decodeTableWord (nbits w : Nat) : Option Instr :=
  if nbits ≤ 32 then
    match decodeA w with
    | .ok i => some i
    | .error _ =>
      match decodeB w with
      | .ok i => some i
      | .error _ =>
        match decodeL w with
        | .ok i => some i
        | .error _ => none
  else none

/-- The settle mark of a slot A form (R24, R190). -/
def settleOf (i : Instr) : Bool := Nat.testBit (encode i) 31

/-- The immediate width w of a slot A form that IMM32 may widen (R191, R192). -/
def immWidth : Instr → Option Nat
  | .addi .. | .andi .. | .ori .. | .xori .. | .slti .. | .limh .. | .lea .. => some 10
  | .bcc .. | .bccz .. | .jmp .. | .jal .. => some 10
  | .ldb .. | .ldbz .. | .ldh .. | .ldhz .. | .ldw .. | .ldwz .. | .ldd .. => some 10
  | .stb .. | .sth .. | .stw .. | .std .. | .stv .. | .ldfe .. | .stfe .. => some 10
  | .ldv .. => some 9
  | .spawn .. => some 9
  | .vld .. | .vst .. => some 8
  | _ => none

/-- The call fields of RCALL's IMM26: SD, DSCNT, DVCNT and the entry's bundle offset (R197). -/
def callSD (imm : BitVec 26) : Nat := fld imm.toNat 21 5
/-- DSCNT (R197). -/
def callDS (imm : BitVec 26) : Nat := fld imm.toNat 17 4
/-- DVCNT (R197). -/
def callDV (imm : BitVec 26) : Nat := fld imm.toNat 14 3
/-- OFF, signed (R197). -/
def callOff (imm : BitVec 26) : Int := (BitVec.ofNat 14 imm.toNat).toInt

/-- The registers a slot A form names as destinations (R21, R242 to R246, R263). -/
def destA : Instr → List Reg
  | .add _ d _ _ | .sub _ d _ _ | .and _ d _ _ | .or _ d _ _ | .xor _ d _ _ | .shl _ d _ _ | .shr _ d _ _
  | .sra _ d _ _ | .slt _ d _ _ | .sltn _ d _ _ | .min _ d _ _ | .max _ d _ _ | .minn _ d _ _ | .maxn _ d _ _
  | .sel _ d _ _ | .mul _ d _ _ | .mulh _ d _ _ | .mulhn _ d _ _ | .div _ d _ _ | .divn _ d _ _ | .rem _ d _ _
  | .remn _ d _ _ | .amo _ d _ _ _ _ | .amoc _ d _ _ _ | .pmrg _ d _ _ _ _ | .lcmw _ d _ _ => [.s d.toNat]
  | .clz _ d _ | .popc _ d _ | .addi _ d _ _ | .andi _ d _ _ | .ori _ d _ _ | .xori _ d _ _ | .slti _ d _ _
  | .shli _ d _ _ | .shri _ d _ _ | .srai _ d _ _ | .bfx _ d _ _ _ | .bfi _ d _ _ _ | .limh _ d _ | .lea _ d _ _
  | .leap _ d _ _ | .jal _ d _ => [.s d.toNat]
  | .ldb _ d _ _ | .ldbz _ d _ _ | .ldh _ d _ _ | .ldhz _ d _ _ | .ldw _ d _ _ | .ldwz _ d _ _ | .ldd _ d _ _
  | .ldv _ d _ _ _ | .ldfe _ d _ _ => [.s d.toNat]
  | .vld _ v _ _ _ _ | .vlds _ v _ _ _ _ | .vgth _ v _ _ _ _ => [.v v.toNat]
  | .watch _ d _ | .gbar _ d _ | .gqry _ d _ | .commit _ d | .pop _ d _ | .fstat _ d _ | .evpop _ d | .hget _ d _
  | .csrr _ d _ | .rte _ d _ _ | .idle _ d | .frz _ d _ | .thaw _ d _ | .slotq _ d _ | .vwid _ d _ | .rdtk _ d
  | .sbsr _ d _ | .duskDrain _ d _ | .duskRelease _ d _ | .scan _ d _ => [.s d.toNat]
  | .recv _ d => [.s d.toNat, .s (d.toNat + 1), .s (d.toNat + 2)]
  | _ => []

/-- The registers a slot B form names as destinations: only those of a file that slot A also writes matter to R21. -/
def destB : Instr → List Reg
  | .vadd d _ _ _ _ _ _ | .vsub d _ _ _ _ _ _ | .vmul d _ _ _ _ _ _ | .vfma d _ _ _ _ _ _ | .vfms d _ _ _ _ _ _ => [.v d.toNat]
  | .vmin d _ _ _ _ _ | .vmax d _ _ _ _ _ => [.v d.toNat]
  | .vabs d _ _ _ _ | .vneg d _ _ _ _ | .vord d _ _ _ _ | .vnot d _ _ | .vmov d _ _ | .viota d _ _ _ | .vbcast d _ _ _ => [.v d.toNat]
  | .vsel d _ _ _ | .vand d _ _ _ | .vor d _ _ _ | .vxor d _ _ _ => [.v d.toNat]
  | .vshl d _ _ _ _ _ | .vshr d _ _ _ _ _ | .vsra d _ _ _ _ _ => [.v d.toNat]
  | .vcvt d _ _ _ _ _ _ | .vperm d _ _ _ _ | .vdig d _ _ _ _ _ | .vred d _ _ _ _ _ => [.v d.toNat]
  | .vextr _ a _ _ _ => [.s a.toNat]
  | .vins v _ _ _ => [.v v.toNat]
  | .pcnt _ d _ _ => [.s d.toNat]
  | .dtov v _ g f _ => (List.range (dirVecCount f g)).map fun j => .v (v.toNat + j)
  | .dcos s _ _ _ _ | .dnrm s _ _ _ => [.s s.toNat]
  | .vdiv d _ _ _ _ _ => [.v d.toNat]
  | .vsqrt d _ _ _ _ | .vrcp d _ _ _ _ | .vrsq d _ _ _ _ | .vexp2 d _ _ _ _ | .vlog2 d _ _ _ _ => [.v d.toNat]
  | .vsin d _ _ _ _ | .vcos d _ _ _ _ | .vtanh d _ _ _ _ => [.v d.toNat]
  | _ => []

/-- A bundle's two instructions. -/
structure Bundle where
  a : Instr
  b : Instr
  deriving DecidableEq, Repr

/-- The failure of a bundle's checks: the cause and SLOTB (R205). -/
structure BundleError where
  cause : Illegal
  slotB : Bool
  deriving DecidableEq, Repr

/-- The checks of R205 between the two slots: the IMM32 pairing (R192), RCALL's slot B (R197), a REP bundle (R194), one
destination named twice (R21). -/
def checkPair (a b : Instr) : Except BundleError Bundle :=
  match b with
  | .imm32 imm =>
    match a with
    | .rcall _ _ _ _ v c =>
      if v != 0 && c == 0 && callDV imm == 0 then .error ⟨.reserved, false⟩
      else if callDS imm > 8 || callDV imm > 4 || callSD imm + callDS imm > 32 || v.toNat + callDV imm > 16 then .error ⟨.limit, false⟩
      else .ok ⟨a, b⟩
    | _ =>
      match immWidth a with
      | none => .error ⟨.unassigned, true⟩
      | some w => if imm.toNat / 2 ^ (32 - w) == 0 then .ok ⟨a, b⟩ else .error ⟨.reserved, true⟩
  | _ =>
    match a with
    | .rcall .. => .error ⟨.unassigned, false⟩
    | .rep .. => if b == .nopv then .ok ⟨a, b⟩ else .error ⟨.reserved, true⟩
    | _ => if (destA a).any (fun r => (destB b).contains r) then .error ⟨.sameDest, false⟩ else .ok ⟨a, b⟩

/-- Of two failures the one that stands first in R205's table, slot A before slot B. -/
def firstError (x y : BundleError) : BundleError :=
  if y.cause.order < x.cause.order || (y.cause.order == x.cause.order && x.slotB && !y.slotB) then y else x

/-- Decodes the 64-bit bundle (R190, R205). -/
def decodeBundle (w : Nat) : Except BundleError Bundle :=
  let da := decodeA (fld w 32 32)
  let db := decodeB (fld w 0 32)
  -- the pairing is looked at even when one word fails, since its cause may stand earlier in the table
  let pair : Option BundleError :=
    match selectA (fld w 32 32), selectB (fld w 0 32) with
    | some a, some b => match checkPair a b with
      | .error e => some e
      | .ok _ => none
    | some (.rcall ..), none => some ⟨.unassigned, false⟩
    | _, _ => none
  match da, db, pair with
  | .ok a, .ok b, none => .ok ⟨a, b⟩
  | .ok _, .ok _, some e => .error e
  | .error c, .ok _, none => .error ⟨c, false⟩
  | .ok _, .error c, none => .error ⟨c, true⟩
  | .error c, .error c', none => .error (firstError ⟨c, false⟩ ⟨c', true⟩)
  | .error c, .ok _, some e => .error (firstError ⟨c, false⟩ e)
  | .ok _, .error c, some e => .error (firstError ⟨c, true⟩ e)
  | .error c, .error c', some e => .error (firstError (firstError ⟨c, false⟩ ⟨c', true⟩) e)

/-- The bundle word of two instructions (R190). -/
def encodeBundle (x : Bundle) : Nat := encode x.a * 2 ^ 32 + encode x.b

/-- A little-endian number from bytes. -/
def leNat : List Byte → Nat
  | [] => 0
  | b :: bs => b.toNat + 256 * leNat bs

/-- The n bytes of a number, little-endian. -/
def leBytes : Nat → Nat → List Byte
  | 0, _ => []
  | n + 1, w => BitVec.ofNat 8 w :: leBytes n (w / 256)

/-- Decodes the eight bytes of a bundle as the hardware stores it: slot B in bytes 0 to 3, slot A in bytes 4 to 7 (R190). -/
def decodeBytes (bs : List Byte) : Except BundleError Bundle := decodeBundle (leNat bs)

/-! ## Stepped fields of a repeated bundle (R194, R220) -/

/-- Where a steppable register number stands: its low bit and length in the slot's word, its high part's bit for a
split scalar field (5 low bits are contiguous when none), and the size of its file. -/
structure StepField where
  lo : Nat
  len : Nat
  hiBit : Option Nat
  file : Nat
  deriving DecidableEq, Repr

/-- A whole scalar field. -/
def sField (lo : Nat) : Option StepField := some ⟨lo, 5, none, 32⟩
/-- A vector field. -/
def vField (lo : Nat) : Option StepField := some ⟨lo, 4, none, 16⟩
/-- A predicate or directional field. -/
def pField (lo : Nat) : Option StepField := some ⟨lo, 3, none, 8⟩

/-- The register number at slot A position [24:20], [19:15] or [14:10] (MASK bits 5, 4, 3 counted from MASK's low end),
none where the form does not use the position as a register. -/
def stepFieldA (i : Instr) (bit : Nat) : Option StepField :=
  match i with
  | .add .. | .sub .. | .and .. | .or .. | .xor .. | .shl .. | .shr .. | .sra .. | .slt .. | .sltn .. | .min .. | .max ..
  | .minn .. | .maxn .. | .sel .. | .mul .. | .mulh .. | .mulhn .. | .div .. | .divn .. | .rem .. | .remn ..
  | .amo .. | .amoc .. | .pmrg .. => if bit == 5 then sField 20 else if bit == 4 then sField 15 else sField 10
  | .clz .. | .popc .. | .addi .. | .andi .. | .ori .. | .xori .. | .slti .. | .shli .. | .shri .. | .srai ..
  | .bfx .. | .bfi .. | .leap .. | .ldb .. | .ldbz .. | .ldh .. | .ldhz .. | .ldw .. | .ldwz .. | .ldd .. | .stb .. | .sth ..
  | .stw .. | .std .. | .ldv .. | .stv .. | .ldfe .. | .stfe .. | .watch .. | .gbar .. | .gqry .. | .hget .. =>
      if bit == 5 then sField 20 else if bit == 4 then sField 15 else none
  | .limh .. | .lea .. | .commit .. | .recv .. | .push .. | .pop .. | .fstat .. | .evpop .. => if bit == 5 then sField 20 else none
  | .vld .. | .vst .. | .vlds .. | .vgth .. | .vsct .. => if bit == 5 then vField 20 else if bit == 4 then sField 15 else none
  | .red .. | .vrcl .. | .send .. => if bit == 4 then sField 15 else if bit == 3 then sField 10 else none
  | .unwatch .. | .pfh .. | .tcls .. | .join .. | .leave .. | .gbard .. => if bit == 4 then sField 15 else none
  | .rret _ _ _ n c => if bit == 5 && n != 0 then sField 20 else if bit == 4 && c != 0 then vField 16 else none
  | _ => none

/-- The register number at slot B position [25:22], [21:18] or [17:14] (MASK bits 2, 1, 0). -/
def stepFieldB (i : Instr) (bit : Nat) : Option StepField :=
  let vvv : Option StepField := if bit == 2 then vField 22 else if bit == 1 then vField 18 else vField 14
  let vv : Option StepField := if bit == 2 then vField 22 else if bit == 1 then vField 18 else none
  let s1 : Option StepField := some ⟨18, 4, some 6, 32⟩
  let s2 : Option StepField := some ⟨14, 4, some 5, 32⟩
  match i with
  | .vadd .. | .vsub .. | .vmul .. | .vfma .. | .vfms .. | .vmin .. | .vmax .. | .vsel .. | .vand .. | .vor .. | .vxor ..
  | .vperm .. | .vdiv .. => vvv
  | .vshl _ _ _ _ _ p | .vshr _ _ _ _ _ p | .vsra _ _ _ _ _ p => if p.toNat / 64 == 0 then vvv else vv
  | .vhadd _ _ _ _ _ x => if x == 1 then vvv else vv
  | .vabs .. | .vneg .. | .vnot .. | .vcvt .. | .vmov .. | .vord .. | .vdig .. | .vred .. | .vsqrt .. | .vrcp .. | .vrsq ..
  | .vexp2 .. | .vlog2 .. | .vsin .. | .vcos .. | .vtanh .. => vv
  | .vcmp .. => if bit == 2 then pField 22 else vvv
  | .vbcast .. => if bit == 2 then vField 22 else if bit == 1 then s1 else none
  | .vextr .. | .vins .. => if bit == 2 then vField 22 else if bit == 1 then s1 else s2
  | .viota .. => if bit == 2 then vField 22 else none
  | .pwhile .. => if bit == 2 then pField 22 else if bit == 1 then s1 else s2
  | .pand .. | .por .. | .pxor .. => if bit == 2 then pField 22 else if bit == 1 then pField 18 else pField 14
  | .pnot .. | .pfirst .. => if bit == 2 then pField 22 else if bit == 1 then pField 18 else none
  | .pcnt .. => if bit == 2 then pField 22 else if bit == 1 then s1 else none
  | .pset .. => if bit == 2 then pField 22 else none
  | .vtod .. => if bit == 2 then pField 22 else if bit == 1 then vField 18 else none
  | .dtov .. => if bit == 2 then vField 22 else if bit == 1 then pField 18 else none
  | .dadd .. | .dsub .. | .dlerp .. => if bit == 2 then pField 22 else if bit == 1 then pField 18 else pField 14
  | .dneg .. | .dmov .. | .dren .. => if bit == 2 then pField 22 else if bit == 1 then pField 18 else none
  | .dscl .. | .dsetn .. => if bit == 2 then pField 22 else if bit == 1 then sField 17 else none
  | .dcos .. => if bit == 2 then sField 21 else if bit == 1 then pField 18 else pField 14
  | .dnrm .. => if bit == 2 then sField 21 else if bit == 1 then pField 18 else none
  | _ => none

/-- Reads a steppable number out of its slot's word. -/
def StepField.read (f : StepField) (w : Nat) : Nat :=
  match f.hiBit with
  | none => fld w f.lo f.len
  | some h => fld w h 1 * 2 ^ f.len + fld w f.lo f.len

/-- Puts a number into the field. -/
def StepField.write (f : StepField) (w v : Nat) : Nat :=
  let w1 := w - fld w f.lo f.len * 2 ^ f.lo + v % 2 ^ f.len * 2 ^ f.lo
  match f.hiBit with
  | none => w1
  | some h => w1 - fld w1 h 1 * 2 ^ h + v / 2 ^ f.len % 2 * 2 ^ h

/-- Adds j times STEP to one field; none when the result lies outside its file (R194). -/
def StepField.step (f : StepField) (w : Nat) (delta : Int) : Option Nat :=
  let v : Int := (f.read w : Int) + delta
  if 0 ≤ v ∧ v < f.file then some (f.write w v.toNat) else none

/-- Every selected position is a register of the repeated bundle (R220). -/
def stepsOk (mask : Nat) (a b : Instr) : Bool :=
  (List.range 6).all fun k =>
    !Nat.testBit mask k || (if k ≥ 3 then (stepFieldA a k).isSome else (stepFieldB b k).isSome)

/-- The slot A words that a REP may not repeat: REP, and majors 0x10 to 0x17, 0x30, 0x31, 0x33, 0x3C to 0x3E (R194). -/
def notRepeatable (wA : Nat) : Bool :=
  let m := fld wA 25 6
  m == 0x3F || (0x10 ≤ m && m ≤ 0x17) || m == 0x30 || m == 0x31 || m == 0x33 || (0x3C ≤ m && m ≤ 0x3E)

/-- The stepped word of one slot: each selected field of the slot moved by delta; none when one leaves its file. -/
def stepWord (field : Nat → Option StepField) (mask : Nat) (delta : Int) : List Nat → Nat → Option Nat
  | [], w => some w
  | k :: ks, w =>
    if Nat.testBit mask k then
      match field k with
      | some f => match f.step w delta with
        | some w' => stepWord field mask delta ks w'
        | none => none
      | none => stepWord field mask delta ks w
    else stepWord field mask delta ks w

/-- The bundle of repetition j (R194): answers none, with the slot, for reason 3. -/
def stepBundle (mask : Nat) (step : Int) (j : Nat) (w : Nat) : Except Bool Nat :=
  let wA := fld w 32 32
  let wB := fld w 0 32
  let delta := step * j
  let fa : Nat → Option StepField := fun k => (selectA wA).bind fun a => stepFieldA a k
  let fb : Nat → Option StepField := fun k => (selectB wB).bind fun b => stepFieldB b k
  match stepWord fa mask delta [5, 4, 3] wA with
  | none => .error false
  | some wA' =>
    match stepWord fb mask delta [2, 1, 0] wB with
    | none => .error true
    | some wB' => .ok (wA' * 2 ^ 32 + wB')

/-! ## Tile command words (R198 to R200, R300 to R319) -/

/-- A tile command word. -/
abbrev Tcw := BitVec 256

/-- Bits [hi:lo] of a tile command word. -/
def Tcw.f (w : Tcw) (hi lo : Nat) : Nat := fld w.toNat lo (hi + 1 - lo)

/-- OPCODE (R198). -/
def Tcw.op (w : Tcw) : Nat := Tcw.f w 255 248
/-- TOGGLE (R198). -/
def Tcw.toggle (w : Tcw) : Nat := Tcw.f w 247 236
/-- BAR: the barrier object's VA, 0 for none (R198). -/
def Tcw.bar (w : Tcw) : Nat := Tcw.f w 235 192 * 16
/-- RND (R198). -/
def Tcw.rnd (w : Tcw) : Nat := Tcw.f w 19 17
/-- EVQ (R198). -/
def Tcw.evq (w : Tcw) : Bool := Tcw.f w 16 16 == 1
/-- TAG (R198). -/
def Tcw.tag (w : Tcw) : Nat := Tcw.f w 15 0
/-- PEN, PQ, PTAG: the prerequisite (R303). -/
def Tcw.pen (w : Tcw) : Bool := Tcw.op w != 0x0D && Tcw.f w 63 63 == 1
/-- PQ (R303). -/
def Tcw.pq (w : Tcw) : Nat := Tcw.f w 62 61
/-- PTAG (R303). -/
def Tcw.ptag (w : Tcw) : Nat := Tcw.f w 60 45

/-- The queues that accept an opcode (R199). -/
def tcwQueues (op : Nat) : List Nat :=
  match op with
  | 0x01 | 0x05 | 0x0E => [0, 3]
  | 0x02 | 0x03 | 0x04 | 0x08 | 0x09 | 0x0A | 0x0B | 0x0C | 0x10 | 0x11 => [1]
  | 0x06 | 0x07 => [2]
  | 0x0D => [0, 1, 2, 3]
  | _ => []

/-- An assigned opcode (R199). -/
def tcwAssigned (op : Nat) : Bool := tcwQueues op != []

/-- A command that rounds: CRD and CVT (R198, R312, R313). -/
def tcwRounds (op : Nat) : Bool := op == 0x06 || op == 0x07

/-- The bit ranges that are always reserved in a command (R303, R306, R310 to R319). -/
def tcwReserved (op : Nat) : List (Nat × Nat) :=
  match op with
  | 0x01 => [(103, 64), (44, 20)]
  | 0x02 | 0x03 | 0x04 => [(108, 64), (44, 20)]
  | 0x05 => [(191, 145), (127, 80), (44, 20)]
  | 0x06 => [(191, 128), (119, 64), (44, 20)]
  | 0x07 => [(191, 128), (118, 112), (103, 64), (44, 20)]
  | 0x08 => [(143, 128), (72, 64)]
  | 0x09 | 0x0A => [(111, 64), (44, 20)]
  | 0x0B => [(115, 64), (44, 20)]
  | 0x0C => [(79, 64)]
  | 0x0D => [(69, 64)]
  | 0x0E => [(159, 128), (119, 64), (44, 20)]
  | _ => [(143, 141), (127, 64), (44, 20)]

/-- The ranges reserved when another field of the word is zero (R303, R306, R313 to R315). -/
def tcwCondReserved (w : Tcw) : List (Nat × Nat) :=
  (if Tcw.op w != 0x0D && Tcw.f w 63 63 == 0 then [(62, 45)] else []) ++
  (match Tcw.op w with
  | 0x01 => if Tcw.f w 110 110 == 0 then [(109, 104)] else []
  | 0x02 | 0x03 | 0x04 => if Tcw.f w 115 115 == 0 then [(114, 109)] else []
  | 0x07 => if Tcw.f w 119 119 == 0 then [(111, 104)] else []
  | 0x08 => if Tcw.f w 79 79 == 0 then [(78, 73)] else []
  | _ => [])

/-- Every reserved bit is zero, RND among them for a command that does not round (R198, R200). -/
def tcwResOk (w : Tcw) : Bool :=
  (tcwReserved (Tcw.op w) ++ tcwCondReserved w).all (fun (h, l) => Tcw.f w h l == 0) && (tcwRounds (Tcw.op w) || Tcw.rnd w == 0)

/-- Command-specific fields are within their limits (R306, R310, R315, R319). -/
def tcwLimOk (w : Tcw) : Bool :=
  match Tcw.op w with
  | 0x01 =>
    let len := Tcw.f w 143 128
    let sf := Tcw.f w 115 112
    1 ≤ len && len ≤ 0x8000 && Tcw.f w 191 144 % 32 == 0 && (sf == 2 || sf == 3 || sf == 4 || (8 ≤ sf && sf ≤ 14))
  | 0x05 =>
    let off := Tcw.f w 79 64
    let cnt := Tcw.f w 144 128
    off % 16 == 0 && cnt % 16 == 0 && 16 ≤ cnt && off + cnt ≤ 65536
  | 0x08 => Tcw.f w 191 144 % 8 == 0 && Tcw.f w 127 80 % 8 == 0 && Tcw.f w 44 20 % 8 == 0 && 8 ≤ Tcw.f w 44 20
  | 0x0C => Tcw.f w 127 80 % 8 == 0 && Tcw.f w 44 20 % 8 == 0 && 8 ≤ Tcw.f w 44 20
  | 0x10 | 0x11 => Tcw.f w 140 128 ≤ 6143 && Tcw.f w 191 144 % 65536 == 0
  | _ => true

end Sys2Proof
end

