-- ==== Sys2Proof/Machine/State.lean ====
section
/-! DEFINITION. The state of the L6 as plain data: every piece of state the spec names, listed with its rule and reset
value in INVENTORY.md. Sparse parts are lists of (key, value) pairs with keys rising and no entry equal to what an
unlisted key reads as; cores, tiles and threads are keyed by their logical coordinates (log 6). -/

namespace Sys2Proof.Machine

/-- A sparse part: keys rising, no default entry. -/
abbrev Store (α : Type) := List (Nat × α)

/-- The memory: (address, byte) pairs, addresses strictly rising, no zero byte listed (log 2). Addresses below 2^47 are
physical HBM addresses (R143); on-chip bytes stand at their on-chip virtual address (R16); stack-core SRAM stands from
2^48 (R8, R214). -/
abbrev Memory := List Host.Cell

/-- What an address that the memory does not list reads as (log 2). -/
def Memory.unlisted : Byte := 0

/-- A thread's 2 KiB workspace by its parts (R222). -/
structure Workspace where
  s : Vector (BitVec 64) 32
  p : Vector (BitVec 64) 8
  ts : Vector (BitVec 64) 8
  v : Vector Vec 16
  d : Vector Vec 8
  n : Vector (BitVec 32) 8
  trap : BitVec 256
  deriving DecidableEq, Repr

/-- A workspace of zeros, which an unlisted one reads as (log 3). -/
def Workspace.zero : Workspace where
  s := Vector.replicate 32 0
  p := Vector.replicate 8 0
  ts := Vector.replicate 8 0
  v := Vector.replicate 16 0
  d := Vector.replicate 8 0
  n := Vector.replicate 8 0
  trap := 0

/-- The tags of a scratchpad word: VER, F and W (R88, R90, R91). -/
structure WordTag where
  ver : BitVec 6
  full : Bool
  watch : Bool
  deriving DecidableEq, Repr

/-- A word's tags after a clear (R158). -/
def WordTag.zero : WordTag := ⟨0, false, false⟩

/-- One register write, whole or under a byte mask; a vector write may set the tag (R38). -/
inductive RegWrite where
  | s (r : BitVec 5) (x : BitVec 64)
  | v (r : BitVec 4) (x : Vec) (mask : BitVec 64) (tag : Option (BitVec 4))
  | p (r : BitVec 3) (x mask : BitVec 64)
  | d (r : BitVec 3) (x : Vec)
  | n (r : BitVec 3) (x : BitVec 32)
  deriving DecidableEq, Repr

/-- Where a result or failure comes from: the raising bundle, its slot, its place in issue order (R166). -/
structure Src where
  pc : BitVec 48
  bundle : BitVec 64
  slotB : Bool
  seq : Nat
  deriving DecidableEq, Repr

/-- A failure that traps: cause code, INFO, faulting VA (R166, R167). -/
structure Failure where
  cause : BitVec 8
  info : BitVec 26
  va : Option (BitVec 48)
  src : Src
  deriving DecidableEq, Repr

/-- What a long-latency result waits for (R24, R263, R266, R268). -/
inductive PendKind where
  | value
  /-- The value of a load or atomic with return, from places that these keys name (R86). -/
  | access (keys : List Nat)
  | pop (q : Nat)
  | evpop
  | recv
  deriving DecidableEq, Repr

/-- A long-latency result still to land (R25, R48). -/
structure Pend where
  src : Src
  kind : PendKind
  /-- The request whose answer it waits for. -/
  rid : Option Nat
  ready : Bool
  /-- The registers it names, for the landing order of R25. -/
  dests : List Reg
  writes : List RegWrite
  /-- The flags it raises, ZD to NX in [6:0]. -/
  flags : BitVec 7
  fail : Option Failure
  deriving DecidableEq, Repr

/-- One separately performed unit of an access (R84): its address in Memory's numbering, its length, its place in the
register, the bytes of it that the access makes, its data; `va` is the virtual address it was made with. -/
structure Part where
  key : Nat
  va : BitVec 64
  len : Nat
  off : Nat
  mask : BitVec 64
  /-- The page's entry, 0 for on-chip space (R153). -/
  pte : BitVec 64
  data : BitVec 512
  done : Bool
  deriving DecidableEq, Repr

/-- What a thread waits for (R126). -/
inductive Park where
  | none
  /-- EXIT's wait (R219). -/
  | exit (src : Src)
  /-- RRET's wait, with its ranges (R257). -/
  | rret (sr vr sn vn : Nat)
  /-- MIGR's wait before it sends, with its target address (R258). -/
  | migrWait (va : BitVec 64) (src : Src)
  /-- ACQ or FULL fence: accesses before seq in scope (R86). -/
  | fence (kind scope seq : Nat)
  | semp (n : Nat)
  | wait
  /-- GBAR: the object by its key at its arrival and its address, the phase its arrival saw, its destination (R115). -/
  | phase (key : Nat) (va : BitVec 64) (phase : BitVec 32) (d : BitVec 5) (src : Src)
  /-- A bundle held at issue until request rid is answered, with the word that issues and the operands it read (R358). -/
  | held (rid : Nat) (word : BitVec 64) (ops : Workspace)
  /-- SPAWN, RCALL send or MIGR send awaiting its answer (R116, R255, R258). -/
  | answer (rid : Nat)
  /-- A supervisor in IDLE, with its destination (R229). -/
  | idle (d : BitVec 5)
  /-- COMMIT, with its destination (R260). -/
  | commit (d : BitVec 5) (src : Src)
  /-- COMMIT whose stores are on their way, with its destination and the parts still to be sent (R100). -/
  | applied (d : BitVec 5) (src : Src) (rest : List Part)
  /-- RECV: until its message has landed (R263). -/
  | recv
  /-- On the wait list of its core until request rid is served (R90, R111, R262). -/
  | word (rid : Nat)
  /-- Its wait has ended: it returns at the next turn of its own position (R111). -/
  | over
  deriving DecidableEq, Repr

/-- A REL fence in force: later stores wait for accesses before seq in scope (R86); scope 7 is a release's, which covers every
access (R78, R81). -/
structure RelFence where
  seq : Nat
  scope : Nat
  deriving DecidableEq, Repr

/-- A speculation: the write log by aligned 8-byte word (address, data, byte mask), the read set (word, VER), the pages of
the logged words (their first byte's key/65536, VA[47:16], entry), and whether it overflowed or was aborted (R121, R122). -/
structure Spec where
  log : List (Nat × BitVec 64 × BitVec 8)
  reads : List (Nat × BitVec 6)
  pages : List (Nat × Nat × BitVec 64)
  overflow : Bool
  aborted : Bool
  deriving DecidableEq, Repr

/-- An outstanding RCALL (R120, R197, R255). -/
structure Call where
  rid : Nat
  src : Src
  sd : Nat
  ds : Nat
  vb : Nat
  dv : Nat
  /-- TICK at the latest send, and RCTIMEOUT in cycles then. -/
  sentAt : Nat
  timeout : Nat
  /-- The timer runs (it stops while the tile is drained, R183). -/
  running : Bool
  deriving DecidableEq, Repr

/-- Whom a callee answers (R173). -/
structure Caller where
  th : Nat
  rid : Nat
  /-- TICK at the call's first issue: a reply has its request's age (R128). -/
  born : Nat
  deriving DecidableEq, Repr

/-- What started a thread (R219). -/
inductive Kind where
  | task | child | callee | red | super | sampler
  deriving DecidableEq, Repr

/-- A translation that the thread waits for, or whose failure it will take (R154, R238). -/
inductive Walk where
  | none
  | waiting (vpn : Nat)
  | failed (vpn : Nat) (reason : Nat)
  deriving DecidableEq, Repr

/-- A thread, beside what its workspace holds. -/
structure Thread where
  occ : Bool
  pos : Nat
  kind : Kind
  ctx : BitVec 6
  lid : BitVec 32
  seed : BitVec 64
  cls : BitVec 2
  part : Bool
  /-- A callee whose caller pre-empts (R161). -/
  col : Bool
  /-- The tile of the task from which its chain of SPAWN, RCALL and MIGR began (R97, R149). -/
  root : Nat
  trapped : Bool
  frz : Bool
  /-- A FRZ or THAW that acts at the next turn of its position (R230). -/
  frzTo : Option Bool
  /-- The latest turn of its position found it frozen (R124). -/
  stopped : Bool
  pfrz : Bool
  sfrz : Bool
  /-- The mode of an RTE that has resumed the thread and not been acted on yet (R170). -/
  rte : Option (BitVec 2)
  held : List Failure
  park : Park
  /-- A settle mark holds the thread until every result has landed and every store is performed (R24, R83). -/
  settle : Bool
  pend : List Pend
  seq : Nat
  fences : List RelFence
  ready : Bool
  spec : Option Spec
  calls : List Call
  caller : Option Caller
  /-- Core turn count and registers of its latest bundles, for the spacing check (R109). -/
  lastWrites : List (Nat × List Reg)
  walk : Walk
  deriving DecidableEq, Repr

/-- No thread. -/
def Thread.none : Thread where
  occ := false
  pos := 0
  kind := .task
  ctx := 0
  lid := 0
  seed := 0
  cls := 0
  part := false
  col := false
  root := 0
  trapped := false
  frz := false
  frzTo := .none
  stopped := false
  pfrz := false
  sfrz := false
  rte := .none
  held := []
  park := .none
  settle := false
  pend := []
  seq := 0
  fences := []
  ready := false
  spec := .none
  calls := []
  caller := .none
  lastWrites := []
  walk := .none

/-- A message in a receive queue: position, payload, sender's thread id (R263). -/
structure Msg where
  pos : Nat
  d0 : BitVec 64
  d1 : BitVec 64
  sender : Nat
  deriving DecidableEq, Repr

/-- A core, beside its threads (R108, R111, R169). -/
structure CoreSt where
  /-- The position whose turn is next. -/
  barrel : BitVec 4
  /-- Turns so far, one a core cycle. -/
  turns : Nat
  trapq : List (BitVec 64)
  /-- Watch table: word, watching thread. -/
  watches : List (Nat × Nat)
  msgs : List Msg
  /-- Corrected errors since its latest CORR entry, and TICK at that entry (R179). -/
  corr : Nat
  corrAt : Option Nat
  deriving DecidableEq, Repr

/-- A core after reset. -/
def CoreSt.zero : CoreSt := ⟨0, 0, [], [], [], 0, none⟩

/-- A translation cache entry: context, VA[47:16], the leaf entry of R153 and the frame it gives (R154). -/
structure TlbEntry where
  ctx : BitVec 6
  vpn : Nat
  pte : BitVec 64
  frame : Nat
  deriving DecidableEq, Repr

/-- A tile command in a queue, with what it took from its pusher (R45, R264). -/
structure Cmd where
  w : Tcw
  /-- Its queue. -/
  q : Nat
  cid : Nat
  th : Nat
  ctx : BitVec 6
  lid : BitVec 32
  seed : BitVec 64
  lcore : Nat
  cls : BitVec 2
  part : Bool
  sbcnt : BitVec 64
  rnd : BitVec 3
  /-- The pusher's accesses before this place are performed before the command starts (R92). -/
  after : Nat
  /-- The command whose completion element it waits for (R303). -/
  pre : Option Nat
  granted : Bool
  waited : Nat
  /-- Pages translated for it outside its work, VA[47:16]: the entry and the frame, none where there is no translation (R154). -/
  seen : List (Nat × Option (BitVec 64 × Nat))
  deriving DecidableEq, Repr

/-- A command whose work is done, its completion element not yet posted (R265, R304). -/
structure Finished where
  cmd : Cmd
  status : BitVec 8
  info : BitVec 32
  ovf : Bool
  inv : Bool
  deriving DecidableEq, Repr

/-- A command in flight: a contracting load (R64 to R68, R307), or another one that a fault or a drained target has
stopped (R155, R182). -/
structure Stream where
  cmd : Cmd
  /-- The descriptors it names, as read at its start: a contracting load's SDX, RDX and ADX. -/
  sdx : BitVec 256
  rdx : BitVec 256
  adx : BitVec 256
  /-- Pages it has translated: (VA[47:16], key of the page's first byte, entry). -/
  pages : List (Nat × Nat × BitVec 64)
  /-- Sectors whose reply has landed, numbered from 1 (0 is the one below B), with their bytes and a mask of those with an
  error. -/
  got : List (Nat × BitVec 256 × BitVec 64)
  /-- Sectors that have contributed. -/
  counted : List Nat
  /-- Exponent bytes read, by block. -/
  exps : List (Nat × Byte)
  /-- Of another command: pieces done, and destination bytes written. -/
  done : Nat
  bytes : Nat
  ovf : Bool
  inv : Bool
  /-- The first error that struck it, 0 for none (R175). -/
  err : BitVec 8
  /-- It stalls on this page's translation, and would end there: (VA[47:16], P). -/
  stall : Option (Nat × Nat)
  /-- Ended at this address: no sector at or above it contributes (R67). -/
  stop : Option Nat
  deriving DecidableEq, Repr

/-- A scan of a core of the tile (R184, R354). -/
structure ScanSt where
  core : Nat
  /-- The physical slot that is scanned. -/
  slot : Nat
  block : Nat
  startedAt : Nat
  /-- The result, once the set has ended and the clear is in progress. -/
  result : Option (BitVec 64)
  aborted : Bool
  /-- The thread that issued SCAN and the place of its pending result. -/
  th : Nat
  seq : Nat
  deriving DecidableEq, Repr

/-- Drain state of a tile (R182). -/
inductive Drain where
  | no
  /-- Draining, for the DUSKs of these threads at these places, in their order. -/
  | draining (dusks : List (Nat × Nat))
  | drained
  deriving DecidableEq, Repr

/-- A tile (R158, R265, R267, R300, R301, R304). -/
structure Tile where
  ctx : BitVec 6
  scrub : Bool
  scrubAt : Nat
  desc : Vector (BitVec 256) 16
  sem : Vector (BitVec 32) 16
  semq : List (Nat × Nat)
  hist : Vector (BitVec 32) 64
  zcnt : BitVec 32
  spcnt : BitVec 32
  queues : Vector (List Cmd) 4
  /-- The latest command accepted per queue and tag, by q·65536 + TAG: its number plus 1 (R303). -/
  last : Store Nat
  comp : Vector (List (BitVec 64)) 4
  evq : List (BitVec 64)
  finished : List Finished
  streams : List Stream
  tlb : List TlbEntry
  drain : Drain
  /-- A supervisor of the tile has trapped, and no drain has ended it: the tile is not free (R172). -/
  supDead : Bool
  scan : Option ScanSt
  /-- The launches whose tasks run on the tile: one, and a pre-empting one beside it (R106, R123). -/
  tasks : List (BitVec 32)
  /-- Its task has retired: elements that no thread takes are discarded once the last command has posted (R106). -/
  purge : Bool
  /-- Its pre-empting task has retired beside another: the same for queue 3 (log 23). -/
  purgeQ3 : Bool
  deriving DecidableEq, Repr

/-- A tile after reset. -/
def Tile.zero : Tile where
  ctx := 0
  scrub := false
  scrubAt := 0
  desc := Vector.replicate 16 0
  sem := Vector.replicate 16 0
  semq := []
  hist := Vector.replicate 64 0
  zcnt := 0
  spcnt := 0
  queues := Vector.replicate 4 []
  last := []
  comp := Vector.replicate 4 []
  evq := []
  finished := []
  streams := []
  tlb := []
  drain := .no
  supDead := false
  scan := none
  tasks := []
  purge := false
  purgeQ3 := false

/-- Who waits for a walk: a thread, stream k of a tile, or command k, for the checks of its start or its post (R154, R155). -/
inductive Waiter where
  | thread (th : Nat)
  | stream (t cid : Nat)
  | check (t cid : Nat)
  deriving DecidableEq, Repr

/-- A walk slot of a port core (R154 to R156). -/
structure WalkSlot where
  slot : Nat
  ctx : BitVec 6
  vpn : Nat
  tile : Nat
  waiters : List Waiter
  /-- A posted stream fault: its reason, TICK at its posting. -/
  fault : Option (Nat × Nat)
  /-- A TINV arrived during the walk: what it would install is dropped (R157). -/
  drop : Bool
  deriving DecidableEq, Repr

/-- A line of a cache slice, by its number, the physical address over 128 (R140). A slice lists its lines most recently
used first. -/
structure Line where
  line : Nat
  cls : BitVec 2
  count : BitVec 4
  /-- Its fill's own access is still to come. -/
  new : Bool
  /-- While it is dirty, what HBM holds of it (R177). -/
  was : Option (BitVec 1024)
  compress : Bool
  /-- Units of 8 bytes that HBM gave with an error at its fill. -/
  bad : List Nat
  deriving DecidableEq, Repr

/-- Who asks memory for a line: TICK at the first issue of the access and its thread's id, by which claims are ranked (R128). -/
structure Claim where
  born : Nat
  tid : Nat
  deriving DecidableEq, Repr

/-- A miss of a slice, or an access to a NEAR page, which bypasses the slice (R140, R141). -/
structure Miss where
  line : Nat
  near : Bool
  write : Bool
  /-- Its page has COMPRESS (R139). -/
  compress : Bool
  /-- Class and count that its hint gives (R140). -/
  hint : Option (BitVec 2 × BitVec 4)
  /-- No access waits for it: a PFH or a TCLS (R252). -/
  ahead : Bool
  claim : Claim
  /-- It is outstanding; else it waits in the miss queue. -/
  started : Bool
  deriving DecidableEq, Repr

/-- A claim in a channel controller's queue (R136). -/
structure MemReq where
  line : Nat
  near : Bool
  write : Bool
  compress : Bool
  claim : Claim
  /-- Younger row hits that have passed it. -/
  passed : Nat
  deriving DecidableEq, Repr

/-- A bank's activations: the sub-window of the latest, and the counts of 16 sub-windows, newest first (R137). -/
structure BankActs where
  bank : Nat
  window : Nat
  counts : List Nat
  deriving DecidableEq, Repr

/-- A placement migration in progress (R144). -/
structure FrameCopy where
  ctx : BitVec 6
  vpn : Nat
  fromFrame : Nat
  toFrame : Nat
  /-- The address of the leaf entry. -/
  pteAt : Nat
  /-- The accesses that the old home holds, in order of arrival: request and part. -/
  held : List (Nat × Nat)
  deriving DecidableEq, Repr

/-- A port core's channel, walker, page of registers and log (R136 to R145, R154 to R157, R179). -/
structure Port where
  cprio : BitVec 64
  mcrfm : BitVec 64
  hpctl : BitVec 64
  hpstat : BitVec 64
  stkown : BitVec 64
  walks : List WalkSlot
  /-- Fault queue: walk slots whose fault nobody has read (R156). -/
  fltq : List Nat
  /-- An invalidation in progress: context, every page of it, VA[47:16] (R157). -/
  tinv : Option (Nat × Bool × Nat)
  errlog : List (BitVec 64)
  dropped : Nat
  l2 : List TlbEntry
  lines : List Line
  misses : List Miss
  /-- The channel controller's queue (R136). -/
  queue : List MemReq
  /-- Open rows, by bank. -/
  rows : List (Nat × Nat)
  acts : List BankActs
  /-- Banks whose refresh-management command is to be issued, each with the level that its count has risen through (R137). -/
  rfm : List (Nat × Nat)
  /-- Blocked banks, each until a TICK (R136, R137). -/
  blocked : List (Nat × Nat)
  /-- Lines of NEAR pages that memory has served to accesses still to be performed. -/
  direct : List Nat
  /-- The latest transfer: its line, a write or a read, its bursts (R139). -/
  xfer : Option (Nat × Bool × Nat)
  /-- TICK at the start of the tracker's period (R144). -/
  periodAt : Nat
  /-- Per page: group and accesses in the period (R144): (vpn·64 + ctx, group, count). -/
  hot : List (Nat × Nat × Nat)
  cool : List (Nat × Nat)
  copy : Option FrameCopy
  /-- The accesses that a moved frame's old home has held, in their order (R144). -/
  passed : List (Nat × Nat)
  /-- Refused REDs by age, at most 16 (R119). -/
  reds : List Nat
  /-- Positions of the core that have freed and are held for the oldest recorded RED, each from this turn count on (R119). -/
  kept : List (Nat × Nat)
  deriving DecidableEq, Repr

/-- A port core after reset (R138, R142, R145). -/
def Port.zero : Port where
  cprio := 0x4B
  mcrfm := 0x0000003800280018
  hpctl := 0x8000100000640010
  hpstat := 0
  stkown := 0
  walks := []
  fltq := []
  tinv := none
  errlog := []
  dropped := 0
  l2 := []
  lines := []
  misses := []
  queue := []
  rows := []
  acts := []
  rfm := []
  blocked := []
  direct := []
  xfer := none
  periodAt := 0
  hot := []
  cool := []
  copy := none
  passed := []
  reds := []
  kept := []

/-- Wear figures of a super-group (R189). -/
structure WearSt where
  drift : BitVec 16
  hours : BitVec 16
  pred : BitVec 16
  at_ : Nat
  deriving DecidableEq, Repr

/-- Reset value of WEAR (R189). -/
def WearSt.zero : WearSt := ⟨0, 0, 0xFFFF, 0⟩

/-- State of a launch (R104, R106). -/
inductive LaunchPhase where
  | queued
  | running
  deriving DecidableEq, Repr

/-- A live launch (R103 to R107). -/
structure Launch where
  lid : BitVec 32
  die : Nat
  ep : Nat
  ctx : BitVec 6
  cls : BitVec 2
  prq : List (BitVec 32)
  seed : BitVec 64
  /-- Its image's entry, and the place and length of its .data (R337, R338). -/
  entry : BitVec 48
  dataAt : Nat
  dataLen : Nat
  tiles : List Nat
  phase : LaunchPhase
  /-- Tiles whose task has not retired. -/
  left : List Nat
  exit : BitVec 16
  /-- Dispatched by pre-emption (R123). -/
  preempt : Bool
  deriving DecidableEq, Repr

/-- An ANSWER packet (R105). -/
structure AnswerPkt where
  ep : Nat
  payload : BitVec 128
  deriving DecidableEq, Repr

/-- What a packet carries. -/
inductive Load where
  /-- A request, by its number. -/
  | req (rid : Nat)
  /-- The answer to one. -/
  | ans (rid : Nat)
  /-- An answer or a message that leaves the module. -/
  | out
  /-- A peer's message (R344, R347). -/
  | msg (m : PeerMsg)
  deriving DecidableEq, Repr

/-- A packet on its way (R133). Its source and its destination are super-groups, die·8 + super-group, or endpoints of the
fabric, from 64 on. -/
structure Packet where
  id : Nat
  load : Load
  src : Nat
  dst : Nat
  /-- Its mesh flits. -/
  len : Nat
  claim : Claim
  /-- Its flits have been handed to a mesh or a link. -/
  entered : Bool
  /-- Its number in its pair's order over the fabric, from 1; 0 until it has one (R346). -/
  pair : Nat
  deriving DecidableEq, Repr

/-- A flit of a die's mesh (R131, R133). Its destination is an endpoint of the die: a router 0 to 7, or 8 + the number of the
link whose bridge it goes to. -/
structure Flit where
  src : Nat
  dst : Nat
  tag : Nat
  index : Nat
  len : Nat
  claim : Claim
  /-- The bridge that it came from, 0 for none. -/
  via : Nat
  at_ : Nat
  deriving DecidableEq, Repr

/-- A packet being assembled at an endpoint (R133). -/
structure Assembly where
  dst : Nat
  tag : Nat
  len : Nat
  have_ : List Nat
  deriving DecidableEq, Repr

/-- What a collective unit sends to another participant (R351). -/
inductive CollData where
  | part (data : List Byte)
  | result (data : List Byte)
  | gone
  deriving DecidableEq, Repr

/-- A message of a die's collective unit: its tree's slot, the endpoint it goes to, its sender's index (R349, R351). -/
structure CollMsg where
  die : Nat
  slot : Nat
  ep : Nat
  from_ : Nat
  data : CollData
  deriving DecidableEq, Repr

/-- A collective in progress at a die's unit (R351). -/
structure Coll where
  slot : Nat
  op : Nat
  src : BitVec 64
  dst : BitVec 64
  len : Nat
  done : BitVec 64
  ctx : BitVec 6
  /-- The accumulated elements. -/
  acc : List Byte
  /-- Children not yet combined, in ascending index. -/
  waiting : List Nat
  /-- Values received out of turn. -/
  early : List (Nat × List Byte)
  result : Option (List Byte)
  failed : Bool
  deriving DecidableEq, Repr

/-- A die: dispatcher, allocator, collective unit, budget arbiter, mesh (R105, R106, R131, R143, R146, R350). -/
structure Die where
  queue : List (BitVec 32)
  /-- The channel, within the die's, that the next allocated frame takes (R143). -/
  cursor : Nat
  /-- Frames of the latest allocation. -/
  lastAlloc : List Nat
  trees : List (Nat × List (BitVec 32))
  colls : List Coll
  budget : Int
  deficit : Int
  /-- TICK from which the next budget period may begin (R146). -/
  nextAt : Nat
  /-- The junction has passed its limit and not come down again (R343). -/
  hot : Bool
  /-- The die's power in its latest period: measured, and granted to its engines (R352). -/
  power : Nat
  /-- Per core, as last refreshed: its free ordinary positions, and the launch whose task its tile ran (R116). -/
  counts : List (Nat × Nat × BitVec 32)
  flits : List Flit
  /-- Waiting to be injected, oldest first. -/
  inject : List Flit
  /-- The heads of the injection queues: router, flit, TICK from which it has waited (R132). -/
  heads : List (Nat × Flit × Nat)
  starve : List Nat
  assemblies : List Assembly
  /-- Refusals in the registers of their slots: endpoint, packet (R134). -/
  refusals : List (Nat × Packet)
  /-- Of each pair of a source and a destination whose packets cross this die's Kensel links, the number of the latest packet sent,
  and of the latest one that the receiver has taken (R346). -/
  pairs : List (Nat × Nat × Nat)
  got : List (Nat × Nat × Nat)
  deriving DecidableEq, Repr

/-- A die after reset. -/
def Die.zero : Die where
  queue := []
  cursor := 0
  lastAlloc := []
  trees := []
  colls := []
  budget := 0
  deficit := 0
  nextAt := 0
  hot := false
  power := 0
  counts := []
  flits := []
  inject := []
  heads := []
  starve := []
  assemblies := []
  refusals := []
  pairs := []
  got := []

/-- A link in one direction (R180, R181, R344). -/
structure Link where
  up : Bool
  retraining : Bool
  /-- Next sequence number to send. -/
  next : Nat
  /-- Sent and not acknowledged, oldest first: (sequence number, packet, last flit of it). -/
  unacked : List (Nat × Nat × Bool)
  /-- On the wire, oldest first. -/
  wire : List (Nat × Nat × Bool)
  /-- The sequence number the receiver expects. -/
  expect : Nat
  /-- The receiver has answered with the number it expects, since a bad flit. -/
  nak : Bool
  /-- The flit that it expects has been sent again. -/
  replaying : Bool
  errors : List Nat
  /-- Failed replays of that flit in a row. -/
  replays : Nat
  retrains : Nat
  /-- Packets whole in the near bridge's buffer. -/
  nearBuf : List Packet
  /-- Packets on the link, for which the far bridge holds space, and packets whole there. -/
  coming : List Packet
  farBuf : List Packet
  /-- Messages of peers that have come, oldest first (R347). -/
  inbox : List PeerMsg
  deriving DecidableEq, Repr

/-- A link after reset. -/
def Link.zero : Link := ⟨true, false, 0, [], [], 0, false, false, [], 0, 0, [], [], [], []⟩

/-- The registers and tables of a logit run (R324, R325). -/
structure LRun where
  chunk : Nat
  x : Vector (Vector (BitVec 32) 32) 16
  logits : Vector (BitVec 32) 32
  counts : Vector (BitVec 8) 32
  hist : BitVec 32
  ban : BitVec 32
  bias : Vector (BitVec 16) 32
  consts : Vector (BitVec 32) 8
  pc : Nat
  offer : Option (Vector (BitVec 32) 32)
  halted : Bool
  /-- A table read failed: the chunk takes no value (R323). -/
  failed : Bool
  deriving DecidableEq, Repr

/-- A shortlist entry (R73). -/
structure Short where
  id : Nat
  val : BitVec 32
  deriving DecidableEq, Repr

/-- A bound logit window, by the physical address of its page (R320 to R323). -/
structure Binding where
  ctx : BitVec 6
  lid : BitVec 32
  seed : BitVec 64
  cls : BitVec 2
  part : Bool
  pageLen : Nat
  /-- Its page has COMPRESS (R139). -/
  compress : Bool
  vocab : Nat
  k : Nat
  prog : List (BitVec 32)
  tbase : BitVec 64
  entry : BitVec 64
  sampler : Nat
  seqid : BitVec 32
  pos : BitVec 32
  win : BitVec 64
  consts : Vector (BitVec 32) 8
  mx : BitVec 32
  sum : BitVec 40
  n : Nat
  nancnt : Nat
  shorts : List Short
  flt : Nat
  /-- Masks of written words per chunk. -/
  cur : Store (BitVec 32)
  next : Store (BitVec 32)
  ran : List Nat
  /-- The report waits for the sampler (CODE 0x02); TICK at its latest send. -/
  waiting : Option Nat
  run : Option LRun
  deriving DecidableEq, Repr

/-- What a request does at its home. -/
inductive ReqKind where
  | load
  | store
  | amo (op : BitVec 4) (b : BitVec 64)
  | amoc (cmp b : BitVec 64)
  | red (op : BitVec 4) (b : BitVec 64)
  /-- The updates of a VHADD that wait for an earlier access: each part's data is its word's sum (R286, R287). -/
  | hadd
  | ldv (ver : BitVec 6)
  | stv
  | ldfe
  | stfe
  | vrcl (count : Nat)
  /-- 0 JOIN, 1 LEAVE, 2 GBAR, 3 GBARD (R259). -/
  | barrier (op : Nat)
  | gqry
  /-- The stores to OWNER of one instruction, a part each (R158). -/
  | owner
  /-- A store to TREELD or CLGO, which holds its bundle (R350, R351, R358). -/
  | page
  /-- The stores of a speculation to one home (R100). -/
  | commit
  | semv (n : Nat)
  | lcmw (t slot : Nat)
  | spawn (target : Nat) (entry : BitVec 48) (args : List (BitVec 64)) (lend : Bool)
  | rcall (unit : Nat) (va : BitVec 64) (entry : BitVec 48) (args : List (BitVec 64)) (vecs : List (Vec × BitVec 4))
  /-- To request `call` of the caller's thread (R93, R257). -/
  | reply (caller call : Nat) (scalars : List (BitVec 64)) (vecs : List (Vec × BitVec 4))
  | faultRec (caller call : Nat) (cause : BitVec 8) (lcore : Nat) (va : Option (BitVec 48))
  | migr (unit : Nat)
  | send (tid sender : Nat) (d0 d1 : BitVec 64)
  /-- PMRG's wait for its in-box: the next core, VEC, and its own record once read: m, s and the vector (R262). -/
  | pmrg (next : BitVec 64) (vec : Bool) (own : List Nat)
  /-- PMRG's outgoing record (R262). -/
  | inbox (target : Nat) (off : Nat) (rec_ : List Byte) (vec : Bool)
  deriving DecidableEq, Repr

/-- Where a request stands. -/
inductive ReqState where
  | inflight
  /-- Refused: it is resent at the thread's next turn (R112). -/
  | refused
  /-- It has lost a conflict, and is sent again at its thread's next turn (R130). -/
  | replay
  /-- Refused with the drained mark, at this TICK (R182). -/
  | drained (at_ : Nat)
  /-- Waiting at its home, at this place in arrival order (R90, R111). -/
  | parked (place : Nat)
  /-- Withdrawn by a drain of the requester's tile (R183). -/
  | withdrawn
  /-- Answered by its home (R358). -/
  | answered (fail : Option (BitVec 8 × BitVec 26 × Option (BitVec 48))) (value : BitVec 64)
  deriving DecidableEq, Repr

/-- A request on its way to, or waiting at, its home (R76, R83). -/
structure Req where
  rid : Nat
  /-- The issuing thread; once it has ended, a number of its own from `noThread` on. -/
  th : Nat
  /-- The thread's id, LCORE·16 + position, which breaks ties of age (R108, R128). -/
  tid : Nat
  /-- Its core, context and launch, which the home checks (R159). -/
  lcore : Nat
  ctx : BitVec 6
  lid : BitVec 32
  /-- What a thread that it starts takes from its sender (R149). -/
  seed : BitVec 64
  cls : BitVec 2
  part : Bool
  root : Nat
  src : Src
  kind : ReqKind
  parts : List Part
  st : ReqState
  refusals : Nat
  /-- TICK at its first issue, from which its age counts (R128). -/
  born : Nat
  /-- Its packets have been made since it was last sent, and the places where one has arrived (R133). -/
  sent : Bool
  legs : List Nat
  /-- The REL fences in force at its issue (R86). -/
  fences : List RelFence
  /-- RETRYLIM of a thread that has ended, 0 while it lives (R112). -/
  lim : Nat
  /-- It waits until every earlier access of its thread is performed (R78). -/
  hold : Bool
  /-- Sign extension of a scalar load. -/
  sext : Bool
  /-- A store through the fabric window carries REL (R348). -/
  rel : Bool
  deriving DecidableEq, Repr

/-- An inbound request held behind a drained tile (R347). -/
structure Inbound where
  /-- The die whose Kensel port received it. -/
  die : Nat
  ep : Nat
  ctx : BitVec 6
  va : BitVec 64
  size : Nat
  write : Bool
  ord : Bool
  rel : Bool
  data : BitVec 512
  deriving DecidableEq, Repr

/-- A host's answer to an inbound request: 0 done, 1 denied, 2 held; with the value read (R347). -/
structure InboundAnswer where
  ep : Nat
  code : Nat
  value : BitVec 512
  deriving DecidableEq, Repr

/-- A store that leaves through the fabric window: fabric address, length, the bytes that it writes, data, flags (R348). -/
structure Outbound where
  addr : Nat
  len : Nat
  mask : BitVec 64
  data : BitVec 512
  ord : Bool
  rel : Bool
  deriving DecidableEq, Repr

/-- The boot sequence (R163). -/
structure Dawn where
  /-- The step in progress, 1 to 5. -/
  stage : Nat
  /-- DAWN-HOLD code, 0 when not in hold. -/
  hold : Nat
  /-- The verified image, until step 4 has placed it. -/
  image : List Byte
  digest : List Byte
  version : Nat
  entry : BitVec 48
  quote : List Byte
  /-- TICK's count starts here, at step 5 (R224). -/
  readyAt : Nat
  /-- Codes of DAWN-HOLD reported over the fabric, oldest first (R163). -/
  reported : List Nat
  deriving DecidableEq, Repr

/-- What a save holds beside the area's first doubleword (R162, R319): the context-save engine's own form. -/
structure Save where
  t : Nat
  /-- The frames of the area. -/
  frames : List Nat
  tile : Tile
  mem : Memory
  ws : Store Workspace
  tags : Store WordTag
  guard : Store (BitVec 16)
  threads : Store Thread
  /-- Watch tables and receive queues. -/
  cores : Store CoreSt
  /-- Wait-list entries, and requests to be sent again. -/
  reqs : List Req
  deriving DecidableEq, Repr

/-- The answer of a request held at issue, latched for the bundle's second issue (R358). -/
structure Answer where
  fail : Option (BitVec 8 × BitVec 26 × Option (BitVec 48))
  value : BitVec 64
  /-- The key of the request's first part. -/
  key : Nat
  deriving DecidableEq, Repr

/-- The issue latch: the bundle that is issuing. -/
structure Issue where
  pc : BitVec 48
  /-- The bundle at pc. -/
  bundle : BitVec 64
  /-- The word that issues: stepped by a REP, with a slot emptied by an RTE (R170, R220). -/
  word : BitVec 64
  /-- IMM26 of the bundle's slot B (R192). -/
  imm : Option (BitVec 26)
  /-- Slot B is the slot being executed. -/
  slotB : Bool
  /-- The operands read at issue, where another slot has since written (R21). -/
  ops : Option Workspace
  /-- Stage of R205 at which the slot trapped, 0 for no trap. -/
  stage : Nat
  /-- The bundle is held at issue: neither slot has taken effect (R358). -/
  held : Bool
  /-- The bundle could not issue and keeps its place (R102). -/
  stalled : Bool
  answer : Option Answer
  /-- The bundle is a repetition of a REP (R220). -/
  inRep : Bool
  deriving DecidableEq, Repr

/-- No bundle issuing. -/
def Issue.none : Issue := ⟨0, 0, 0, .none, false, .none, 0, false, false, .none, false⟩

/-- Everything the spec gives the machine. -/
structure State where
  /-- Moves already determined; a free value names the next where none is (log 1). -/
  agenda : List Move
  /-- Free choices of moves drawn so far (log 1). -/
  moves : Nat
  /-- Free values drawn so far (log 10). -/
  fresh : Nat
  /-- The thread whose bundle is issuing (key LCORE·20 + window). -/
  cur : Nat
  iss : Issue
  /-- The window whose logit run is moving. -/
  curWin : Nat
  tick : Nat
  mem : Memory
  ws : Store Workspace
  tags : Store WordTag
  guard : Store (BitVec 16)
  /-- Units of 8 bytes that hold an uncorrectable error (R177). -/
  upsets : List Nat
  threads : Store Thread
  cores : Store CoreSt
  tiles : Store Tile
  ports : Store Port
  dies : Store Die
  links : Store Link
  wear : Store WearSt
  /-- Physical slot of a logical tile where it is not its reset slot (R186). -/
  map : Store (Option (BitVec 8))
  /-- Fenced slots: super-group·256 + slot (R185). -/
  fenced : List Nat
  ctxbase : BitVec 64
  /-- Frames that an allocation or a migration has taken (R143, R144). -/
  allocated : List Nat
  net : List Req
  nextRid : Nat
  /-- Packets made and not delivered, and the number of the next (R133). -/
  packets : List Packet
  nextPkt : Nat
  /-- Arrival order at homes (R90). -/
  arrivals : Nat
  launches : List Launch
  answers : List AnswerPkt
  bindings : Store (Option Binding)
  saves : List Save
  granted : List (Nat × Nat)
  revoked : List (Nat × Nat)
  inbound : List Inbound
  inAnswers : List InboundAnswer
  /-- The stores that leave through the fabric window (R348). -/
  outbound : List Outbound
  /-- What the collective units have sent (R351). -/
  collOut : List CollMsg
  dawn : Dawn
  /-- The coolant inlet has passed its limit and not come down again (R343). -/
  inletHot : Bool
  inlet : Nat
  mgmt : List (BitVec 64)
  deriving DecidableEq, Repr

/-- Why a step stops the machine. -/
inductive Fault where
  /-- Never raised by a modelled instruction: every access to a missing address traps ACCESS or PAGE_FAULT in its
  thread (R18, R155), which is a next state. Safe. -/
  | noSuchAddress
  deriving DecidableEq, Repr

/-- Why a step is refused. -/
inductive Refusal where
  /-- Raised by exec's arms that have no meaning yet. Safe. -/
  | notModelled (mnemonic : String)
  deriving DecidableEq, Repr

/-- The machine at power-up, before DAWN (R163): no thread runs, nothing is listed, every register at the value
INVENTORY.md names. -/
def State.reset : State where
  agenda := []
  moves := 0
  fresh := 0
  cur := 0
  iss := Issue.none
  curWin := 0
  tick := 0
  mem := []
  ws := []
  tags := []
  guard := []
  upsets := []
  threads := []
  cores := []
  tiles := []
  ports := []
  dies := []
  links := []
  wear := []
  map := []
  fenced := []
  ctxbase := 0
  allocated := []
  net := []
  nextRid := 0
  packets := []
  nextPkt := 0
  arrivals := 0
  launches := []
  answers := []
  bindings := []
  saves := []
  granted := []
  revoked := []
  inbound := []
  inAnswers := []
  outbound := []
  collOut := []
  dawn := ⟨1, 0, [], [], 0, 0, [], 0, []⟩
  inletHot := false
  inlet := 0
  mgmt := []

end Sys2Proof.Machine
end

