-- ==== Sys2Proof/Machine/Mem.lean ====
section
/-! DEFINITION. The sparse stores and the bytes of the machine: reading and writing a store in its canonical form, the
numbering of memory, and the one view in which a workspace's registers are bytes of their scratchpad (R222). -/

namespace Sys2Proof.Machine

/-! ## Stores -/

/-- What a key reads as. -/
def Store.get {α : Type} (d : α) : Store α → Nat → α
  | [], _ => d
  | (k', v) :: m, k => if k < k' then d else if k = k' then v else Store.get d m k

/-- Without the entries up to a key. -/
def Store.above {α : Type} : Store α → Nat → Store α
  | [], _ => []
  | (k', v) :: m, k => if k' ≤ k then Store.above m k else (k', v) :: m

/-- Writes a key; writing the default removes it. -/
def Store.put {α : Type} [DecidableEq α] (d : α) : Store α → Nat → α → Store α
  | [], k, v => if v = d then [] else [(k, v)]
  | (k', v') :: m, k, v =>
    if k < k' then (if v = d then (k', v') :: m else (k, v) :: (k', v') :: m)
    else if k = k' then (if v = d then Store.above m k else (k, v) :: m)
    else (k', v') :: Store.put d m k v

/-- Every entry changed; an entry that becomes the default leaves. -/
def Store.mapAll {α : Type} [DecidableEq α] (d : α) (f : Nat → α → α) (m : Store α) : Store α :=
  m.filterMap fun x => if f x.1 x.2 = d then none else some (x.1, f x.1 x.2)

/-- Keys rise from above a bound, and no entry is the default. -/
def Store.wfFrom {α : Type} [DecidableEq α] (d : α) : Option Nat → Store α → Bool
  | _, [] => true
  | lo, (k, v) :: m => (match lo with | none => true | some b => decide (b < k)) && decide (v ≠ d) && Store.wfFrom d (some k) m

/-- The canonical form. -/
def Store.wf {α : Type} [DecidableEq α] (d : α) (m : Store α) : Bool := Store.wfFrom d none m

/-- The memory's canonical form: addresses rising, no byte listed that an unlisted address reads as. -/
def Memory.wf (m : Memory) : Bool := Store.wf Memory.unlisted m

/-- One byte of memory. -/
def Memory.read (m : Memory) (a : Nat) : Byte := Store.get Memory.unlisted m a

/-- Writes one byte. -/
def Memory.write (m : Memory) (a : Nat) (b : Byte) : Memory := Store.put Memory.unlisted m a b

/-! ## Bytes of words -/

/-- Byte i of a word. -/
def byteOf {w : Nat} (x : BitVec w) (i : Nat) : Byte := x.extractLsb' (8 * i) 8

/-- A word with byte i replaced. -/
def setByteOf {w : Nat} (x : BitVec w) (i : Nat) (b : Byte) : BitVec w :=
  (x &&& ~~~((0xFF#w) <<< (8 * i))) ||| ((b.setWidth w) <<< (8 * i))

/-- Bytes [off+n-1:off] of a word as a number's word. -/
def bytesAt {w : Nat} (x : BitVec w) (off n : Nat) : Nat := x.toNat / 2 ^ (8 * off) % 2 ^ (8 * n)

/-- The 64 bit-mask of bytes as a mask of bits. -/
def byteMask (m : BitVec 64) : Vec :=
  (List.range 64).foldl (fun acc i => if m.getLsbD i then acc ||| ((0xFF#512) <<< (8 * i)) else acc) 0

/-- Takes the masked bytes from y and the others from x. -/
def mergeBytes (x y : Vec) (m : BitVec 64) : Vec :=
  if m = BitVec.allOnes 64 then y else (x &&& ~~~(byteMask m)) ||| (y &&& byteMask m)

/-! ## The workspace as bytes (R222) -/

/-- Byte off of a workspace. -/
def Workspace.byte (w : Workspace) (off : Nat) : Byte :=
  if off < 256 then byteOf (w.s.toList.getD (off / 8) 0) (off % 8)
  else if off < 320 then byteOf (w.p.toList.getD ((off - 256) / 8) 0) (off % 8)
  else if off < 384 then byteOf (w.ts.toList.getD ((off - 320) / 8) 0) (off % 8)
  else if off < 1408 then byteOf (w.v.toList.getD ((off - 384) / 64) 0) ((off - 384) % 64)
  else if off < 1920 then byteOf (w.d.toList.getD ((off - 1408) / 64) 0) ((off - 1408) % 64)
  else if off < 1952 then byteOf (w.n.toList.getD ((off - 1920) / 4) 0) (off % 4)
  else if off < 1984 then byteOf w.trap (off - 1952)
  else 0

/-- A vector with element i changed; unchanged where i is out of it. -/
def modAt {α : Type} {n : Nat} (v : Vector α n) (i : Nat) (f : α → α) : Vector α n :=
  if h : i < n then v.set i (f v[i]) else v

/-- The bits of TSi that a store changes: the reserved ones and LEND keep their value (R5, R223). -/
def tsMask (i : Nat) : BitVec 64 :=
  match i with
  | 0 => 0x0001FFFFFFFFFFFF
  | 1 => 0x0000FFFF00077F7F
  | 2 => 0x0000873FFFFFFFFF
  | 5 => 0x00000000FFFFFFFF
  | 7 => 0x000000000000FFFF
  | _ => BitVec.allOnes 64

/-- The bits of the trap record that a store changes: CTX, CAUSE, POS, DEFER, SLOTB, VAV and INREP keep their value
(R167). -/
def trapMask : BitVec 256 := BitVec.allOnes 256 <<< 22

/-- A word with the bits of byte i that a mask selects taken from a byte. -/
def setBitsOf {w : Nat} (m x : BitVec w) (i : Nat) (b : Byte) : BitVec w :=
  setByteOf x i ((byteOf x i &&& ~~~(byteOf m i)) ||| (b &&& byteOf m i))

/-- A workspace after a store to byte off: what is reserved ignores it (R5, R222). -/
def Workspace.setByte (w : Workspace) (off : Nat) (b : Byte) : Workspace :=
  if off < 256 then { w with s := modAt w.s (off / 8) (fun x => setByteOf x (off % 8) b) }
  else if off < 320 then { w with p := modAt w.p ((off - 256) / 8) (fun x => setByteOf x (off % 8) b) }
  else if off < 384 then { w with ts := modAt w.ts ((off - 320) / 8) (setBitsOf (tsMask ((off - 320) / 8)) · (off % 8) b) }
  else if off < 1408 then { w with v := modAt w.v ((off - 384) / 64) (fun x => setByteOf x ((off - 384) % 64) b) }
  else if off < 1920 then { w with d := modAt w.d ((off - 1408) / 64) (fun x => setByteOf x ((off - 1408) % 64) b) }
  else if off < 1952 then { w with n := modAt w.n ((off - 1920) / 4) (fun x => setByteOf x (off % 4) b) }
  else if off < 1984 then { w with trap := setBitsOf trapMask w.trap (off - 1952) b }
  else w

/-! ## Coordinates (R3, R15, R16) -/

/-- LCORE of a core by its coordinates; t = 8 is the group's port core. -/
def lcoreOf (d sg g t c : Nat) : Nat := (((d * 8 + sg) * 16 + g) * 9 + t) * 4 + c
/-- Die of a tile or port core. -/
def dieOf (l : Nat) : Nat := l / 4608
/-- Super-group within the die. -/
def sgOf (l : Nat) : Nat := l / 576 % 8
/-- Group within the super-group. -/
def grpOf (l : Nat) : Nat := l / 36 % 16
/-- Tile within the group, 8 for a port core. -/
def tileOf (l : Nat) : Nat := l / 4 % 9
/-- Core within the tile. -/
def coreOf (l : Nat) : Nat := l % 4
/-- A stack core (R15). -/
def isStack (l : Nat) : Bool := 27648 ≤ l && l ≤ 28031
/-- A port core. -/
def isPort (l : Nat) : Bool := l < 27648 && tileOf l == 8 && coreOf l == 0
/-- A tile core. -/
def isTileCore (l : Nat) : Bool := l < 27648 && tileOf l != 8
/-- The number names a core (R15). -/
def namesCore (l : Nat) : Bool := isTileCore l || isPort l || isStack l
/-- The tile index T of a tile core (R103). -/
def tOf (l : Nat) : Nat := l / 36 * 8 + tileOf l
/-- LCORE of core c of tile T. -/
def lcoreOfT (t c : Nat) : Nat := (t / 8 * 9 + t % 8) * 4 + c
/-- Die of a tile index. -/
def dieOfT (t : Nat) : Nat := t / 1024
/-- Super-group key die·8 + sg of a tile index. -/
def sgKeyOfT (t : Nat) : Nat := t / 128
/-- LCORE of the port core of group number (die·8 + sg)·16 + g. -/
def portOfGroup (grp : Nat) : Nat := grp * 36 + 32
/-- The port core of the core's group; a stack core's channel 2j lies at this port core (R8, R11, R158). -/
def portOf (l : Nat) : Nat :=
  if isStack l then
    let k := (l - 27648) / 32
    let j := (l - 27648) % 32
    portOfGroup (k / 2 * 128 + k % 2 * 64 + 2 * j)
  else l / 36 * 36 + 32
/-- LCORE of stack core S(k).j. -/
def stackCore (k j : Nat) : Nat := 27648 + 32 * k + j
/-- Channel of a frame, 0 to 767 (R143). -/
def chanOf (frame : Nat) : Nat := frame % 768
/-- The port core that owns a channel (R11): pseudo-channel p of stack k belongs to group p mod 16 of super-group
p/16 (+4 on an odd stack). -/
def portOfChan (c : Nat) : Nat := portOfGroup (c / 64 / 2 * 128 + c / 64 % 2 * 64 + c % 64)
/-- The stack core that serves a channel (R8). -/
def stackOfChan (c : Nat) : Nat := stackCore (c / 64) (c % 64 / 2)

/-! ## Memory's numbering -/

/-- Where stack-core SRAM begins in Memory's numbering. -/
def stackBase : Nat := 2 ^ 48
/-- Where fabric addresses stand among keys (R345). -/
def fabricBase : Nat := 2 ^ 60

/-- The on-chip address of an offset in a core's own scratchpad (R16, R213), or the stack core's SRAM byte. -/
def padKey (l off : Nat) : Nat :=
  if isStack l then stackBase + l * 2 ^ 18 + off
  else 3 * 2 ^ 46 + dieOf l * 2 ^ 42 + sgOf l * 2 ^ 39 + grpOf l * 2 ^ 35 + tileOf l * 2 ^ 31 + coreOf l * 2 ^ 29 + off

/-- An on-chip address of a tile's space (R16, R17). -/
def spaceKey (t space off : Nat) : Nat := padKey (lcoreOfT t 0) 0 + space * 2 ^ 26 + off

/-- A byte of HBM. -/
def isHbm (k : Nat) : Bool := k < 2 ^ 47
/-- SPACE of an on-chip address. -/
def spaceOf (k : Nat) : Nat := fld k 26 3
/-- OFFSET of an on-chip address, or the offset in a stack core's SRAM. -/
def offOf (k : Nat) : Nat := if k < stackBase then fld k 0 26 else fld k 0 18
/-- LCORE that an on-chip address names, a space of the tile counting as core 0's. -/
def coreOfKey (k : Nat) : Nat :=
  if k < stackBase then lcoreOf (fld k 42 3) (fld k 39 3) (fld k 35 4) (fld k 31 4) (fld k 29 2) else (k - stackBase) / 2 ^ 18
/-- The byte lies in a scratchpad, a stack core's first 64 KiB included (R8, R17). -/
def isPad (k : Nat) : Bool := !isHbm k && (if k < stackBase then spaceOf k == 0 else k < fabricBase && offOf k < 65536)

/-- The workspace a scratchpad byte belongs to, and its offset in it (R222): the thread key LCORE·20 + window. -/
def wsOf (k : Nat) : Option (Nat × Nat) :=
  if isPad k && offOf k < Config.wsEnd then some (coreOfKey k * 20 + offOf k / 2048, offOf k % 2048) else none

/-- The workspace of a thread. -/
def State.getWs (s : State) (th : Nat) : Workspace := Store.get Workspace.zero s.ws th

/-- The state with a workspace replaced. -/
def State.setWs (s : State) (th : Nat) (w : Workspace) : State := { s with ws := Store.put Workspace.zero s.ws th w }

/-- One byte of the machine's memories. -/
def State.rdByte (s : State) (k : Nat) : Byte :=
  match wsOf k with
  | some (th, off) => (s.getWs th).byte off
  | none => s.mem.read k

/-- Writes one byte. -/
def State.wrByte (s : State) (k : Nat) (b : Byte) : State :=
  match wsOf k with
  | some (th, off) => s.setWs th ((s.getWs th).setByte off b)
  | none => { s with mem := s.mem.write k b }

/-- n bytes from k, little-endian (R240). -/
def State.rdN (s : State) (k : Nat) : Nat → Nat
  | 0 => 0
  | n + 1 => (s.rdByte k).toNat + 256 * State.rdN s (k + 1) n

/-- Writes the low n bytes of a number at k, little-endian. -/
def State.wrN (s : State) (k : Nat) : Nat → Nat → State
  | 0, _ => s
  | n + 1, x => State.wrN (s.wrByte k (BitVec.ofNat 8 x)) (k + 1) n (x / 256)

/-- The bytes at k. -/
def State.rdList (s : State) (k : Nat) : Nat → List Byte
  | 0 => []
  | n + 1 => s.rdByte k :: State.rdList s (k + 1) n

/-- Writes bytes at k. -/
def State.wrList (s : State) (k : Nat) : List Byte → State
  | [] => s
  | b :: bs => State.wrList (s.wrByte k b) (k + 1) bs

/-- Writes the bytes of x that a mask selects, byte i at k + i. -/
def State.wrMasked (s : State) (k : Nat) (x : Vec) (m : BitVec 64) : State :=
  (List.range 64).foldl (fun s i => if m.getLsbD i then s.wrByte (k + i) (byteOf x i) else s) s

/-! ## Parts of the state by key -/

/-- A thread; one that is not listed is none. -/
def State.thr (s : State) (th : Nat) : Thread := Store.get Thread.none s.threads th
/-- Replaces a thread. -/
def State.setThr (s : State) (th : Nat) (t : Thread) : State := { s with threads := Store.put Thread.none s.threads th t }
/-- Changes a thread. -/
def State.modThr (s : State) (th : Nat) (f : Thread → Thread) : State := s.setThr th (f (s.thr th))
/-- A core. -/
def State.core (s : State) (l : Nat) : CoreSt := Store.get CoreSt.zero s.cores l
/-- Changes a core. -/
def State.modCore (s : State) (l : Nat) (f : CoreSt → CoreSt) : State := { s with cores := Store.put CoreSt.zero s.cores l (f (s.core l)) }
/-- A tile. -/
def State.tile (s : State) (t : Nat) : Tile := Store.get Tile.zero s.tiles t
/-- Changes a tile. -/
def State.modTile (s : State) (t : Nat) (f : Tile → Tile) : State := { s with tiles := Store.put Tile.zero s.tiles t (f (s.tile t)) }
/-- A port core's unit. -/
def State.port (s : State) (l : Nat) : Port := Store.get Port.zero s.ports l
/-- Changes a port core's unit. -/
def State.modPort (s : State) (l : Nat) (f : Port → Port) : State := { s with ports := Store.put Port.zero s.ports l (f (s.port l)) }
/-- A die. -/
def State.die (s : State) (d : Nat) : Die := Store.get Die.zero s.dies d
/-- Changes a die. -/
def State.modDie (s : State) (d : Nat) (f : Die → Die) : State := { s with dies := Store.put Die.zero s.dies d (f (s.die d)) }
/-- A link. -/
def State.link (s : State) (i : Nat) : Link := Store.get Link.zero s.links i
/-- Changes a link. -/
def State.modLink (s : State) (i : Nat) (f : Link → Link) : State := { s with links := Store.put Link.zero s.links i (f (s.link i)) }
/-- The tags of a scratchpad word, by word address k/4. -/
def State.tag (s : State) (word : Nat) : WordTag := Store.get WordTag.zero s.tags word
/-- Changes a word's tags. -/
def State.modTag (s : State) (word : Nat) (f : WordTag → WordTag) : State := { s with tags := Store.put WordTag.zero s.tags word (f (s.tag word)) }
/-- A logit window's binding. -/
def State.binding (s : State) (win : Nat) : Option Binding := Store.get none s.bindings win
/-- Replaces a binding. -/
def State.setBinding (s : State) (win : Nat) (b : Option Binding) : State := { s with bindings := Store.put none s.bindings win b }

/-- Core of a thread key. -/
def coreOfTh (th : Nat) : Nat := th / 20
/-- Window of a thread key. -/
def winOfTh (th : Nat) : Nat := th % 20
/-- The architectural thread id LCORE·16 + position (R108). -/
def State.tid (s : State) (th : Nat) : Nat := coreOfTh th * 16 + (s.thr th).pos
/-- The thread keys of a core. -/
def keysOf (l : Nat) : List Nat := (List.range 20).map fun w => l * 20 + w
/-- The threads present on a core. -/
def State.threadsOn (s : State) (l : Nat) : List Nat := (keysOf l).filter fun k => (s.thr k).occ
/-- The physical slot of a logical tile (R186). -/
def State.slotOf (s : State) (t : Nat) : Nat :=
  match Store.get none s.map t with
  | some b => b.toNat
  | none => t % 128

end Sys2Proof.Machine
end

