-- ==== Sys2Proof/Machine/Float.lean ====
section
/-! DEFINITION. Floating-point values and their rounding: the formats of R28 and the filter's V40 (R72), the exact value
of an encoding, the rounding of an exact value under each code (R40, R42), tininess after rounding (R30), the flags
(R47), and the exact arithmetic of R272, R274, R275 and R279. An exact result is a magnitude m·2^e with a sticky mark
that says whether the exact magnitude lies strictly between m·2^e and (m+1)·2^e. -/

namespace Sys2Proof.Machine

/-- Flags of FLAGS[6:0]: ZD, RANGE, NV, DZ, OF, UF, NX (R47). -/
abbrev Flags := BitVec 7
/-- Inexact. -/
def flNX : Flags := 1
/-- Underflow. -/
def flUF : Flags := 2
/-- Overflow. -/
def flOF : Flags := 4
/-- Division by zero, or a pole. -/
def flDZ : Flags := 8
/-- Invalid operation. -/
def flNV : Flags := 16
/-- VSIN or VCOS argument beyond 2^20. -/
def flRANGE : Flags := 32
/-- DCOS met a zero direction. -/
def flZD : Flags := 64

/-- A floating-point format: fraction bits, bias, width, largest finite magnitude's bits, and whether it has
infinities (R28). -/
structure FF where
  w : Nat
  bias : Int
  width : Nat
  maxBits : Nat
  hasInf : Bool
  deriving DecidableEq, Repr

/-- F32 (R28). -/
def FF.f32 : FF := ⟨23, 127, 32, 0x7F7FFFFF, true⟩
/-- F16 (R28). -/
def FF.f16 : FF := ⟨10, 15, 16, 0x7BFF, true⟩
/-- BF16 (R28). -/
def FF.bf16 : FF := ⟨7, 127, 16, 0x7F7F, true⟩
/-- E4M3 (R28). -/
def FF.e4m3 : FF := ⟨3, 7, 8, 0x7E, false⟩
/-- V40, whose exponent 255 is never produced (R72). -/
def FF.v40 : FF := ⟨31, 127, 40, 255 * 2 ^ 31 - 1, true⟩

/-- The floating-point format of a tag; F32 for tags that name none. -/
def FF.ofTag (t : Nat) : FF := if t = 2 then .f16 else if t = 3 then .bf16 else if t = 4 then .e4m3 else .f32

/-- The sign bit of a format. -/
def FF.signBit (f : FF) : Nat := 2 ^ (f.width - 1)
/-- The bits of a sign. -/
def FF.sgn (f : FF) (neg : Bool) : Nat := if neg then f.signBit else 0
/-- The canonical NaN (R28). -/
def FF.nan (f : FF) : Nat := if f.hasInf then f.maxBits + 1 + 2 ^ (f.w - 1) else 0x7F
/-- An infinity; E4M3's largest magnitude stands in for it (R40). -/
def FF.inf (f : FF) (neg : Bool) : Nat := (if f.hasInf then f.maxBits + 1 else f.maxBits) + f.sgn neg

/-- The value of an encoding: (−1)^neg·m·2^e, an infinity, or a NaN, signalling or quiet. -/
inductive FVal where
  | fin (neg : Bool) (m : Nat) (e : Int)
  | inf (neg : Bool)
  | nan (sig : Bool)
  deriving DecidableEq, Repr

/-- The value of an encoding, by the first matching case of R28. -/
def FF.val (f : FF) (bits : Nat) : FVal :=
  let neg := bits / f.signBit % 2 = 1
  let mag := bits % f.signBit
  let e := mag / 2 ^ f.w
  let fr := mag % 2 ^ f.w
  if f.hasInf then
    if mag > f.maxBits then (if fr = 0 then .inf neg else .nan (fr / 2 ^ (f.w - 1) = 0))
    else if e = 0 then .fin neg fr (1 - f.bias - f.w) else .fin neg (2 ^ f.w + fr) ((e : Int) - f.bias - f.w)
  else if mag > f.maxBits then .nan false
  else if e = 0 then .fin neg fr (1 - f.bias - f.w) else .fin neg (2 ^ f.w + fr) ((e : Int) - f.bias - f.w)

/-- A signalling NaN, which raises NV (R29). -/
def FVal.isSig : FVal → Bool
  | .nan s => s
  | _ => false
/-- Any NaN. -/
def FVal.isNan : FVal → Bool
  | .nan _ => true
  | _ => false
/-- The flag that a signalling NaN raises. -/
def FVal.sigFlag (x : FVal) : Flags := if x.isSig then flNV else 0
/-- The value with its sign flipped. -/
def FVal.neg : FVal → FVal
  | .fin n m e => .fin (!n) m e
  | .inf n => .inf (!n)
  | .nan s => .nan s

/-- A magnitude cut at a rounding point 2^qe: the truncated multiple, the next 16 bits below, the rest compared with one
half, and whether anything was cut off. -/
structure Cut where
  q : Nat
  f16 : Nat
  half : Ordering
  inexact : Bool
  deriving DecidableEq, Repr

/-- Cuts m·2^e at 2^qe. -/
def cutAt (m : Nat) (e qe : Int) (sticky : Bool) : Cut :=
  if qe ≤ e then ⟨m * 2 ^ (e - qe).toNat, 0, .lt, sticky⟩
  else
    let k := (qe - e).toNat
    let r := m % 2 ^ k
    let h : Ordering := if 2 * r < 2 ^ k then .lt else if 2 * r = 2 ^ k then (if sticky then .gt else .eq) else .gt
    ⟨m / 2 ^ k, r * 65536 / 2 ^ k, h, r != 0 || sticky⟩

/-- The magnitude is rounded away from zero (R40, R42): mode 0 to 5, chunk R for the stochastic mode. -/
def roundsUp (md : Nat) (R : Nat) (neg : Bool) (c : Cut) : Bool :=
  match md with
  | 0 => c.half == .gt || (c.half == .eq && c.q % 2 == 1)
  | 2 => c.inexact && !neg
  | 3 => c.inexact && neg
  | 4 => c.half != .lt
  | 5 => c.f16 + R ≥ 65536
  | _ => false

/-- The cut magnitude, rounded. -/
def Cut.round (md R : Nat) (neg : Bool) (c : Cut) : Nat := c.q + if roundsUp md R neg c then 1 else 0

/-- What an overflow gives (R40): an infinity or the largest magnitude, by mode and sign. -/
def FF.overflow (f : FF) (md : Nat) (neg : Bool) : Nat :=
  if !f.hasInf then f.maxBits + f.sgn neg
  else match md with
  | 1 => f.maxBits + f.sgn neg
  | 2 => if neg then f.maxBits + f.sgn neg else f.inf neg
  | 3 => if neg then f.inf neg else f.maxBits + f.sgn neg
  | _ => f.inf neg

/-- Rounds an exact magnitude to a format (R40, R42), with OF, UF (R30) and NX. -/
def FF.round (f : FF) (md R : Nat) (neg : Bool) (m : Nat) (e : Int) (sticky : Bool) : Nat × Flags :=
  if m = 0 then (f.sgn neg, 0)
  else
    let E : Int := (Nat.log2 m : Int) + e
    let low : Int := 1 - f.bias - f.w
    let qe : Int := max (E - f.w) low
    let c := cutAt m e qe sticky
    let b := c.round md R neg + (qe - low).toNat * 2 ^ f.w
    if b > f.maxBits then (f.overflow md neg, flOF ||| flNX)
    else
      -- tiny: rounded at this precision with an unbounded exponent, it stays below the smallest normal
      let tiny : Bool := E < 1 - f.bias && !(E == - f.bias && (cutAt m e (E - f.w) sticky).round md R neg == 2 ^ (f.w + 1))
      (b + f.sgn neg, if c.inexact then (if tiny then flUF ||| flNX else flNX) else 0)

/-- An exact result before its one rounding. -/
inductive Exact where
  /-- A magnitude; m = 0 is a zero of that sign. -/
  | mag (neg : Bool) (m : Nat) (e : Int) (sticky : Bool)
  | inf (neg : Bool) (fl : Flags)
  | nan (fl : Flags)
  deriving DecidableEq, Repr

/-- Delivers an exact result in a format. An infinity in E4M3 gives ±448 with OF and NX (R40). -/
def Exact.deliver (f : FF) (md R : Nat) : Exact → Nat × Flags
  | .mag n m e st => f.round md R n m e st
  | .inf n fl => if f.hasInf then (f.inf n, fl) else (f.inf n, fl ||| flOF ||| flNX)
  | .nan fl => (f.nan, fl)

/-- Adds flags to a result. -/
def withFlags (x : Nat × Flags) (fl : Flags) : Nat × Flags := (x.1, x.2 ||| fl)

/-- A signed integer multiple of 2^e as an exact result; zero takes the sign given. -/
def Exact.ofInt (x : Int) (e : Int) (zeroNeg : Bool) : Exact :=
  if x = 0 then .mag zeroNeg 0 0 false else .mag (x < 0) x.natAbs e false

/-- The signed mantissa. -/
def signed (neg : Bool) (m : Nat) : Int := if neg then -(m : Int) else m

/-- a·b + c exactly (R51, R272). NV for ∞ − ∞, 0·∞ and a signalling NaN; an exact zero sum takes the sign of R29. -/
def exactFma (md : Nat) (a b c : FVal) : Exact :=
  let sf := a.sigFlag ||| b.sigFlag ||| c.sigFlag
  match a, b with
  | .nan _, _ => .nan sf
  | _, .nan _ => .nan sf
  | .inf na, .fin nb mb _ => if mb = 0 then .nan (sf ||| flNV) else addInf sf (na != nb) c
  | .fin na ma _, .inf nb => if ma = 0 then .nan (sf ||| flNV) else addInf sf (na != nb) c
  | .inf na, .inf nb => addInf sf (na != nb) c
  | .fin na ma ea, .fin nb mb eb =>
    match c with
    | .nan _ => .nan sf
    | .inf nc => .inf nc 0
    | .fin nc mc ec =>
      let e := min (ea + eb) ec
      let x := signed (na != nb) (ma * mb) * 2 ^ (ea + eb - e).toNat
      let y := signed nc mc * 2 ^ (ec - e).toNat
      .ofInt (x + y) e (if (na != nb) == nc then nc else md == 3)
where
  /-- An infinite product plus c. -/
  addInf (sf : Flags) (n : Bool) : FVal → Exact
    | .nan _ => .nan sf
    | .inf nc => if nc = n then .inf n 0 else .nan flNV
    | .fin .. => .inf n 0

/-- 1 as a value. -/
def FVal.one : FVal := .fin false 1 0

/-- a + b. -/
def FF.add (f : FF) (md R : Nat) (a b : Nat) : Nat × Flags := (exactFma md (f.val a) .one (f.val b)).deliver f md R
/-- a − b. -/
def FF.sub (f : FF) (md R : Nat) (a b : Nat) : Nat × Flags := (exactFma md (f.val a) .one (f.val b).neg).deliver f md R
/-- a·b + c with one rounding (R51). -/
def FF.fma (f : FF) (md R : Nat) (a b c : Nat) : Nat × Flags := (exactFma md (f.val a) (f.val b) (f.val c)).deliver f md R
/-- a·b − c with one rounding. -/
def FF.fms (f : FF) (md R : Nat) (a b c : Nat) : Nat × Flags := (exactFma md (f.val a) (f.val b) (f.val c).neg).deliver f md R

/-- a·b exactly. -/
def exactMul (a b : FVal) : Exact :=
  let sf := a.sigFlag ||| b.sigFlag
  match a, b with
  | .nan _, _ => .nan sf
  | _, .nan _ => .nan sf
  | .inf na, .fin nb mb _ => if mb = 0 then .nan flNV else .inf (na != nb) 0
  | .fin na ma _, .inf nb => if ma = 0 then .nan flNV else .inf (na != nb) 0
  | .inf na, .inf nb => .inf (na != nb) 0
  | .fin na ma ea, .fin nb mb eb => .mag (na != nb) (ma * mb) (ea + eb) false

/-- a·b. -/
def FF.mul (f : FF) (md R : Nat) (a b : Nat) : Nat × Flags := (exactMul (f.val a) (f.val b)).deliver f md R

/-- The order of two values that are no NaN; −0 and +0 compare equal. -/
def FVal.cmp : FVal → FVal → Ordering
  | .inf na, .inf nb => if na = nb then .eq else if na then .lt else .gt
  | .inf na, _ => if na then .lt else .gt
  | _, .inf nb => if nb then .gt else .lt
  | .fin na ma ea, .fin nb mb eb =>
    let e := min ea eb
    compare (signed na ma * 2 ^ (ea - e).toNat) (signed nb mb * 2 ^ (eb - e).toNat)
  | _, _ => .eq

/-- A key that orders encodings as their values, −0 below +0 (R73, R274, R284). -/
def FF.orderKey (f : FF) (x : Nat) : Nat :=
  if x / f.signBit % 2 = 1 then 2 ^ f.width - 1 - x % 2 ^ f.width else x % 2 ^ f.width + f.signBit

/-- Minimum, or maximum, with −0 below +0; a NaN gives the canonical NaN, a signalling one raises NV (R274). -/
def FF.minMax (f : FF) (mx : Bool) (a b : Nat) : Nat × Flags :=
  let x := f.val a
  let y := f.val b
  if x.isNan || y.isNan then (f.nan, x.sigFlag ||| y.sigFlag)
  else if (f.orderKey a ≤ f.orderKey b) != mx then (a, 0) else (b, 0)

/-- The conditions EQ, NE, LT, GE, LE, GT (R216, R275). -/
def condHolds (c : Nat) (o : Ordering) : Bool :=
  match c with
  | 0 => o == .eq
  | 1 => o != .eq
  | 2 => o == .lt
  | 3 => o != .lt
  | 4 => o != .gt
  | 5 => o == .gt
  | _ => false

/-- A quiet compare: a NaN makes every condition false but NE; only a signalling NaN raises NV (R275). -/
def FF.compare (f : FF) (c : Nat) (a b : Nat) : Bool × Flags :=
  let x := f.val a
  let y := f.val b
  if x.isNan || y.isNan then (c == 1, x.sigFlag ||| y.sigFlag) else (condHolds c (x.cmp y), 0)

/-- A value of one format delivered in another (R40, R279). -/
def FVal.exact : FVal → Exact
  | .fin n m e => .mag n m e false
  | .inf n => .inf n 0
  | .nan s => .nan (if s then flNV else 0)

/-- Float to float (R279). -/
def convFF (src dst : FF) (md R : Nat) (x : Nat) : Nat × Flags := (src.val x).exact.deliver dst md R

/-- The signed range of w bits. -/
def sMax (w : Nat) : Int := 2 ^ (w - 1) - 1
/-- Least signed value of w bits. -/
def sMin (w : Nat) : Int := -(2 ^ (w - 1))
/-- Limits a value to a range. -/
def clampInt (lo hi x : Int) : Int := if x < lo then lo else if x > hi then hi else x
/-- The low w bits of an integer. -/
def bitsOf (w : Nat) (x : Int) : Nat := (x % 2 ^ w).toNat
/-- w bits read as two's complement. -/
def sOf (w : Nat) (x : Nat) : Int := let y := x % 2 ^ w; if y ≥ 2 ^ (w - 1) then (y : Int) - 2 ^ w else y

/-- Float to signed integer of w bits (R31): rounds, saturates with NV alone, a NaN gives 0 with NV. -/
def convFI (src : FF) (w : Nat) (md R : Nat) (x : Nat) : Nat × Flags :=
  match src.val x with
  | .nan _ => (0, flNV)
  | .inf n => (bitsOf w (if n then sMin w else sMax w), flNV)
  | .fin n m e =>
    let c := cutAt m e 0 false
    let v := signed n (c.round md R n)
    if v < sMin w || v > sMax w then (bitsOf w (clampInt (sMin w) (sMax w) v), flNV)
    else (bitsOf w v, if c.inexact then flNX else 0)

/-- Signed integer of w bits to float. -/
def convIF (w : Nat) (dst : FF) (md R : Nat) (x : Nat) : Nat × Flags := (Exact.ofInt (sOf w x) 0 false).deliver dst md R

/-- Integer to integer: sign-extends, or saturates with NV (R279). -/
def convII (ws wd : Nat) (x : Nat) : Nat × Flags :=
  let v := sOf ws x
  if v < sMin wd || v > sMax wd then (bitsOf wd (clampInt (sMin wd) (sMax wd) v), flNV) else (bitsOf wd v, 0)

/-- Element width in bits of a vector format tag (R27). -/
def tagBits (t : Nat) : Nat := if t = 1 || t = 7 then 32 else if t = 2 || t = 3 || t = 6 || t = 15 then 16 else 8

/-- The conversion of one element between two of the tags 1 to 7 (R279). -/
def convElem (src dst md R x : Nat) : Nat × Flags :=
  if src ≤ 4 then
    (if dst ≤ 4 then convFF (.ofTag src) (.ofTag dst) md R x else convFI (.ofTag src) (tagBits dst) md R x)
  else if dst ≤ 4 then convIF (tagBits src) (.ofTag dst) md R x else convII (tagBits src) (tagBits dst) x

/-! ## The stochastic bit source (R43) -/

/-- Rotates a 32-bit word left. -/
def rotl (x : BitVec 32) (n : Nat) : BitVec 32 := x <<< n ||| x >>> (32 - n)

/-- One round of Mix with its constant. -/
def mixRound (rc : BitVec 32) : BitVec 32 × BitVec 32 × BitVec 32 × BitVec 32 → BitVec 32 × BitVec 32 × BitVec 32 × BitVec 32
  | (a, b, c, d) =>
    let a := a + b + rc
    let d := rotl (d ^^^ a) 13
    let c := c + d
    let b := rotl (b ^^^ c) 9
    let a := a + b
    let d := rotl (d ^^^ a) 21
    let c := c + d
    let b := rotl (b ^^^ c) 5
    (a, b, c, d)

/-- The 64-bit block of a counter under a key (R43). -/
def mix (ctr : BitVec 64) (k0 k1 k2 k3 : BitVec 32) : BitVec 64 :=
  let x0 := (ctr.setWidth 32 ^^^ k0, (ctr >>> 32).setWidth 32 ^^^ k1, k2 ^^^ 0x5A3CE1B7, k3 ^^^ 0xC2F40D69)
  let (a, b, c, d) := mixRound 0x4EC91F37 (mixRound 0x8D24F6A1 (mixRound 0x1B873E5D x0))
  let (a, b, c, d) := mixRound 0xB95E024F (mixRound 0x27D16C93 (mixRound 0xF36AD58B (a ^^^ k2, b, c ^^^ k0, d)))
  (b ^^^ d) ++ (a ^^^ c)

/-- Chunk j of a stream that starts at a counter (R44). -/
def chunkAt (seed : BitVec 64) (lcore ctx : Nat) (sb : BitVec 64) (j : Nat) : Nat :=
  (mix (sb + BitVec.ofNat 64 (j / 4)) (seed.setWidth 32) ((seed >>> 32).setWidth 32) (BitVec.ofNat 32 lcore) (BitVec.ofNat 32 ctx)).toNat
    / 2 ^ (16 * (j % 4)) % 65536

end Sys2Proof.Machine
end

