-- ==== Sys2Proof/Machine/Special.lean ====
section
/-! DEFINITION. Special functions (R49, R50), the exponentials of the merge and of the filter (R69, R72), and the
irrational steps of the directional operations (R57, R62, R295). An irrational value is enclosed by integer arithmetic
with 320 fraction bits and given its sticky mark, and then rounded once (log 7). -/

namespace Sys2Proof.Machine

/-- Fraction bits of the enclosures. -/
def fxP : Nat := 320
/-- One. -/
def fxOne : Nat := 2 ^ fxP

/-- The integer square root by bits: fuel rounds, from bit `fuel − 1` of the root down. -/
def isqrtFrom (x : Nat) : Nat → Nat → Nat
  | 0, r => r
  | k + 1, r => let t := r + 2 ^ k; isqrtFrom x k (if t * t ≤ x then t else r)

/-- ⌊√x⌋. -/
def isqrt (x : Nat) : Nat := isqrtFrom x (Nat.log2 x / 2 + 1) 0

/-- Σ z^(2k+1)/(2k+1), the inverse hyperbolic tangent, of a fixed-point z ≤ 1/3. -/
def atanhSum (z2 : Nat) : Nat → Nat → Nat → Nat
  | 0, _, _ => 0
  | n + 1, t, k => t / (2 * k + 1) + atanhSum z2 n (t * z2 / fxOne) (k + 1)

/-- ln of a fixed-point value in [1, 2]. -/
def lnFx (f : Nat) : Nat :=
  let z := (f - fxOne) * fxOne / (f + fxOne)
  2 * atanhSum (z * z / fxOne) 110 z 0

/-- ln 2. -/
def ln2Fx : Nat := lnFx (2 * fxOne)

/-- Σ y^k/k!, from the term t. -/
def expSum (y : Nat) : Nat → Nat → Nat → Nat
  | 0, _, _ => 0
  | n + 1, t, k => t + expSum y n (t * y / fxOne / (k + 1)) (k + 1)

/-- e^y of a fixed-point y in [0, 1). -/
def expFx (y : Nat) : Nat := expSum y 90 fxOne 0

/-- arctan(1/n), terms with sign. -/
def atanInv (n : Nat) : Nat → Nat → Nat → Int
  | 0, _, _ => 0
  | r + 1, t, k => (if k % 2 = 0 then (t / (2 * k + 1) : Int) else -(t / (2 * k + 1) : Int)) + atanInv n r (t / (n * n)) (k + 1)

/-- π (Machin). -/
def piFx : Nat := (16 * atanInv 5 75 (fxOne / 5) 0 - 4 * atanInv 239 25 (fxOne / 239) 0).toNat

/-- Σ (−1)^k r^(2k+s)/(2k+s)!, from the term t. -/
def trigSum (r2 : Nat) (s : Nat) : Nat → Nat → Nat → Int
  | 0, _, _ => 0
  | n + 1, t, k =>
    (if k % 2 = 0 then (t : Int) else -(t : Int)) + trigSum r2 s n (t * r2 / fxOne / ((2 * k + s + 1) * (2 * k + s + 2))) (k + 1)

/-- sin of a fixed-point angle in [0, π/2]. -/
def sinFx (r : Nat) : Nat := (trigSum (r * r / fxOne) 1 50 r 0).toNat
/-- cos of a fixed-point angle in [0, π/2]. -/
def cosFx (r : Nat) : Nat := (trigSum (r * r / fxOne) 0 50 fxOne 0).toNat

/-- m·2^e as a fixed-point number, bits below the fraction dropped. -/
def toFx (m : Nat) (e : Int) : Nat := if 0 ≤ e + fxP then m * 2 ^ (e + fxP).toNat else m / 2 ^ (-(e + fxP)).toNat

/-- An enclosure as an exact result: eight guard bits dropped, the rest sticky. -/
def ofFx (neg : Bool) (x : Nat) (e : Int) : Exact := .mag neg (x / 256) (e + 8 - fxP) true

/-- A magnitude just below m·2^e. -/
def justBelow (neg : Bool) (m : Nat) (e : Int) : Exact := .mag neg (m * 2 ^ 64 - 1) (e - 64) true
/-- A magnitude just above m·2^e. -/
def justAbove (neg : Bool) (m : Nat) (e : Int) : Exact := .mag neg (m * 2 ^ 64) (e - 64) true

/-- ⌊log2⌋ of m·2^e. -/
def log2Floor (m : Nat) (e : Int) : Int := (Nat.log2 m : Int) + e

/-- a ÷ b (R288). -/
def exactDiv (a b : FVal) : Exact :=
  let sf := a.sigFlag ||| b.sigFlag
  match a, b with
  | .nan _, _ => .nan sf
  | _, .nan _ => .nan sf
  | .inf _, .inf _ => .nan flNV
  | .inf na, .fin nb _ _ => .inf (na != nb) 0
  | .fin na _ _, .inf nb => .mag (na != nb) 0 0 false
  | .fin na ma ea, .fin nb mb eb =>
    if mb = 0 then (if ma = 0 then .nan flNV else .inf (na != nb) flDZ)
    else .mag (na != nb) (ma * 2 ^ 128 / mb) (ea - eb - 128) (ma * 2 ^ 128 % mb != 0)

/-- √x (R288). -/
def exactSqrt : FVal → Exact
  | .nan s => .nan (if s then flNV else 0)
  | .inf n => if n then .nan flNV else .inf false 0
  | .fin n m e =>
    if m = 0 then .mag n 0 0 false
    else if n then .nan flNV
    else
      let m' := (if e % 2 = 0 then m else 2 * m) * 2 ^ 160
      let e' := if e % 2 = 0 then e else e - 1
      let r := isqrt m'
      .mag false r (e' / 2 - 80) (r * r != m')

/-- 1/√(m·2^e), m > 0. -/
def recipSqrt (m : Nat) (e : Int) : Nat × Int × Bool :=
  let m' := if e % 2 = 0 then m else 2 * m
  let e' := if e % 2 = 0 then e else e - 1
  let r := isqrt (2 ^ 480 / m')
  (r, -(e' / 2) - 240, r * r * m' != 2 ^ 480)

/-- 1/x (R49). -/
def exactRcp : FVal → Exact
  | .nan s => .nan (if s then flNV else 0)
  | .inf n => .mag n 0 0 false
  | .fin n m e => if m = 0 then .inf n flDZ else .mag n (2 ^ 160 / m) (-e - 160) (2 ^ 160 % m != 0)

/-- 1/√x (R49). -/
def exactRsq : FVal → Exact
  | .nan s => .nan (if s then flNV else 0)
  | .inf n => if n then .nan flNV else .mag false 0 0 false
  | .fin n m e =>
    if m = 0 then .inf n flDZ
    else if n then .nan flNV
    else let (r, x, st) := recipSqrt m e; .mag false r x st

/-- 2^f of a fixed-point f in [0, 1). -/
def pow2Fx (f : Nat) : Nat := expFx (f * ln2Fx / fxOne)

/-- 2^x for x = (−1)^n·m·2^e, exact where x is an integer. -/
def pow2 (n : Bool) (m : Nat) (e : Int) : Exact :=
  if m = 0 then .mag false 1 0 false
  else if log2Floor m e > 12 then (if n then .mag false 1 (-5000) true else .mag false 1 5000 true)
  else if log2Floor m e < -64 then (if n then justBelow false 1 0 else justAbove false 1 0)
  else
    let x : Int := signed n (toFx m e)
    let k : Int := x / fxOne
    let f : Nat := (x % fxOne).toNat
    if f = 0 then .mag false 1 k false else ofFx false (pow2Fx f) k

/-- 2^x (R49). -/
def exactExp2 : FVal → Exact
  | .nan s => .nan (if s then flNV else 0)
  | .inf n => if n then .mag false 0 0 false else .inf false 0
  | .fin n m e => pow2 n m e

/-- log2 of m·2^e as a signed fixed-point number, m > 0 and no power of two. -/
def log2Fx (m : Nat) (e : Int) : Int :=
  let f := m * fxOne / 2 ^ Nat.log2 m
  log2Floor m e * fxOne + (lnFx f * fxOne / ln2Fx : Nat)

/-- m is a power of two. -/
def isPow2 (m : Nat) : Bool := m == 2 ^ Nat.log2 m

/-- log2 x (R49). -/
def exactLog2 : FVal → Exact
  | .nan s => .nan (if s then flNV else 0)
  | .inf n => if n then .nan flNV else .inf false 0
  | .fin n m e =>
    if m = 0 then .inf true flDZ
    else if n then .nan flNV
    else if isPow2 m then .ofInt (log2Floor m e) 0 false
    else let x := log2Fx m e; ofFx (x < 0) x.natAbs 0

/-- e^x for x = (−1)^n·m·2^e with x ≤ 0 or small (R72). -/
def expE (n : Bool) (m : Nat) (e : Int) : Exact :=
  if m = 0 then .mag false 1 0 false
  else if log2Floor m e > 12 then (if n then .mag false 1 (-5000) true else .mag false 1 5000 true)
  else if log2Floor m e < -64 then (if n then justBelow false 1 0 else justAbove false 1 0)
  else
    let x : Int := signed n (toFx m e)
    let k : Int := x / ln2Fx
    ofFx false (expFx (x % ln2Fx).toNat) k

/-- tanh x (R49). -/
def exactTanh : FVal → Exact
  | .nan s => .nan (if s then flNV else 0)
  | .inf n => .mag n 1 0 false
  | .fin n m e =>
    if m = 0 then .mag n 0 0 false
    else if log2Floor m e < -60 then justBelow n m e
    else if log2Floor m e ≥ 6 then justBelow n 1 0
    else
      let x : Nat := 2 * toFx m e
      let k := x / ln2Fx
      let u := expFx (x % ln2Fx) * 2 ^ k
      ofFx n ((u - fxOne) * fxOne / (u + fxOne)) 0

/-- sin x, or cos x, for |x| ≤ 2^20; RANGE beyond (R49, R50). -/
def exactTrig (cos : Bool) : FVal → Exact
  | .nan s => .nan (if s then flNV else 0)
  | .inf _ => .nan flNV
  | .fin n m e =>
    if m = 0 then (if cos then .mag false 1 0 false else .mag n 0 0 false)
    else if log2Floor m e > 20 || (log2Floor m e = 20 && !isPow2 m) then .nan flRANGE
    else if log2Floor m e < -60 then (if cos then justBelow false 1 0 else justBelow n m e)
    else
      let x := toFx m e
      let h := piFx / 2
      let q := x / h % 4
      let r := x % h
      let useCos := (q % 2 = 1) != cos
      let v := if useCos then cosFx r else sinFx r
      let neg := if cos then q = 1 || q = 2 else (q ≥ 2) != n
      ofFx neg v 0

/-! ## Rounding to significant bits and to fixed point -/

/-- RNE of m·2^e to n significant bits: the rounded multiple and its exponent. -/
def roundSig (n : Nat) (m : Nat) (e : Int) (sticky : Bool) : Nat × Int :=
  if m = 0 then (0, 0)
  else
    let qe : Int := log2Floor m e - (n - 1 : Nat)
    ((cutAt m e qe sticky).round 0 0 false, qe)

/-- RNE of a signed x·2^e to a multiple of 2^−k, as that multiple. -/
def roundFixed (k : Nat) (x : Int) (e : Int) (sticky : Bool) : Int :=
  signed (x < 0) ((cutAt x.natAbs e (-(k : Int)) sticky).round 0 0 false)

/-- The one rounding of an exact result by RNE to n significant bits (R62, R295). -/
def Exact.sig (n : Nat) : Exact → Nat × Int
  | .mag _ m e st => roundSig n m e st
  | _ => (0, 0)

end Sys2Proof.Machine
end

