-- ==== Sys2Proof/Machine/Operands.lean ====
section
/-! DEFINITION. Every operand form: the registers of a workspace and the fields of its thread-state words (R222, R223),
the immediates and their widening (R191, R192), the elements of a vector and their activity (R269), the format tags
(R37, R38). Slot B of a bundle reads its operands as they stood before the bundle (R21). -/

namespace Sys2Proof.Machine

/-- Bits [lo+len-1:lo] of a word. -/
def getF {w : Nat} (x : BitVec w) (lo len : Nat) : Nat := x.toNat / 2 ^ lo % 2 ^ len

/-- A word with bits [lo+len-1:lo] replaced. -/
def putF {w : Nat} (x : BitVec w) (lo len v : Nat) : BitVec w :=
  (x &&& ~~~(BitVec.ofNat w ((2 ^ len - 1) * 2 ^ lo))) ||| BitVec.ofNat w (v % 2 ^ len * 2 ^ lo)

/-! ## Registers of a workspace (R222) -/

/-- s register. -/
def Workspace.getS (w : Workspace) (r : BitVec 5) : BitVec 64 := w.s[r.toNat]'r.isLt
/-- Writes an s register. -/
def Workspace.setS (w : Workspace) (r : BitVec 5) (x : BitVec 64) : Workspace := { w with s := w.s.set r.toNat x r.isLt }
/-- v register. -/
def Workspace.getV (w : Workspace) (r : BitVec 4) : Vec := w.v[r.toNat]'r.isLt
/-- Writes a v register. -/
def Workspace.setV (w : Workspace) (r : BitVec 4) (x : Vec) : Workspace := { w with v := w.v.set r.toNat x r.isLt }
/-- p register; p0 reads all ones, whatever its word holds. -/
def Workspace.getP (w : Workspace) (r : BitVec 3) : BitVec 64 := if r = 0 then BitVec.allOnes 64 else w.p[r.toNat]'r.isLt
/-- Writes a p register; p0 ignores instruction writes. -/
def Workspace.setP (w : Workspace) (r : BitVec 3) (x : BitVec 64) : Workspace :=
  if r = 0 then w else { w with p := w.p.set r.toNat x r.isLt }
/-- d register. -/
def Workspace.getD (w : Workspace) (r : BitVec 3) : Vec := w.d[r.toNat]'r.isLt
/-- Writes a d register. -/
def Workspace.setD (w : Workspace) (r : BitVec 3) (x : Vec) : Workspace := { w with d := w.d.set r.toNat x r.isLt }
/-- n register. -/
def Workspace.getN (w : Workspace) (r : BitVec 3) : BitVec 32 := w.n[r.toNat]'r.isLt
/-- Writes an n register. -/
def Workspace.setN (w : Workspace) (r : BitVec 3) (x : BitVec 32) : Workspace := { w with n := w.n.set r.toNat x r.isLt }

/-- A thread-state word TS0 to TS7 (R223). -/
def Workspace.getT (w : Workspace) (i : BitVec 3) : BitVec 64 := w.ts[i.toNat]'i.isLt
/-- Writes a thread-state word. -/
def Workspace.setT (w : Workspace) (i : BitVec 3) (x : BitVec 64) : Workspace := { w with ts := w.ts.set i.toNat x i.isLt }
/-- A field of a thread-state word. -/
def Workspace.tsF (w : Workspace) (i : BitVec 3) (lo len : Nat) : Nat := getF (w.getT i) lo len
/-- Writes a field of a thread-state word. -/
def Workspace.setTsF (w : Workspace) (i : BitVec 3) (lo len v : Nat) : Workspace := w.setT i (putF (w.getT i) lo len v)

/-- PC of the next bundle, TS0[47:0]. -/
def Workspace.pc (w : Workspace) : BitVec 48 := (w.getT 0).setWidth 48
/-- Writes PC. -/
def Workspace.setPc (w : Workspace) (pc : BitVec 48) : Workspace := w.setTsF 0 0 48 pc.toNat
/-- INL, TS0[48] (R117). -/
def Workspace.inl (w : Workspace) : Bool := w.tsF 0 48 1 = 1
/-- Writes INL. -/
def Workspace.setInl (w : Workspace) (b : Bool) : Workspace := w.setTsF 0 48 1 b.toNat
/-- LEND, TS0[49] (R109). -/
def Workspace.lend (w : Workspace) : Bool := w.tsF 0 49 1 = 1
/-- FLAGS[14:0], TS1[14:0] (R47). -/
def Workspace.flags (w : Workspace) : BitVec 15 := (w.getT 1).setWidth 15 &&& 0x7F7F
/-- Writes FLAGS; bit 7 is reserved and reads zero. -/
def Workspace.setFlags (w : Workspace) (f : BitVec 15) : Workspace := w.setTsF 1 0 15 (f &&& 0x7F7F).toNat
/-- RMODE.MODE, TS1[18:16] (R41). -/
def Workspace.mode (w : Workspace) : Nat := w.tsF 1 16 3
/-- RETRYLIM, TS1[47:32]; 0 acts as 1 (R224). -/
def Workspace.retryLim (w : Workspace) : Nat := max 1 (w.tsF 1 32 16)
/-- RCTIMEOUT in µs, TS2[31:0]; 0 acts as 1 (R224). -/
def Workspace.rcTimeout (w : Workspace) : Nat := max 1 (w.tsF 2 0 32)
/-- REPACT (R220). -/
def Workspace.repAct (w : Workspace) : Bool := w.tsF 2 47 1 = 1
/-- Writes REPACT. -/
def Workspace.setRepAct (w : Workspace) (b : Bool) : Workspace := w.setTsF 2 47 1 b.toNat
/-- REPPC. -/
def Workspace.repPc (w : Workspace) : BitVec 48 := (w.getT 3).setWidth 48
/-- REPJ. -/
def Workspace.repJ (w : Workspace) : Nat := w.tsF 3 48 8
/-- Writes REPJ. -/
def Workspace.setRepJ (w : Workspace) (j : Nat) : Workspace := w.setTsF 3 48 8 j
/-- REPN. -/
def Workspace.repN (w : Workspace) : Nat := w.tsF 3 56 8
/-- MASK. -/
def Workspace.repMask (w : Workspace) : Nat := w.tsF 2 32 6
/-- STEP, signed. -/
def Workspace.repStep (w : Workspace) : Int := sOf 3 (w.tsF 2 40 3)
/-- Tag of v_i (R223). -/
def Workspace.vtag (w : Workspace) (r : BitVec 4) : BitVec 4 := BitVec.ofNat 4 (w.tsF 4 (4 * r.toNat) 4)
/-- Writes the tag of v_i. -/
def Workspace.setVtag (w : Workspace) (r : BitVec 4) (t : BitVec 4) : Workspace := w.setTsF 4 (4 * r.toNat) 4 t.toNat
/-- Tag of d_i. -/
def Workspace.dtag (w : Workspace) (r : BitVec 3) : BitVec 4 := BitVec.ofNat 4 (w.tsF 5 (4 * r.toNat) 4)
/-- Writes the tag of d_i. -/
def Workspace.setDtag (w : Workspace) (r : BitVec 3) (t : BitVec 4) : Workspace := w.setTsF 5 (4 * r.toNat) 4 t.toNat
/-- SBCNT, TS6 (R43). -/
def Workspace.sbcnt (w : Workspace) : BitVec 64 := w.getT 6
/-- Writes SBCNT. -/
def Workspace.setSbcnt (w : Workspace) (x : BitVec 64) : Workspace := w.setT 6 x
/-- EXST, TS7[15:0] (R224). -/
def Workspace.exst (w : Workspace) : BitVec 16 := (w.getT 7).setWidth 16

/-- A register write; a vector write takes the masked bytes and sets its tag where it has one. -/
def Workspace.apply (w : Workspace) : RegWrite → Workspace
  | .s r x => w.setS r x
  | .v r x m t =>
    let w := w.setV r (mergeBytes (w.getV r) x m)
    match t with
    | some t => w.setVtag r t
    | none => w
  | .p r x m => w.setP r ((w.getP r &&& ~~~m) ||| (x &&& m))
  | .d r x => (w.setD r x).setDtag r 15
  | .n r x => w.setN r x

/-- Register writes in order. -/
def Workspace.applyAll (w : Workspace) (l : List RegWrite) : Workspace := l.foldl Workspace.apply w

/-! ## Registers of the issuing thread -/

/-- The issuing thread's workspace. -/
def State.live (s : State) : Workspace := s.getWs s.cur
/-- The workspace that operands are read from (R21). -/
def State.src (s : State) : Workspace := s.iss.ops.getD s.live
/-- Changes the issuing thread's workspace. -/
def State.upd (s : State) (f : Workspace → Workspace) : State := s.setWs s.cur (f s.live)
/-- Reads an s register. -/
def State.rS (s : State) (r : BitVec 5) : BitVec 64 := s.src.getS r
/-- Writes an s register. -/
def State.wS (s : State) (r : BitVec 5) (x : BitVec 64) : State := s.upd fun w => w.setS r x
/-- Reads a v register. -/
def State.rV (s : State) (r : BitVec 4) : Vec := s.src.getV r
/-- Writes a v register and its tag. -/
def State.wV (s : State) (r : BitVec 4) (x : Vec) (t : BitVec 4) : State := s.upd fun w => (w.setV r x).setVtag r t
/-- Reads a predicate. -/
def State.rP (s : State) (r : BitVec 3) : BitVec 64 := s.src.getP r
/-- Writes a predicate; p0 ignores it. -/
def State.wP (s : State) (r : BitVec 3) (x : BitVec 64) : State := s.upd fun w => w.setP r x
/-- The issuing thread. -/
def State.me (s : State) : Thread := s.thr s.cur
/-- Changes the issuing thread. -/
def State.modMe (s : State) (f : Thread → Thread) : State := s.modThr s.cur f
/-- The issuing core. -/
def State.lcore (s : State) : Nat := coreOfTh s.cur
/-- The issuing tile. -/
def State.myT (s : State) : Nat := tOf s.lcore

/-! ## Immediates (R191, R192) -/

/-- The 32-bit W of a widened form, or the bare field. -/
def State.immRaw (s : State) {w : Nat} (i : BitVec w) : Nat :=
  match s.iss.imm with
  | some m => i.toNat + m.toNat % 2 ^ (32 - w) * 2 ^ w
  | none => i.toNat

/-- W read as natural. -/
def State.immN (s : State) {w : Nat} (i : BitVec w) : BitVec 64 := BitVec.ofNat 64 (s.immRaw i)

/-- W read as signed. -/
def State.immS (s : State) {w : Nat} (i : BitVec w) : BitVec 64 :=
  match s.iss.imm with
  | some _ => (BitVec.ofNat 32 (s.immRaw i)).signExtend 64
  | none => i.signExtend 64

/-! ## Elements (R269) -/

/-- Element i of size e bytes. -/
def elemN (x : Vec) (e i : Nat) : Nat := x.toNat / 2 ^ (8 * e * i) % 2 ^ (8 * e)

/-- The elements of a register of size e. -/
def elems (x : Vec) (e : Nat) : List Nat := (List.range (64 / e)).map (elemN x e)

/-- The number whose elements of e bytes are given, element 0 lowest. -/
def packN (e : Nat) : List Nat → Nat
  | [] => 0
  | x :: xs => x % 2 ^ (8 * e) + 2 ^ (8 * e) * packN e xs

/-- A register from its elements. -/
def ofElems (e : Nat) (xs : List Nat) : Vec := BitVec.ofNat 512 (packN e xs)

/-- Element i is active: all its e predicate bits are set. -/
def activeEl (pg : BitVec 64) (e i : Nat) : Bool := getF pg (e * i) e == 2 ^ e - 1

/-- The bit-mask of element i's bytes. -/
def elMask (e i : Nat) : BitVec 64 := BitVec.ofNat 64 ((2 ^ e - 1) * 2 ^ (e * i))

/-- The mask of the bytes of every active element. -/
def activeMask (pg : BitVec 64) (e : Nat) : BitVec 64 :=
  (List.range (64 / e)).foldl (fun m i => if activeEl pg e i then m ||| elMask e i else m) 0

/-- Element i of a 64-bit scalar's low bytes, as a value of size e. -/
def lowElem (x : BitVec 64) (e : Nat) : Nat := x.toNat % 2 ^ (8 * e)

/-- The signed integer tag of an element size: I8, I16, I32 (R38). -/
def intTag (e : Nat) : BitVec 4 := if e = 1 then 5 else if e = 2 then 6 else 7

/-- Element size in bytes for a form whose FMT 0 means single bytes (R291, R292). -/
def fmtSize (f : BitVec 4) : Nat := if f = 0 then 1 else Fmt.size f

end Sys2Proof.Machine
end

