-- ==== Sys2Proof/Machine/Flags.lean ====
section
/-! DEFINITION. Every flag computation that concerns FLAGS itself (R47, R48): which raised flags are enabled, the sticky
OR, and the flags that the active elements of an element-wise instruction raise together. -/

namespace Sys2Proof.Machine

/-- The raised flags whose enable in FLAGS[14:8] is set. -/
def Workspace.enabled (w : Workspace) (fl : Flags) : Flags := fl &&& (w.flags >>> 8).setWidth 7

/-- ORs raised flags into FLAGS[6:0]. -/
def Workspace.orFlags (w : Workspace) (fl : Flags) : Workspace := w.setFlags (w.flags ||| fl.setWidth 15)

/-- The flags of many results together. -/
def allFlags (l : List (Nat × Flags)) : Flags := l.foldl (fun a x => a ||| x.2) 0

/-- A flag is set. -/
def hasFlag (fl f : Flags) : Bool := fl &&& f != 0

/-- The rounding mode of a code: .rdyn takes RMODE (R40, R41). -/
def roundMode (w : Workspace) (rnd : Nat) : Nat := if rnd = 6 then w.mode else rnd

end Sys2Proof.Machine
end

