-- ==== Sys2Proof/Machine/Ops.lean ====
section
/-! DEFINITION. The shared operations on threads: taking an exception and returning from one (R166 to R170), the error
log (R179), starting, freezing and ending a thread (R107, R116, R124, R171, R172, R219, R256), long-latency results and
their landing (R24, R25, R48), and held failures (R168). -/

namespace Sys2Proof.Machine

/-! ## Causes (R166) -/

/-- ILLEGAL. -/
def cIllegal : BitVec 8 := 0x01
/-- RESERVED_FORMAT. -/
def cResvFormat : BitVec 8 := 0x02
/-- FORMAT_MISMATCH. -/
def cFormat : BitVec 8 := 0x03
/-- MISALIGNED. -/
def cMisaligned : BitVec 8 := 0x04
/-- PAGE_FAULT. -/
def cPageFault : BitVec 8 := 0x05
/-- ACCESS. -/
def cAccess : BitVec 8 := 0x06
/-- BUFFER_ENGINE. -/
def cBuffer : BitVec 8 := 0x07
/-- RETRY_LIMIT. -/
def cRetry : BitVec 8 := 0x08
/-- REMOTE_FAULT. -/
def cRemote : BitVec 8 := 0x09
/-- RCALL_TIMEOUT. -/
def cTimeout : BitVec 8 := 0x0A
/-- REMOTE_SUBSET. -/
def cSubset : BitVec 8 := 0x0B
/-- PEER_GONE. -/
def cPeerGone : BitVec 8 := 0x0C
/-- VERSION_WINDOW. -/
def cVersion : BitVec 8 := 0x0D
/-- BARRIER_MEMBERSHIP. -/
def cBarrier : BitVec 8 := 0x0E
/-- ARITH. -/
def cArith : BitVec 8 := 0x0F
/-- ECC_UNCORRECTED. -/
def cEcc : BitVec 8 := 0x10
/-- WORKSPACE_BOUNDS. -/
def cBounds : BitVec 8 := 0x11
/-- SPEC_LOG. -/
def cSpecLog : BitVec 8 := 0x12
/-- BREAK. -/
def cBreak : BitVec 8 := 0x13
/-- SOFTWARE. -/
def cSoftware : BitVec 8 := 0x14
/-- TREE_BAD. -/
def cTreeBad : BitVec 8 := 0x15

/-- A precise trap: the stage of R205 at which it is found, cause, INFO, faulting VA. -/
structure Trap where
  stage : Nat
  cause : BitVec 8
  info : Nat
  va : Option (BitVec 64) := none
  deriving DecidableEq, Repr

/-- The trap of an ILLEGAL operand, reason 7 at stage 7 (R205). -/
def trapLimit : Trap := ⟨7, cIllegal, 7, none⟩
/-- The context-0 check of R150, stage 4. -/
def trapCtx0 : Trap := ⟨4, cAccess, 19, none⟩
/-- A role or core check, stage 3 (R200, R267, R268). -/
def trapRole : Trap := ⟨3, cIllegal, 7, none⟩
/-- Another precise cause of slot A that is ILLEGAL reason 7, stage 8. -/
def trapIllegal : Trap := ⟨8, cIllegal, 7, none⟩
/-- An ACCESS trap with its reason and VA, stage 8. -/
def trapAccess (reason : Nat) (va : BitVec 64) : Trap := ⟨8, cAccess, reason, some va⟩
/-- SPEC_LOG with the slot A major opcode (R121). -/
def trapSpec (major : Nat) : Trap := ⟨8, cSpecLog, major, none⟩

/-- The first of a list of checks that fails. -/
def firstTrap : List (Bool × Trap) → Option Trap
  | [] => none
  | (b, t) :: l => if b then some t else firstTrap l

/-! ## The error log (R179) -/

/-- A port core's log takes an entry, or counts it while full. -/
def State.postErr (s : State) (port kind ctx detail : Nat) : State :=
  s.modPort port fun p =>
    if p.errlog.length < 64 then
      { p with errlog := p.errlog ++ [BitVec.ofNat 64 (2 ^ 63 + kind % 128 * 2 ^ 56 + ctx % 64 * 2 ^ 50 + detail % 2 ^ 48)] }
    else { p with dropped := p.dropped + 1 }

/-- Reads of a core's memories have corrected n single-bit errors: one CORR entry a millisecond at most (R177, R179). -/
def State.correct (s : State) (l n : Nat) : State :=
  if !namesCore l || n = 0 then s
  else
    let c := s.core l
    if c.corrAt.any (fun t => decide (s.tick < t + 1000 * Config.cyclesPerUs)) then s.modCore l fun c => { c with corr := c.corr + n }
    else (s.modCore l fun c => { c with corr := 0, corrAt := some s.tick }).postErr (portOf l) 0x01 0 (l * 2 ^ 32 + (c.corr + n) % 2 ^ 32)

/-! ## Freezing (R124, R171, R172) -/

/-- Threads of a core in an ordinary position. -/
def State.ordinaryOn (s : State) (l : Nat) : List Nat := (s.threadsOn l).filter fun k => (s.thr k).pos != 15

/-- Changes each thread of a list. -/
def State.forThreads (s : State) (ks : List Nat) (f : Thread → Thread) : State := ks.foldl (fun s k => s.modThr k f) s

/-- The system freeze of every ordinary thread of a core. -/
def State.sysFreeze (s : State) (l : Nat) : State := s.forThreads (s.ordinaryOn l) fun t => { t with sfrz := true }

/-- A supervisor's trap: the core's tile is not free until a drain (R172). -/
def State.markTile (s : State) (l : Nat) : State := if isTileCore l then s.modTile (tOf l) fun t => { t with supDead := true } else s

/-! ## Ending a thread -/

/-- Thread keys of requests whose thread has ended begin here; a SPAWN's target where there is none. -/
def noThread : Nat := 2 ^ 40

/-- Releases every watch of a thread on its core, with their W bits (R248). -/
def State.dropWatches (s : State) (th : Nat) : State :=
  let l := coreOfTh th
  let mine := (s.core l).watches.filter fun x => x.2 == th
  let s := s.modCore l fun c => { c with watches := c.watches.filter fun x => x.2 != th }
  mine.foldl (fun s x => s.modTag x.1 fun g => { g with watch := false }) s

/-- What a thread that ends still has in flight goes on, in its order, under a number of its own (R82, R83). -/
def State.orphan (s : State) (th : Nat) : State :=
  if s.net.any fun r => r.th == th then
    { s with
      nextRid := s.nextRid + 1
      net := s.net.map fun (r : Req) => if r.th = th then { r with th := noThread + s.nextRid, lim := (s.getWs th).retryLim } else r }
  else s

/-- A position that frees is held for one rotation where its core has recorded refused REDs (R119). -/
def State.keepPos (s : State) (l pos : Nat) : State :=
  if pos ≥ 15 || (s.port l).reds.isEmpty then s
  else s.modPort l fun p => { p with kept := (pos, (s.core l).turns) :: p.kept.filter fun x => x.1 != pos }

/-- A thread leaves its window: its watches are released, its held failures discarded, its queue emptied, and what it
still has in flight goes on without it (R168, R174, R248). -/
def State.endThread (s : State) (th : Nat) : State :=
  let pos := (s.thr th).pos
  let s := s.dropWatches th
  let s := s.modCore (coreOfTh th) fun c => { c with msgs := c.msgs.filter fun m => m.pos != pos }
  ((s.orphan th).setThr th Thread.none).keepPos (coreOfTh th) pos

/-- A request enters the network. -/
def State.addReq (s : State) (r : Req) : State := { s with net := s.net ++ [{ r with rid := s.nextRid }], nextRid := s.nextRid + 1 }

/-- A request of a thread without parts. -/
def State.newReq (s : State) (th : Nat) (src : Src) (kind : ReqKind) (parts : List Part) (hold : Bool) : Req where
  rid := 0
  th := th
  tid := s.tid th
  lcore := coreOfTh th
  ctx := (s.thr th).ctx
  lid := (s.thr th).lid
  seed := (s.thr th).seed
  cls := (s.thr th).cls
  part := (s.thr th).part
  root := (s.thr th).root
  src := src
  kind := kind
  parts := parts
  st := .inflight
  refusals := 0
  born := s.tick
  sent := false
  legs := []
  fences := (s.thr th).fences
  lim := 0
  hold := hold
  sext := false
  rel := false

/-- The issuing bundle as a source. -/
def State.issSrc (s : State) : Src := ⟨s.iss.pc, s.iss.bundle, s.iss.slotB, s.me.seq⟩

/-- A callee ends at a trap: its caller is sent a fault record, with the age of the call (R128, R173). -/
def State.calleeEnds (s : State) (th : Nat) (c : Caller) (cause : BitVec 8) (va : Option (BitVec 48)) : State :=
  (s.addReq { s.newReq th ⟨0, 0, false, 0⟩ (.faultRec c.th c.rid cause (coreOfTh th) va) [] false with born := c.born }).endThread th

/-! ## Taking an exception (R166 to R169, R172, R173) -/

/-- The 32-byte trap record (R167). -/
def trapRecord (f : Failure) (pc : BitVec 48) (ctx : BitVec 6) (pos : Nat) (defer inRep : Bool) : BitVec 256 :=
  f.src.bundle ++ f.va.getD 0 ++ pc ++ f.src.pc ++ f.info ++ ctx ++ f.cause ++ BitVec.ofNat 4 pos
    ++ BitVec.ofBool defer ++ BitVec.ofBool f.src.slotB ++ BitVec.ofBool f.va.isSome ++ BitVec.ofBool inRep

/-- The trap-queue entry (R169). -/
def trapEntry (th pos : Nat) (cause : BitVec 8) : BitVec 64 := BitVec.ofNat 64 (winOfTh th * 2048 + pos % 16 * 2 ^ 16 + cause.toNat * 2 ^ 20)

/-- A thread takes a trap. A callee ends with a fault record. Any other thread gets the record, with `pc` to resume at,
and parks trapped; an ordinary thread's trap joins its core's trap queue, a supervisor's freezes the core's ordinary
threads and is logged. -/
def State.takeTrap (s : State) (th : Nat) (f : Failure) (defer : Bool) (pc : BitVec 48) (inRep : Bool) : State :=
  let t := s.thr th
  match t.caller with
  | some c => s.calleeEnds th c f.cause f.va
  | none =>
    let s := s.setWs th { (s.getWs th).setPc pc with trap := trapRecord f pc t.ctx t.pos defer inRep }
    let s := s.modThr th fun t => { t with trapped := true, rte := none, park := .none, settle := false, walk := .none }
    if t.pos = 15 then
      ((s.sysFreeze (coreOfTh th)).markTile (coreOfTh th)).postErr (portOf (coreOfTh th)) 0x08 t.ctx.toNat (coreOfTh th * 2 ^ 32 + f.cause.toNat)
    else s.modCore (coreOfTh th) fun c => { c with trapq := c.trapq ++ [trapEntry th t.pos f.cause] }

/-- The issuing bundle traps precisely. -/
def State.raise (s : State) (t : Trap) : State :=
  let f : Failure := ⟨t.cause, BitVec.ofNat 26 t.info, t.va.map (·.setWidth 48), s.issSrc⟩
  let s := s.takeTrap s.cur f false s.iss.pc s.iss.inRep
  { s with iss := { s.iss with stage := t.stage } }

/-- Runs an instruction's effect unless one of its checks fails. -/
def State.check (s : State) (l : List (Bool × Trap)) (k : State) : State :=
  match firstTrap l with
  | some t => s.raise t
  | none => k

/-- A failure joins those a thread holds, in the order of their raising bundles (R168); a callee ends at once. -/
def insertHeld (f : Failure) : List Failure → List Failure
  | [] => [f]
  | g :: l => if f.src.seq < g.src.seq then f :: g :: l else g :: insertHeld f l

/-- Holds a failure of a thread; one that has ended takes none. -/
def State.hold (s : State) (th : Nat) (f : Failure) : State :=
  if (s.thr th).occ then
    match (s.thr th).caller with
    | some c => s.calleeEnds th c f.cause f.va
    | none => s.modThr th fun t => { t with held := insertHeld f t.held }
  else s

/-- A failure of the issuing bundle that is deferred. -/
def State.deferFail (s : State) (cause : BitVec 8) (info : Nat) (va : Option (BitVec 64)) : State :=
  s.hold s.cur ⟨cause, BitVec.ofNat 26 info, va.map (·.setWidth 48), s.issSrc⟩

/-- The oldest held failure strikes (R168): at the PC the thread would issue at. -/
def State.strike (s : State) (th : Nat) : State :=
  match (s.thr th).held with
  | [] => s
  | f :: l =>
    let w := s.getWs th
    (s.modThr th fun t => { t with held := l }).takeTrap th f true w.pc w.repAct

/-! ## Returning from an exception (R170) -/

/-- PC of a trap record. -/
def recPc (r : BitVec 256) : BitVec 48 := (r >>> 96).setWidth 48
/-- SRCPC of a trap record. -/
def recSrcPc (r : BitVec 256) : BitVec 48 := (r >>> 48).setWidth 48
/-- CAUSE of a trap record. -/
def recCause (r : BitVec 256) : BitVec 8 := (r >>> 8).setWidth 8
/-- INFO of a trap record. -/
def recInfo (r : BitVec 256) : BitVec 26 := (r >>> 22).setWidth 26
/-- INREP of a trap record. -/
def recInRep (r : BitVec 256) : Bool := r.getLsbD 0

/-- The supervisor's RTE resumes a trapped thread by a mode, to be acted on at its next turn. -/
def State.rteResume (s : State) (th : Nat) (mode : BitVec 2) : State := s.modThr th fun t => { t with rte := some mode }

/-- A resumed thread leaves its trap at the PC of its record; none while a failure still strikes. -/
def State.leaveTrap (s : State) (th : Nat) : State :=
  let w := s.getWs th
  let pc := if recInRep w.trap && w.repAct then w.repPc else recPc w.trap
  (s.setWs th (w.setPc pc)).modThr th fun t => { t with trapped := false }

/-- A bundle's end: the REP state moves to the next repetition, or the thread to the next bundle (R170, R220). -/
def Workspace.nextBundle (w : Workspace) (inRep : Bool) : Workspace :=
  if inRep then
    if w.repJ = w.repN then (w.setRepAct false).setPc (w.repPc + 8) else w.setRepJ (w.repJ + 1)
  else w.setPc (w.pc + 8)

/-! ## Starting a thread -/

/-- The workspace of a new thread: entry, LEND, and the reset values of R223 (log 3). -/
def Workspace.fresh (entry : BitVec 48) (lend : Bool) : Workspace :=
  { Workspace.zero with
    ts := ((Workspace.zero.ts.set 0 (entry.setWidth 64 ||| (BitVec.ofNat 64 (lend.toNat * 2 ^ 49)))).set 1 (1024 <<< 32)).set 2 100 }

/-- s registers from a list, from register i on. -/
def Workspace.putS (w : Workspace) (i : Nat) : List (BitVec 64) → Workspace
  | [] => w
  | x :: l => Workspace.putS (w.setS (BitVec.ofNat 5 i) x) (i + 1) l

/-- v registers with their tags from a list, from register i on. -/
def Workspace.putV (w : Workspace) (i : Nat) : List (Vec × BitVec 4) → Workspace
  | [] => w
  | (x, t) :: l => Workspace.putV ((w.setV (BitVec.ofNat 4 i) x).setVtag (BitVec.ofNat 4 i) t) (i + 1) l

/-- A position holds no thread; a position whose thread is frozen for pre-emption is not free (R108, R123). -/
def State.posFree (s : State) (l pos : Nat) : Bool := (s.threadsOn l).all fun k => (s.thr k).pos != pos

/-- The free ordinary positions of a core, lowest first. -/
def State.freePositions (s : State) (l : Nat) : List Nat := (List.range 15).filter fun p => s.posFree l p

/-- A position is held for the oldest recorded RED: for one rotation from its freeing (R119). -/
def State.posKept (s : State) (l pos : Nat) : Bool :=
  !(s.port l).reds.isEmpty && (s.port l).kept.any fun x => x.1 == pos && (s.core l).turns < x.2 + 16

/-- The free positions that a new thread may take. -/
def State.openPositions (s : State) (l : Nat) : List Nat := (s.freePositions l).filter fun p => !s.posKept l p

/-- The thread in a position that may issue: a pre-empting thread stands before its victim (R123). -/
def State.threadAt (s : State) (l pos : Nat) : Option Nat :=
  let ks := (s.threadsOn l).filter fun k => (s.thr k).pos == pos
  match ks.find? fun k => (s.thr k).part with
  | some k => some k
  | none => ks.head?

/-- A thread starts in a window with a workspace. -/
def State.startThread (s : State) (th : Nat) (t : Thread) (w : Workspace) : State :=
  (s.setWs th w).setThr th { t with occ := true }

/-- A new thread that takes its identity from the request that starts it (R149). -/
def Req.child (r : Req) (kind : Kind) (pos : Nat) : Thread :=
  { Thread.none with occ := true, pos := pos, kind := kind, ctx := r.ctx, lid := r.lid, seed := r.seed, cls := r.cls, part := r.part, root := r.root }

/-- The position whose thread gives way to a pre-empting one: a vacant frozen one, then a class-3 and then a class-2
thread's, the highest first (R123). -/
def State.victimPos (s : State) (l : Nat) : Option Nat :=
  let at_ (p : Nat) : List Thread := ((s.threadsOn l).map s.thr).filter fun t => t.pos == p
  let ps := (List.range 15).reverse.filter fun p => (at_ p).all fun t => !t.part && t.cls.toNat ≥ 2
  match ps.find? fun p => (at_ p).any fun t => t.pfrz with
  | some p => some p
  | none => match ps.find? fun p => (at_ p).all fun t => t.cls == 3 with
    | some p => some p
    | none => ps.head?

/-- Where a thread of a pre-empting launch may start on a core: a free one of W16 to W19, while its launch holds fewer
than four threads there, in a free position or a victim's (R123, R254); answers window and position. -/
def State.partPlace (s : State) (l : Nat) (lid : BitVec 32) : Option (Nat × Nat) :=
  if ((s.threadsOn l).filter fun k => (s.thr k).lid == lid).length < 4 then
    match (List.range' 16 4).find? fun w => !(s.thr (l * 20 + w)).occ with
    | some w => match s.openPositions l with
      | p :: _ => some (w, p)
      | [] => (s.victimPos l).map fun p => (w, p)
    | none => none
  else none

/-- The threads of a position freeze for pre-emption (R123, R124). -/
def State.preemptPos (s : State) (l pos : Nat) : State :=
  s.forThreads ((s.threadsOn l).filter fun k => (s.thr k).pos == pos) fun t => { t with pfrz := true }

/-- Where an ordinary new thread starts: the lowest free ordinary position. -/
def State.ordPlace (s : State) (l : Nat) : Option (Nat × Nat) := (s.openPositions l).head?.map fun p => (p, p)

/-- Where the child of a SPAWN starts on a core (R116, R254). -/
def State.childPlace (s : State) (r : Req) (l : Nat) : Option (Nat × Nat) := if r.part then s.partPlace l r.lid else s.ordPlace l

/-! ## Long-latency results (R24, R25, R48) -/

/-- The issuing thread expects a result. -/
def State.pend (s : State) (p : Pend) : State := s.modMe fun t => { t with pend := t.pend ++ [p] }

/-- A result that is ready at issue and lands later: its registers, its flags (R48, R270). -/
def State.pendReady (s : State) (dests : List Reg) (writes : List RegWrite) (fl : Flags) : State :=
  s.pend ⟨s.issSrc, .value, none, true, dests, writes, fl, none⟩

/-- A result that waits for request rid. -/
def State.pendReq (s : State) (rid : Nat) (dests : List Reg) (writes : List RegWrite) : State :=
  s.pend ⟨s.issSrc, .value, some rid, false, dests, writes, 0, none⟩

/-- The value of an access to these keys, which request rid makes (R86). -/
def State.pendAccess (s : State) (rid : Nat) (keys : List Nat) (dests : List Reg) (writes : List RegWrite) : State :=
  s.pend ⟨s.issSrc, .access keys, some rid, false, dests, writes, 0, none⟩

/-- No earlier result of the thread names one of its registers (R25). -/
def landsNext (l : List Pend) (p : Pend) : Bool :=
  l.all fun q => q.src.seq ≥ p.src.seq || !(q.dests.any fun r => p.dests.contains r)

/-- A result lands: its failure is held, or its flags are raised and, unless one is enabled, its registers written
(R48, R166); RESERVED_FORMAT writes its destination all the same (R34). -/
def State.land (s : State) (th : Nat) (p : Pend) : State :=
  let w := s.getWs th
  let s := s.modThr th fun t => { t with pend := t.pend.filter fun q => q != p }
  match p.fail with
  | some f => if f.cause = cResvFormat then (s.setWs th (w.applyAll p.writes)).hold th f else s.hold th f
  | none =>
    let en := w.enabled p.flags
    let w := if p.flags = 0 then w else w.orFlags p.flags
    if en = 0 then s.setWs th (w.applyAll p.writes)
    else (s.setWs th w).hold th ⟨cArith, BitVec.ofNat 26 (en.toNat * 256), none, p.src⟩

/-! ## One-rotation results with flags (R48, R225) -/

/-- Slot A of the issuing bundle writes SBCNT (R225). -/
def State.slotAWritesSbcnt (s : State) : Bool :=
  s.iss.slotB && match decodeA (fld s.iss.word.toNat 32 32) with
  | .ok (.csrw _ _ n) => n == 7
  | .ok (.sbsr ..) => true
  | _ => false

/-- Chunk j of the issuing thread's stream (R43, R44). -/
def State.chunk (s : State) (j : Nat) : Nat := chunkAt s.me.seed s.lcore s.me.ctx.toNat s.src.sbcnt j

/-- SBCNT after an instruction that consumes N chunks under its mode (R44), on top of what a PUSH in slot A has consumed
(R45); slot A's own write of SBCNT stands (R225). -/
def State.consume (s : State) (md n : Nat) : State :=
  if md = 5 && !s.slotAWritesSbcnt then s.upd fun w => w.setSbcnt (w.sbcnt + BitVec.ofNat 64 ((n + 3) / 4)) else s

/-- A one-rotation instruction ends: it traps ARITH with all its flags raised, or runs its effect with them (R48). -/
def State.finish (s : State) (fl : Flags) (md n : Nat) (k : State → State) : State :=
  let en := s.src.enabled fl
  if en = 0 then k ((if fl = 0 then s else s.upd fun w => w.orFlags fl).consume md n)
  else (s.upd fun w => w.orFlags fl).raise ⟨9, cArith, en.toNat * 256, none⟩

/-! ## Format tags (R38, R39) -/

/-- Vector registers of a list that do not carry their required tag trap FORMAT_MISMATCH. INFO names the first one of the
list that a form gives, VSEL's the second source: the spec does not say which of several it names (log 54). -/
def State.vtagTrap (s : State) : List (BitVec 4 × BitVec 4) → Option Trap
  | [] => none
  | (r, t) :: l => if s.src.vtag r = t then s.vtagTrap l else some ⟨6, cFormat, r.toNat + (s.src.vtag r).toNat * 2 ^ 8 + t.toNat * 2 ^ 12, none⟩

/-- Directional registers k to k + n − 1 must carry DQ. -/
def State.dtagTrap (s : State) (k : Nat) : Nat → Option Trap
  | 0 => none
  | n + 1 =>
    match s.dtagTrap k n with
    | some t => some t
    | none =>
      let r := BitVec.ofNat 3 (k + n)
      if s.src.dtag r = 15 then none else some ⟨6, cFormat, 16 + r.toNat + (s.src.dtag r).toNat * 2 ^ 8 + 15 * 2 ^ 12, none⟩

/-- Runs an effect unless a trap was found. -/
def State.unless (s : State) (t : Option Trap) (k : State) : State :=
  match t with
  | some t => s.raise t
  | none => k

end Sys2Proof.Machine
end

