-- ==== Sys2Proof/Machine/Routes.lean ====
section
/-! DEFINITION. Where requests go: homes (R76), mesh nodes (R131), the links and routes between dies (R7, R135, R181) and to
the fabric (R344 to R346), and the packets of answers (R128, R133). -/

namespace Sys2Proof.Machine

/-! ## Homes and nodes -/

/-- The endpoint of a key beyond the fabric window (R345). -/
def epOfKey (k : Nat) : Nat := (k - fabricBase) / 2 ^ 36

/-- The core at whose home a key's accesses are applied (R76): a frame's port core, or the core of an on-chip address. -/
def homeOfKey (k : Nat) : Nat := if isHbm k then portOfChan (chanOf (k / 65536)) else coreOfKey k

/-- Die of a key's home. -/
def homeDie (k : Nat) : Nat := if isHbm k then chanOf (k / 65536) / 128 else dieOf (if isStack (coreOfKey k) then portOf (coreOfKey k) else coreOfKey k)

/-- Die of a core. -/
def dieOfCore (l : Nat) : Nat := if isStack l then dieOf (portOf l) else dieOf l

/-- The node of a core: its die and super-group, a router of the die's mesh (R131). -/
def nodeOfCore (l : Nat) : Nat := let m := if isStack l then portOf l else l; dieOf m * 8 + sgOf m

/-- The node of a part's home, the stack core's for a NEAR page (R76), or its endpoint of the fabric. -/
def Part.node (p : Part) : Nat :=
  if p.key ≥ fabricBase then 64 + epOfKey p.key
  else if isHbm p.key && p.pte.getLsbD 9 then nodeOfCore (stackOfChan (chanOf (p.key / 65536)))
  else nodeOfCore (homeOfKey p.key)

/-- The core that a request without parts goes to. -/
def Req.toCore (r : Req) : Nat :=
  match r.kind with
  | .spawn l .. => if l < noThread then l else r.lcore
  | .rcall u .. | .migr u => u
  | .reply th .. | .faultRec th .. => coreOfTh th
  | _ => r.lcore

/-- The node of a request's home, by its first part. -/
def Req.home (r : Req) : Nat :=
  match r.parts with
  | p :: _ => p.node
  | [] => nodeOfCore r.toCore

/-- The node from which a request comes. -/
def Req.node (r : Req) : Nat := nodeOfCore r.lcore

/-- The nodes beyond its own to which a request goes. -/
def Req.nodes (r : Req) : List Nat :=
  ((if r.parts.isEmpty then [nodeOfCore r.toCore] else r.parts.map Part.node).filter fun n => n != r.node).eraseDups

/-- A request's packet has come to a node. -/
def Req.reached (r : Req) (node : Nat) : Bool := node == r.node || r.legs.contains node

/-! ## Links (R7, R344) -/

/-- The link between two dies that share an edge, by ascending lower and then higher die (R7, R179). -/
def dieLink (a b : Nat) : Option Nat :=
  [(0, 1), (0, 3), (1, 2), (1, 4), (2, 5), (3, 4), (4, 5)].findIdx? fun x => x == (min a b, max a b)

/-- The number of die-to-die link i in the direction from die a. -/
def linkKey (i a b : Nat) : Nat := 2 * i + (if a < b then 0 else 1)

/-- The dies that the link of a number joins, from and to; none for a Kensel link. Numbers 0 to 13 are the die-to-die links in
their two directions; 16 to 39 the Kensel links towards the fabric, and 40 to 63 the same links towards the module (R344). -/
def linkDies (k : Nat) : Option (Nat × Nat) :=
  match [(0, 1), (0, 3), (1, 2), (1, 4), (2, 5), (3, 4), (4, 5)][k / 2]? with
  | some (a, b) => some (if k % 2 = 0 then (a, b) else (b, a))
  | none => none

/-- The number names a link. -/
def isLink (k : Nat) : Bool := k < 14 || (16 ≤ k && k < 64)

/-- The die of a link: a die-to-die link's sender, a Kensel link's own. -/
def linkDie (k : Nat) : Nat := match linkDies k with
  | some (a, _) => a
  | none => (k - 16) % 24 / 4

/-- The other direction of a link. -/
def otherWay (k : Nat) : Nat := if k < 14 then (if k % 2 = 0 then k + 1 else k - 1) else if k < 40 then k + 24 else k - 24

/-- The number of a link in the error log of its die (R179, R344). -/
def linkLog (k : Nat) : Nat := if k < 14 then k / 2 else 8 + k % 4

/-! ## Routes (R135, R181, R345, R346) -/

/-- Every hop of a path has its link up. -/
def State.pathUp (s : State) : List Nat → Bool
  | a :: b :: l => (match dieLink a b with | some i => (s.link (linkKey i a b)).up | none => false) && State.pathUp s (b :: l)
  | _ => true

/-- The path of a packet in the die grid: along the columns of its row to the target's column, then to its row; and the
other way round (R135, R181). -/
def diePath (colFirst : Bool) (a b : Nat) : List Nat :=
  let cols (r c c' : Nat) : List Nat := if c ≤ c' then (List.range' c (c' + 1 - c)).map (r * 3 + ·) else ((List.range' c' (c + 1 - c')).reverse).map (r * 3 + ·)
  let p := if colFirst then cols (a / 3) (a % 3) (b % 3) ++ [b / 3 * 3 + b % 3] else [a] ++ cols (b / 3) (a % 3) (b % 3)
  p.eraseDups

/-- The next die on a packet's way to another one. -/
def State.nextDie (s : State) (a b : Nat) : Option Nat :=
  if s.pathUp (diePath true a b) then (diePath true a b)[1]? else if s.pathUp (diePath false a b) then (diePath false a b)[1]? else none

/-- A packet between two dies has a path. -/
def State.routable (s : State) (a b : Nat) : Bool := a == b || s.pathUp (diePath true a b) || s.pathUp (diePath false a b)

/-- The Kensel link by which a die reaches an endpoint: the one of index endpoint mod 4, else the next that is up, in ascending
index order (R345, R346). -/
def State.kenselOf (s : State) (die ep : Nat) : Option Nat :=
  ((List.range 4).map fun i => 16 + 4 * die + (ep + i) % 4).find? fun k => (s.link k).up

/-- The die from which a packet of a die leaves for the fabric: its own, else the nearest with a Kensel link up, the lowest of
those equally near (R346). -/
def State.exitDie (s : State) (die : Nat) : Option Nat :=
  let far (d : Nat) : Nat := (diePath true die d).length
  ([1, 2, 3, 4].flatMap fun n => (List.range 6).filter fun d => far d == n).find? fun d => (s.kenselOf d 0).isSome && s.routable die d

/-- A packet has a path from a core to the home of a key, or to its endpoint (R181, R346). -/
def State.routes (s : State) (l key : Nat) : Bool :=
  if key ≥ fabricBase then (s.exitDie (dieOfCore l)).isSome else s.routable (dieOfCore l) (homeDie key)

/-- The endpoint of a die's mesh by which a packet goes on to its destination: a router, or 8 + the number of a link (R135). -/
def State.hopOf (s : State) (die dst : Nat) : Option Nat :=
  let towards (d : Nat) : Option Nat := (s.nextDie die d).bind fun n => (dieLink die n).map fun i => 8 + linkKey i die n
  if dst < 48 then (if dst / 8 = die then some (dst % 8) else towards (dst / 8))
  else (s.exitDie die).bind fun d => if d = die then (s.kenselOf die (dst - 64)).map (8 + ·) else towards d

/-! ## Packets (R128, R133) -/

/-- Mesh flits of n bytes of payload behind a 64-byte header (R133). -/
def flitsOf (n : Nat) : Nat := 1 + (n + 63) / 64

/-- A packet is made. -/
def State.addPacket (s : State) (load : Load) (src dst len : Nat) (claim : Claim) : State :=
  { s with packets := s.packets ++ [⟨s.nextPkt, load, src, dst, len, claim, false, 0⟩], nextPkt := s.nextPkt + 1 }

/-- How a request ranks among claims: by its age, and among equals by its thread's id (R128). -/
def Req.claim (r : Req) : Claim := ⟨r.born, r.tid⟩

/-- The age of a claim: rotations of 16 cycles since its first issue, at most 0xFFFF (R128). -/
def State.age (s : State) (c : Claim) : Nat := min ((s.tick - c.born) / 16) 0xFFFF

/-- One claim stands before another: the older, then the lower thread id (R128). -/
def State.older (s : State) (a b : Claim) : Bool := s.age a > s.age b || (s.age a == s.age b && a.tid < b.tid)

/-- A home at a node answers a request with n bytes (R128, R133): a packet, where it came from another node. -/
def State.answerFrom (s : State) (r : Req) (node n : Nat) : State :=
  if node = r.node then s else s.addPacket (.ans r.rid) node r.node (flitsOf n) (r.claim)

/-- An answer to a request is on its way. -/
def State.answerOut (s : State) (rid : Nat) : Bool := s.packets.any fun p => p.load == .ans rid

/-- Mesh flits of the packets of n bytes of payload: at most 2,048 bytes in each, behind its header (R133). -/
def pieceFlits (n : Nat) : List Nat := (List.range (max 1 ((n + 2047) / 2048))).map fun i => flitsOf (min 2048 (n - 2048 * i))

/-- A message of a die with n bytes of payload leaves for an endpoint of the fabric (R345). -/
def State.sendOut (s : State) (die ep n : Nat) : State :=
  (pieceFlits n).foldl (fun s l => s.addPacket .out (8 * die) (64 + ep) l ⟨s.tick, 0⟩) s

/-- A peer's message has come to a Kensel port of a die, and is taken in the order of its link (R344, R347). -/
def State.takeMsg (s : State) (die : Nat) (m : PeerMsg) (k : State → State) : State :=
  match ((List.range 4).map fun n => 40 + 4 * die + n).find? fun n => (s.link n).inbox.head? == some m with
  | some n => k (s.modLink n fun x => { x with inbox := x.inbox.drop 1 })
  | none => s

/-- A peer's message that names no die is taken at any. -/
def State.fromPeer (s : State) (m : PeerMsg) (k : State → State) : State :=
  match (List.range 6).find? fun d => (List.range 4).any fun n => (s.link (40 + 4 * d + n)).inbox.head? == some m with
  | some d => s.takeMsg d m k
  | none => s

end Sys2Proof.Machine
end

