-- ==== Sys2Proof/Machine/Access.lean ====
section
/-! DEFINITION. The shared operations on memory: the address checks of R18 and R238, translation (R152 to R155), the
target checks of R159 to R161, what a home does when it applies an access (R77, R88, R90, R91), and requests on their
way (R76, R82, R83, R86). -/

namespace Sys2Proof.Machine

/-! ## Addresses -/

/-- What an access does, for its checks (R155, R160, R238, R245). -/
inductive AccKind where
  | load | store | atomic
  /-- A scratchpad word: LDV and LDFE read, STV and STFE change. -/
  | word (store : Bool)
  /-- VRCL's range, which it changes. -/
  | reclaim
  /-- A vector load or store of the whole register: the bytes from lo on, n of them, span its active lanes (R23, R242). -/
  | lanes (store : Bool) (lo n : Nat)
  | fetch
  deriving DecidableEq, Repr

/-- The access writes. -/
def AccKind.writes : AccKind → Bool
  | .store | .atomic | .reclaim => true
  | .word st | .lanes st _ _ => st
  | _ => false

/-- The bytes of an access at an offset that its active lanes span: offset and length (R23). -/
def AccKind.span : AccKind → Nat → Nat → Nat × Nat
  | .lanes _ lo n, off, _ => (off + lo, n)
  | _, off, size => (off, size)

/-- The access names a scratchpad word and nothing else (R245, R247). -/
def AccKind.isWord : AccKind → Bool
  | .word _ | .reclaim => true
  | _ => false

/-- The address check of R18 for an on-chip address, and R214 on a stack core: its key. -/
def onchip (l : Nat) (va size : Nat) : Option Nat :=
  let off := fld va 0 26
  if isStack l && fld va 46 18 == 3 && fld va 29 17 == 15 * 4 && fld va 26 3 == 0 && fld va 35 11 == 0 then
    (if off + size ≤ 2 ^ 18 then some (padKey l off) else none)
  else
    let d := fld va 42 3
    let t := fld va 31 4
    let c := fld va 29 2
    let sp := fld va 26 3
    let ok := fld va 45 1 == 0 && d < 6 && t ≤ 8 && sp < 6 &&
      (if sp = 0 then t < 8 || c == 0 else c == 0 && (if sp = 5 then t == 8 else t < 8))
    let room := if sp = 1 then 0x40000 else if sp = 2 then 0x20000 else 0x10000
    if ok && off + size ≤ room then some va else none

/-- An on-chip key lies in a port core's block. -/
def keyPort (k : Nat) : Bool := k < stackBase && fld k 31 4 == 8
/-- The tile of an on-chip key. -/
def keyTile (k : Nat) : Nat := tOf (coreOfKey k)

/-- The key lies in the issuing tile, or in a stack core's own SRAM (R239). -/
def isLocalKey (l k : Nat) : Bool :=
  !isHbm k && k < fabricBase &&
    (if isStack l then coreOfKey k == l else isTileCore l && k < stackBase && !keyPort k && keyTile k == tOf l)

/-- The owner of a stack core (R158). -/
def State.stackOwner (s : State) (l : Nat) : Nat := getF (s.port (portOf l)).stkown 0 6

/-- The context that owns a core: its tile's OWNER, or a stack core's STKOWN; none for a port core. -/
def State.ownerOf (s : State) (l : Nat) : Option Nat :=
  if isTileCore l then some (s.tile (tOf l)).ctx.toNat else if isStack l then some (s.stackOwner l) else none

/-- A tile runs a task of a launch (R159). -/
def State.runsTask (s : State) (t : Nat) (lid : BitVec 32) : Bool := (s.tile t).tasks.contains lid

/-- The target belongs to another context, or is a port core's page or scratchpad (R159, reason 18). -/
def State.denied (s : State) (ctx : BitVec 6) (k : Nat) : Bool :=
  ctx != 0 && (keyPort k || (match s.ownerOf (coreOfKey k) with | some c => c != ctx.toNat | none => true))

/-- The target's tile runs no task of the issuer's launch (R159, PEER_GONE). -/
def State.gone (s : State) (ctx : BitVec 6) (lid : BitVec 32) (k : Nat) : Bool :=
  ctx != 0 && k < stackBase && !keyPort k && !s.runsTask (keyTile k) lid

/-! ## Translation (R151 to R155) -/

/-- The translations a core may use: its tile's cache, then its group's second level (R154). -/
def State.tlbFind (s : State) (l : Nat) (ctx : BitVec 6) (vpn : Nat) : Option TlbEntry :=
  let hit : TlbEntry → Bool := fun e => e.ctx == ctx && e.vpn == vpn
  match (if isTileCore l then (s.tile (tOf l)).tlb.find? hit else none) with
  | some e => some e
  | none => (s.port (portOf l)).l2.find? hit

/-- A page-table entry is malformed at a level (R153). -/
def pteBad (level : Nat) (fabric : Bool) (e : Nat) : Bool :=
  let size := fld e 4 2
  let pfn := fld e 16 32
  fld e 48 16 != 0 || fld e 12 4 != 0 || fld e 1 3 != 0
    || (if level = 1 then size != 3 else if level = 2 then size != 2 && size != 3 else size != 0 && size != 1)
    || (size == 1 && pfn % 32 != 0) || (size == 2 && pfn % 512 != 0)
    || (fld e 10 1 == 1 && fld e 9 1 == 0)
    || ((!fabric || size == 3) && pfn ≥ Config.frames)

/-- A range holds a unit with an uncorrectable error (R177). -/
def State.bad (s : State) (key len : Nat) : Bool := s.upsets.any fun u => u * 8 < key + len && key < u * 8 + 8

/-- One level of a walk: a reason, or the entry. An entry that cannot be corrected is taken for a malformed one: R177 names no
walker (log 54). -/
def State.walkLevel (s : State) (level : Nat) (fabric : Bool) (at_ : Nat) : Except Nat Nat :=
  let e := s.rdN at_ 8
  if s.bad at_ 8 then .error 2 else if e % 2 = 0 then .error 1 else if pteBad level fabric e then .error 2 else .ok e

/-- The context-table entry of a context (R151). -/
def State.ctxEntry (s : State) (ctx : Nat) : Nat := s.ctxbase.toNat % 2 ^ 47 + 32 * ctx

/-- It holds an uncorrectable error. -/
def State.ctxBad (s : State) (ctx : Nat) : Bool := s.bad (s.ctxEntry ctx) 32

/-- A page walk: a reason of R155, or the leaf, the frame it gives, and where the leaf stands. -/
def State.walkPage (s : State) (ctx : BitVec 6) (vpn : Nat) : Except Nat (Nat × Nat × Nat) :=
  let ent := s.ctxEntry ctx.toNat
  if s.bad ent 32 then .error 2
  else if (s.rdByte (ent + 16)).getLsbD 0 = false then .error 1
  else
    let fabric := fld vpn 30 2 == 1
    let root := s.rdN (if fabric then ent + 8 else ent) 8
    if fabric && root == 0 then .error 3
    else
      match s.walkLevel 1 fabric (root + 8 * fld vpn 18 12) with
      | .error r => .error r
      | .ok e1 =>
        let a2 := fld e1 16 32 * 65536 + 8 * fld vpn 9 9
        match s.walkLevel 2 fabric a2 with
        | .error r => .error r
        | .ok e2 =>
          if fld e2 4 2 = 2 then .ok (e2, fld e2 16 32 + vpn % 512, a2)
          else
            let a3 := fld e2 16 32 * 65536 + 8 * fld vpn 0 9
            match s.walkLevel 3 fabric a3 with
            | .error r => .error r
            | .ok e3 => .ok (e3, if fld e3 4 2 = 1 then fld e3 16 32 + vpn % 32 else fld e3 16 32, a3)

/-- The entry whose uncorrectable error ends a walk. -/
def State.walkError (s : State) (ctx : BitVec 6) (vpn : Nat) : Option Nat :=
  let ent := s.ctxEntry ctx.toNat
  let fabric := fld vpn 30 2 == 1
  let failed (a : Nat) : Option Nat := if s.bad a 8 then some a else none
  if s.bad ent 32 then some ent
  else
    let a1 := s.rdN (if fabric then ent + 8 else ent) 8 + 8 * fld vpn 18 12
    match s.walkLevel 1 fabric a1 with
    | .error _ => failed a1
    | .ok e1 =>
      let a2 := fld e1 16 32 * 65536 + 8 * fld vpn 9 9
      match s.walkLevel 2 fabric a2 with
      | .error _ => failed a2
      | .ok e2 => if fld e2 4 2 = 2 then none else failed (fld e2 16 32 * 65536 + 8 * fld vpn 0 9)

/-- A page forbids an access: reason 4, 5 or 6 of R155. -/
def pageForbids (pte : BitVec 64) (k : AccKind) : Option Nat :=
  if k.writes && pte.getLsbD 6 then some 4
  else if k == .fetch && pte.getLsbD 7 then some 5
  else if k == .atomic && pte.getLsbD 10 then some 6
  else none

/-- A new entry in a cache of n; a full one gives up an entry that a free value names (R154; log 10). -/
def tlbInstall (n fresh : Nat) (l : List TlbEntry) (e : TlbEntry) : List TlbEntry :=
  let l := l.filter fun x => !(x.ctx == e.ctx && x.vpn == e.vpn)
  if l.length < n then e :: l else e :: l.eraseIdx (Config.tlbVictim fresh % n)

/-- A waiter joins the walk of a page, or a new walk at the port core; past 64 it waits for a slot in order (R154). -/
def State.startWalk (s : State) (port : Nat) (ctx : BitVec 6) (vpn tile : Nat) (w : Waiter) : State :=
  s.modPort port fun p =>
    if p.walks.any fun x => x.ctx == ctx && x.vpn == vpn && x.fault.isNone then
      { p with walks := p.walks.map fun x => if x.ctx == ctx && x.vpn == vpn && x.fault.isNone then { x with waiters := x.waiters ++ [w] } else x }
    else
      let slot := if p.walks.length < 64 then ((List.range 64).find? fun i => p.walks.all fun x => x.slot != i).getD 64 else 64
      { p with walks := p.walks ++ [⟨slot, ctx, vpn, tile, [w], none, false⟩] }

/-- The issuing bundle keeps its place (R102). -/
def State.stall (s : State) : State := { s with iss := { s.iss with stalled := true } }

/-- A thread waits for a translation. -/
def State.threadWalk (s : State) (th vpn : Nat) : State :=
  let l := coreOfTh th
  let t := if isTileCore l then tileOf l else 8
  (s.startWalk (portOf l) (s.thr th).ctx vpn t (.thread th)).modThr th fun x => { x with walk := .waiting vpn }

/-- The issuing thread waits for a translation (R238). -/
def State.stallWalk (s : State) (vpn : Nat) : State := (s.threadWalk s.cur vpn).stall

/-! ## The checks of an access (R150, R155, R159 to R161, R238) -/

/-- Where an access leads. -/
inductive Reach where
  /-- A key and the page's entry, 0 for on-chip space. -/
  | at_ (key : Nat) (pte : BitVec 64)
  | trap (t : Trap)
  | walk (vpn : Nat)
  deriving DecidableEq, Repr

/-- What only context 0 does (R150): a store, atomic or RED to a port core's page, a store to OWNER. -/
def ctx0Target (va size : Nat) (k : AccKind) : Bool :=
  let (off, n) := k.span (fld va 0 26) size
  fld va 45 19 == 6 && fld va 42 3 < 6 && fld va 29 2 == 0 && k.writes && k != .reclaim &&
    ((fld va 26 3 == 5 && fld va 31 4 == 8 && fld va 0 26 < 0x10000)
      || (k != .atomic && fld va 26 3 == 4 && fld va 31 4 < 8 && off < 0xFF08 && off + n > 0xFF00))

/-- Pages of a save area of 720 KiB (R162). -/
def areaPages : Nat := 12
/-- A physical address lies in an area. -/
def inArea (frames : List Nat) (a : Nat) : Bool := frames.contains (a / 65536) && frames.idxOf (a / 65536) * 65536 + a % 65536 < 737280
/-- A physical address lies in a save area, which only context 0 reaches (R150). -/
def State.inSave (s : State) (key : Nat) : Bool := isHbm key && s.saves.any fun x => inArea x.frames key

/-- A thread is held to the pre-emption column: a pre-empting one, and a callee that one has called (R161). -/
def Thread.confined (t : Thread) : Bool := t.part || t.col

/-- A range lies in the other column of R161, for scratchpad offsets and activation-buffer offsets. -/
def crosses (t : Thread) (off size lo hi : Nat) : Bool :=
  if t.confined then off < lo || off + size > hi else t.cls.toNat ≥ 2 && off < hi && off + size > lo

/-- Descriptors and semaphores of a control page that stand in the other column (R161, R300). -/
def ctlCrosses (t : Thread) (off size : Nat) : Bool :=
  let meets (lo hi : Nat) : Bool := off < hi && lo < off + size
  if t.confined then meets 0 0x180 || meets 0x200 0x230 else t.cls.toNat ≥ 2 && (meets 0x180 0x200 || meets 0x230 0x240)

/-- A global address that the issuing thread can translate lies in a save area (R150, R162). -/
def State.saveHit (s : State) (va : BitVec 64) : Bool :=
  fld va.toNat 46 18 == 0 && match s.tlbFind s.lcore s.me.ctx (va.toNat / 65536) with
    | some e => s.inSave (e.frame * 65536 + va.toNat % 65536)
    | none => false

/-- The context-0 check of an address (R150, R205 stage 4). -/
def State.ctx0Trap (s : State) (va : BitVec 64) (size : Nat) (k : AccKind) : Option Trap :=
  if s.me.ctx != 0 && (ctx0Target va.toNat size k || s.saveHit va) then some ⟨4, cAccess, 19, some va⟩ else none

/-- The checks on the address alone: alignment and the address check (R238 steps 2 and 3). -/
def State.addrTrap (s : State) (va : BitVec 64) (size : Nat) (k : AccKind) : Option Trap :=
  firstTrap
    [ (va.toNat % size != 0, ⟨8, cMisaligned, Nat.log2 size + (if k.writes then 8 else 0), some va⟩),
      (fld va.toNat 48 16 != 0 || fld va.toNat 46 2 == 2 || (fld va.toNat 46 2 == 3 && (onchip s.lcore va.toNat size).isNone), trapAccess 16 va) ]

/-- The context-0 check of an access, and then those of its address (R150, R238). -/
def State.vaTrap (s : State) (va : BitVec 64) (size : Nat) (k : AccKind) : Option Trap :=
  match s.ctx0Trap va size k with
  | some t => some t
  | none => s.addrTrap va size k

/-- The checks of an on-chip address that passed R18: its space (R160, R245, R250, R300), its owner (R159), its column
(R161). On a stack core's own SRAM only the first 64 KiB are a scratchpad (R8). -/
def State.padTrap (s : State) (key size : Nat) (va : BitVec 64) (k : AccKind) : Option Trap :=
  let sp := spaceOf key
  let padOnly := k.isWord || k == .atomic
  let (off, n) := k.span (offOf key) size
  if key ≥ stackBase then (if k == .fetch || (padOnly && offOf key + size > 65536) then some (trapAccess 16 va) else none)
  else firstTrap
    [ ((padOnly && sp != 0) || k == .fetch, trapAccess 16 va),
      (s.me.ctx != 0 && keyPort key, trapAccess 18 va),
      (sp == 4 && k.writes && !(0xFF00 ≤ off && off + n ≤ 0xFF08), trapAccess 16 va),
      (sp == 1 || sp == 3 || (sp == 2 && !(isTileCore s.lcore && keyTile key == s.myT && coreOf s.lcore == 1)), ⟨8, cBuffer, sp, some va⟩),
      (s.denied s.me.ctx key, trapAccess 18 va),
      (sp == 0 && !keyPort key && crosses s.me (offOf key) size 0x8000 0xA000, trapAccess 20 va),
      (sp == 2 && crosses s.me (offOf key) size 0x1C000 0x20000, trapAccess 20 va),
      (sp == 4 && ctlCrosses s.me off n, trapAccess 20 va) ]

/-- An access that has passed its other checks has a route to its home (R181). -/
def State.byRoute (s : State) (va : BitVec 64) (key : Nat) (pte : BitVec 64) : Reach :=
  if isLocalKey s.lcore key || s.routes s.lcore key then .at_ key pte else .trap (trapAccess 22 va)

/-- Where an access of the issuing thread leads (R238): a fetch only into global memory (R190), a scratchpad word
nowhere else (R245), an atomic not through the fabric window (R348). -/
def State.reach (s : State) (va : BitVec 64) (size : Nat) (k : AccKind) : Reach :=
  match s.vaTrap va size k with
  | some t => .trap t
  | none =>
    let a := va.toNat
    if fld a 46 2 = 3 then
      match onchip s.lcore a size with
      | none => .trap (trapAccess 16 va)
      | some key =>
        match s.padTrap key size va k with
        | some t => .trap t
        | none => s.byRoute va key 0
    else if k.isWord || (fld a 46 2 == 1 && (k == .fetch || k == .atomic)) then .trap (trapAccess 16 va)
    else
      let vpn := a / 65536
      match s.tlbFind s.lcore s.me.ctx vpn with
      | some e =>
        match pageForbids e.pte k with
        | some r => .trap (trapAccess r va)
        | none =>
          s.byRoute va ((if fld a 46 2 = 1 then fabricBase else 0) + e.frame * 65536 + a % 65536) e.pte
      | none =>
        match s.me.walk with
        | .failed v r => if v = vpn then .trap ⟨8, cPageFault, r, some va⟩ else .walk vpn
        | _ => .walk vpn

/-! ## Uncorrectable errors (R177) -/

/-- The port core that logs for a key: its group's, or its channel's (R177, R179). -/
def logPort (key : Nat) : Nat := if isHbm key then portOfChan (chanOf (key / 65536)) else portOf (coreOfKey key)

/-- Logs an uncorrectable error at a key. -/
def State.logUnc (s : State) (key ctx : Nat) : State :=
  if isHbm key then s.postErr (logPort key) 0x03 ctx key
  else s.postErr (logPort key) 0x02 ctx (coreOfKey key * 2 ^ 32 + spaceOf key % 8 * 2 ^ 26 + offOf key)

/-- Logs a RED that meets an error (R177). -/
def State.logRed (s : State) (ctx key : Nat) : State := s.postErr (logPort key) 0x05 ctx key

/-- Logs the error of a context-table entry that one has been read from (R151, R177). -/
def State.logCtx (s : State) (ctx : Nat) : State := if s.ctxBad ctx then s.logUnc (s.ctxEntry ctx) ctx else s

/-- INFO of ECC_UNCORRECTED for a key. -/
def eccInfo (key : Nat) : Nat := if isHbm key || key ≥ fabricBase then 3 else if key < stackBase && spaceOf key == 2 then 2 else 1

/-! ## What a home does (R77, R88, R90, R91) -/

/-- The bytes of a tile control page (R300). -/
def State.ctlByte (s : State) (t off : Nat) : Byte :=
  let x := s.tile t
  if off < 0x200 then byteOf (x.desc.toList.getD (off / 32) 0) (off % 32)
  else if off < 0x240 then byteOf (x.sem.toList.getD ((off - 0x200) / 4) 0) (off % 4)
  else if 0x300 ≤ off && off < 0x400 then byteOf (x.hist.toList.getD ((off - 0x300) / 4) 0) (off % 4)
  else if 0x400 ≤ off && off < 0x404 then byteOf x.zcnt (off % 4)
  else if 0x404 ≤ off && off < 0x408 then byteOf x.spcnt (off % 4)
  else if off = 0xFF00 then x.ctx.setWidth 8 ||| (if x.scrub then 0x80 else 0)
  else 0

/-- One byte as a load sees it: memory, a control page, or a peer's answer (R300, R348). -/
def State.loadByte (s : State) (k : Nat) : Byte :=
  if k ≥ fabricBase then Config.peerByte (k - fabricBase) s.fresh
  else if !isHbm k && k < stackBase && spaceOf k == 4 then s.ctlByte (keyTile k) (offOf k)
  else s.rdByte k

/-- n bytes as a load sees them, little-endian. -/
def State.loadN (s : State) (k : Nat) : Nat → Nat
  | 0 => 0
  | n + 1 => (s.loadByte k).toNat + 256 * State.loadN s (k + 1) n

/-- The masked bytes of a part, as a word. -/
def maskedN (m : BitVec 64) (x n : Nat) : Nat := ((BitVec.ofNat 512 x) &&& byteMask m).toNat % 2 ^ (8 * n)

/-- The 4-byte words that the masked bytes of a range touch. -/
def wordsOf (key len : Nat) (m : BitVec 64) : List Nat :=
  (((List.range len).filter fun i => m.getLsbD i).map fun i => (key + i) / 4).eraseDups

/-- Writes the masked bytes of a range. -/
def State.putBytes (s : State) (key : Nat) (m : BitVec 64) (data : Nat) : Nat → State
  | 0 => s
  | n + 1 =>
    let s := State.putBytes s key m data n
    if m.getLsbD n then s.wrByte (key + n) (BitVec.ofNat 8 (data / 256 ^ n)) else s

/-- Puts a value that a load read into its register write: a scalar is extended, a vector takes it at its place. -/
def fillWrite (sext : Bool) (p : Part) (x : Nat) : RegWrite → RegWrite
  | .s r y => .s r (if sext then BitVec.ofInt 64 (sOf (8 * p.len) (y.toNat + x)) else BitVec.ofNat 64 (y.toNat + x))
  | .v r y m t => .v r (y ||| BitVec.ofNat 512 (x * 256 ^ p.off)) m t
  | w => w

/-- A request's result: part p read x. -/
def State.fillPend (s : State) (r : Req) (p : Part) (x : Nat) : State :=
  s.modThr r.th fun t => { t with
    pend := t.pend.map fun q => if q.rid = some r.rid then { q with writes := q.writes.map (fillWrite r.sext p x) } else q }

/-- A request changes its state in the network. -/
def State.setReq (s : State) (rid : Nat) (f : Req → Req) : State :=
  { s with net := s.net.map fun r => if r.rid = rid then f r else r }

/-- A request leaves the network. -/
def State.dropReq (s : State) (rid : Nat) : State := { s with net := s.net.filter fun r => r.rid != rid }

/-- A request by number. -/
def State.req (s : State) (rid : Nat) : Option Req := s.net.find? fun r => r.rid == rid

/-- The forms held at issue (R358): their answer goes to the waiting bundle. -/
def ReqKind.heldAtIssue : ReqKind → Bool
  | .owner | .page | .semv _ | .vrcl _ | .barrier _ | .gqry | .lcmw .. => true
  | _ => false

/-- The request holds a bundle. -/
def State.holds (s : State) (r : Req) : Bool :=
  match (s.thr r.th).park with
  | .held rid _ _ => rid == r.rid
  | _ => false

/-- A request is done: its held bundle has its answer, or its result is ready to land. -/
def State.completeHere (s : State) (r : Req) (value : BitVec 64) : State :=
  if r.kind.heldAtIssue && s.holds r then s.setReq r.rid fun q => { q with st := .answered none value }
  else
    (s.dropReq r.rid).modThr r.th fun t => { t with
      pend := t.pend.map fun q => if q.rid = some r.rid then { q with ready := true } else q }

/-- A home completes a request, and answers it. -/
def State.complete (s : State) (r : Req) (value : BitVec 64) : State := (s.answerFrom r r.home 8).completeHere r value

/-- A request fails: precisely for a form held at issue (R358), else with a deferred failure (R166, R239). -/
def State.failHere (s : State) (r : Req) (cause : BitVec 8) (info : Nat) (va : Option (BitVec 64)) : State :=
  let v : Option (BitVec 48) := va.map (·.setWidth 48)
  if r.kind.heldAtIssue && s.holds r then s.setReq r.rid fun q => { q with st := .answered (some (cause, BitVec.ofNat 26 info, v)) 0 }
  else
    let f : Failure := ⟨cause, BitVec.ofNat 26 info, v, r.src⟩
    let s := s.dropReq r.rid
    if (s.thr r.th).pend.any fun q => q.rid = some r.rid then
      s.modThr r.th fun t => { t with
        pend := t.pend.map fun q => if q.rid = some r.rid then { q with ready := true, fail := some f } else q }
    else s.hold r.th f

/-- A home fails a request, and answers it. -/
def State.failReq (s : State) (r : Req) (cause : BitVec 8) (info : Nat) (va : Option (BitVec 64)) : State :=
  (s.answerFrom r r.home 0).failHere r cause info va

/-- A request's target refuses it (R112, R118, R119). -/
def State.refuseReq (s : State) (r : Req) : State :=
  (s.answerFrom r r.home 0).setReq r.rid fun q => { q with st := .refused, refusals := q.refusals + 1 }

/-- A drained tile refuses a request with the drained mark (R182). -/
def State.drainReq (s : State) (r : Req) : State := (s.answerFrom r r.home 0).setReq r.rid fun q => { q with st := .drained s.tick }

/-- Bytes of the values that a request's home returns with its answer. -/
def Req.answerBytes (r : Req) (node : Nat) : Nat :=
  match r.kind with
  | .load | .amo .. | .amoc .. | .ldv _ | .ldfe => ((r.parts.filter fun p => p.node == node).map Part.len).foldl (· + ·) 0
  | _ => 0

/-- Part j of a request is done: its home answers with the last part that it has, and the request is complete with its last
part of all. -/
def State.partDone (s : State) (r : Req) (j : Nat) : State :=
  let parts := r.parts.mapIdx fun i p => if i = j then { p with done := true } else p
  let node := match r.parts[j]? with | some p => p.node | none => r.node
  let s := if parts.all fun p => p.done || p.node != node then s.answerFrom r node (r.answerBytes node) else s
  if parts.all (·.done) then s.completeHere r 0 else s.setReq r.rid fun q => { q with parts := parts }

/-- The condition of an LDV (R88). -/
def ldvHolds (v ver : BitVec 6) : Bool := (v - ver).toNat < 32

/-- A request waits at its home. -/
def Req.isParked (r : Req) : Bool :=
  match r.st with
  | .parked _ => true
  | _ => false
/-- Its place in arrival order. -/
def Req.place (r : Req) : Nat :=
  match r.st with
  | .parked n => n
  | _ => 0
/-- The word a request concerns, by its first part. -/
def Req.word (r : Req) : Nat := match r.parts with
  | p :: _ => p.key / 4
  | [] => 0

/-- A parked LDV whose condition holds takes the word's value, or fails where the word cannot be corrected (R88, R177). -/
def State.serveLdv (s : State) (r : Req) : State :=
  match r.kind, r.parts with
  | .ldv ver, p :: _ =>
    if r.isParked && ldvHolds (s.tag (p.key / 4)).ver ver then
      if s.bad p.key 4 then (s.logUnc p.key r.ctx.toNat).failReq r cEcc (eccInfo p.key) (some p.va)
      else (s.fillPend r p (s.rdN p.key 4)).partDone r 0
    else s
  | _, _ => s

/-- Every parked LDV on a word is re-evaluated (R88). -/
def State.wakeLdv (s : State) (word : Nat) : State :=
  ((s.net.filter fun r => r.isParked && r.word == word)).foldl State.serveLdv s

/-- A write to a scratchpad word: VER advances, its watcher's ready bit is set unless the watcher wrote, parked LDVs are
re-evaluated (R88, R91). -/
def State.wordWritten (s : State) (writer : Option Nat) (word : Nat) : State :=
  let s := s.modTag word fun g => { g with ver := g.ver + 1 }
  let s := match (s.core (coreOfKey (word * 4))).watches.find? fun x => x.1 == word with
    | some (_, th) => if writer = some th then s else s.modThr th fun t => { t with ready := true }
    | none => s
  s.wakeLdv word

/-- A write makes a resident line dirty: what HBM holds of it is kept (R140, R177). -/
def State.markDirty (s : State) (key len : Nat) : State :=
  if isHbm key then
    s.modPort (portOfChan (chanOf (key / 65536))) fun p => { p with
      lines := p.lines.map fun x =>
        if x.was.isNone && x.line * 128 < key + len && key < x.line * 128 + 128 then { x with was := some (BitVec.ofNat 1024 (s.rdN (x.line * 128) 128)) } else x }
  else s

/-- A store covers whole 8-byte units, whose errors it replaces. -/
def State.cleanUnits (s : State) (key len : Nat) (m : BitVec 64) : State :=
  if s.upsets = [] then s
  else { s with upsets := s.upsets.filter fun u =>
    !(key ≤ u * 8 && u * 8 + 8 ≤ key + len && (List.range 8).all fun i => m.getLsbD (u * 8 - key + i)) }

/-- Bytes written at their home: each scratchpad word among them counts as written once (R77, R84, R88, R91); with `again`
the first one has counted before. -/
def State.homeWrite (s : State) (writer : Option Nat) (key len : Nat) (m : BitVec 64) (data : Nat) (again : Bool) : State :=
  if key ≥ fabricBase then { s with outbound := s.outbound ++ [⟨key - fabricBase, len, m, BitVec.ofNat 512 data, true, false⟩] }
  else
    let s := ((s.markDirty key len).putBytes key m data len).cleanUnits key len m
    if isPad key then ((wordsOf key len m).filter fun w => !(again && w == key / 4)).foldl (fun s w => s.wordWritten writer w) s else s

/-- A store applied at its home (R77, R84, R88, R91). Through the fabric window its bytes go to the peer, with ORD, and with
REL after a FENCE (R348). -/
def State.homeStore (s : State) (writer : Option Nat) (key len : Nat) (m : BitVec 64) (data : Nat) (rel : Bool) : State :=
  if key ≥ fabricBase then { s with outbound := s.outbound ++ [⟨key - fabricBase, len, m, BitVec.ofNat 512 data, true, rel⟩] }
  else s.homeWrite writer key len m data false

/-! ## Requests on their way (R76, R82, R83, R86) -/

/-- Accesses whose performance releases, fences and holds wait for (R78, R86). -/
def ReqKind.isAccess : ReqKind → Bool
  | .reply .. | .faultRec .. | .send .. | .spawn .. | .rcall .. | .migr _ => false
  | _ => true

/-- Reads that ACQ waits for: loads, LDV, LDFE and atomics with return (R86). -/
def ReqKind.returns : ReqKind → Bool
  | .load | .amo .. | .amoc .. | .ldv _ | .ldfe | .gqry => true
  | _ => false

/-- Writes that a REL fence holds (R86). -/
def ReqKind.isWrite : ReqKind → Bool
  | .load | .ldv _ | .ldfe | .gqry => false
  | _ => true

/-- A key lies in a fence's scope (R87). A stack core belongs to no tile, group, super-group or die's on-chip space: up to
the scope DIE a fence of it covers its own SRAM alone. A port core belongs to no tile: with scope TILE its fence covers its own
scratchpad and page of registers. The spec leaves both open (log 54). -/
def inScope (l scope key : Nat) : Bool :=
  let c := coreOfKey key
  if scope ≥ 6 then true
  else if key ≥ fabricBase then false
  else if scope = 5 then true
  else if isHbm key then false
  else if isStack l || key ≥ stackBase then c == l
  else match scope with
  | 0 => c == l && spaceOf key == 0
  | 1 => c / 4 == l / 4
  | 2 => c / 36 == l / 36
  | 3 => c / 576 == l / 576
  | _ => c / 4608 == l / 4608

/-- The earlier accesses of a thread, before a place in its order, that are not yet performed. -/
def State.earlier (s : State) (th seq : Nat) : List Req :=
  s.net.filter fun r => r.th == th && r.src.seq < seq && r.kind.isAccess

/-- A part in a fence's scope is still to be performed. -/
def Req.openIn (r : Req) (l scope : Nat) : Bool := r.parts.any fun p => !p.done && inScope l scope p.key

/-- Of REL fences one still holds a write of a thread at a place in its order (R86). -/
def State.fencesHold (s : State) (fs : List RelFence) (th l seq : Nat) : Bool :=
  fs.any fun f => f.seq < seq && (s.earlier th f.seq).any fun r => r.openIn l f.scope

/-- A REL fence of a thread still holds a later write (R86). -/
def State.relHolds (s : State) (th seq : Nat) : Bool := s.fencesHold (s.thr th).fences th (coreOfTh th) seq

/-- Two parts touch one aligned 32-byte block. -/
def sameBlock (p q : Part) : Bool := p.key / 32 ≤ (q.key + q.len - 1) / 32 && q.key / 32 ≤ (p.key + p.len - 1) / 32

/-- An access stands earlier in its thread's order: of an earlier bundle, or slot A's of the same one (R82, R287). -/
def Src.before (a b : Src) : Bool := a.seq < b.seq || (a.seq == b.seq && !a.slotB && b.slotB)

/-- An earlier request of the thread to one of the blocks is not yet accepted (R82). -/
def State.blockBusy (s : State) (th : Nat) (src : Src) (ps : List Part) : Bool :=
  s.net.any fun r => r.th == th && r.src.before src && !r.isParked && r.parts.any fun q => !q.done && ps.any (sameBlock q)

/-- No earlier request of the die is on its way to the same endpoint of the fabric (R345, R348). -/
def State.firstOut (s : State) (r : Req) (p : Part) : Bool :=
  p.key < fabricBase || s.net.all fun q => q.rid ≥ r.rid || dieOfCore q.lcore != dieOfCore r.lcore
    || q.parts.all fun x => x.done || x.key < fabricBase || epOfKey x.key != epOfKey p.key

/-- Nothing of its own thread holds part j of a request back (R78, R82, R86). -/
def State.mayGo (s : State) (r : Req) (j : Nat) : Bool :=
  match r.parts[j]? with
  | none => r.parts.isEmpty && (!r.hold || (s.earlier r.th r.src.seq).isEmpty)
  | some p =>
    !p.done && (!r.hold || (s.earlier r.th r.src.seq).isEmpty)
      && !(r.kind.isWrite && s.fencesHold r.fences r.th r.lcore r.src.seq)
      && !s.blockBusy r.th r.src [p]
      -- a scatter's elements reach each home in lane order (R244)
      && !(r.kind.isWrite && (r.parts.take j).any fun q => !q.done && homeOfKey q.key == homeOfKey p.key)
      && s.firstOut r p

/-- Part j of request rid is still to be performed. -/
def State.undone (s : State) (rid j : Nat) : Bool :=
  match s.req rid with
  | some r => (r.parts[j]?).any fun p => !p.done
  | none => false

/-- Of the accesses that a moved frame's old home has held none stands before this one (R144). -/
def State.inTurn (s : State) (rid j : Nat) : Bool :=
  s.ports.all fun x => !x.2.passed.contains (rid, j) || (x.2.passed.takeWhile (· != (rid, j))).all fun y => !s.undone y.1 y.2

/-- Part j of a request may be performed: its packet has come, and its holds have ended (R127, R144). -/
def State.mayArrive (s : State) (r : Req) (j : Nat) : Bool :=
  r.reached (match r.parts[j]? with | some p => p.node | none => r.home) && s.mayGo r j && s.inTurn r.rid j

/-- The tile of a target refuses requests from other cores: it is drained or under scan (R182, R237). -/
def State.refuses (s : State) (k : Nat) : Bool :=
  k < stackBase && !isHbm k && !keyPort k && ((s.tile (keyTile k)).drain == .drained || (s.tile (keyTile k)).scan.isSome)

/-- The core at which a request waits. -/
def Req.homeCore (r : Req) : Nat :=
  match r.kind, r.parts with
  | .rcall u .., _ => u
  | .migr u, _ => u
  | _, p :: _ => coreOfKey p.key
  | _, [] => r.lcore

/-- Requests in a core's parked-request table: those of other cores, and arrivals that wait for a position (R111). -/
def State.parkedAt (s : State) (l : Nat) : Nat :=
  (s.net.filter fun r => r.isParked && r.homeCore == l && (r.lcore != l || r.parts.isEmpty)).length

/-- A request waits at its home, or is refused where another core's finds the table full (R111, R112). -/
def State.parkReq (s : State) (r : Req) : State :=
  let l := r.homeCore
  if (r.lcore != l || r.parts.isEmpty) && s.parkedAt l ≥ 32 then s.refuseReq r
  else
    -- its entry to the table is an acceptance, which ends the count of refusals
    let s := { s.setReq r.rid (fun q => { q with st := .parked s.arrivals, refusals := 0 }) with arrivals := s.arrivals + 1 }
    -- a thread that waits on its own core's word is on the wait list
    if r.lcore = l && !r.parts.isEmpty then s.modThr r.th fun t => if t.occ && t.park = .none then { t with park := .word r.rid } else t else s

/-! ## Atomics (R250) -/

/-- New value of an atomic on w bits. -/
def amoNew (op : Nat) (w : Nat) (old b : Nat) : Nat :=
  match op with
  | 0 => (old + b) % 2 ^ w
  | 1 => Nat.land old b
  | 2 => Nat.lor old b
  | 3 => Nat.xor old b
  | 4 => if sOf w old ≤ sOf w b then old else b
  | 5 => if sOf w old ≤ sOf w b then b else old
  | 6 => min old b
  | 7 => max old b
  | 8 => b
  | _ => (FF.f32.add 0 0 old b).1

/-! ## Registers among the addresses -/

/-- The key is a tile's OWNER register (R158, R300). -/
def ownerKey (k : Nat) : Bool := !isHbm k && k < stackBase && !keyPort k && spaceOf k == 4
/-- The key is in a port core's page of registers (R142). -/
def pageKey (k : Nat) : Bool := !isHbm k && keyPort k && spaceOf k == 5
/-- The offset of the register that a key of a page lies in. -/
def pageOff (k : Nat) : Nat := offOf k / 8 * 8
/-- TREELD and CLGO act on 8-byte stores only (R350, R351). -/
def treeKey (k : Nat) : Bool := pageKey k && (pageOff k == 0x60 || pageOff k == 0x68)

/-! ## Full and empty words (R90) -/

/-- A request that waits on a word's full bit may be served. -/
def feReady (full : Bool) : ReqKind → Bool
  | .ldfe | .pmrg .. => full
  | .stfe | .inbox .. => !full
  | _ => false

end Sys2Proof.Machine
end

