-- ==== Sys2Proof/Machine/Slice.lean ====
section
/-! DEFINITION. How a home reaches its memory: the encodings of a COMPRESS block (R139), the cache slice with its misses, fills
and write-backs (R140, R141, R177), and the channel controller that serves them (R136, R137). An access to global memory is
performed once its line stands in the slice, or, on a NEAR page, once memory has served it (log 41). -/

namespace Sys2Proof.Machine

/-! ## Blocks of a COMPRESS page (R139) -/

/-- A block as it stands in memory: its code, the bytes of its bursts as a number, and what the side-band carries beside the
code. -/
structure Encoded where
  code : Nat
  body : Nat
  side : Nat
  deriving DecidableEq, Repr

/-- Byte j of word i of a block. -/
def blockByte (b : BitVec 1024) (i j : Nat) : Nat := getF b (32 * i + 8 * j) 8

/-- A byte plane: byte j of each of the 32 words, in word order. -/
def plane (b : BitVec 1024) (j : Nat) : Nat := packN 1 ((List.range 32).map fun i => blockByte b i j)

/-- A byte differs from the one before by −8 to +7. -/
def nearByte (a b : Nat) : Bool := a ≤ b + 8 && b ≤ a + 7

/-- Byte j of every word differs from that of the word before by −8 to +7. -/
def smoothPlane (b : BitVec 1024) (j : Nat) : Bool := (List.range 31).all fun i => nearByte (blockByte b i j) (blockByte b (i + 1) j)

/-- The differences of byte j from word to word, 4 bits each, word 0's field 0. -/
def deltas (b : BitVec 1024) (j : Nat) : Nat :=
  ((List.range 31).map fun i => (blockByte b (i + 1) j + 16 - blockByte b i j) % 16 * 16 ^ (i + 1)).foldl (· + ·) 0

/-- The encoding of a whole block: the first of 11, 10 and 01 whose condition holds, else raw (R139). -/
def encodeBlock (b : BitVec 1024) : Encoded :=
  if (List.range 32).all fun i => getF b (32 * i) 32 == getF b 0 32 then ⟨3, getF b 0 32, 0⟩
  else if (List.range 64).all fun i => getF b (16 * i + 8) 8 == getF b 8 8 then
    ⟨2, packN 1 ((List.range 64).map fun i => getF b (16 * i) 8), getF b 8 8⟩
  else if smoothPlane b 3 && smoothPlane b 2 then
    ⟨1, plane b 0 + 2 ^ 256 * plane b 1 + 2 ^ 512 * deltas b 3 + 2 ^ 640 * deltas b 2, blockByte b 0 3 + 256 * blockByte b 0 2⟩
  else ⟨0, b.toNat, 0⟩

/-- Bursts of 32 bytes that a block of a code moves in. -/
def burstsOf (code : Nat) : Nat := 4 - code

/-- The byte that a plane's deltas give word i. -/
def undelta (first ds : Nat) : Nat → Nat
  | 0 => first
  | i + 1 =>
    let d := ds / 16 ^ (i + 1) % 16
    (undelta first ds i + (if d < 8 then d else d + 240)) % 256

/-- The block that an encoding stands for. -/
def decodeBlock (e : Encoded) : BitVec 1024 :=
  match e.code with
  | 3 => BitVec.ofNat 1024 (packN 4 (List.replicate 32 (e.body % 2 ^ 32)))
  | 2 => BitVec.ofNat 1024 (packN 2 ((List.range 64).map fun i => fld e.body (8 * i) 8 + 256 * e.side))
  | 1 => BitVec.ofNat 1024 (packN 4 ((List.range 32).map fun i =>
      fld e.body (8 * i) 8 + 256 * fld e.body (256 + 8 * i) 8 + 2 ^ 24 * undelta (e.side % 256) (fld e.body 512 128) i
        + 2 ^ 16 * undelta (e.side / 256) (fld e.body 640 128) i))
  | _ => BitVec.ofNat 1024 e.body

/-! ## The slice (R140, R141) -/

/-- The set of a line: the lines of a channel count on through its frames (R140, R143; log 41). -/
def setOf (line : Nat) : Nat := (line * 128 / 65536 / 768 * 512 + line % 512) % 1024

/-- The line of a key, and the lines of a range. -/
def linesOf (key len : Nat) : List Nat := if (key + len - 1) / 128 = key / 128 then [key / 128] else [key / 128, (key + len - 1) / 128]

/-- Eviction rank of a class (R142). -/
def rankOf (cprio : BitVec 64) (cls : BitVec 2) : Nat := getF cprio (2 * cls.toNat) 2

/-- Of two lines, most recent first, the one that is the better victim (R141). -/
def victimOf (cprio : BitVec 64) (a b : Line) : Line :=
  let z : Line → Nat := fun x => if x.count = 0 then 0 else 1
  if z b < z a || (z b == z a && rankOf cprio b.cls ≤ rankOf cprio a.cls) then b else a

/-- A slice's lines after an access to one: the fill's own access is no hit; a hit decrements a count of 1 to 14 (R140). -/
def hitLine (ls : List Line) (line : Nat) : List Line :=
  match ls.find? fun x => x.line == line with
  | some x =>
    { x with new := false, count := if !x.new && 1 ≤ x.count.toNat && x.count.toNat ≤ 14 then x.count - 1 else x.count } :: ls.filter fun y => y.line != line
  | none => ls

/-- The port of a key's channel. -/
def memPort (key : Nat) : Nat := portOfChan (chanOf (key / 65536))

/-- Memory is ready for an access to a range: it is no global memory, its lines stand in the slice, or, on a NEAR page, memory
has served them. -/
def State.memReady (s : State) (key len : Nat) (pte : BitVec 64) : Bool :=
  !isHbm key || (linesOf key len).all fun l =>
    if pte.getLsbD 9 then (s.port (memPort key)).direct.contains l else (s.port (memPort key)).lines.any fun x => x.line == l

/-- Two misses are one: for one line, both of the slice, or both past it. -/
def Miss.same (a b : Miss) : Bool := a.line == b.line && a.near == b.near

/-- Misses of the slice that are outstanding, all or in one set (R141). -/
def Port.outstanding (p : Port) (set : Option Nat) : Nat := (p.misses.filter fun m => m.started && !m.near && (set.isNone || set == some (setOf m.line))).length

/-- A waiting miss is within the limits of 64 outstanding ones and 8 in its set (R141). -/
def Port.mayFill (p : Port) (m : Miss) : Bool := !m.started && (m.near || (p.outstanding none < 64 && p.outstanding (some (setOf m.line)) < 8))

/-- The claim that stands before the others of a list (R128). -/
def State.first {α : Type} (s : State) (f : α → Claim) (l : List α) : Option α :=
  l.foldl (fun b x => match b with
    | none => some x
    | some y => if s.older (f x) (f y) then some x else some y) none

/-- A unit of 8 bytes of a line. -/
def unitOf (line u : Nat) : Bool := u * 8 / 128 == line

/-- A line leaves its slice (R140, R141, R177): the write-back of a dirty one joins the controller's queue; its words that fail
are not written, and HBM keeps what it held of them, with one LOST entry. What fails in the slice alone is gone with it. -/
def State.evict (s : State) (port : Nat) (x : Line) : State :=
  let failing := s.upsets.filter (unitOf x.line)
  let s := s.modPort port fun p => { p with
    lines := p.lines.filter fun y => y != x
    queue := if x.was.isSome then p.queue ++ [⟨x.line, false, true, x.compress, ⟨s.tick, 0⟩, 0⟩] else p.queue }
  let s := { s with upsets := s.upsets.filter fun u => !unitOf x.line u || x.bad.contains u }
  match x.was with
  | none => s
  | some w =>
    if failing = [] then s
    else (failing.foldl (fun s u => s.wrN (u * 8) 8 (getF w (64 * (u % 16)) 64)) s).postErr port 0x04 0 (x.line * 128)

/-- The oldest waiting miss within the limits is sent to memory; where its set is full, a victim gives way (R141). -/
def State.startMiss (s : State) (port : Nat) : State :=
  let p := s.port port
  match s.first Miss.claim (p.misses.filter p.mayFill) with
  | none => s
  | some m =>
    let set := p.lines.filter fun x => setOf x.line == setOf m.line
    let s := if m.near || set.length + p.outstanding (some (setOf m.line)) < 16 then s
      else match set with
      | [] => s
      | y :: ys => s.evict port (ys.foldl (victimOf p.cprio) y)
    s.modPort port fun p => { p with
      misses := p.misses.map fun x => if x.same m then { x with started := true } else x
      queue := p.queue ++ [⟨m.line, m.near, m.near && m.write, m.compress, m.claim, 0⟩] }

/-- A line is asked for, unless it already is. -/
def State.askLine (s : State) (port : Nat) (m : Miss) : State :=
  if (s.port port).misses.any m.same then s
  else (s.modPort port fun p => { p with misses := p.misses ++ [m] }).startMiss port

/-- An access whose memory is not ready asks for its lines. -/
def State.askMem (s : State) (key len : Nat) (pte : BitVec 64) (write : Bool) (hint : Option (BitVec 2 × BitVec 4)) (c : Claim) : State :=
  let near := pte.getLsbD 9
  let p := s.port (memPort key)
  ((linesOf key len).filter fun l => !(if near then p.direct.contains l else p.lines.any fun x => x.line == l)).foldl
    (fun s l => s.askLine (memPort key) ⟨l, near, write, pte.getLsbD 11, hint, false, c, false⟩) s

/-! ## The controller (R136, R137) -/

/-- The levels in force: MCRFM's, or the reset ones while they are bad (R138). -/
def levels (mcrfm : BitVec 64) : List Nat :=
  let l1 := getF mcrfm 0 16
  let l2 := getF mcrfm 16 16
  let l3 := getF mcrfm 32 16
  if l1 < l2 && l2 < l3 && l1 ≥ 8 then [l1, l2, l3] else [24, 40, 56]

/-- A bank's window after some sub-windows have begun: 16 counts, newest first (R137). -/
def slideWindow (elapsed : Nat) (l : List Nat) : List Nat := (List.replicate (min elapsed 16) 0 ++ l).take 16

/-- One more activation. -/
def countAct (l : List Nat) : List Nat :=
  match l with
  | [] => [1]
  | n :: r => (n + 1) :: r

/-- The sub-window of tREFI/16 in which a TICK lies. -/
def subWindow (tick : Nat) : Nat := tick * 16 / max 1 Config.tRefi

/-- A bank is activated: its row opens, its count rises, and where that passes a level a refresh-management command is due
(R137). -/
def Port.activate (p : Port) (tick bank row : Nat) : Port :=
  let old := (p.acts.find? fun x => x.bank == bank).getD ⟨bank, subWindow tick, []⟩
  let w := slideWindow (subWindow tick - old.window) old.counts
  let n := w.foldl (· + ·) 0
  { p with
    rows := (bank, row) :: p.rows.filter fun x => x.1 != bank
    acts := ⟨bank, subWindow tick, countAct w⟩ :: p.acts.filter fun x => x.bank != bank
    rfm := match (levels p.mcrfm).findIdx? fun l => n + 1 == l with
      | some i => p.rfm ++ [(bank, i + 1)]
      | none => p.rfm }

/-- A bank serves claims: no refresh holds it, and no refresh-management command is due (R136, R137). -/
def Port.bankFree (p : Port) (tick bank : Nat) : Bool := !(p.blocked.any fun x => x.1 == bank && tick < x.2) && p.rfm.all fun x => x.1 != bank

/-- A claim finds its row open. -/
def Port.rowHit (p : Port) (r : MemReq) : Bool := p.rows.contains (Config.dramBank r.line, Config.dramRow r.line)

/-- The claim that a controller serves next (R136): one that row hits have passed 64 times, else the oldest row hit, else the
oldest; a bank that is blocked holds its own claims alone, and claims to one line keep their order. -/
def State.pickMem (s : State) (p : Port) : Option MemReq :=
  let ready := p.queue.zipIdx.filterMap fun x =>
    if p.bankFree s.tick (Config.dramBank x.1.line) && !(p.queue.take x.2).any (fun y => y.line == x.1.line) then some x.1 else none
  match s.first MemReq.claim (ready.filter fun r => r.passed ≥ 64) with
  | some r => some r
  | none => match s.first MemReq.claim (ready.filter p.rowHit) with
    | some r => some r
    | none => s.first MemReq.claim ready

/-- The bursts of a transfer of a block: fewer where it is compressed (R139). -/
def State.bursts (s : State) (line : Nat) (compress : Bool) : Nat :=
  burstsOf (if compress then (encodeBlock (BitVec.ofNat 1024 (s.rdN (line * 128) 128))).code else 0)

/-- The line that a fill brings (R140): a hinted one takes its class and count from the hint, any other class 3 and 0xF. -/
def State.filled (s : State) (m : Miss) : Line :=
  let (c, n) := m.hint.getD (3, 15)
  ⟨m.line, c, n, !m.ahead, none, m.compress, s.upsets.filter (unitOf m.line)⟩

/-- Memory has served a claim: a fill stands in the slice, an access past it may be performed. -/
def Port.served (p : Port) (r : MemReq) (fill : Miss → Line) : Port :=
  match p.misses.find? fun m => m.started && m.line == r.line && m.near == r.near && !(r.write && !r.near) with
  | none => p
  | some m =>
    let p := { p with misses := p.misses.filter fun x => x != m }
    if m.near then { p with direct := p.direct ++ [m.line] } else { p with lines := fill m :: p.lines }

/-- The controller of a port core serves its next claim (R136, R137, R139); older claims that a row hit passes are counted, and
a waiting miss takes the place that is free, also where nothing is due. -/
def State.serveMem (s : State) (port : Nat) : State :=
  match s.pickMem (s.port port) with
  | none => s.startMiss port
  | some r =>
    let bank := Config.dramBank r.line
    let s' := s.modPort port fun p =>
      let hit := p.rowHit r
      let rest := p.queue.erase r
      let p := { p with
        queue := if hit then rest.map fun (y : MemReq) => if s.older y.claim r.claim then { y with passed := y.passed + 1 } else y else rest
        blocked := p.blocked.filter fun x => s.tick < x.2
        xfer := some (r.line, r.write, s.bursts r.line r.compress) }
      (if hit then p else p.activate s.tick bank (Config.dramRow r.line)).served r s.filled
    s'.startMiss port

end Sys2Proof.Machine
end

