-- ==== Sys2Proof/Machine/Requests.lean ====
section
/-! DEFINITION. Requests at their homes: full and empty words (R90), the merge of partials (R69, R262), the cache slice
and the hot-page counts that an access moves (R140, R141, R144), the one operation by which a home applies part of a
request (R159), and the loads and stores of a thread (R239, R240). -/

namespace Sys2Proof.Machine

/-- A write of the L6's own units, as the maker of a request of context 0. -/
def Req.hw (p : Part) : Req where
  rid := 0
  th := noThread
  tid := 0
  lcore := 0
  ctx := 0
  lid := 0
  seed := 0
  cls := 0
  part := false
  root := noThread
  src := ⟨0, 0, false, 0⟩
  kind := .store
  parts := [p]
  st := .inflight
  refusals := 0
  born := 0
  sent := true
  legs := []
  fences := []
  lim := 0
  hold := false
  sext := false
  rel := false

/-! ## The merge of partials (R69) -/

/-- F32 −∞. -/
def f32NegInf : Nat := 0xFF800000
/-- A product rounded by RNE. -/
def f32Mul (a b : Nat) : Nat := (FF.f32.mul 0 0 a b).1
/-- A sum. -/
def f32Add (a b : Nat) : Nat := (FF.f32.add 0 0 a b).1
/-- A difference. -/
def f32Sub (a b : Nat) : Nat := (FF.f32.sub 0 0 a b).1
/-- a·b + c with one rounding. -/
def f32Fma (a b c : Nat) : Nat := (FF.f32.fma 0 0 a b c).1
/-- Maximum as VMAX. -/
def f32Max (a b : Nat) : Nat := (FF.f32.minMax true a b).1
/-- Minimum as VMIN. -/
def f32Min (a b : Nat) : Nat := (FF.f32.minMax false a b).1
/-- 2^x as VEXP2 with .rne. -/
def f32Exp2 (a : Nat) : Nat := ((exactExp2 (FF.f32.val a)).deliver .f32 0 0).1

/-- A partial: maximum, sum, output vector. -/
structure Partial where
  m : Nat
  s : Nat
  o : List Nat
  deriving DecidableEq, Repr

/-- Combine, left and right (R69). Where the maximum is +∞ its own partial has weight Exp2(∞ − ∞), a NaN, as the pseudocode
gives it, and not the 1 of the sentence after it (log 54). -/
def combine (a b : Partial) : Partial :=
  let m := f32Max a.m b.m
  if m = f32NegInf then ⟨m, 0, a.o.map fun _ => 0⟩
  else
    let w1 := if a.m = f32NegInf then 0 else f32Exp2 (f32Sub a.m m)
    let w2 := if b.m = f32NegInf then 0 else f32Exp2 (f32Sub b.m m)
    ⟨m, f32Fma b.s w2 (f32Mul a.s w1), (a.o.zip b.o).map fun (x, y) => f32Fma y w2 (f32Mul x w1)⟩

/-- A partial record in a scratchpad (R261). -/
def State.record (s : State) (key : Nat) : Partial := ⟨s.rdN key 4, s.rdN (key + 4) 4, (List.range 16).map fun i => s.rdN (key + 64 + 4 * i) 4⟩

/-- A record as PMRG keeps it while it waits: m, s and the vector; and the partial again (R262). -/
def Partial.toList (q : Partial) : List Nat := q.m :: q.s :: q.o
/-- The partial of a list. -/
def Partial.ofList : List Nat → Partial
  | m :: s :: o => ⟨m, s, o⟩
  | _ => ⟨0, 0, []⟩

/-- The bytes of a record, 64 without its vector. -/
def recBytes (q : Partial) (vec : Bool) : Nat := q.m + 2 ^ 32 * q.s + (if vec then 2 ^ 512 * packN 4 q.o else 0)

/-- Writes a partial as stores of 64-byte pieces. -/
def State.putRecord (s : State) (writer : Option Nat) (key : Nat) (q : Partial) (vec : Bool) : State :=
  let s := s.homeStore writer key 64 (BitVec.allOnes 64) (recBytes q false) false
  if vec then s.homeStore writer (key + 64) 64 (BitVec.allOnes 64) (packN 4 q.o) false else s

/-- The result register of a PMRG takes its value, once the outgoing record is written where there is one. -/
def State.pmrgResult (s : State) (th rid : Nat) (q : Partial) (next : Option Nat) : State :=
  s.modThr th fun t => { t with
    pend := t.pend.map fun p => if p.rid = some rid then
      { p with writes := p.writes.map (fun w => match w with | .s r _ => .s r (BitVec.ofNat 64 (q.m + 2 ^ 32 * q.s)) | w => w),
               rid := next, ready := next.isNone } else p }

/-- The end of a PMRG: its own record takes Q, and the outgoing record leaves for the next core (R262). `key` is the
record's address. -/
def State.pmrgSend (s : State) (th : Nat) (src : Src) (rid key : Nat) (q : Partial) (next : BitVec 64) (vec : Bool) : State :=
  let s := s.putRecord (some th) key q vec
  if next = BitVec.allOnes 64 then s.pmrgResult th rid q none
  else
    let l := next.toNat
    let k := padKey l (offOf key + 128)
    let bytes := leBytes (if vec then 128 else 64) (recBytes q vec)
    let r := s.newReq th src (.inbox l (offOf key + 128) bytes vec) [⟨k, BitVec.ofNat 64 k, 4, 0, 0xF, 0, 0, false⟩] true
    (s.pmrgResult th rid q (some s.nextRid)).addReq r

/-! ## Serving full and empty words (R90) -/

/-- A request on a word's full bit is served: LDFE takes the word and empties it, STFE writes and fills it, PMRG merges
its in-box, and an outgoing record is written. -/
def State.serveFe (s : State) (r : Req) : State :=
  match r.parts with
  | [] => s
  | p :: _ =>
    let w := p.key / 4
    match r.kind with
    | .ldfe =>
      if s.bad p.key 4 then (s.logUnc p.key r.ctx.toNat).failReq r cEcc (eccInfo p.key) (some p.va)
      else ((s.fillPend r p (s.rdN p.key 4)).modTag w fun g => { g with full := false }).partDone r 0
    | .stfe =>
      ((s.homeStore (some r.th) p.key 4 0xF p.data.toNat false).modTag w fun g => { g with full := true }).partDone r 0
    | .pmrg next vec own =>
      let key := p.key - 128
      if s.bad p.key (if vec then 128 else 8) then (s.logUnc p.key r.ctx.toNat).failReq r cEcc (eccInfo p.key) (some p.va)
      else
        let q := combine (s.record p.key) (.ofList own)
        let s := s.modTag w fun g => { g with full := false }
        (s.pmrgSend r.th r.src r.rid key q next vec).dropReq r.rid
    | .inbox _ _ bytes vec =>
      let x := leNat bytes
      let s := s.homeStore (some r.th) p.key 64 (BitVec.allOnes 64) (x % 2 ^ 512) false
      let s := if vec then s.homeStore (some r.th) (p.key + 64) 64 (BitVec.allOnes 64) (x / 2 ^ 512) false else s
      (s.modTag w fun g => { g with full := true }).partDone r 0
    | _ => s

/-- The first in arrival order of the waiting requests on a word that may be served. -/
def State.feHead (s : State) (word : Nat) : Option Req :=
  let full := (s.tag word).full
  (s.net.filter fun r => r.isParked && r.word == word && feReady full r.kind).foldl
    (fun b r => match b with
      | none => some r
      | some q => if r.place < q.place then some r else some q) none

/-- Serves the waiting requests of a word in arrival order while its full bit lets one go. -/
def State.serveWord (s : State) (word : Nat) : Nat → State
  | 0 => s
  | n + 1 =>
    match s.feHead word with
    | some r => State.serveWord (s.serveFe r) word n
    | none => s

/-- A request on a full bit reaches its word: it is served at once, or waits (R90). -/
def State.arriveFe (s : State) (r : Req) : State :=
  let w := r.word
  let s1 := if feReady (s.tag w).full r.kind then s.serveFe r else s.parkReq r
  s1.serveWord w s1.net.length

/-! ## Cache slices and hot pages (R140, R141, R144) -/

/-- One more access of a group to a page (R144). -/
def countHot (l : List (Nat × Nat × Nat)) (page grp : Nat) : List (Nat × Nat × Nat) :=
  if l.any fun x => x.1 == page && x.2.1 == grp then l.map fun x => if x.1 == page && x.2.1 == grp then (page, grp, x.2.2 + 1) else x
  else l ++ [(page, grp, 1)]

/-- An access to global memory finds its line in its home's slice, or takes what memory has served it past the slice (R140). -/
def State.hit (s : State) (key : Nat) (near : Bool) : State :=
  if isHbm key then
    s.modPort (memPort key) fun q => if near then { q with direct := q.direct.erase (key / 128) } else { q with lines := hitLine q.lines (key / 128) }
  else s

/-- An access of a group counts for its page; a NEAR page's home is no port core, and large pages are not counted (R144, R153). -/
def State.countPage (s : State) (key va : Nat) (pte : BitVec 64) (l : Nat) (ctx : BitVec 6) : State :=
  if isHbm key && !pte.getLsbD 9 && getF pte 4 2 = 0 then
    s.modPort (memPort key) fun q => { q with hot := countHot q.hot (va / 65536 % 2 ^ 32 * 64 + ctx.toNat) (l / 36) }
  else s

/-- An access of a group to global memory moves its home's slice and its page's count (R140, R144). -/
def State.touchWith (s : State) (key va : Nat) (pte : BitVec 64) (l : Nat) (ctx : BitVec 6) : State :=
  (s.hit key (pte.getLsbD 9)).countPage key va pte l ctx

/-- An access of part p by a core. -/
def State.touch (s : State) (p : Part) (l : Nat) (ctx : BitVec 6) : State := s.touchWith p.key p.va.toNat p.pte l ctx

/-- The entries that a walk reads, in order: address and length (R151 to R153). -/
def State.walkReads (s : State) (ctx : BitVec 6) (vpn : Nat) : List (Nat × Nat) :=
  let ent := s.ctxEntry ctx.toNat
  let fabric := fld vpn 30 2 == 1
  let root := s.rdN (if fabric then ent + 8 else ent) 8
  (ent, 32) ::
    if s.bad ent 32 || !(s.rdByte (ent + 16)).getLsbD 0 || (fabric && root == 0) then []
    else
      let a1 := root + 8 * fld vpn 18 12
      (a1, 8) :: match s.walkLevel 1 fabric a1 with
        | .error _ => []
        | .ok e1 =>
          let a2 := fld e1 16 32 * 65536 + 8 * fld vpn 9 9
          (a2, 8) :: match s.walkLevel 2 fabric a2 with
            | .error _ => []
            | .ok e2 => if fld e2 4 2 = 2 then [] else [(fld e2 16 32 * 65536 + 8 * fld vpn 0 9, 8)]

/-- A line that an access finds which one step performs (log 41): the slice's is hit, an absent one is filled after the access (R140),
and memory serves a NEAR page past the slice. -/
def State.visitLine (s : State) (l : Nat) (pte : BitVec 64) (write : Bool) : State :=
  s.modPort (memPort (l * 128)) fun p =>
    if pte.getLsbD 9 then { p with queue := p.queue ++ [⟨l, true, write, pte.getLsbD 11, ⟨s.tick, 0⟩, 0⟩] }
    else if p.lines.any fun x => x.line == l then { p with lines := hitLine p.lines l }
    else if p.misses.any fun m => m.line == l && !m.near then p
    else { p with misses := p.misses ++ [⟨l, false, write, pte.getLsbD 11, none, true, ⟨s.tick, 0⟩, false⟩] }

/-- The lines of n bytes of global memory that one step reads or writes. -/
def State.visit (s : State) (key n : Nat) (pte : BitVec 64) (write : Bool) : State :=
  if n != 0 && isHbm key then
    ((List.range ((key + n - 1) / 128 + 1 - key / 128)).map (key / 128 + ·)).foldl (fun s l => s.visitLine l pte write) s
  else s

/-- The entries that one step's translation reads. -/
def State.visitWalk (s : State) (ctx : BitVec 6) (vpn : Nat) : State := (s.walkReads ctx vpn).foldl (fun s x => s.visit x.1 x.2 0 false) s

/-- The lines of a page that one step reads or writes, from a to b, with the entries of its walk; the page counts them as an access of
core l (R140, R144; log 41). -/
def State.visitPage (s : State) (l : Nat) (ctx : BitVec 6) (write : Bool) (a b : Nat) : State :=
  let u := s.visitWalk ctx (a / 65536)
  match s.walkPage ctx (a / 65536) with
  | .error _ => u
  | .ok (pte, frame, _) =>
    let pte := BitVec.ofNat 64 pte
    let key := (if fld a 46 2 = 1 then fabricBase else 0) + frame * 65536 + a % 65536
    if (pageForbids pte (if write then .store else .load)).isSome then u else (u.visit key (b - a) pte write).countPage key a pte l ctx

/-- The lines of n bytes from va, in a context, that one step reads or writes for core l. -/
def State.visitVa (s : State) (l : Nat) (ctx : BitVec 6) (va n : Nat) (write : Bool) : State :=
  if n = 0 || fld va 46 2 ≥ 2 || fld va 48 16 != 0 then s
  else ((List.range ((va + n - 1) / 65536 + 1 - va / 65536)).map (va / 65536 + ·)).foldl
    (fun s vpn => s.visitPage l ctx write (max va (vpn * 65536)) (min (va + n) ((vpn + 1) * 65536))) s

/-- A frame is being moved: its old home holds new accesses (R144). -/
def State.frameHeld (s : State) (k : Nat) : Bool :=
  isHbm k && match (s.port (memPort k)).copy with
    | some c => c.fromFrame == k / 65536
    | none => false

/-- A home can perform an access now: its frame is not being moved, and memory is ready for it. -/
def State.homeReady (s : State) (p : Part) : Bool := !s.frameHeld p.key && s.memReady p.key p.len p.pte

/-- A home that cannot perform an access yet asks memory for it, or holds it, in order of arrival, while its frame is being
moved (R144). -/
def State.askPart (s : State) (p : Part) (write : Bool) (c : Claim) (held : Option (Nat × Nat)) : State :=
  if s.frameHeld p.key then
    match held with
    | some x => s.modPort (memPort p.key) fun q => { q with copy := q.copy.map fun c => if c.held.contains x then c else { c with held := c.held ++ [x] } }
    | none => s
  else s.askMem p.key p.len p.pte write none c

/-- The part of a fetch of 8 bytes. -/
def fetchPart (key : Nat) (va pte : BitVec 64) : Part := ⟨key, va, 8, 0, BitVec.allOnes 64, pte, 0, false⟩

/-- Runs a fetch of the issuing thread at its home, once that can perform it; else it is asked for, and the other effect runs (R140,
R144, R190). -/
def State.fetchAt {α : Type} (s : State) (key : Nat) (va pte : BitVec 64) (go wait : State → α) : α :=
  let p := fetchPart key va pte
  if s.homeReady p then go (s.touch p s.lcore s.me.ctx) else wait (s.askPart p false ⟨s.tick, s.tid s.cur⟩ none)

/-! ## Clearing a tile, and its map (R158, R186) -/

/-- The key lies in tile t's blocks. -/
def inTile (t k : Nat) : Bool := !isHbm k && k < stackBase && k / 2 ^ 31 == padKey (lcoreOfT t 0) 0 / 2 ^ 31

/-- The clear of a tile (R158): its scratchpads with their tags, its buffers and guard store, descriptors, semaphores,
event queue, histogram and translation cache. -/
def State.clearTile (s : State) (t : Nat) : State :=
  { s with
    mem := s.mem.filter fun x => !inTile t x.1
    ws := s.ws.filter fun x => coreOfTh x.1 / 4 != lcoreOfT t 0 / 4
    tags := s.tags.filter fun x => !inTile t (x.1 * 4)
    guard := s.guard.filter fun x => !inTile t (x.1 * 16)
    upsets := s.upsets.filter fun u => !inTile t (u * 8) }.modTile t fun x =>
      { x with desc := Tile.zero.desc, sem := Tile.zero.sem, hist := Tile.zero.hist, zcnt := 0, spcnt := 0, evq := [], tlb := [] }

/-- Threads of a tile's four cores. -/
def State.tileThreads (s : State) (t : Nat) : List Nat := (List.range 4).flatMap fun c => s.threadsOn (lcoreOfT t c)

/-- A core is one of a tile's. -/
def ofTile (t l : Nat) : Bool := l / 4 == lcoreOfT t 0 / 4

/-- A request that a save of its drained tile holds: withdrawn, refused or answered, not yet sent, or on a wait list of the
tile (R162, R183). -/
def Req.savedWith (r : Req) (t : Nat) : Bool :=
  ofTile t r.lcore && r.th < noThread &&
    match r.st with
    | .parked _ => ofTile t r.homeCore && !r.parts.isEmpty
    | _ => true

/-- The tile's threads end without effect, and what they were to send again is dropped. -/
def State.emptyTile (s : State) (t : Nat) : State :=
  let s := { s with net := s.net.filter fun r => !r.savedWith t }
  (s.tileThreads t).foldl (fun s k => s.endThread k) s

/-- A cleared slot under a tile (R158, R184, R236): no thread and no command survives. -/
def State.blankTile (s : State) (t : Nat) : State :=
  let s := (s.emptyTile t).clearTile t
  let s := s.modTile t fun x => { x with
    queues := Tile.zero.queues, last := [], comp := Tile.zero.comp, finished := [], streams := [], semq := [], tasks := [], purge := false, purgeQ3 := false }
  (List.range 4).foldl (fun s i => s.modCore (lcoreOfT t i) fun c => { c with trapq := [], watches := [], msgs := [] }) s

/-- Another logical tile of the super-group maps to a slot (R186). -/
def State.slotTaken (s : State) (t slot : Nat) : Bool := (List.range 128).any fun i => t / 128 * 128 + i != t && s.slotOf (t / 128 * 128 + i) == slot

/-- The map takes a new slot for a drained tile, which starts cleared (R186, R236). -/
def State.remap (s : State) (t slot : Nat) : State :=
  if s.slotOf t = slot then s
  else { s.blankTile t with map := Store.put none s.map t (if slot = t % 128 then none else some (BitVec.ofNat 8 slot)) }

/-! ## Sends that end without effect -/

/-- A thread no longer waits for request rid; a call that is given up has no reply outstanding (R112). -/
def State.unpark (s : State) (th rid : Nat) : State :=
  s.modThr th fun t => { t with
    park := if t.park = .answer rid then .over else t.park
    calls := t.calls.filter fun c => c.rid != rid }

/-- A send fails at its unit: its thread goes on with a deferred failure (R159). -/
def State.failSend (s : State) (r : Req) (cause : BitVec 8) (info : Nat) : State := (s.failReq r cause info none).unpark r.th r.rid

/-! ## A home applies part of a request -/

/-- A revoked fabric address (R159, R348). -/
def State.revokedAt (s : State) (k : Nat) : Bool := k ≥ fabricBase && s.revoked.any fun x => x.1 ≤ k - fabricBase && k - fabricBase ≤ x.2

/-- A value a page's register reads as, for those that a read does not change (R142, R138, R145, R151, R157, R158, R188,
R189). -/
def State.pageRead (s : State) (port off : Nat) : BitVec 64 :=
  let p := s.port port
  let sgk := port / 576
  match off with
  | 0x00 => p.cprio
  | 0x08 =>
    let l1 := getF p.mcrfm 0 16
    let l2 := getF p.mcrfm 16 16
    let l3 := getF p.mcrfm 32 16
    if l1 < l2 && l2 < l3 && l1 ≥ 8 then p.mcrfm else p.mcrfm ||| BitVec.ofNat 64 (2 ^ 63)
  | 0x10 => p.hpctl
  | 0x18 => p.hpstat
  | 0x20 => s.ctxbase
  | 0x38 => if p.tinv.isSome then BitVec.ofNat 64 (2 ^ 63) else 0
  | 0x40 => p.stkown
  | 0x58 =>
    let w := Store.get WearSt.zero s.wear sgk
    if port % 576 = 32 then BitVec.ofNat 64 (w.drift.toNat * 2 ^ 32 + w.hours.toNat * 2 ^ 16 + w.pred.toNat) else 0
  | _ =>
    -- the map and the fence bitmap stand at port core d.sg.0.P
    if port % 576 = 32 && 0x1000 ≤ off && off < 0x1100 then
      BitVec.ofNat 64 ((List.range 4).foldl (fun a i => a + s.slotOf (sgk * 128 + (off - 0x1000) / 2 + i) * 2 ^ (16 * i)) 0)
    else if port % 576 = 32 && 0x1100 ≤ off && off < 0x1118 then
      BitVec.ofNat 64 ((List.range 64).foldl (fun a i => a + if s.fenced.contains (sgk * 256 + (off - 0x1100) * 8 + i) then 2 ^ i else 0) 0)
    else 0

/-- The bits of a register that a store writes: CPRIO, MCRFM, HPCTL; none of another (R142, R138, R145). -/
def plainMask (off : Nat) : BitVec 64 :=
  match off with
  | 0x00 => 0xFF
  | 0x08 => 0xFFFFFFFFFFFF
  | 0x10 => 0x8000FFFFFFFFFFFF
  | _ => 0

/-- A store to a register of a page without behaviour of its own; one that nothing assigns ignores it (R5, R142). -/
def State.setPlain (s : State) (port off : Nat) (x : BitVec 64) : State :=
  match off with
  | 0x00 => s.modPort port fun p => { p with cprio := x &&& plainMask off }
  | 0x08 => s.modPort port fun p => { p with mcrfm := x &&& plainMask off }
  | 0x10 => s.modPort port fun p => { p with hpctl := x &&& plainMask off }
  | _ => s

/-- The value of a register that a masked store's bytes stand in. -/
def Part.pageValue (p : Part) : BitVec 64 := BitVec.ofNat 64 (p.data.toNat * 256 ^ (offOf p.key % 8))

/-- The value that a masked store makes of a register's old one. -/
def mergeStore (p : Part) (old : BitVec 64) : BitVec 64 :=
  (List.range p.len).foldl (fun x i => let j := offOf p.key % 8 + i; if p.mask.getLsbD i then setByteOf x j (byteOf p.pageValue j) else x) old

/-- The oldest entry of a port core's fault queue, which the read removes (R156). -/
def State.popFault (s : State) (port : Nat) : State × BitVec 64 :=
  let p := s.port port
  match p.fltq with
  | [] => (s, 0)
  | t :: l =>
    let s := s.modPort port fun p => { p with fltq := l }
    match p.walks.find? fun x => x.slot == t with
    | some w =>
      (s, BitVec.ofNat 64 (2 ^ 63 + w.ctx.toNat * 2 ^ 57 + t * 2 ^ 51 + w.vpn * 2 ^ 16 + w.tile * 2 ^ 12
        + (match w.fault with | some f => f.1 | none => 0)))
    | none => (s, 0)

/-- The oldest entry of a port core's error log, which the read removes; the count of what was dropped while the log was
full becomes an OVERRUN entry (R179). -/
def State.popErr (s : State) (port : Nat) : State × BitVec 64 :=
  let p := s.port port
  match p.errlog with
  | [] => (s, 0)
  | e :: l =>
    let l' := if p.dropped = 0 then l else l ++ [BitVec.ofNat 64 (2 ^ 63 + 0x7F * 2 ^ 56 + p.dropped % 2 ^ 32)]
    (s.modPort port fun p => { p with errlog := l', dropped := 0 }, e)

/-- A read of eight bytes of a port core's page, with what the read removes (R156, R179). -/
def State.pageLoad (s : State) (port off : Nat) : State × BitVec 64 :=
  if off = 0x28 then s.popFault port else if off = 0x48 then s.popErr port else (s, s.pageRead port off)

/-- The word an LDV reads joins nothing; a speculating thread's read of a scratchpad word is recorded with its VER
(R121). -/
def State.specRead (s : State) (th key len : Nat) : State :=
  if isPad key && (s.thr th).spec.isSome then
    s.modThr th fun t =>
      match t.spec with
      | some sp =>
        if sp.overflow || sp.aborted then t
        else
          let new := ((wordsOf key len (BitVec.allOnes 64)).filter fun w => sp.reads.all fun x => x.1 != w).map fun w => (w, (s.tag w).ver)
          if sp.reads.length + new.length > 256 then { t with spec := some { sp with overflow := true, log := [], reads := [] } }
          else { t with spec := some { sp with reads := sp.reads ++ new } }
      | none => t
  else s

/-- The outcome of a home's check (R159, R182). -/
inductive HomeCheck where
  | ok
  | drained
  | fail (cause : BitVec 8) (info : Nat)
  deriving DecidableEq, Repr

/-- The check of a request at its home: a drained tile, another context, no task of the launch, a revoked window (R159, R182,
R348). -/
def State.homeCheck (s : State) (r : Req) (p : Part) : HomeCheck :=
  if s.refuses p.key && !(isTileCore r.lcore && keyTile p.key == tOf r.lcore) then .drained
  else if !isHbm p.key && p.key < fabricBase && !(isLocalKey r.lcore p.key && !isTileCore r.lcore) && s.denied r.ctx p.key then .fail cAccess 18
  else if !isHbm p.key && s.gone r.ctx r.lid p.key then .fail cPeerGone 0
  else if s.revokedAt p.key then .fail cPeerGone 0
  else .ok

/-- Runs an effect on part j of a request that passes its home's check; any other is refused or fails. -/
def State.ifHome (s : State) (r : Req) (j : Nat) (p : Part) (k : State) : State :=
  match s.homeCheck r p with
  | .drained => s.drainReq r
  | .fail c i =>
    if r.kind == .store && r.parts.length > 1 then
      -- the other parts of a store go on; the instruction fails once
      let f : Failure := ⟨c, BitVec.ofNat 26 i, some (p.va.setWidth 48), r.src⟩
      (if (s.thr r.th).held.any fun g => g.src == r.src then s else s.hold r.th f).partDone r j
    else s.failReq r c i (some p.va)
  | .ok => k

/-- A write to part of a block of a COMPRESS page meets an error in the rest of the block: the merge writes nothing (R139,
R178). -/
def State.mergeBad (s : State) (key len : Nat) (m pte : BitVec 64) : Bool :=
  pte.getLsbD 11 && isHbm key && s.upsets.any fun u => u * 8 / 128 == key / 128
    && !(key ≤ u * 8 && u * 8 + 8 ≤ key + len && (List.range 8).all fun i => m.getLsbD (u * 8 - key + i))

/-- A home applies part j of a request that may be performed: it is refused by a drained tile, checked, and applied,
parked or failed (R159). -/
def State.applyPart (s : State) (r : Req) (j : Nat) (p : Part) : State :=
  let s := if p.key ≥ fabricBase then { s with fresh := s.fresh + 1 } else s
  s.ifHome r j p
    (let s := s.touch p r.lcore r.ctx
     let whole (p : Part) : Bool := s.mergeBad p.key p.len (BitVec.allOnes 64) p.pte
     let ecc := (s.logUnc p.key r.ctx.toNat).failReq r cEcc (eccInfo p.key) (some p.va)
     match r.kind with
     | .gqry => if s.bad p.key p.len then ecc else s.complete r (BitVec.ofNat 64 (s.rdN p.key 8))
     | .load =>
       if s.bad p.key p.len then ecc
       else if keyPort p.key && p.key < stackBase && !isHbm p.key && spaceOf p.key == 5 then
         let x := s.pageLoad (coreOfKey p.key) (offOf p.key / 8 * 8)
         (x.1.fillPend r p (maskedN p.mask (x.2.toNat / 256 ^ (offOf p.key % 8)) p.len)).partDone r j
       else ((s.specRead r.th p.key p.len).fillPend r p (maskedN p.mask (s.loadN p.key p.len) p.len)).partDone r j
     | .store | .stv =>
       if s.mergeBad p.key p.len p.mask p.pte then ecc else (s.homeStore (some r.th) p.key p.len p.mask p.data.toNat r.rel).partDone r j
     | .amo op b =>
       if s.bad p.key p.len || whole p then ecc
       else
         let old := s.rdN p.key p.len
         ((s.fillPend r p old).homeStore (some r.th) p.key p.len (BitVec.allOnes 64) (amoNew op.toNat (8 * p.len) old (b.toNat % 2 ^ (8 * p.len))) false).partDone r j
     | .amoc c b =>
       if s.bad p.key p.len || whole p then ecc
       else
         let old := s.rdN p.key p.len
         let new := if old = c.toNat % 2 ^ (8 * p.len) then b.toNat % 2 ^ (8 * p.len) else old
         ((s.fillPend r p old).homeStore (some r.th) p.key p.len (BitVec.allOnes 64) new false).partDone r j
     | .red op b =>
       if s.bad p.key p.len || whole p then (s.logRed r.ctx.toNat p.key).partDone r j
       else
         let old := s.rdN p.key p.len
         (s.homeStore (some r.th) p.key p.len (BitVec.allOnes 64) (amoNew op.toNat (8 * p.len) old (b.toNat % 2 ^ (8 * p.len))) false).partDone r j
     | .hadd =>
       if s.bad p.key p.len || whole p then ecc
       else (s.homeStore (some r.th) p.key p.len (BitVec.allOnes 64) ((s.rdN p.key 4 + p.data.toNat) % 2 ^ 32) false).partDone r j
     | .ldv ver =>
       if s.bad p.key 4 then ecc
       else if ldvHolds (s.tag (p.key / 4)).ver ver then (s.fillPend r p (s.rdN p.key 4)).partDone r j
       else s.parkReq r
     | .ldfe | .stfe | .pmrg .. | .inbox .. => s.arriveFe r
     | .vrcl n =>
       let ws := (List.range (n / 4)).map (p.key / 4 + ·)
       if s.net.any fun q => q.isParked && ws.contains q.word && (match q.kind with | .ldv _ => true | _ => false) then
         s.failReq r cVersion 0 (some p.va)
       else (ws.foldl (fun s w => s.modTag w fun g => { g with ver := 0 }) s).partDone r j
     | .semv n =>
       let c := (s.tile (tOf r.lcore)).sem.toList.getD n 0
       if c = 0xFFFFFFFF then s.failReq r cIllegal 7 none
       else
         let t := s.tile (tOf r.lcore)
         -- the first waiter in arrival order takes the count (R267)
         match t.semq.find? fun x => x.2 == n with
         | some x =>
           ((s.modTile (tOf r.lcore) fun t => { t with semq := t.semq.erase x }).modThr x.1 fun q => { q with park := .over }).partDone r j
         | none => (s.modTile (tOf r.lcore) fun t => { t with sem := modAt t.sem n (· + 1) }).partDone r j
     | .lcmw t slot =>
       if slot > 129 || (s.tile t).drain != .drained || s.fenced.contains (sgKeyOfT t * 256 + slot) || s.slotTaken t slot then
         s.failReq r cAccess 23 none
       else (s.remap t slot).complete r (BitVec.ofNat 64 (s.slotOf t))
     | _ => s)

/-- Part j of request rid reaches its home; nothing happens while it is held. -/
def State.arrive (s : State) (rid j : Nat) : State :=
  match s.req rid with
  | none => s
  | some r =>
    match r.parts[j]? with
    | none => s
    | some p =>
      let logitStore := (r.kind == .store || r.kind == .stv) && p.pte.getLsbD 10
      if r.st == .inflight && s.mayArrive r j && !logitStore && !(r.kind == .store && pageKey p.key) then
        (if s.homeReady p then s.applyPart r j p else s.askPart p r.kind.isWrite r.claim (some (rid, j)))
      else s

/-! ## Loads and stores of the issuing thread (R239) -/

/-- Two cores stand in one tile; a stack core or a port core in none but its own. -/
def sameTile (l m : Nat) : Bool := l == m || (isTileCore l && isTileCore m && l / 4 == m / 4)

/-- A request reaches beyond its core's tile, and a SEND always, and so occupies one of the core's slots until it is
performed or accepted, a PMRG for the record that it will send (R83, R147, R262, R263); replies and fault records have none. -/
def Req.takesSlot (r : Req) : Bool :=
  match r.kind with
  | .send .. => true
  | .spawn l .. => l < noThread && !sameTile r.lcore l
  | .rcall l .. | .migr l => !sameTile r.lcore l
  | .reply .. | .faultRec .. => false
  | .inbox l .. => !sameTile r.lcore l
  | .pmrg next .. => next != BitVec.allOnes 64 && !sameTile r.lcore next.toNat
  | _ => r.parts.any fun p => !isLocalKey r.lcore p.key

/-- Outstanding-request slots that a core's threads hold (R147). -/
def State.slotsUsed (s : State) (l : Nat) : Nat :=
  (s.net.filter fun r => r.lcore == l && r.takesSlot).length

/-- Slots that one thread holds. -/
def State.slotsOf (s : State) (th : Nat) : Nat := (s.net.filter fun r => r.th == th && r.takesSlot).length

/-- The accesses may be performed at once: all in the own tile, no hold and no earlier request to their blocks. -/
def State.direct (s : State) (ps : List Part) (store : Bool) : Bool :=
  ps.all (fun p => isLocalKey s.lcore p.key && !(p.key < stackBase && spaceOf p.key == 4 && store))
    && !s.blockBusy s.cur s.issSrc ps && !(store && s.relHolds s.cur s.me.seq)

/-- Every slot of the core is taken (R147). -/
def State.slotsFull (s : State) (l : Nat) : Bool := s.slotsUsed l ≥ Config.slots

/-- No slot of the core is free for an access beyond the own tile (R147). -/
def State.noSlot (s : State) (ps : List Part) : Bool :=
  ps.any (fun p => !isLocalKey s.lcore p.key) && s.slotsFull s.lcore

/-- Adds the logged bytes of a speculation to what a part reads (R121): answers the part without them, and them. -/
def State.specSplit (s : State) (p : Part) : Part × Nat :=
  match s.me.spec with
  | none => (p, 0)
  | some sp =>
    (List.range p.len).foldl (fun (a : Part × Nat) i =>
      if !p.mask.getLsbD i then a
      else match sp.log.find? fun x => x.1 == (p.key + i) / 8 && x.2.2.getLsbD ((p.key + i) % 8) with
      | some x => ({ a.1 with mask := a.1.mask &&& ~~~(1#64 <<< i) }, a.2 + (byteOf x.2.1 ((p.key + i) % 8)).toNat * 256 ^ i)
      | none => a) (p, 0)

/-- A speculating thread's store of masked bytes enters its log, one entry per aligned 8-byte word (R121). -/
def specLog (sp : Spec) (key : Nat) (m : BitVec 64) (data len : Nat) : Spec :=
  if sp.overflow || sp.aborted then sp
  else
    let log := (List.range len).foldl (fun (l : List (Nat × BitVec 64 × BitVec 8)) i =>
      if !m.getLsbD i then l
      else
        let w := (key + i) / 8
        let j := (key + i) % 8
        let b := BitVec.ofNat 8 (data / 256 ^ i)
        if l.any fun x => x.1 == w then l.map fun x => if x.1 == w then (w, setByteOf x.2.1 j b, x.2.2 ||| (1#8 <<< j)) else x
        else l ++ [(w, setByteOf 0 j b, 1#8 <<< j)]) sp.log
    if log.length > 256 then { sp with overflow := true, log := [], reads := [] } else { sp with log := log }

/-- The load of parts into a register: at once within the own tile, else as a long-latency request (R239). `w` is the
register write with its data still zero. -/
def State.loadParts (s : State) (kind : ReqKind) (ps : List Part) (dest : Reg) (w : RegWrite) (sext hold : Bool) : State :=
  let sp := ps.map s.specSplit
  let w := sp.foldl (fun w x => fillWrite false { x.1 with len := 64 } x.2 w) w
  let own := ps.filter fun p => isLocalKey s.lcore p.key && !s.gone s.me.ctx s.me.lid p.key
  -- a read of the own tile waits for an earlier access to its block, and traps precisely where it fails (R82, R166, R177)
  if s.blockBusy s.cur s.issSrc own then s.stall
  else match own.find? fun p => s.bad p.key p.len with
  | some p => (s.logUnc p.key s.me.ctx.toNat).raise ⟨8, cEcc, eccInfo p.key, some p.va⟩
  | none =>
  if s.direct ps false && kind == .load && !hold then
    match ps.find? fun p => s.gone s.me.ctx s.me.lid p.key with
    | some p => s.deferFail cPeerGone 0 (some p.va)
    | none =>
        let s1 := ps.foldl (fun s p => s.specRead s.cur p.key p.len) s
        let w := sp.foldl (fun (w : RegWrite) x => fillWrite sext x.1 (maskedN x.1.mask (s.loadN x.1.key x.1.len) x.1.len + x.2) w)
          (match w with | .s r _ => .s r 0 | .v r _ m t => .v r 0 m t | w => w)
        s1.upd fun ws => ws.apply w
  else if s.noSlot ps then s.stall
  else
    let r := { s.newReq s.cur s.issSrc kind (sp.map (·.1)) hold with sext := sext }
    (s.pendAccess s.nextRid (ps.map (·.key)) [dest] [w]).addReq r

/-- The page of a logged part, where it stands on one (R122). -/
def specPage (sp : Spec) (p : Part) : Spec :=
  if (isHbm p.key || p.key ≥ fabricBase) && sp.pages.all fun x => x.1 != p.key / 65536 then
    { sp with pages := sp.pages ++ [(p.key / 65536, p.va.toNat / 65536, p.pte)] }
  else sp

/-- The store of parts: into the log of a speculation, at once within the own tile, else as a request (R121, R239). -/
def State.storeParts (s : State) (kind : ReqKind) (ps : List Part) (hold : Bool) : State :=
  match s.me.spec with
  | some _ => s.modMe fun t => { t with spec := t.spec.map fun sp => ps.foldl (fun sp p => specPage (specLog sp p.key p.mask p.data.toNat p.len) p) sp }
  | none =>
    if s.direct ps true && kind == .store && !hold then
      match ps.find? fun p => s.gone s.me.ctx s.me.lid p.key with
      | some p => s.deferFail cPeerGone 0 (some p.va)
      | none => ps.foldl (fun s p => s.homeStore (some s.cur) p.key p.len p.mask p.data.toNat false) s
    else if s.noSlot ps then s.stall
    else
      let sys := s.me.fences.any fun f => f.scope == 6
      s.addReq { s.newReq s.cur s.issSrc kind ps hold with rel := sys }

/-- The parts of a 64-byte vector access: 4-byte words of a scratchpad, 8-byte words elsewhere (R84), those that a
predicate leaves on. -/
def vecParts (key : Nat) (va : BitVec 64) (pte : BitVec 64) (pg : BitVec 64) (data : Vec) : List Part :=
  let u := if isPad key then 4 else 8
  ((List.range (64 / u)).filter fun i => getF pg (u * i) u != 0).map fun i =>
    ⟨key + u * i, va + BitVec.ofNat 64 (u * i), u, u * i, BitVec.ofNat 64 (getF pg (u * i) u), pte, BitVec.ofNat 512 (elemN data u i), false⟩

/-- A part that is one whole unit. -/
def onePart (key : Nat) (va pte : BitVec 64) (len off : Nat) (data : Nat) : Part := ⟨key, va, len, off, BitVec.allOnes 64, pte, BitVec.ofNat 512 data, false⟩

end Sys2Proof.Machine
end

