-- ==== Sys2Proof/Machine/Control.lean ====
section
/-! DEFINITION. Branches and jumps (R216 to R218), the end of a thread (R219), and REP (R194, R220). -/

namespace Sys2Proof.Machine

/-- Sets the thread's next PC; a PC holds 48 bits (R223; log 20). -/
def State.jump (s : State) (pc : BitVec 64) : State := s.upd fun w => w.setPc (pc.setWidth 48)

/-- PC + 8·W of the issuing bundle. -/
def State.branchTarget (s : State) {w : Nat} (i : BitVec w) : BitVec 64 := s.iss.pc.setWidth 64 + 8 * s.immS i

/-- The conditions of BCC and BCCZ (R216). -/
def branchTaken (c : BitVec 3) (x y : BitVec 64) : Bool :=
  if c = 0 then x == y
  else if c = 1 then x != y
  else if c = 2 then x.slt y
  else if c = 3 then !x.slt y
  else if c = 4 then x.ult y
  else !x.ult y

/-- BCC (R216). -/
def execBcc (_z : BitVec 1) (c : BitVec 3) (a b : BitVec 5) (i : BitVec 10) (s : State) : Host.Outcome State Fault Refusal :=
  .next (if branchTaken c (s.rS a) (s.rS b) then s.jump (s.branchTarget i) else s)
/-- BCCZ (R216). -/
def execBccz (_z : BitVec 1) (c : BitVec 3) (a : BitVec 5) (i : BitVec 10) (s : State) : Host.Outcome State Fault Refusal :=
  .next (if branchTaken c (s.rS a) 0 then s.jump (s.branchTarget i) else s)
/-- JMP (R217). -/
def execJmp (_z : BitVec 1) (i : BitVec 10) (s : State) : Host.Outcome State Fault Refusal := .next (s.jump (s.branchTarget i))
/-- JAL (R217). -/
def execJal (_z : BitVec 1) (d : BitVec 5) (i : BitVec 10) (s : State) : Host.Outcome State Fault Refusal :=
  .next ((s.wS d (s.iss.pc.setWidth 64 + 8)).jump (s.branchTarget i))
/-- JR: a target whose low three bits are not zero traps MISALIGNED (R190, R217). -/
def execJr (_z : BitVec 1) (a : BitVec 5) (s : State) : Host.Outcome State Fault Refusal :=
  .next (s.check [(getF (s.rS a) 0 3 != 0, ⟨8, cMisaligned, 3, some (s.rS a)⟩)] (s.jump (s.rS a)))

/-- The thread waits, with its PC at the issuing bundle. -/
def State.parkHere (s : State) (p : Park) : State := (s.upd fun w => w.setPc s.iss.pc).modMe fun t => { t with park := p }

/-- EXIT waits as a settle mark does, and acts at the end of the wait (R219). -/
def execExit (_z : BitVec 1) (s : State) : Host.Outcome State Fault Refusal := .next (s.parkHere (.exit s.issSrc))

/-- Starts a REP whose bundle has been fetched and passed R194 (R220). -/
def State.startRep (s : State) (c : BitVec 8) (m : BitVec 6) (t : BitVec 3) : State :=
  s.upd fun w =>
    let w := ((w.setTsF 3 56 8 c.toNat).setRepJ 0).setTsF 3 0 48 (s.iss.pc + 8).toNat
    ((w.setTsF 2 32 6 m.toNat).setTsF 2 40 3 t.toNat).setRepAct true

/-- A repeated bundle may not be repeated, or steps a field that is no register (R194, R220). -/
def repRefused (m : BitVec 6) (w : Nat) : Bool :=
  notRepeatable (fld w 32 32) || !(List.range 6).all fun k =>
    !m.getLsbD k ||
      (if k ≥ 3 then (match selectA (fld w 32 32) with | some a => (stepFieldA a k).isSome | none => true)
       else (match selectB (fld w 0 32) with | some b => (stepFieldB b k).isSome | none => true))

/-- REP (R194, R220): it fetches the bundle it repeats. -/
def execRep (c : BitVec 8) (m : BitVec 6) (t : BitVec 3) (s : State) : Host.Outcome State Fault Refusal :=
  let va := (s.iss.pc + 8).setWidth 64
  match s.reach va 8 .fetch with
  | .trap x => .next ({ s with iss := { s.iss with bundle := 0 } }.raise { x with va := some va })
  | .walk vpn => .next (s.stallWalk vpn)
  | .at_ key pte => .next (s.fetchAt key va pte (fun s =>
      if s.bad key 8 then { s with iss := { s.iss with bundle := 0 } }.logUnc key s.me.ctx.toNat |>.raise ⟨8, cEcc, eccInfo key, some va⟩
      else s.check [(repRefused m (s.rdN key 8), trapLimit)] (s.startRep c m t)) State.stall)

end Sys2Proof.Machine
end

