-- ==== Sys2Proof/Machine/MemInstr.lean ====
section
/-! DEFINITION. Loads and stores (R238 to R244), versions and full words (R245 to R247), watches (R248), fences (R86,
R249), atomics and reductions (R250, R251), cache hints (R252). -/

namespace Sys2Proof.Machine

/-! ## Shared operations -/

/-- Runs an effect on the key of an address that passes its checks (R238). -/
def State.onKey (s : State) (va : BitVec 64) (size : Nat) (kind : AccKind) (k : Nat → BitVec 64 → State) : State :=
  match s.reach va size kind with
  | .trap t => s.raise t
  | .walk vpn => s.stallWalk vpn
  | .at_ key pte => k key pte

/-- The bundle is held at issue: its request goes out, and the thread waits for the answer (R358). -/
def State.holdBundle (s : State) (kind : ReqKind) (parts : List Part) (hold : Bool) : State :=
  if s.noSlot parts then s.stall
  else
    let rid := s.nextRid
    let s := (s.addReq (s.newReq s.cur s.issSrc kind parts hold)).modMe fun t => { t with park := .held rid s.iss.word s.src }
    { s with iss := { s.iss with held := true } }

/-- A form held at issue (R358): its first issue makes a request; its second takes effect, or traps, by the answer. -/
def State.heldForm (s : State) (first : State) (done : Answer → State) : State :=
  match s.iss.answer with
  | none => first
  | some a =>
    match a.fail with
    | some (c, i, v) => s.raise ⟨10, c, i.toNat, v.map (·.setWidth 64)⟩
    | none => done a

/-- The stores of an instruction to registers and to memory, one request for all that is not performed at once (R147, R239);
OWNER, TREELD and CLGO hold the bundle (R358). -/
def State.storeAll (s : State) (ps : List Part) (scalar : Bool) : State :=
  let owners := ps.filter fun p => ownerKey p.key
  let rest := ps.filter fun p => !ownerKey p.key
  let go (s : State) : State := if rest.isEmpty then s else s.storeParts .store rest false
  if s.me.spec.isSome then s.storeParts .store ps false
  else if s.noSlot ps then s.stall
  else if !owners.isEmpty then s.heldForm (s.holdBundle .owner owners false) fun _ => go s
  else match ps with
    | [p] => if scalar && treeKey p.key && p.len == 8 then s.heldForm (s.holdBundle .page [p] false) fun _ => s else go s
    | _ => go s

/-- The address of an AM, AV or AW form (R238). -/
def State.memVa (s : State) (a : BitVec 5) {w : Nat} (i : BitVec w) : BitVec 64 := s.rS a + s.immS i

/-- A scalar load (R240). -/
def State.loadScalar (s : State) (size : Nat) (sext : Bool) (d a : BitVec 5) (i : BitVec 10) : State :=
  let va := s.memVa a i
  s.onKey va size .load fun key pte => s.loadParts .load [onePart key va pte size 0 0] (.s d.toNat) (.s d 0) sext false

/-- A scalar store (R240). -/
def State.storeScalar (s : State) (size : Nat) (d a : BitVec 5) (i : BitVec 10) : State :=
  let va := s.memVa a i
  s.onKey va size .store fun key pte => s.storeAll [onePart key va pte size 0 ((s.rS d).toNat % 256 ^ size)] true

/-! ## Scalar loads and stores (R240, R241) -/

/-- LDB (R240). -/
def execLdb (_z : BitVec 1) (d a : BitVec 5) (i : BitVec 10) (s : State) : Host.Outcome State Fault Refusal := .next (s.loadScalar 1 true d a i)
/-- LDBZ (R240). -/
def execLdbz (_z : BitVec 1) (d a : BitVec 5) (i : BitVec 10) (s : State) : Host.Outcome State Fault Refusal := .next (s.loadScalar 1 false d a i)
/-- LDH (R240). -/
def execLdh (_z : BitVec 1) (d a : BitVec 5) (i : BitVec 10) (s : State) : Host.Outcome State Fault Refusal := .next (s.loadScalar 2 true d a i)
/-- LDHZ (R240). -/
def execLdhz (_z : BitVec 1) (d a : BitVec 5) (i : BitVec 10) (s : State) : Host.Outcome State Fault Refusal := .next (s.loadScalar 2 false d a i)
/-- LDW (R240). -/
def execLdw (_z : BitVec 1) (d a : BitVec 5) (i : BitVec 10) (s : State) : Host.Outcome State Fault Refusal := .next (s.loadScalar 4 true d a i)
/-- LDWZ (R240). -/
def execLdwz (_z : BitVec 1) (d a : BitVec 5) (i : BitVec 10) (s : State) : Host.Outcome State Fault Refusal := .next (s.loadScalar 4 false d a i)
/-- LDD (R240). -/
def execLdd (_z : BitVec 1) (d a : BitVec 5) (i : BitVec 10) (s : State) : Host.Outcome State Fault Refusal := .next (s.loadScalar 8 false d a i)
/-- STB (R240). -/
def execStb (_z : BitVec 1) (d a : BitVec 5) (i : BitVec 10) (s : State) : Host.Outcome State Fault Refusal := .next (s.storeScalar 1 d a i)
/-- STH (R240). -/
def execSth (_z : BitVec 1) (d a : BitVec 5) (i : BitVec 10) (s : State) : Host.Outcome State Fault Refusal := .next (s.storeScalar 2 d a i)
/-- STW (R240). -/
def execStw (_z : BitVec 1) (d a : BitVec 5) (i : BitVec 10) (s : State) : Host.Outcome State Fault Refusal := .next (s.storeScalar 4 d a i)
/-- STD (R240). -/
def execStd (_z : BitVec 1) (d a : BitVec 5) (i : BitVec 10) (s : State) : Host.Outcome State Fault Refusal := .next (s.storeScalar 8 d a i)

/-! ## Vector loads and stores (R242 to R244) -/

/-- The bytes that a predicate's lanes span: the first one on, and how many to the last (R23). -/
def laneSpan (pg : BitVec 64) : Nat × Nat :=
  let on := (List.range 64).filter fun i => pg.getLsbD i
  let lo := on.headD 0
  (lo, on.getLastD 0 + 1 - lo)

/-- What a vector load or store of the whole register does, by its predicate. -/
def laneKind (store : Bool) (pg : BitVec 64) : AccKind := .lanes store (laneSpan pg).1 (laneSpan pg).2

/-- VLD (R23, R242): lanes that are off make no access; with every one off it takes only the checks of its address. -/
def execVld (_z : BitVec 1) (v : BitVec 4) (a : BitVec 5) (g : BitVec 3) (f : BitVec 4) (i : BitVec 8) (s : State) : Host.Outcome State Fault Refusal :=
  let va := s.memVa a i
  let pg := s.rP g
  .next (if pg = 0 then s.unless (s.addrTrap va 64 .load) (s.upd fun w => w.setVtag v f)
    else s.onKey va 64 (laneKind false pg) fun key pte => s.loadParts .load (vecParts key va pte pg 0) (.v v.toNat) (.v v 0 pg (some f)) false false)

/-- VST (R23, R242). -/
def execVst (_z : BitVec 1) (v : BitVec 4) (a : BitVec 5) (g : BitVec 3) (i : BitVec 8) (s : State) : Host.Outcome State Fault Refusal :=
  let va := s.memVa a i
  let pg := s.rP g
  .next (if pg = 0 then s.unless (s.addrTrap va 64 .store) s
    else s.onKey va 64 (laneKind true pg) fun key pte => s.storeAll (vecParts key va pte pg (s.rV v)) false)

/-- Where the elements of a strided or indexed access lead, in lane order; the first that fails decides (R244). -/
def State.elemReach (s : State) (kind : AccKind) (e : Nat) (data : Vec) : List (Nat × BitVec 64) → Except Reach (List Part)
  | [] => .ok []
  | (i, va) :: l =>
    match s.reach va e kind with
    | .at_ key pte =>
      match State.elemReach s kind e data l with
      | .ok ps => .ok (onePart key va pte e (e * i) (elemN data e i) :: ps)
      | .error r => .error r
    | r => .error r

/-- Runs an effect on the parts of an element-wise access. -/
def State.onElems (s : State) (kind : AccKind) (e : Nat) (data : Vec) (l : List (Nat × BitVec 64)) (k : List Part → State) : State :=
  match s.elemReach kind e data l with
  | .ok ps => k ps
  | .error (.trap t) => s.raise t
  | .error (.walk vpn) => s.stallWalk vpn
  | .error _ => s

/-- The active lanes with their addresses. -/
def activeVas (pg : BitVec 64) (e : Nat) (va : Nat → BitVec 64) : List (Nat × BitVec 64) :=
  ((List.range (64 / e)).filter (activeEl pg e)).map fun i => (i, va i)

/-- VLDS (R243). -/
def execVlds (_z : BitVec 1) (v : BitVec 4) (a : BitVec 5) (g : BitVec 3) (f : BitVec 4) (t : BitVec 5) (s : State) : Host.Outcome State Fault Refusal :=
  let e := Fmt.size f
  let pg := s.rP g
  .next (s.onElems .load e 0 (activeVas pg e fun i => s.rS a + BitVec.ofNat 64 i * s.rS t) fun ps =>
    if ps.isEmpty then s.upd fun w => w.setVtag v f
    else s.loadParts .load ps (.v v.toNat) (.v v 0 (activeMask pg e) (some f)) false false)

/-- The address of lane i of a gather or scatter (R244). -/
def State.idxVa (s : State) (a : BitVec 5) (x : BitVec 4) (e i : Nat) : BitVec 64 :=
  s.rS a + BitVec.ofInt 64 (sOf (8 * e) (elemN (s.rV x) e i) * e)

/-- VGTH (R244). -/
def execVgth (_z : BitVec 1) (v : BitVec 4) (a : BitVec 5) (g : BitVec 3) (f x : BitVec 4) (s : State) : Host.Outcome State Fault Refusal :=
  let e := Fmt.size f
  let pg := s.rP g
  .next (s.unless (s.vtagTrap [(x, intTag e)]) (s.onElems .load e 0 (activeVas pg e (s.idxVa a x e)) fun ps =>
    if ps.isEmpty then s.upd fun w => w.setVtag v f
    else s.loadParts .load ps (.v v.toNat) (.v v 0 (activeMask pg e) (some f)) false false))

/-- VSCT (R244). -/
def execVsct (_z : BitVec 1) (v : BitVec 4) (a : BitVec 5) (g : BitVec 3) (f x : BitVec 4) (s : State) : Host.Outcome State Fault Refusal :=
  let e := Fmt.size f
  .next (s.unless (s.vtagTrap [(x, intTag e)]) (s.onElems .store e (s.rV v) (activeVas (s.rP g) e (s.idxVa a x e)) fun ps =>
    if ps.isEmpty then s else s.storeAll ps false))

/-! ## Versions and full words (R245 to R247) -/

/-- A thread runs speculatively: from SPEC to COMMIT, ABORT or an overflow (R121, R122). -/
def Thread.speculates (t : Thread) : Bool := match t.spec with
  | some sp => !sp.aborted && !sp.overflow
  | .none => false

/-- Traps SPEC_LOG within a speculation (R121). -/
def State.noSpec (s : State) (major : Nat) (k : State) : State := if s.me.speculates then s.raise (trapSpec major) else k

/-- The same of a form with an address, whose context-0 check comes first (R205 stages 4 and 8). -/
def State.noSpecAt (s : State) (major : Nat) (va : BitVec 64) (size : Nat) (kind : AccKind) (k : State) : State :=
  s.unless (s.ctx0Trap va size kind) (s.noSpec major k)

/-- A REL fence of the issuing thread is in force, over the accesses before the bundle; those that hold nothing any more are
given up (R86). -/
def State.addFence (s : State) (scope : Nat) : State :=
  s.modMe fun t => { t with fences := (t.fences.filter fun f => !(s.earlier s.cur f.seq).isEmpty || f.scope == 6) ++ [⟨t.seq, scope⟩] }

/-- The issuing bundle is a release: later writes of the thread wait for the accesses before it (R78, R81). -/
def State.released (s : State) : State := if s.iss.stalled || s.iss.stage != 0 || (s.earlier s.cur s.me.seq).isEmpty then s else s.addFence 7

/-- LDV (R88, R245). -/
def execLdv (_z : BitVec 1) (d a : BitVec 5) (n : BitVec 6) (i : BitVec 9) (s : State) : Host.Outcome State Fault Refusal :=
  let va := s.memVa a i
  .next (s.noSpecAt 0x28 va 4 (.word false) (s.onKey va 4 (.word false) fun key pte =>
    s.loadParts (.ldv n) [onePart key va pte 4 0 0] (.s d.toNat) (.s d 0) false false))
/-- STV (R246): a release. -/
def execStv (_z : BitVec 1) (d a : BitVec 5) (i : BitVec 10) (s : State) : Host.Outcome State Fault Refusal :=
  let va := s.memVa a i
  .next (s.noSpecAt 0x29 va 4 (.word true) (s.onKey va 4 (.word true) fun key pte =>
    (s.storeParts .stv [onePart key va pte 4 0 ((s.rS d).toNat % 2 ^ 32)] true).released))
/-- LDFE (R90, R246). -/
def execLdfe (_z : BitVec 1) (d a : BitVec 5) (i : BitVec 10) (s : State) : Host.Outcome State Fault Refusal :=
  let va := s.memVa a i
  .next (s.noSpecAt 0x2A va 4 (.word false) (s.onKey va 4 (.word false) fun key pte =>
    (s.loadParts .ldfe [onePart key va pte 4 0 0] (.s d.toNat) (.s d 0) false true).released))
/-- STFE (R90, R246): its completion is tracked as a result without a register. -/
def execStfe (_z : BitVec 1) (d a : BitVec 5) (i : BitVec 10) (s : State) : Host.Outcome State Fault Refusal :=
  let va := s.memVa a i
  .next (s.noSpecAt 0x2B va 4 (.word true) (s.onKey va 4 (.word true) fun key pte =>
    let ps := [onePart key va pte 4 0 ((s.rS d).toNat % 2 ^ 32)]
    if s.noSlot ps then s.stall else (s.pendReq s.nextRid [] []).addReq (s.newReq s.cur s.issSrc .stfe ps true) |>.released))

/-- VRCL (R89, R247): that its range lies in the scratchpad is part of its address check. -/
def execVrcl (_z : BitVec 1) (a b : BitVec 5) (s : State) : Host.Outcome State Fault Refusal :=
  let va := s.rS a
  let n := (s.rS b).toNat
  let off := fld va.toNat 0 26
  .next (s.heldForm
    (s.check [(n % 4 != 0 || n < 4 || n > 65536, trapLimit)] (s.unless (s.vaTrap va 4 .reclaim)
      (s.check [(fld va.toNat 46 2 == 3 && off + n > 65536, trapAccess 16 va)] (s.onKey va 4 .reclaim fun key pte =>
        s.check [(!keyPort key && key < stackBase && crosses s.me (offOf key) n 0x8000 0xA000, trapAccess 20 va)]
          (s.holdBundle (.vrcl n) [onePart key va pte 4 0 0] false)))))
    fun _ => s)

/-! ## Watching a word (R91, R248) -/

/-- An address that names no scratchpad byte of the issuing core. -/
def State.notOwn (s : State) (va : BitVec 64) : Bool :=
  match onchip s.lcore va.toNat 4 with
  | some key => coreOfKey key != s.lcore || !isPad key
  | none => false

/-- Runs an effect on a word of the issuing core's own scratchpad: alignment, the address check, then the place of the
word, and then its other checks (R248). -/
def State.onOwnWord (s : State) (va : BitVec 64) (k : Nat → State) : State :=
  s.unless (s.vaTrap va 4 (.word false)) (s.check [(fld va.toNat 46 2 == 3 && s.notOwn va, trapAccess 16 va)]
    (s.onKey va 4 (.word false) fun key _ => if coreOfKey key = s.lcore then k (key / 4) else s.raise (trapAccess 16 va)))

/-- WATCH (R91, R248). -/
def execWatch (_z : BitVec 1) (d a : BitVec 5) (s : State) : Host.Outcome State Fault Refusal :=
  .next (s.noSpec 0x2E (s.onOwnWord (s.rS a) fun w =>
    match (s.core s.lcore).watches.find? fun x => x.1 == w with
    | some x => s.wS d (bit x.2)
    | none =>
      if (s.core s.lcore).watches.length ≥ 64 then s.wS d 0
      else ((s.modCore s.lcore fun c => { c with watches := c.watches ++ [(w, s.cur)] }).modTag w fun g => { g with watch := true }).wS d 1))
where
  /-- 1 for the word's own watcher. -/
  bit (th : Nat) : BitVec 64 := if th = s.cur then 1 else 0
/-- UNWATCH (R91, R248). -/
def execUnwatch (_z : BitVec 1) (a : BitVec 5) (s : State) : Host.Outcome State Fault Refusal :=
  .next (s.onOwnWord (s.rS a) fun w =>
    if (s.core s.lcore).watches.contains (w, s.cur) then
      (s.modCore s.lcore fun c => { c with watches := c.watches.erase (w, s.cur) }).modTag w fun g => { g with watch := false }
    else s)
/-- WAIT (R91, R248). -/
def execWait (_z : BitVec 1) (s : State) : Host.Outcome State Fault Refusal :=
  .next (s.modMe fun t => if t.ready then { t with ready := false } else { t with park := .wait })

/-! ## Fences (R86, R249) -/

/-- FENCE: kind 1 REL, 2 ACQ, 3 FULL (R86). -/
def execFence (_z : BitVec 1) (sc : BitVec 3) (k : BitVec 2) (s : State) : Host.Outcome State Fault Refusal :=
  let s' := if k = 2 then s else s.addFence sc.toNat
  .next (if k = 1 then s' else s'.modMe fun t => { t with park := .fence k.toNat sc.toNat t.seq })

/-! ## Atomics and reductions (R250, R251) -/

/-- The operand size of an atomic in bytes. -/
def atomicSize (w : BitVec 1) : Nat := if w = 1 then 8 else 4

/-- AMO (R250). -/
def execAmo (_z : BitVec 1) (d a b : BitVec 5) (w : BitVec 1) (p : BitVec 4) (s : State) : Host.Outcome State Fault Refusal :=
  let va := s.rS a
  .next (s.noSpecAt 0x2C va (atomicSize w) .atomic (s.onKey va (atomicSize w) .atomic fun key pte =>
    s.loadParts (.amo p (s.rS b)) [onePart key va pte (atomicSize w) 0 0] (.s d.toNat) (.s d 0) false false))
/-- AMOC (R250): the old rd is the compare value. -/
def execAmoc (_z : BitVec 1) (d a b : BitVec 5) (w : BitVec 1) (s : State) : Host.Outcome State Fault Refusal :=
  let va := s.rS a
  .next (s.noSpecAt 0x2C va (atomicSize w) .atomic (s.onKey va (atomicSize w) .atomic fun key pte =>
    s.loadParts (.amoc (s.rS d) (s.rS b)) [onePart key va pte (atomicSize w) 0 0] (.s d.toNat) (.s d 0) false false))
/-- RED (R119, R251). -/
def execRed (_z : BitVec 1) (a b : BitVec 5) (w : BitVec 1) (p : BitVec 4) (s : State) : Host.Outcome State Fault Refusal :=
  let va := s.rS a
  .next (s.noSpecAt 0x2D va (atomicSize w) .atomic (s.onKey va (atomicSize w) .atomic fun key pte =>
    let ps := [onePart key va pte (atomicSize w) 0 0]
    if s.noSlot ps then s.stall else s.addReq (s.newReq s.cur s.issSrc (.red p (s.rS b)) ps false)))

/-! ## Cache hints (R140, R252) -/

/-- A hint acts on the line of a global address that is not NEAR; any other is dropped (R252). -/
def State.hint (s : State) (va : BitVec 64) (k : Nat → BitVec 64 → State) : State :=
  match s.reach va 1 .load with
  | .trap _ => s.modMe fun t => { t with walk := .none }
  | .walk vpn => s.stallWalk vpn
  | .at_ key pte =>
    if isHbm key && !pte.getLsbD 9 then k key pte else s

/-- A hint fills a line that is absent (R252). -/
def State.fillAhead (s : State) (key : Nat) (pte : BitVec 64) (hint : Option (BitVec 2 × BitVec 4)) : State :=
  s.askLine (memPort key) ⟨key / 128, false, false, pte.getLsbD 11, hint, true, ⟨s.tick, s.tid s.cur⟩, false⟩

/-- The line of a key stands in the slice of its home. -/
def State.lineIn (s : State) (key : Nat) : Bool := (s.port (memPort key)).lines.any fun x => x.line == key / 128

/-- PFH (R252). -/
def execPfh (_z : BitVec 1) (a : BitVec 5) (s : State) : Host.Outcome State Fault Refusal :=
  .next (s.hint (s.rS a) fun key pte => if s.lineIn key then s else s.fillAhead key pte none)
/-- TCLS (R252). -/
def execTcls (_z : BitVec 1) (a : BitVec 5) (c : BitVec 2) (r : BitVec 4) (s : State) : Host.Outcome State Fault Refusal :=
  .next (s.hint (s.rS a) fun key pte =>
    if s.lineIn key then s.modPort (memPort key) fun p => { p with lines := p.lines.map fun x => if x.line = key / 128 then { x with cls := c, count := r } else x }
    else s.fillAhead key pte (some (c, r)))

end Sys2Proof.Machine
end

