-- ==== Sys2Proof/Machine/Calls.lean ====
section
/-! DEFINITION. SPAWN, RCALL, RRET and MIGR (R116 to R118, R253 to R258). -/

namespace Sys2Proof.Machine

/-! ## The nearest unit (R253) -/

/-- The unit nearest an address, and 1 for a NEAR page, where the address passes its checks (R238, R253). -/
def State.nearest (s : State) (va : BitVec 64) : Reach :=
  match s.addrTrap va 1 .load with
  | some t => .trap t
  | none =>
    let a := va.toNat
    if fld a 46 2 = 3 then
      match onchip s.lcore a 1 with
      | none => .trap (trapAccess 16 va)
      | some key => if key ≥ stackBase then .trap (trapAccess 16 va) else .at_ (coreOfKey key) 0
    else if fld a 46 2 = 1 then .trap (trapAccess 16 va)
    else
      let vpn := a / 65536
      match s.tlbFind s.lcore s.me.ctx vpn with
      | some e => if e.pte.getLsbD 9 then .at_ (stackOfChan (chanOf e.frame)) 1 else .at_ (portOfChan (chanOf e.frame)) 0
      | none =>
        match s.me.walk with
        | .failed v r => if v = vpn then .trap ⟨8, cPageFault, r, some va⟩ else .walk vpn
        | _ => .walk vpn

/-- A context may send work to a core: a port core from any, another by its owner (R159, R254, R255). -/
def State.mayCall (s : State) (ctx : BitVec 6) (l : Nat) : Bool :=
  ctx == 0 || isPort l || (match s.ownerOf l with | some c => c == ctx.toNat | none => false)

/-- Runs an effect on the nearest unit, which the context may call and to which a route leads (R159, R181); a MIGR takes none
at a NEAR page (R253). -/
def State.onUnit (s : State) (va : BitVec 64) (migr : Bool) (k : Nat → State) : State :=
  match s.nearest va with
  | .trap t => s.raise t
  | .walk vpn => s.stallWalk vpn
  | .at_ l near =>
    s.check
      [ (migr && near == 1, trapAccess 16 va),
        (!s.mayCall s.me.ctx l, trapAccess 18 va),
        (!s.routable (dieOfCore s.lcore) (dieOfCore l), trapAccess 22 va) ] (k l)

/-! ## SPAWN (R116, R254) -/

/-- The tiles of a walk's levels that hold a tile. -/
def inLevel (lev : Nat) (t u : Nat) : Bool :=
  match lev with
  | 0 => u == t
  | 1 => u / 8 == t / 8
  | 2 => u / 128 == t / 128
  | _ => u / 1024 == t / 1024

/-- The entry with the largest count, the first of equals. -/
def largest : List (Nat × Nat) → Option (Nat × Nat)
  | [] => none
  | x :: l => match largest l with
    | some y => if y.2 > x.2 then some y else some x
    | none => some x

/-- A core's counts as last refreshed, for a context and launch: the cores of its own tiles that ran the launch's task
(R116). -/
def State.spawnCounts (s : State) (l : Nat) : List (Nat × Nat) :=
  ((s.die (dieOfCore l)).counts.filter fun x =>
    x.2.2 == s.me.lid && isTileCore x.1 && (s.tile (tOf x.1)).ctx == s.me.ctx).map fun x => (x.1, x.2.1)

/-- The core that SPAWN ANY takes: at the first level that has a free position, the tile with the most of them, and in
it the core with the most (R116). -/
def State.pickAny (s : State) (l : Nat) : Option Nat :=
  let cs := s.spawnCounts l
  let tiles := (cs.map fun x => tOf x.1).eraseDups.map fun t => (t, (cs.filter fun x => tOf x.1 == t).foldl (fun a x => a + x.2) 0)
  let own := if isTileCore l then tOf l else l / 36 * 8
  let best (lev : Nat) := (largest (tiles.filter fun x => inLevel lev own x.1)).filter fun x => x.2 > 0
  -- a port core has no tile of its own
  match (if isTileCore l then [0, 1, 2, 3] else [1, 2, 3]).findSome? best with
  | some x => (largest (cs.filter fun y => tOf y.1 == x.1)).map fun y => y.1
  | none => none

/-- s registers from r on. -/
def State.rSs (s : State) (r : BitVec 5) (n : Nat) : List (BitVec 64) := (List.range n).map fun i => s.rS (r + BitVec.ofNat 5 i)

/-- SPAWN (R116, R254): a release that parks until its answer. -/
def execSpawn (_z : BitVec 1) (sa a : BitVec 5) (n : BitVec 4) (l y : BitVec 1) (i : BitVec 9) (s : State) : Host.Outcome State Fault Refusal :=
  let t := if y = 1 then (s.pickAny s.lcore).getD noThread else (s.rS a).toNat
  .next (s.noSpec 0x30 (s.check
    [ (y = 0 && !namesCore t, ⟨8, cAccess, 17, none⟩),
      (y = 0 && (!isTileCore t || !s.mayCall s.me.ctx t), ⟨8, cAccess, 18, none⟩),
      (y = 0 && !s.routable (dieOfCore s.lcore) (dieOfCore t), ⟨8, cAccess, 22, none⟩) ]
    (let kind : ReqKind := .spawn t ((s.branchTarget i).setWidth 48) (s.rSs sa n.toNat) (l == 1)
     let rid := s.nextRid
     if t < noThread && !sameTile s.lcore t && s.slotsFull s.lcore then s.stall
     else (s.addReq (s.newReq s.cur s.issSrc kind [] true)).modMe fun q => { q with park := .answer rid })))

/-! ## RCALL (R93, R255) -/

/-- The bits of the call in IMM26 (R197). -/
def State.callImm (s : State) : BitVec 26 := s.iss.imm.getD 0

/-- v registers from r on, with their tags. -/
def Workspace.getVs (w : Workspace) (r : BitVec 4) (n : Nat) : List (Vec × BitVec 4) :=
  (List.range n).map fun i => (w.getV (r + BitVec.ofNat 4 i), w.vtag (r + BitVec.ofNat 4 i))

/-- RCALL (R93, R197, R255): a release; the thread parks until the call has been sent. -/
def execRcall (_z : BitVec 1) (sa a n : BitVec 5) (v : BitVec 4) (c : BitVec 3) (s : State) : Host.Outcome State Fault Refusal :=
  let m := s.callImm
  .next (s.noSpec 0x31 (s.onUnit (s.rS a) false fun l =>
    let entry := s.iss.pc + BitVec.ofInt 48 (8 * callOff m)
    let kind : ReqKind := .rcall l (s.rS a) entry (s.rSs sa n.toNat) (s.src.getVs v c.toNat)
    let rid := s.nextRid
    let dests := (List.range (callDS m)).map (fun j => Reg.s (callSD m + j)) ++ (List.range (callDV m)).map fun j => Reg.v (v.toNat + j)
    if !sameTile s.lcore l && s.slotsFull s.lcore then s.stall
    else ((s.pendReq rid dests []).addReq (s.newReq s.cur s.issSrc kind [] true)).modMe fun t => { t with
      park := .answer rid
      calls := t.calls ++ [⟨rid, s.issSrc, callSD m, callDS m, v.toNat, callDV m, s.tick, s.src.rcTimeout * Config.cyclesPerUs, false⟩] }))

/-- The unit of a call as translated when it is sent (R253, R255); a translation dropped since its issue leaves the unit
found then. -/
def State.callUnit (s : State) (th u : Nat) (va : BitVec 64) : Nat :=
  match { s with cur := th }.nearest va with
  | .at_ l _ => l
  | _ => u

/-- An RCALL is sent: its unit is resolved, its timer starts, and its thread goes on (R120, R253, R255). -/
def State.sendCall (s : State) (th rid : Nat) : State :=
  let s := s.setReq rid fun r => match r.kind with
    | .rcall u va e as vs => { r with kind := .rcall (s.callUnit th u va) va e as vs }
    | _ => r
  s.modThr th fun t => { t with
    park := if t.park = .answer rid then .none else t.park
    calls := t.calls.map fun c => if c.rid = rid && !c.running then { c with running := true, sentAt := s.tick } else c }

/-! ## RRET (R93, R257) -/

/-- The callee's reply leaves, with the age of its call, and the callee ends (R93, R128, R219, R257). -/
def State.sendReply (s : State) (th : Nat) (ss : List (BitVec 64)) (vs : List (Vec × BitVec 4)) : State :=
  match (s.thr th).caller with
  | some c => (s.addReq { s.newReq th ⟨0, 0, false, 0⟩ (.reply c.th c.rid ss vs) [] false with born := c.born }).endThread th
  | none => s.endThread th

/-- RRET: only a callee's; it waits as a settle mark does (R257). -/
def execRret (_z : BitVec 1) (sr : BitVec 5) (v n : BitVec 4) (c : BitVec 3) (s : State) : Host.Outcome State Fault Refusal :=
  .next (s.check [(s.me.caller.isNone, trapIllegal)] (s.parkHere (.rret sr.toNat v.toNat n.toNat c.toNat)))

/-! ## MIGR (R258) -/

/-- MIGR: the checks of its issue; it waits as a settle mark does, and is then sent (R258). -/
def execMigr (_z : BitVec 1) (a : BitVec 5) (s : State) : Host.Outcome State Fault Refusal :=
  .next (s.check [(s.me.pos == 15, trapIllegal), (s.me.part, ⟨8, cAccess, 20, none⟩)]
    (s.noSpec 0x33 (s.onUnit (s.rS a) true fun _ => s.parkHere (.migrWait (s.rS a) s.issSrc))))

end Sys2Proof.Machine
end

