-- ==== Sys2Proof/Machine/Sync.lean ====
section
/-! DEFINITION. Barriers (R113 to R115, R259), speculation (R121, R122, R260), the merge of partials along a line
(R261, R262), messages (R263), engine queues (R264 to R266), semaphores (R267), events and histogram (R268). -/

namespace Sys2Proof.Machine

/-! ## Barriers (R259) -/

/-- A barrier form is held at issue until its object's home has answered (R259, R358). -/
def State.barrierForm (s : State) (op : Nat) (a : BitVec 5) (done : Answer → State) : State :=
  s.heldForm
    (s.noSpecAt 0x34 (s.rS a) 16 .atomic (s.onKey (s.rS a) 16 .atomic fun key pte =>
      s.holdBundle (.barrier op) [onePart key (s.rS a) pte 16 0 0] (op == 2 || op == 3)))
    done

/-- JOIN (R114, R259). -/
def execJoin (_z : BitVec 1) (a : BitVec 5) (s : State) : Host.Outcome State Fault Refusal := .next (s.barrierForm 0 a fun _ => s)
/-- LEAVE (R114, R259). -/
def execLeave (_z : BitVec 1) (a : BitVec 5) (s : State) : Host.Outcome State Fault Refusal := .next (s.barrierForm 1 a fun _ => s)
/-- GBAR: after its arrival it waits until PHASE differs from what the arrival saw (R115, R259). -/
def execGbar (_z : BitVec 1) (d a : BitVec 5) (s : State) : Host.Outcome State Fault Refusal :=
  .next (s.barrierForm 2 a fun x => s.modMe fun t => { t with park := .phase x.key (s.rS a) (x.value.setWidth 32) d s.issSrc })
/-- GBARD (R114, R259). -/
def execGbard (_z : BitVec 1) (a : BitVec 5) (s : State) : Host.Outcome State Fault Refusal := .next (s.barrierForm 3 a fun _ => s)
/-- Writes LAST of a barrier object, zero-extended, to GBAR's destination, and ends its wait (R115). -/
def State.phaseDone (s : State) (th : Nat) (d : BitVec 5) (status : Nat) : State :=
  (s.setWs th ((s.getWs th).setS d (BitVec.ofNat 64 (status / 65536 % 65536)))).modThr th fun t => { t with park := .over }

/-- A GBAR that waits meets a failure at its object (R115). -/
def State.pollFail (s : State) (th : Nat) (src : Src) (c : BitVec 8) (i : Nat) : State :=
  (s.modThr th fun t => { t with park := .over, walk := .none }).hold th ⟨c, BitVec.ofNat 26 i, none, src⟩

/-- A GBAR that waits reads its object: it goes on once PHASE differs, and fails where the object cannot be corrected (R115,
R177). -/
def State.pollRead (s : State) (th key : Nat) (ph : BitVec 32) (d : BitVec 5) (src : Src) : State :=
  if s.bad key 16 then (s.logUnc key (s.thr th).ctx.toNat).pollFail th src cEcc (eccInfo key)
  else if s.rdN (key + 8) 4 != ph.toNat then s.phaseDone th d (s.rdN (key + 12) 4) else s

/-- GQRY: a plain read of PHASE and ARRIVED, held at issue until the object's home has answered (R259). -/
def execGqry (_z : BitVec 1) (d a : BitVec 5) (s : State) : Host.Outcome State Fault Refusal :=
  .next (s.heldForm
    (s.onKey (s.rS a) 16 .atomic fun key pte => s.holdBundle .gqry [onePart (key + 4) (s.rS a) pte 8 0 0] false)
    fun x => s.pendReady [.s d.toNat] [.s d x.value] 0)

/-! ## Speculation (R121, R122, R260) -/

/-- SPEC (R121). -/
def execSpec (_z : BitVec 1) (s : State) : Host.Outcome State Fault Refusal :=
  .next (s.noSpec 0x35 (s.modMe fun t => { t with spec := some ⟨[], [], [], false, false⟩ }))
/-- COMMIT parks until its outcome (R122, R260). -/
def execCommit (_z : BitVec 1) (d : BitVec 5) (s : State) : Host.Outcome State Fault Refusal :=
  .next (s.check [(s.me.spec.isNone, trapIllegal)] (s.modMe fun t => { t with park := .commit d s.issSrc }))
/-- ABORT discards the log; later stores until COMMIT are discarded (R260). -/
def execAbort (_z : BitVec 1) (s : State) : Host.Outcome State Fault Refusal :=
  .next (s.check [(s.me.spec.isNone, trapIllegal)]
    (s.modMe fun t => { t with spec := t.spec.map fun sp => { sp with log := [], reads := [], pages := [], aborted := true } }))

/-! ## Merging partials (R261, R262) -/

/-- The record of PMRG lies, with its in-box, in the issuing core's own scratchpad: its key (R262). -/
def State.recordKey (s : State) (va : BitVec 64) : Except Trap Nat :=
  if va.toNat % 128 != 0 then .error ⟨8, cMisaligned, 7, some va⟩
  else if isPort s.lcore && s.me.ctx != 0 then .error (trapAccess 18 va)
  else if fld va.toNat 48 16 != 0 || fld va.toNat 46 2 != 3 then .error (trapAccess 16 va)
  else match onchip s.lcore va.toNat 256 with
    | none => .error (trapAccess 16 va)
    | some key =>
      if coreOfKey key != s.lcore || !isPad key || !isPad (key + 255) then .error (trapAccess 16 va)
      else if key < stackBase && !keyPort key && crosses s.me (offOf key) 256 0x8000 0xA000 then .error (trapAccess 20 va)
      else .ok key

/-- PMRG (R69, R262): FIRST passes its own record on; any other waits for its in-box. -/
def execPmrg (_z : BitVec 1) (d a b : BitVec 5) (v f : BitVec 1) (s : State) : Host.Outcome State Fault Refusal :=
  let next := s.rS b
  let last := next == BitVec.allOnes 64
  .next (match s.recordKey (s.rS a) with
    | .error t => s.raise t
    | .ok key =>
      s.check
        [ (!last && !namesCore next.toNat, ⟨8, cAccess, 17, none⟩),
          (!last && isPort next.toNat && s.me.ctx != 0, ⟨8, cAccess, 18, none⟩),
          (!last && !mayReach s next.toNat, ⟨8, cAccess, 18, none⟩),
          (!last && !s.routable (dieOfCore s.lcore) (dieOfCore next.toNat), ⟨8, cAccess, 22, none⟩) ]
        (if !last && !sameTile s.lcore next.toNat && s.slotsFull s.lcore then s.stall
         -- its own record is an access of the thread like any other (R82, R86)
         else if s.blockBusy s.cur s.issSrc [onePart key (s.rS a) 0 256 0 0] || s.relHolds s.cur s.me.seq then s.stall
         else if s.bad key (if v = 1 then 128 else 8) then (s.logUnc key s.me.ctx.toNat).raise ⟨8, cEcc, 1, some (s.rS a)⟩
         else
          let t :=
            if f = 1 then
              let rid := s.nextRid
              let s := { s with nextRid := rid + 1 }.pendReq rid [.s d.toNat] [.s d 0]
              s.pmrgSend s.cur s.issSrc rid key (s.record key) next (v == 1)
            else
              (s.pendReq s.nextRid [.s d.toNat] [.s d 0]).addReq
                (s.newReq s.cur s.issSrc (.pmrg next (v == 1) (s.record key).toList) [onePart (key + 128) (s.rS a + 128) 0 4 0 0, onePart key (s.rS a) 0 128 0 0] false)
          -- the outgoing write is a release
          if last then t else t.released))
where
  /-- The next core is in the issuer's context. -/
  mayReach (s : State) (l : Nat) : Bool :=
    s.me.ctx == 0 || (match s.ownerOf l with | some c => c == s.me.ctx.toNat | none => true)

/-! ## Messages (R263) -/

/-- SEND: a release, sent to a position's receive queue. -/
def execSend (_z : BitVec 1) (a sa : BitVec 5) (s : State) : Host.Outcome State Fault Refusal :=
  let tid := (s.rS a).toNat
  let l := tid / 16
  let ps := [⟨padKey l 0, 0, 0, 0, 0, 0, 0, false⟩]
  .next (s.noSpec 0x37 (s.check
    [ (!namesCore l, ⟨8, cAccess, 17, none⟩),
      (s.me.ctx != 0 && s.ownerOf l != some s.me.ctx.toNat, ⟨8, cAccess, 18, none⟩),
      (!s.routable (dieOfCore s.lcore) (dieOfCore l), ⟨8, cAccess, 22, none⟩) ]
    (if s.slotsFull s.lcore then s.stall else s.addReq (s.newReq s.cur s.issSrc (.send tid (s.tid s.cur) (s.rS sa) (s.rS (sa + 1))) ps true) |>.released)))

/-- RECV parks until its message has landed. -/
def execRecv (_z : BitVec 1) (d : BitVec 5) (s : State) : Host.Outcome State Fault Refusal :=
  .next ((s.pend ⟨s.issSrc, .recv, none, false, [.s d.toNat, .s (d.toNat + 1), .s (d.toNat + 2)],
      [.s d 0, .s (d + 1) 0, .s (d + 2) 0], 0, none⟩).modMe fun t => { t with park := .recv })

/-! ## Engine queues (R199, R200, R264 to R266) -/

/-- The core of a tile that drives a queue (R10, R200). -/
def queueRole (q : Nat) : Nat := match q with
  | 1 => 1
  | 2 => 2
  | _ => 3

/-- The issuing core drives a queue (R200). -/
def State.drives (s : State) (q : Nat) : Bool := isTileCore s.lcore && coreOf s.lcore == queueRole q

/-- A queue stands in the other column: q0 for a pre-empting thread, q3 for a class-2 or class-3 one (R161, R200). -/
def Thread.barredQueue (t : Thread) (q : Nat) : Bool := if t.confined then q == 0 else q == 3 && t.cls.toNat ≥ 2

/-- The command word in s(k) to s(k+3) (R198). -/
def State.tcwAt (s : State) (k : BitVec 5) : Tcw := s.rS (k + 3) ++ s.rS (k + 2) ++ s.rS (k + 1) ++ s.rS k

/-- PUSH's checks: the role rule at its stage of R205, then those of the word in the order of R200; SPEC_LOG and the context-0
check of SAVE and RSTR stand among the causes of the last stage, behind the rows before it (R121, R205; log 53). -/
def State.pushTrap (s : State) (w : Tcw) (q : Nat) : Option Trap :=
  firstTrap
    [ (!s.drives q, trapRole),
      (!tcwAssigned w.op, ⟨7, cIllegal, 1, none⟩),
      (!tcwResOk w, ⟨7, cIllegal, 2, none⟩),
      (tcwRounds w.op && w.rnd == 7, ⟨7, cIllegal, 4, none⟩),
      (!(tcwQueues w.op).contains q || !tcwLimOk w, trapLimit),
      (s.me.speculates, trapSpec 0x38),
      ((w.op == 0x10 || w.op == 0x11) && s.me.ctx != 0, ⟨8, cAccess, 19, none⟩),
      (s.me.barredQueue q, ⟨8, cAccess, 20, none⟩) ]

/-- Commands of a queue that count against it: queued, in flight, and done but not posted (R264). -/
def Tile.live (t : Tile) (q : Nat) : List Cmd :=
  t.queues.toList.getD q [] ++ ((t.streams.map (·.cmd)).filter fun c => c.q == q) ++ ((t.finished.map (·.cmd)).filter fun c => c.q == q)

/-- A command posts its record to the event queue; a pre-empting thread's never does (R161, R265). -/
def Cmd.toEvq (c : Cmd) : Bool := c.w.evq && !c.part

/-- A PUSH would exceed a count of R264. -/
def Tile.pushFull (t : Tile) (q : Nat) (evq : Bool) : Bool :=
  (t.live q).length ≥ 16 ||
    (if evq then t.evq.length + ([0, 1, 2, 3].foldl (fun a q => a + ((t.live q).filter Cmd.toEvq).length) 0) ≥ 64
     else (t.comp.toList.getD q []).length + ((t.live q).filter fun c => !c.toEvq).length ≥ 32)

/-- The number of a tile's live command that is the prerequisite of a word (R303). -/
def Tile.prereq (t : Tile) (w : Tcw) : Option Nat :=
  if w.pen then
    let n := Store.get 0 t.last (w.pq * 65536 + w.ptag)
    if n > 0 && (t.live w.pq).any (fun c => c.cid + 1 == n) then some (n - 1) else none
  else none

/-- A descriptor of a tile (R301). -/
def Tile.getDesc (t : Tile) (i : Nat) : BitVec 256 := t.desc.toList.getD i 0

/-- Elements of the destination of a command that rounds with .rs (R45). -/
def Tile.rsElems (t : Tile) (w : Tcw) : Nat :=
  let d := t.getDesc (w.f 123 120)
  getF d 128 16 * getF d 112 16

/-- PUSH (R45, R92, R200, R264, R303). SBCNT advances by the destination descriptor as it stands at the PUSH, which the spec
leaves open where a queued TDSC rewrites it before the command starts (log 53). -/
def execPush (_z : BitVec 1) (r : BitVec 5) (q : BitVec 2) (s : State) : Host.Outcome State Fault Refusal :=
  let w := s.tcwAt r
  let t := s.tile s.myT
  let rnd := roundMode s.src w.rnd
  let c : Cmd := ⟨w, q.toNat, s.nextRid, s.cur, s.me.ctx, s.me.lid, s.me.seed, s.lcore, s.me.cls, s.me.part, s.src.sbcnt,
    BitVec.ofNat 3 rnd, s.me.seq, t.prereq w, false, 0, []⟩
  .next (s.unless (s.pushTrap w q.toNat)
    (if t.pushFull q.toNat c.toEvq then s.stall
     else
      let s := { s with nextRid := s.nextRid + 1 }.modTile s.myT fun t => { t with
        queues := modAt t.queues q.toNat (· ++ [c])
        last := Store.put 0 t.last (q.toNat * 65536 + w.tag) (c.cid + 1) }
      (if tcwRounds w.op && rnd == 5 then s.upd fun ws => ws.setSbcnt (ws.sbcnt + BitVec.ofNat 64 ((t.rsElems w + 3) / 4)) else s).released))

/-- The role rule of POP and FSTAT (R200, R266). -/
def State.onQueue (s : State) (q : BitVec 2) (k : State) : State :=
  s.check [(!s.drives q.toNat, trapRole), (s.me.barredQueue q.toNat, ⟨8, cAccess, 20, none⟩)] k

/-- The issuing thread waits for an element; its number keeps the order of issue. -/
def State.pendTake (s : State) (kind : PendKind) (d : BitVec 5) : State :=
  { s with nextRid := s.nextRid + 1 }.pend ⟨s.issSrc, kind, some s.nextRid, false, [.s d.toNat], [.s d 0], 0, none⟩

/-- POP (R266). -/
def execPop (_z : BitVec 1) (d : BitVec 5) (q : BitVec 2) (s : State) : Host.Outcome State Fault Refusal :=
  .next (s.onQueue q (s.pendTake (.pop q.toNat) d))
/-- FSTAT (R266). -/
def execFstat (_z : BitVec 1) (d : BitVec 5) (q : BitVec 2) (s : State) : Host.Outcome State Fault Refusal :=
  let t := s.tile s.myT
  let queued := (t.queues.toList.getD q.toNat []).length
  .next (s.onQueue q (s.wS d (BitVec.ofNat 64
    (queued + ((t.live q.toNat).length - queued) * 256 + (t.comp.toList.getD q.toNat []).length * 65536))))

/-! ## Semaphores (R267) -/

/-- A semaphore or descriptor index lies outside the thread's column (R161). -/
def Thread.barredIndex (t : Thread) (n : Nat) : Bool := if t.part then n < 12 else t.cls.toNat ≥ 2 && n ≥ 12

/-- SEMP waits for a count above 0 and takes it; waiters are served in arrival order (R267). -/
def execSemp (_z : BitVec 1) (n : BitVec 4) (s : State) : Host.Outcome State Fault Refusal :=
  let t := s.tile s.myT
  .next (s.check [(!isTileCore s.lcore, trapRole), (s.me.barredIndex n.toNat, ⟨8, cAccess, 20, none⟩)]
    (if t.sem.toList.getD n.toNat 0 != 0 && !t.semq.any fun x => x.2 == n.toNat then
      s.modTile s.myT fun t => { t with sem := modAt t.sem n.toNat (· - 1) }
    else
      (s.modTile s.myT fun t => { t with semq := t.semq ++ [(s.cur, n.toNat)] }).modMe fun q => { q with park := .semp n.toNat }))
/-- SEMV: a release held at issue until it has been applied (R267, R358). -/
def execSemv (_z : BitVec 1) (n : BitVec 4) (s : State) : Host.Outcome State Fault Refusal :=
  .next (s.heldForm
    (s.check [(!isTileCore s.lcore, trapRole), (s.me.barredIndex n.toNat, ⟨8, cAccess, 20, none⟩)]
      (s.holdBundle (.semv n.toNat) [onePart (spaceKey s.myT 4 (0x200 + 4 * n.toNat)) 0 0 4 0 0] true))
    fun _ => s)

/-! ## Events and histogram (R71, R268) -/

/-- EVPOP (R268): the control core's. -/
def execEvpop (_z : BitVec 1) (d : BitVec 5) (s : State) : Host.Outcome State Fault Refusal :=
  .next (s.check [(!(isTileCore s.lcore && coreOf s.lcore == 0), trapRole)] (s.pendTake .evpop d))

/-- A count of the histogram: a bin, ZCNT or SPCNT (R268). -/
def Tile.count (t : Tile) (i : Nat) : BitVec 32 := if i < 64 then t.hist.toList.getD i 0 else if i = 64 then t.zcnt else t.spcnt

/-- HGET (R268): the conversion core's. -/
def execHget (_z : BitVec 1) (d a : BitVec 5) (s : State) : Host.Outcome State Fault Refusal :=
  let i := (s.rS a).toNat
  .next (s.check [(!(isTileCore s.lcore && coreOf s.lcore == 2), trapRole), (i > 65, trapLimit), (s.me.part, ⟨8, cAccess, 20, none⟩)]
    (s.wS d (((s.tile s.myT).count i).setWidth 64)))
/-- HCLR (R268). -/
def execHclr (_z : BitVec 1) (s : State) : Host.Outcome State Fault Refusal :=
  .next (s.check [(!(isTileCore s.lcore && coreOf s.lcore == 2), trapRole), (s.me.part, ⟨8, cAccess, 20, none⟩)]
    (s.modTile s.myT fun t => { t with hist := Vector.replicate 64 0, zcnt := 0, spcnt := 0 }))

end Sys2Proof.Machine
end

