-- ==== Sys2Proof/Machine/System.lean ====
section
/-! DEFINITION. Control registers (R224, R225), traps and the supervisor's forms (R227 to R233), drain, map and scan
(R182 to R187, R234 to R237). -/

namespace Sys2Proof.Machine

/-! ## Control registers -/

/-- TICK: cycles since step 5 of DAWN (R224). -/
def State.tickCount (s : State) : Nat := if s.dawn.stage < 5 then 0 else s.tick - s.dawn.readyAt

/-- The value of a control register (R224). -/
def State.csr (s : State) (n : Nat) : BitVec 64 :=
  let w := s.src
  match n with
  | 0x000 => BitVec.ofNat 64 (winOfTh s.cur * Config.wsSize)
  | 0x001 => (recPc w.trap).setWidth 64
  | 0x002 => (recCause w.trap).setWidth 64
  | 0x003 => (recSrcPc w.trap).setWidth 64 ||| (((recInfo w.trap).setWidth 16).setWidth 64 <<< 48)
  | 0x004 => w.flags.setWidth 64
  | 0x005 => BitVec.ofNat 64 w.mode
  | 0x006 => s.me.seed
  | 0x007 => w.sbcnt
  | 0x008 => BitVec.ofNat 64 s.lcore
  | 0x009 => s.me.ctx.setWidth 64
  | 0x00A => BitVec.ofNat 64 (s.me.cls.toNat + 4 * s.me.part.toNat)
  | 0x00B => BitVec.ofNat 64 Config.vwidth
  | 0x00C => BitVec.ofNat 64 s.tickCount
  | 0x00D => BitVec.ofNat 64 (w.tsF 1 32 16)
  | 0x00E => BitVec.ofNat 64 (w.tsF 2 0 32)
  | 0x00F => w.exst.setWidth 64
  | _ => 0

/-- Writes a control register (R224). -/
def Workspace.setCsr (w : Workspace) (n : Nat) (x : BitVec 64) : Workspace :=
  match n with
  | 0x004 => w.setFlags (x.setWidth 15)
  | 0x005 => w.setTsF 1 16 3 (getF x 0 3)
  | 0x007 => w.setSbcnt x
  | 0x00D => w.setTsF 1 32 16 (getF x 0 16)
  | 0x00E => w.setTsF 2 0 32 (getF x 0 32)
  | 0x00F => w.setTsF 7 0 16 (getF x 0 16)
  | _ => w

/-- CSRR (R224). -/
def execCsrr (_z : BitVec 1) (d : BitVec 5) (n : BitVec 9) (s : State) : Host.Outcome State Fault Refusal := .next (s.wS d (s.csr n.toNat))
/-- CSRW; MODE 6 and 7 trap ILLEGAL reason 6 (R41, R224). -/
def execCsrw (_z : BitVec 1) (a : BitVec 5) (n : BitVec 9) (s : State) : Host.Outcome State Fault Refusal :=
  .next (s.check [(n == 5 && getF (s.rS a) 0 3 ≥ 6, ⟨7, cIllegal, 6, none⟩)] (s.upd fun w => w.setCsr n.toNat (s.rS a)))

/-! ## Traps and the supervisor (R227 to R233) -/

/-- TRAP (R228). -/
def execTrap (_z : BitVec 1) (c : BitVec 10) (s : State) : Host.Outcome State Fault Refusal := .next (s.raise ⟨8, cSoftware, c.toNat, none⟩)
/-- BRK (R228). -/
def execBrk (_z : BitVec 1) (c : BitVec 10) (s : State) : Host.Outcome State Fault Refusal := .next (s.raise ⟨8, cBreak, c.toNat, none⟩)

/-- The checks of RTE, FRZ and THAW on context and position (R227). -/
def State.supCheck (s : State) (p : BitVec 64) (k : State) : State :=
  s.check [(s.me.ctx != 0, trapCtx0), (p.toNat > 15 || p == 15 || p.toNat == s.me.pos, trapLimit)] k

/-- RTE (R170, R230): acted on at the target's next turn. DESIGN CHOICE (log 54): until then the target still counts as trapped, and a
second RTE answers 1 and takes the first one's place. -/
def execRte (_z : BitVec 1) (d a : BitVec 5) (m : BitVec 2) (s : State) : Host.Outcome State Fault Refusal :=
  let p := s.rS a
  .next (s.supCheck p
    (match s.threadAt s.lcore p.toNat with
     | some th =>
       let pc := recPc (s.getWs th).trap
       if !(s.thr th).trapped then s.wS d 0
       else s.check [(getF pc 0 3 != 0, ⟨8, cMisaligned, 3, some (pc.setWidth 64)⟩)] ((s.rteResume th m).wS d 1)
     | none => s.wS d 0))

/-- The oldest entry of the core's trap queue goes to a thread's register (R169, R229). -/
def State.takeEntry (s : State) (th : Nat) (d : BitVec 5) : State :=
  match (s.core (coreOfTh th)).trapq with
  | e :: l => ((s.modCore (coreOfTh th) fun c => { c with trapq := l }).setWs th ((s.getWs th).setS d e)).modThr th fun t => { t with park := .none }
  | [] => s.modThr th fun t => { t with park := .idle d }

/-- IDLE (R169, R229). -/
def execIdle (_z : BitVec 1) (d : BitVec 5) (s : State) : Host.Outcome State Fault Refusal :=
  .next (s.check [(s.me.ctx != 0, trapCtx0), (s.me.pos != 15, trapLimit)] (s.takeEntry s.cur d))

/-- FRZ of a thread as it stands once what has been asked of it has acted (R230). -/
def Thread.frzNext (t : Thread) : Bool := t.frzTo.getD t.frz

/-- FRZ (R124, R171, R230): it acts at the position's next turn. -/
def execFrz (_z : BitVec 1) (d a : BitVec 5) (s : State) : Host.Outcome State Fault Refusal :=
  let p := s.rS a
  .next (s.supCheck p
    (match s.threadAt s.lcore p.toNat with
     | some th => if (s.thr th).frzNext then s.wS d 0 else (s.modThr th fun t => { t with frzTo := some true }).wS d 1
     | none => s.wS d 0))
/-- THAW (R171, R230). -/
def execThaw (_z : BitVec 1) (d a : BitVec 5) (s : State) : Host.Outcome State Fault Refusal :=
  let p := s.rS a
  .next (s.supCheck p
    (match s.threadAt s.lcore p.toNat with
     | some th => if (s.thr th).frzNext then (s.modThr th fun t => { t with frzTo := some false }).wS d 1 else s.wS d 0
     | none => s.wS d 0))

/-- Every result of a thread has landed and every access of it is performed (R24, R83). -/
def State.settled (s : State) (th : Nat) : Bool := (s.thr th).pend.isEmpty && s.net.all fun r => r.th != th || !r.kind.isAccess

/-- The value of SLOTQ (R231): only OCC of another context's thread. DESIGN CHOICE (log 54): PARK covers the waits that an
instruction enters, not a trap, a freeze or a page walk. -/
def State.slotState (s : State) (th : Nat) : BitVec 64 :=
  let t := s.thr th
  let w := s.getWs th
  if s.me.ctx != 0 && t.ctx != s.me.ctx then 1
  else
    let parked := (t.park != .none && t.park != .over) || (t.settle && !s.settled th)
    BitVec.ofNat 64 (winOfTh th * Config.wsSize * 2 ^ 32 + s.slotsOf th % 64 * 2 ^ 24 + t.ctx.toNat * 2 ^ 16 + t.sfrz.toNat * 1024
      + (!t.held.isEmpty).toNat * 512 + w.lend.toNat * 256 + w.inl.toNat * 128 + (!t.pend.isEmpty).toNat * 64
      + t.speculates.toNat * 32 + t.pfrz.toNat * 16 + t.frz.toNat * 8 + t.trapped.toNat * 4 + parked.toNat * 2 + 1)

/-- SLOTQ (R231). -/
def execSlotq (_z : BitVec 1) (d a : BitVec 5) (s : State) : Host.Outcome State Fault Refusal :=
  let p := s.rS a
  .next (s.check [(p.toNat > 15, trapLimit)]
    (s.wS d (match s.threadAt s.lcore p.toNat with | some th => s.slotState th | none => 0)))
/-- VWID (R232). -/
def execVwid (_z : BitVec 1) (d : BitVec 5) (c : BitVec 10) (s : State) : Host.Outcome State Fault Refusal :=
  .next (s.wS d (BitVec.ofNat 64 (Config.vwidth / 8 / max 1 c.toNat)))
/-- RDTK (R232). -/
def execRdtk (_z : BitVec 1) (d : BitVec 5) (s : State) : Host.Outcome State Fault Refusal := .next (s.wS d (BitVec.ofNat 64 s.tickCount))
/-- SBSR (R233). -/
def execSbsr (_z : BitVec 1) (d a : BitVec 5) (s : State) : Host.Outcome State Fault Refusal :=
  .next (s.upd fun w => (w.setS d s.src.sbcnt).setSbcnt (s.rS a))

/-! ## Drain, map and scan (R182 to R187, R234 to R237) -/

/-- The checks of a coordinate word (R103, R234). -/
def State.coordCheck (s : State) (x : BitVec 64) (dusk : Bool) (k : State) : State :=
  s.check
    [ (s.me.ctx != 0, trapCtx0),
      (x.toNat ≥ 2 ^ 13 || (dusk && isTileCore s.lcore && x.toNat == s.myT), trapLimit),
      (x.toNat > 6143, ⟨8, cAccess, if dusk then 17 else 23, none⟩) ] k

/-- The unsent call of a thread parked on it has no running timer. -/
def Thread.callSent (t : Thread) (c : Call) : Bool := t.park != .answer c.rid

/-- The call of a request has been sent; a caller that has ended sent it before. -/
def State.callRuns (s : State) (r : Req) : Bool :=
  r.th ≥ noThread || (s.thr r.th).calls.any fun c => c.rid == r.rid && (s.thr r.th).callSent c

/-- The RCALL timers of a tile stop, keeping what is left (R183). -/
def State.stopTimers (s : State) (ks : List Nat) : State :=
  s.forThreads ks fun t => { t with
    calls := t.calls.map fun c => if c.running then { c with running := false, timeout := c.timeout - (s.tick - c.sentAt) } else c }

/-- The timers run on (R183). -/
def State.runTimers (s : State) (ks : List Nat) : State :=
  s.forThreads ks fun t => { t with calls := t.calls.map fun c => if t.callSent c then { c with running := true, sentAt := s.tick } else c }

/-- Requests of a drained tile's threads that wait at other cores are withdrawn (R183). -/
def State.withdraw (s : State) (t : Nat) : State :=
  { s with net := s.net.map fun r => if r.lcore / 4 == lcoreOfT t 0 / 4 && r.isParked && r.homeCore / 4 != lcoreOfT t 0 / 4 && !r.parts.isEmpty
      then { r with st := .withdrawn } else r }

/-- A tile starts to drain: its ordinary threads freeze, its RCALL timers stop (R182, R183). -/
def State.startDrain (s : State) (t : Nat) (dusks : List (Nat × Nat)) : State :=
  let ks := s.tileThreads t
  let s := s.stopTimers ks
  let s := s.forThreads (ks.filter fun k => (s.thr k).pos != 15) fun x => { x with sfrz := true }
  (s.modTile t fun x => { x with drain := .draining dusks }).withdraw t

/-- DUSK with mode 1 (R182, R234, R235): it waits for the end of a drain in progress, which it does not change. -/
def execDuskDrain (_z : BitVec 1) (d a : BitVec 5) (s : State) : Host.Outcome State Fault Refusal :=
  let x := s.rS a
  let t := x.toNat
  .next (s.coordCheck x true
    (let p : Pend := ⟨s.issSrc, .value, none, false, [.s d.toNat], [.s d 0], 0, none⟩
     match (s.tile t).drain with
     | .no => (s.startDrain t [(s.cur, s.me.seq)]).pend p
     | .draining l => (s.modTile t fun x => { x with drain := .draining (l ++ [(s.cur, s.me.seq)]) }).pend p
     | .drained => s.pendReady [.s d.toNat] [.s d 1] 0))

/-- A tile is released: its threads thaw, withdrawn requests are sent again, its RCALL timers run on (R182, R183). -/
def State.release (s : State) (t : Nat) : State :=
  let ks := s.tileThreads t
  let s := (s.forThreads ks fun x => { x with sfrz := false }).runTimers ks
  let s := s.modTile t fun x => { x with drain := .no }
  { s with net := s.net.map fun r => if r.lcore / 4 == lcoreOfT t 0 / 4 && r.st == .withdrawn then { r with st := .inflight, sent := false, legs := [] } else r }

/-- DUSK with mode 0 (R182, R234, R235). -/
def execDuskRelease (_z : BitVec 1) (d a : BitVec 5) (s : State) : Host.Outcome State Fault Refusal :=
  let x := s.rS a
  let t := x.toNat
  .next (s.coordCheck x true
    (if (s.tile t).scan.isSome then s.pendReady [.s d.toNat] [.s d 2] 0
     else if (s.tile t).drain = .drained then (s.release t).pendReady [.s d.toNat] [.s d 0] 0
     else s.pendReady [.s d.toNat] [.s d 1] 0))

/-- LCMW (R186, R236): held at issue until the map's port core has answered; the former slot then lands. -/
def execLcmw (_z : BitVec 1) (d a b : BitVec 5) (s : State) : Host.Outcome State Fault Refusal :=
  let x := s.rS a
  let home := padKey (portOfGroup (x.toNat / 128 * 16)) 0 + 5 * 2 ^ 26
  .next (s.heldForm
    (s.coordCheck x false (s.holdBundle (.lcmw x.toNat (s.rS b).toNat) [onePart home (BitVec.ofNat 64 home) 0 2 0 0] false))
    fun ans => s.pendReady [.s d.toNat] [.s d ans.value] 0)

/-- A launch of class 0 waits at the head of its class for a tile (R106, R185). -/
def State.urgent (s : State) (t : Nat) : Bool :=
  match (s.die (dieOfT t)).queue.find? fun lid => s.launches.any fun x => x.lid == lid && x.cls == 0 && x.phase == .queued
      && x.prq.all fun p => p == 0 || !s.launches.any fun y => y.lid == p with
  | some lid => s.launches.any fun x => x.lid == lid && x.tiles.contains t
  | none => false

/-- SCAN (R184, R237, R356): 2 where the tile is not drained or is under scan; a waiting class-0 launch aborts it as it
starts. -/
def execScan (_z : BitVec 1) (d a : BitVec 5) (s : State) : Host.Outcome State Fault Refusal :=
  let l := (s.rS a).toNat
  let t := tOf l
  .next (s.check [(s.me.ctx != 0, trapCtx0), (!isTileCore l, ⟨8, cAccess, 17, none⟩)]
    (if (s.tile t).drain != .drained || (s.tile t).scan.isSome then s.pendReady [.s d.toNat] [.s d 2] 0
     else
      let urgent := s.urgent t
      (s.modTile t fun x => { x with scan := some ⟨l, s.slotOf t, 0, s.tick, if urgent then some 0x16 else none, urgent, s.cur, s.me.seq⟩ }).pend
        ⟨s.issSrc, .value, none, false, [.s d.toNat], [.s d 0], 0, none⟩))

end Sys2Proof.Machine
end

