-- ==== Sys2Proof/Machine/Logit.lean ====
section
/-! DEFINITION. The Vesper filter: the logit machine and its instructions (R324 to R327), runs of a chunk (R323), Take and
the shortlist (R72 to R74), the report and the sampler's start (R328, R329), stores to a logit window and its binding
(R320 to R322, R353). -/

namespace Sys2Proof.Machine

/-! ## The logit machine (R324, R326) -/

/-- Changes the run of the window that is moving. -/
def State.onRun (s : State) (f : LRun → LRun) : State :=
  match s.binding s.curWin with
  | some b => match b.run with
    | some r => s.setBinding s.curWin (some { b with run := some (f r) })
    | none => s
  | none => s

/-- A logit register. -/
def LRun.get (r : LRun) (i : BitVec 4) : Vector (BitVec 32) 32 := r.x[i.toNat]'i.isLt
/-- Writes a logit register. -/
def LRun.set (r : LRun) (i : BitVec 4) (v : Vector (BitVec 32) 32) : LRun := { r with x := r.x.set i.toNat v i.isLt }
/-- A register of lanes from a function of the lane. -/
def lanes (f : Nat → Nat) : Vector (BitVec 32) 32 := Vector.ofFn fun i => BitVec.ofNat 32 (f i.val)
/-- Lane i of a register, as its encoding. -/
def LRun.lane (r : LRun) (a : BitVec 4) (i : Nat) : Nat := ((r.get a).toList.getD i 0).toNat

/-- Writes each lane of xd (R324: every lane acts). -/
def State.lwrite (s : State) (d : BitVec 4) (f : LRun → Nat → Nat) : State := s.onRun fun r => r.set d (lanes (f r))

/-- F32 1.0. -/
def f32One : Nat := 0x3F800000
/-- F32 is +0 or −0. -/
def f32IsZero (x : Nat) : Bool := x % 2 ^ 31 == 0
/-- The canonical F32 NaN. -/
def f32Nan : Nat := FF.f32.nan

/-- LNOP (R326). -/
def execLnop (s : State) : Host.Outcome State Fault Refusal := .next s
/-- LLDK (R326). -/
def execLldk (d : BitVec 4) (s : State) : Host.Outcome State Fault Refusal := .next (s.lwrite d fun r i => (r.logits.toList.getD i 0).toNat)
/-- LCNT (R326). -/
def execLcnt (d : BitVec 4) (s : State) : Host.Outcome State Fault Refusal :=
  .next (s.lwrite d fun r i => ((Exact.ofInt (r.counts.toList.getD i 0).toNat 0 false).deliver .f32 0 0).1)
/-- LHIS (R326). -/
def execLhis (d : BitVec 4) (s : State) : Host.Outcome State Fault Refusal := .next (s.lwrite d fun r i => if r.hist.getLsbD i then f32One else 0)
/-- LBIA (R326). -/
def execLbia (d : BitVec 4) (s : State) : Host.Outcome State Fault Refusal :=
  .next (s.lwrite d fun r i => (convFF .bf16 .f32 0 0 (r.bias.toList.getD i 0).toNat).1)
/-- LBAN (R326). -/
def execLban (d a : BitVec 4) (s : State) : Host.Outcome State Fault Refusal := .next (s.lwrite d fun r i => if r.ban.getLsbD i then f32NegInf else r.lane a i)
/-- LADD (R326). -/
def execLadd (d a b : BitVec 4) (s : State) : Host.Outcome State Fault Refusal := .next (s.lwrite d fun r i => f32Add (r.lane a i) (r.lane b i))
/-- LSUB (R326). -/
def execLsub (d a b : BitVec 4) (s : State) : Host.Outcome State Fault Refusal := .next (s.lwrite d fun r i => f32Sub (r.lane a i) (r.lane b i))
/-- LMUL (R326). -/
def execLmul (d a b : BitVec 4) (s : State) : Host.Outcome State Fault Refusal := .next (s.lwrite d fun r i => f32Mul (r.lane a i) (r.lane b i))
/-- LSEL (R326). -/
def execLsel (d a b c : BitVec 4) (s : State) : Host.Outcome State Fault Refusal :=
  .next (s.lwrite d fun r i => if f32IsZero (r.lane c i) then r.lane b i else r.lane a i)
/-- LCMP (R275, R326). -/
def execLcmp (d a b : BitVec 4) (c : BitVec 3) (s : State) : Host.Outcome State Fault Refusal :=
  .next (s.lwrite d fun r i => if (FF.f32.compare c.toNat (r.lane a i) (r.lane b i)).1 then f32One else 0)
/-- LMAX (R274, R326). -/
def execLmax (d a b : BitVec 4) (s : State) : Host.Outcome State Fault Refusal := .next (s.lwrite d fun r i => f32Max (r.lane a i) (r.lane b i))
/-- LMIN (R274, R326). -/
def execLmin (d a b : BitVec 4) (s : State) : Host.Outcome State Fault Refusal := .next (s.lwrite d fun r i => f32Min (r.lane a i) (r.lane b i))
/-- x·2^k rounded once. -/
def f32Scale (x : Nat) (k : Int) : Nat :=
  ((match FF.f32.val x with
    | .fin n m e => Exact.mag n m (e + k) false
    | .inf n => .inf n 0
    | .nan _ => .nan 0).deliver .f32 0 0).1
/-- LSCL (R326). -/
def execLscl (d a : BitVec 4) (k : BitVec 9) (s : State) : Host.Outcome State Fault Refusal := .next (s.lwrite d fun r i => f32Scale (r.lane a i) k.toInt)
/-- LCLP: clamps to ±|xb| (R326). -/
def execLclp (d a b : BitVec 4) (s : State) : Host.Outcome State Fault Refusal :=
  .next (s.lwrite d fun r i =>
    let m := r.lane b i % 2 ^ 31
    f32Min (f32Max (r.lane a i) (m + 2 ^ 31)) m)
/-- The repetition penalty (R326). -/
def penalty (a b c : Nat) : Nat :=
  if (FF.f32.val a).isNan || (FF.f32.val b).isNan then f32Nan
  else if f32IsZero b then a
  else if (FF.f32.compare 5 a 0).1 then ((exactDiv (FF.f32.val a) (FF.f32.val c)).deliver .f32 0 0).1
  else f32Mul a c
/-- LPEN (R326). -/
def execLpen (d a b : BitVec 4) (k : BitVec 3) (s : State) : Host.Outcome State Fault Refusal :=
  .next (s.lwrite d fun r i => penalty (r.lane a i) (r.lane b i) (r.consts[k.toNat]'k.isLt).toNat)
/-- LTOPK: the first of a run offers its lanes (R327). -/
def execLtopk (a : BitVec 4) (s : State) : Host.Outcome State Fault Refusal :=
  .next (s.onRun fun r => match r.offer with
    | none => { r with offer := some (r.get a) }
    | some _ => r)
/-- LMOV (R326). -/
def execLmov (d a : BitVec 4) (s : State) : Host.Outcome State Fault Refusal := .next (s.onRun fun r => r.set d (r.get a))
/-- LIMM with a constant (R326). -/
def execLimmConst (d : BitVec 4) (k : BitVec 3) (s : State) : Host.Outcome State Fault Refusal :=
  .next (s.lwrite d fun r _ => (r.consts[k.toNat]'k.isLt).toNat)
/-- LIMM with a value, the top 13 bits of an F32 (R326). -/
def execLimmValue (d : BitVec 4) (v : BitVec 13) (s : State) : Host.Outcome State Fault Refusal := .next (s.lwrite d fun _ _ => v.toNat * 2 ^ 19)

/-! ## Take and the shortlist (R72, R73) -/

/-- V40 1. -/
def v40One : Nat := 127 * 2 ^ 31
/-- Exp40 of a difference of two finite F32 values (R72, R73): e^(x − y). -/
def exp40Diff (x y : Nat) : Nat :=
  match FF.f32.val x, FF.f32.val y with
  | .fin na ma ea, .fin nb mb eb =>
    let e := min ea eb
    let v := signed na ma * 2 ^ (ea - e).toNat - signed nb mb * 2 ^ (eb - e).toNat
    ((expE (v < 0) v.natAbs e).deliver .v40 0 0).1
  | _, _ => 0
/-- Round40 of a sum. -/
def v40Add (a b : Nat) : Nat := (FF.v40.add 0 0 a b).1
/-- Round40 of a product. -/
def v40Mul (a b : Nat) : Nat := (FF.v40.mul 0 0 a b).1
/-- F32 +∞. -/
def f32Inf : Nat := 0x7F800000

/-- The shortlist's order: the larger value first, −0 below +0, then the lower id (R73). -/
def Short.before (a b : Short) : Bool :=
  FF.f32.orderKey b.val.toNat < FF.f32.orderKey a.val.toNat || (a.val == b.val && a.id < b.id)
/-- Inserts an entry. -/
def insertShort (x : Short) : List Short → List Short
  | [] => [x]
  | y :: l => if x.before y then x :: y :: l else y :: insertShort x l

/-- Take (R73). A new maximum is found with −0 below +0, as R74 makes mx a function of the values taken alone. -/
def Binding.take (b : Binding) (id l : Nat) : Binding :=
  if (FF.f32.val l).isNan then { b with nancnt := b.nancnt + 1 }
  else if l = f32NegInf then b
  else
    let mx := b.mx.toNat
    let sm := b.sum.toNat
    let (mx', sm') :=
      if b.n = 0 then (l, v40One)
      else if l = f32Inf then (l, v40Add (if mx = f32Inf then sm else 0) v40One)
      else if mx = f32Inf then (mx, sm)
      else if FF.f32.orderKey mx < FF.f32.orderKey l then (l, v40Add (v40Mul sm (exp40Diff mx l)) v40One)
      else (mx, v40Add sm (exp40Diff l mx))
    { b with mx := BitVec.ofNat 32 mx', sum := BitVec.ofNat 40 sm', n := b.n + 1
             shorts := (insertShort ⟨id, BitVec.ofNat 32 l⟩ b.shorts).take b.k }

/-- The state of R73 cleared, for a new step (R322, R329). -/
def Binding.clear (b : Binding) : Binding :=
  { b with mx := BitVec.ofNat 32 f32NegInf, sum := 0, n := 0, nancnt := 0, shorts := [], flt := 0, ran := [], waiting := none, run := none }

/-! ## The report (R328, R329) -/

/-- The filter writes to a window, whose page may have COMPRESS: a merge that fails writes nothing, and is logged (R178). -/
def State.winWrite (s : State) (ctx : BitVec 6) (compress : Bool) (key n x : Nat) : State :=
  if s.mergeBad key n (BitVec.allOnes 64) (if compress then 0x800 else 0) then s.logUnc key ctx.toNat
  else (s.wrN key n x).cleanUnits key n (BitVec.allOnes 64)

/-- STATUS of a window (R321). -/
def State.setStatus (s : State) (ctx : BitVec 6) (compress : Bool) (win code index : Nat) : State :=
  s.winWrite ctx compress (win + 0x2C) 4 (code * 2 ^ 24 + index * 2 ^ 16)

/-- The weights' running sums A_r (R328). -/
def cumWeights (mx : Nat) : Nat → List Short → List Nat
  | _, [] => []
  | a, x :: l =>
    let w := if mx = f32Inf then (if x.val.toNat = f32Inf then v40One else 0) else exp40Diff x.val.toNat mx
    let a := v40Add a w
    a :: cumWeights mx a l

/-- Writes the report (R328). -/
def State.writeReport (s : State) (win : Nat) (b : Binding) : State :=
  let put (s : State) (x : Nat × Nat × Nat) : State := s.winWrite b.ctx b.compress (win + x.1) x.2.1 x.2.2
  let head : List (Nat × Nat × Nat) :=
    [(0x400, 4, b.mx.toNat), (0x404, 4, b.nancnt), (0x408, 4, b.n), (0x40C, 4, b.shorts.length), (0x410, 8, b.sum.toNat), (0x418, 4, b.flt), (0x41C, 4, 0)]
      ++ (List.range 12).map fun i => (0x420 + 8 * i, 8, 0)
  let entry (x : (Short × Nat) × Nat) : Nat × Nat × Nat :=
    (0x480 + 16 * x.2, 16, x.1.1.id + 2 ^ 32 * x.1.1.val.toNat + 2 ^ 64 * (convFF .v40 .f32 0 0 x.1.2).1)
  (head ++ (b.shorts.zip (cumWeights b.mx.toNat 0 b.shorts)).zipIdx.map entry).foldl put s

/-- The next step of a window: POS + 1, NEXT becomes CUR, CODE 0x01 (R329). -/
def State.nextStep (s : State) (win : Nat) (b : Binding) : State :=
  let s := s.setBinding win (some { b.clear with pos := b.pos + 1, cur := b.next, next := [] })
  (s.winWrite b.ctx b.compress (win + 0x28) 4 (b.pos + 1).toNat).setStatus b.ctx b.compress win 1 0

/-- The sampler's thread is started, refused and sent again later, or the report is discarded (R329). -/
def State.startSampler (s : State) (win : Nat) (b : Binding) : State :=
  let l := b.sampler
  if !isTileCore l || s.ownerOf l != some b.ctx.toNat then s.nextStep win b
  else
    match (if s.refuses (padKey l 0) then none else if b.part then s.partPlace l b.lid else s.ordPlace l) with
    | some (w, pos) =>
      let t : Thread := { Thread.none with
        pos := pos, kind := .sampler, ctx := b.ctx, lid := b.lid, seed := b.seed, cls := b.cls, part := b.part, root := noThread }
      let ws := (Workspace.fresh (b.entry.setWidth 48) false).putS 0
        [b.win, b.seqid.setWidth 64, b.pos.setWidth 64, BitVec.ofNat 64 b.shorts.length, BitVec.ofNat 64 b.flt]
      ((if b.part then s.preemptPos l pos else s).startThread (l * 20 + w) t ws).nextStep win b
    | none => s.setBinding win (some { b with waiting := some s.tick })

/-- The end of a step: the report is written and sent, once every chunk has run (R323, R328). -/
def State.endStep (s : State) (win : Nat) (b : Binding) : State :=
  if b.ran.length * 32 < b.vocab then s.setBinding win (some b)
  else ((s.writeReport win b).setStatus b.ctx b.compress win 2 0).startSampler win b

/-! ## Runs (R323) -/

/-- The bytes a filter reads at a virtual address in a context; none where a page or a save area forbids it or an error is met
(R150, R155, R177). -/
def State.filterBytes (s : State) (ctx : BitVec 6) (va : Nat) (k : AccKind) : Nat → Option (List Byte)
  | 0 => some []
  | n + 1 =>
    if fld va 46 18 != 0 then none
    else
      match s.walkPage ctx (va / 65536) with
      | .error _ => none
      | .ok (pte, frame, _) =>
        let key := frame * 65536 + va % 65536
        if (pageForbids (BitVec.ofNat 64 pte) k).isSome || s.bad key 1 || (ctx != 0 && s.inSave key) then none
        else (State.filterBytes s ctx (va + 1) k n).map (s.rdByte key :: ·)

/-- A range of n bytes lies on NEAR pages (R320). -/
def State.nearPages (s : State) (ctx : BitVec 6) (va n : Nat) : Bool :=
  (List.range ((va + n - 1) / 65536 + 1 - va / 65536)).all fun i =>
    let vpn := va / 65536 + i
    fld (vpn * 65536) 46 18 == 0 && match s.walkPage ctx vpn with
      | .ok (pte, _, _) => pte / 512 % 2 == 1 && (pageForbids (BitVec.ofNat 64 pte) .load).isNone
      | .error _ => false

/-- Bytes of the tables of a window (R325): counts, two bit masks, biases, for each token. -/
def tableBytes (vocab : Nat) : Nat := vocab + vocab / 4 + 2 * vocab

/-- The first key of a range, as a context translates it, that holds an uncorrectable error. -/
def State.filterError (s : State) (ctx : BitVec 6) (va : Nat) : Nat → Option Nat
  | 0 => none
  | n + 1 =>
    match s.walkPage ctx (va / 65536) with
    | .ok (_, frame, _) =>
      let key := frame * 65536 + va % 65536
      if s.bad key 1 then some key else State.filterError s ctx (va + 1) n
    | .error _ => State.filterError s ctx (va + 1) n

/-- Logs the first uncorrectable error of some ranges that a context's reads meet (R177). -/
def State.logReads (s : State) (ctx : BitVec 6) (l : List (Nat × Nat)) : State :=
  match l.findSome? fun x => s.filterError ctx x.1 x.2 with
  | some key => s.logUnc key ctx.toNat
  | none => s

/-- The run of a window begins: its registers at +0, the chunk's logits and table entries read (R323 to R325). A logit that
cannot be corrected is taken as a table entry that cannot (log 54). -/
def State.chunkStart (s : State) (win chunk : Nat) : State :=
  match s.binding win with
  | none => s
  | some b =>
    if b.run.isSome || b.waiting.isSome || chunk * 32 ≥ b.vocab || b.ran.contains chunk || Store.get 0 b.cur chunk != BitVec.allOnes 32 then s
    else
      let t := b.tbase.toNat
      let rd := fun a n => if s.nearPages b.ctx a n then s.filterBytes b.ctx a .load n else none
      let zero : Vector (BitVec 32) 32 := Vector.replicate 32 0
      let logits := lanes fun i => s.rdN (win + 0x1000 + 128 * chunk + 4 * i) 4
      let r : LRun := ⟨chunk, Vector.replicate 16 zero, logits, Vector.replicate 32 0, 0, 0, Vector.replicate 32 0, b.consts, 0, none, false, false⟩
      if s.bad (win + 0x1000 + 128 * chunk) 128 then
        (s.logUnc (win + 0x1000 + 128 * chunk) b.ctx.toNat).setBinding win (some { b with run := some { r with failed := true } })
      else match rd (t + 32 * chunk) 32, rd (t + b.vocab + 4 * chunk) 4, rd (t + b.vocab + b.vocab / 8 + 4 * chunk) 4,
          rd (t + b.vocab + b.vocab / 4 + 64 * chunk) 64 with
      | some c, some h, some bn, some bi =>
        let r := { r with
          counts := Vector.ofFn fun i => c.getD i.val 0
          hist := BitVec.ofNat 32 (leNat h), ban := BitVec.ofNat 32 (leNat bn)
          bias := Vector.ofFn fun i => BitVec.ofNat 16 ((bi.getD (2 * i.val) 0).toNat + 256 * (bi.getD (2 * i.val + 1) 0).toNat) }
        s.setBinding win (some { b with run := some r })
      | _, _, _, _ =>
        let e := [(t + 32 * chunk, 32), (t + b.vocab + 4 * chunk, 4), (t + b.vocab + b.vocab / 8 + 4 * chunk, 4),
          (t + b.vocab + b.vocab / 4 + 64 * chunk, 64)]
        (s.logReads b.ctx e).setBinding win (some { b with run := some { r with failed := true } })

/-- The run ends: its offered lanes are taken in ascending token order; a failed one counts in FLT (R323, R327). -/
def State.endRun (s : State) (win : Nat) : State :=
  match s.binding win with
  | none => s
  | some b =>
    match b.run with
    | none => s
    | some r =>
      let b := { b with run := none, ran := r.chunk :: b.ran }
      let b :=
        if r.failed then { b with flt := b.flt + 1 }
        else match r.offer with
        | some v => ((List.range 32).zip v.toList).foldl (fun b x => Binding.take b (32 * r.chunk + x.1) x.2.toNat) b
        | none => b
      s.endStep win b

/-- LHALT ends the run (R326). -/
def execLhalt (s : State) : Host.Outcome State Fault Refusal := .next (s.endRun s.curWin)

/-- The next logit instruction of a window's run; past the last word, and after a failed table read, the run ends
(R203, R323). -/
def State.logitFetch (s : State) (win : Nat) : Option Instr :=
  match s.binding win with
  | some b => match b.run with
    | some r =>
      if r.failed then some .lhalt
      else match b.prog[r.pc]? with
        | some w => match decodeL w.toNat with
          | .ok i => some i
          | .error _ => some .lhalt
        | none => some .lhalt
    | none => none
  | none => none

/-- The run of a window moves to its next word. -/
def State.logitAdvance (s : State) (win : Nat) : State := { s with curWin := win }.onRun fun r => { r with pc := r.pc + 1 }

/-- The meaning of a logit instruction. -/
def logitExec (i : Instr) (s : State) : Host.Outcome State Fault Refusal :=
  match i with
  | .lldk d => execLldk d s
  | .lcnt d => execLcnt d s
  | .lhis d => execLhis d s
  | .lbia d => execLbia d s
  | .lban d a => execLban d a s
  | .ladd d a b => execLadd d a b s
  | .lsub d a b => execLsub d a b s
  | .lmul d a b => execLmul d a b s
  | .lsel d a b c => execLsel d a b c s
  | .lcmp d a b c => execLcmp d a b c s
  | .lmax d a b => execLmax d a b s
  | .lmin d a b => execLmin d a b s
  | .lscl d a k => execLscl d a k s
  | .lclp d a b => execLclp d a b s
  | .lpen d a b k => execLpen d a b k s
  | .ltopk a => execLtopk a s
  | .lmov d a => execLmov d a s
  | .limmConst d k => execLimmConst d k s
  | .limmValue d v => execLimmValue d v s
  | .lhalt => execLhalt s
  | _ => execLnop s

/-- A run to its end: at most n words. -/
def State.logitLoop (s : State) (win : Nat) : Nat → State
  | 0 => s
  | n + 1 =>
    match s.logitFetch win with
    | none => s
    | some i =>
      match logitExec i (s.logitAdvance win) with
      | .next t => State.logitLoop t win n
      | _ => s

/-- CHUNK_RUN (R323): the whole run of a chunk whose CUR mask is full. -/
def execChunkRun (win chunk : Nat) (s : State) : Host.Outcome State Fault Refusal :=
  .next (match s.binding win with
    | some b => if b.run.isSome then s else (s.chunkStart win chunk).logitLoop win 66
    | none => s)

/-- SAMPLER_RESEND (R329): every 64 rotations. -/
def execSamplerResend (win : Nat) (s : State) : Host.Outcome State Fault Refusal :=
  .next (match s.binding win with
    | some b => match b.waiting with
      | some at_ => if s.tick ≥ at_ + 1024 then s.startSampler win b else s
      | none => s
    | none => s)

/-! ## Stores to a window (R320 to R323, R353) -/

/-- The physical page of a window that a store's part lies in, and its size (R153, R320). -/
def windowOf (p : Part) : Nat × Nat :=
  let len := match getF p.pte 4 2 with
    | 0 => 2 ^ 16
    | 1 => 2 ^ 21
    | _ => 2 ^ 25
  (p.key / len * len, len)

/-- The value that BIND takes from a part that writes to it. -/
def State.bindValue (s : State) (p : Part) : Option Nat :=
  let off := p.key - (windowOf p).1
  if off < 0x34 && off + p.len > 0x30 && (List.range p.len).any (fun i => p.mask.getLsbD i && 0x30 ≤ off + i && off + i < 0x34) then
    some ((s.putBytes p.key p.mask p.data.toNat p.len).rdN ((windowOf p).1 + 0x30) 4)
  else none

/-- The masks of written words after a store to a chunk (R323). -/
def Binding.mark (b : Binding) (off len : Nat) (m : BitVec 64) : Binding :=
  (List.range len).foldl (fun b i =>
    if m.getLsbD i && 0x1000 ≤ off + i && off + i < 0x1000 + 4 * b.vocab then
      let w := (off + i - 0x1000) / 4
      let bit : BitVec 32 := 1 <<< (w % 32)
      if b.ran.contains (w / 32) then { b with next := Store.put 0 b.next (w / 32) (Store.get 0 b.next (w / 32) ||| bit) }
      else { b with cur := Store.put 0 b.cur (w / 32) (Store.get 0 b.cur (w / 32) ||| bit) }
    else b) b

/-- Part j of a store to a LOGIT page reaches the filter: performed, then k (R323). -/
def State.logitArrive (s : State) (rid j : Nat) (want : Option Nat → Bool) (k : Req → Part → State → State) : State :=
  match s.req rid with
  | none => s
  | some r =>
    match r.parts[j]? with
    | none => s
    | some p =>
      if (r.kind == .store || r.kind == .stv) && p.pte.getLsbD 10 && r.st == .inflight && s.mayArrive r j && !s.frameHeld p.key
          && want (s.bindValue p) then
        s.ifHome r j p (if s.mergeBad p.key p.len p.mask p.pte then (s.logUnc p.key r.ctx.toNat).failReq r cEcc (eccInfo p.key) (some p.va) else k r p (((s.touch p r.lcore r.ctx).homeStore (some r.th) p.key p.len p.mask p.data.toNat r.rel).partDone r j))
      else s

/-- A store to a window that sets BIND to no 0 or 1 marks the words it wrote (R323). -/
def State.logitMark (s : State) (p : Part) : State :=
  let win := (windowOf p).1
  match s.binding win with
  | some b => s.setBinding win (some (b.mark (p.key - win) p.len p.mask))
  | none => s

/-- LOGIT_STORE (R323, R353): any store to a window but one that sets BIND to 0 or 1. -/
def execLogitStore (rid j : Nat) (s : State) : Host.Outcome State Fault Refusal :=
  .next (s.logitArrive rid j (fun v => v != some 0 && v != some 1) fun _ p s => s.logitMark p)

/-- The first header field beyond its limit, by its offset/4 (R320, R321). -/
def headerBad (vocab kp prog tbase entry pageLen : Nat) : Option Nat :=
  if vocab % 32 != 0 || vocab < 32 || vocab > (pageLen - 0x1000) / 4 then some 0
  else if kp % 256 < 1 || kp % 256 > 64 || kp / 256 % 256 < 1 || kp / 256 % 256 > 64 then some 1
  else if prog % 4 != 0 then some 2
  else if tbase % 8 != 0 then some 4
  else if entry % 8 != 0 then some 6
  else none

/-- Bindings that a stack's base die holds (R321). -/
def State.bindingsOn (s : State) (stack : Nat) : Nat := (s.bindings.filter fun x => chanOf (x.1 / 65536) / 64 == stack).length

/-- The words of a program. -/
def words32 : List Byte → List (BitVec 32)
  | a :: b :: c :: d :: l => BitVec.ofNat 32 (leNat [a, b, c, d]) :: words32 l
  | _ => []

/-- The binding of a window by its header, for the thread that made the store: a refusal's code and index, or the
binding (R320 to R322). A header that cannot be corrected is refused as its fields' targets are (log 54). -/
def State.bindWith (s : State) (win pageLen : Nat) (compress : Bool) (r : Req) : Except (Nat × Nat) Binding :=
  let h := fun o n => s.rdN (win + o) n
  let (vocab, kp, prog, tbase, entry) := (h 0 4, h 4 4, h 8 8, h 0x10 8, h 0x18 8)
  if s.bad win 0x60 then .error (0x14, 0)
  else match headerBad vocab kp prog tbase entry pageLen with
  | some i => .error (0x11, i)
  | none =>
    let stack := chanOf (win / 65536) / 64
    if chanOf ((win + pageLen - 1) / 65536) / 64 != stack then .error (0x12, 0)
    else if s.bindingsOn stack ≥ 1024 then .error (0x13, 0)
    else
      match s.filterBytes r.ctx prog .load (4 * (kp / 256 % 256)) with
      | none => .error (0x14, 0)
      | some bytes =>
        if (s.filterBytes r.ctx entry .fetch 8).isNone || !s.nearPages r.ctx tbase (tableBytes vocab) then .error (0x14, 0)
        else
          let ws := words32 bytes
          match ws.findIdx? fun w => (decodeL w.toNat).toOption.isNone with
          | some i => .error (0x10, i)
          | none =>
            let b : Binding := ⟨r.ctx, r.lid, r.seed, r.cls, r.part, pageLen, compress, vocab, kp % 256, ws, BitVec.ofNat 64 tbase, BitVec.ofNat 64 entry,
              h 0x20 4, BitVec.ofNat 32 (h 0x24 4), BitVec.ofNat 32 (h 0x28 4), BitVec.ofNat 64 (h 0x38 8),
              Vector.ofFn fun i => BitVec.ofNat 32 (h (0x40 + 4 * i.val) 4),
              BitVec.ofNat 32 f32NegInf, 0, 0, 0, [], 0, [], [], [], none, none⟩
            .ok b

/-- A store of 1 to BIND: the window is bound afresh; a refusal leaves it unbound (R322). -/
def State.bindWindow (s : State) (r : Req) (p : Part) : State :=
  let (win, len) := windowOf p
  let s := s.setBinding win none
  let z := p.pte.getLsbD 11
  match s.bindWith win len z r with
  | .error (code, i) => (if s.bad win 0x60 then s.logUnc win r.ctx.toNat else s).setStatus r.ctx z win code i
  | .ok b => (s.setBinding win (some b)).setStatus r.ctx z win 1 0

/-- A store of 0 to BIND (R322). -/
def State.unbindWindow (s : State) (p : Part) : State :=
  let win := (windowOf p).1
  match s.binding win with
  | some b => (s.setBinding win none).setStatus b.ctx b.compress win 0 0
  | none => s

/-- BIND (R322). -/
def execBind (rid j : Nat) (s : State) : Host.Outcome State Fault Refusal :=
  .next (s.logitArrive rid j (· == some 1) fun r p s => s.bindWindow r p)

/-- UNBIND (R322). -/
def execUnbind (rid j : Nat) (s : State) : Host.Outcome State Fault Refusal :=
  .next (s.logitArrive rid j (· == some 0) fun _ p s => s.unbindWindow p)

/-- What the filter does with a store that has been performed (R322, R323). -/
def State.filterStore (s : State) (r : Req) (p : Part) : State :=
  match s.bindValue p with
  | some 1 => s.bindWindow r p
  | some 0 => s.unbindWindow p
  | _ => s.logitMark p

end Sys2Proof.Machine
end

