-- ==== Sys2Proof/Machine/Inbound.lean ====
section
/-! DEFINITION. Requests that a host or peer sends to the module (R96, R347), and fabric windows (R348). -/

namespace Sys2Proof.Machine

/-! ## Requests from the fabric (R347) -/

/-- The context admits an endpoint (R151, R347). -/
def State.admits (s : State) (ctx ep : Nat) : Bool :=
  let ent := s.ctxEntry ctx
  let n := 129 + ep % 63
  !s.ctxBad ctx && (s.rdByte (ent + 16)).getLsbD 0 && (s.rdByte (ent + n / 8)).getLsbD (n % 8)

/-- Where an inbound request leads: denied, a drained tile, or a key with its page's entry. -/
inductive InTarget where
  | denied
  | drained
  | at_ (key : Nat) (pte : BitVec 64)
  deriving DecidableEq, Repr

/-- The checks of R347 on an inbound request. -/
def State.inTarget (s : State) (x : Inbound) : InTarget :=
  let a := x.va.toNat
  let n := x.size
  if n = 0 || n > 64 || !s.admits x.ctx.toNat x.ep || fld a 48 16 != 0 then .denied
  else if fld a 46 2 = 0 then
    if a % 65536 + n > 65536 then .denied
    else match s.walkPage x.ctx (a / 65536) with
    | .ok (pte, frame, _) =>
      if fld pte 8 1 != 1 || (pageForbids (BitVec.ofNat 64 pte) (if x.write then .store else .load)).isSome then .denied
      else if x.ctx != 0 && s.inSave (frame * 65536 + a % 65536) then .denied
      else .at_ (frame * 65536 + a % 65536) (BitVec.ofNat 64 pte)
    | .error _ => .denied
  else if fld a 46 2 = 3 then
    match onchip 0 a n with
    | none => .denied
    | some key =>
      if spaceOf key != 0 || keyPort key || offOf key < Config.wsEnd || (s.tile (keyTile key)).ctx != x.ctx then .denied
      else if s.refuses key then .drained
      else .at_ key 0
  else .denied

/-- The port answers a request. -/
def State.inAnswer (s : State) (x : Inbound) (code : Nat) (v : BitVec 512) : State :=
  ({ s with inAnswers := s.inAnswers ++ [⟨x.ep, code, v⟩] } : State).sendOut x.die x.ep (if x.write || code != 0 then 0 else x.size)

/-- An inbound request as the maker of a store, for the filter (R320). -/
def Inbound.req (x : Inbound) (p : Part) : Req := { Req.hw p with ctx := x.ctx, rel := x.rel }

/-- A request that has passed its checks is performed: a read that meets an error is denied and logged (log 28). -/
def State.inPerform (s : State) (x : Inbound) (key : Nat) (pte : BitVec 64) : State :=
  let m := BitVec.ofNat 64 (2 ^ x.size - 1)
  let s := if isHbm key then s.visitWalk x.ctx (x.va.toNat / 65536) else s
  let s := (linesOf key x.size).foldl (fun s l => s.hit (if isHbm key then l * 128 else key) (pte.getLsbD 9)) s
  if x.write then
    if s.mergeBad key x.size m pte then (s.logUnc key x.ctx.toNat).inAnswer x 1 0
    else
      let p : Part := ⟨key, x.va, x.size, 0, m, pte, x.data, false⟩
      let s := s.homeStore none key x.size m x.data.toNat false
      (if pte.getLsbD 10 then s.filterStore (x.req p) p else s).inAnswer x 0 0
  else if s.bad key x.size then (s.logUnc key x.ctx.toNat).inAnswer x 1 0
  else s.inAnswer x 0 (BitVec.ofNat 512 (s.rdN key x.size))

/-- The key of an inbound request's target, or of a drained one. -/
def State.inKey (s : State) (x : Inbound) : Option Nat :=
  match s.inTarget x with
  | .at_ key _ => some key
  | .drained => some x.va.toNat
  | .denied => none

/-- Two inbound requests touch one aligned 32-byte block (R82). -/
def State.inBlock (s : State) (x y : Inbound) : Bool :=
  match s.inKey x, s.inKey y with
  | some a, some b => a / 32 ≤ (b + y.size - 1) / 32 && b / 32 ≤ (a + x.size - 1) / 32
  | _, _ => false

/-- A request waits behind those that its port holds: of the same endpoint by their flags (R347), and behind any to its location
(R95). -/
def State.heldBehind (s : State) (l : List Inbound) (x : Inbound) : Bool :=
  l.any fun y => (y.ep == x.ep && (x.rel || (x.ord && (y.ord || y.rel)))) || (y.die == x.die && s.inBlock x y)

/-- Requests of a port in their order: each is performed, denied, or held on. -/
def State.inTry (s : State) (kept : List Inbound) : List Inbound → State
  | [] => { s with inbound := kept }
  | x :: l =>
    if s.heldBehind kept x then State.inTry s (kept ++ [x]) l
    else match s.inTarget x with
    | .denied => State.inTry ((s.logCtx x.ctx.toNat).inAnswer x 1 0) kept l
    | .drained => State.inTry s (kept ++ [x]) l
    | .at_ key pte =>
      if s.frameHeld key then State.inTry s (kept ++ [x]) l
      else if !s.memReady key x.size pte then State.inTry (s.askMem key x.size pte x.write none ⟨s.tick, 0⟩) (kept ++ [x]) l
      else State.inTry (s.inPerform x key pte) kept l

/-- The ports resend what they hold (R182, R347). -/
def State.flushInbound (s : State) : State := s.inTry [] s.inbound

/-- INBOUND_REQUEST (R347): a port takes a request that has come over its link. -/
def execInboundRequest (die ep ctx : Nat) (va : BitVec 64) (size : Nat) (write ord rel : Bool) (data : BitVec 512) (s : State) :
    Host.Outcome State Fault Refusal :=
  .next (if die ≥ 6 then s
    else s.takeMsg die (.request ep ctx va size write ord rel data) fun s =>
      s.inTry [] (s.inbound ++ [⟨die, ep, BitVec.ofNat 6 ctx, va, size, write, ord, rel, data⟩]))

/-! ## Fabric windows (R345, R348) -/

/-- The fabric addresses of endpoints lo to hi. -/
def windowAddrs (lo hi : Nat) : Nat × Nat := (lo * 2 ^ 36, hi * 2 ^ 36 + 2 ^ 36 - 1)

/-- Ranges of addresses without those from a to b. -/
def withoutRange (a b : Nat) (l : List (Nat × Nat)) : List (Nat × Nat) :=
  l.flatMap fun x => (if x.1 < a then [(x.1, min x.2 (a - 1))] else []) ++ (if b < x.2 then [(max x.1 (b + 1), x.2)] else [])

/-- FABRIC_GRANT (R348): a peer grants a window of endpoints lo to hi. -/
def execFabricGrant (lo hi : Nat) (s : State) : Host.Outcome State Fault Refusal :=
  .next (s.fromPeer (.grant lo hi) fun s => { s with
    granted := windowAddrs lo hi :: s.granted.filter fun x => x != windowAddrs lo hi
    revoked := withoutRange (windowAddrs lo hi).1 (windowAddrs lo hi).2 s.revoked })

/-- FABRIC_REVOKE (R348): requests that the peer accepts after it are answered gone. -/
def execFabricRevoke (lo hi : Nat) (s : State) : Host.Outcome State Fault Refusal :=
  .next (s.fromPeer (.revoke lo hi) fun s => { s with
    granted := withoutRange (windowAddrs lo hi).1 (windowAddrs lo hi).2 s.granted
    revoked := windowAddrs lo hi :: s.revoked.filter fun x => x != windowAddrs lo hi })

end Sys2Proof.Machine
end

