-- ==== Sys2Proof/Machine/Arrival.lean ====
section
/-! DEFINITION. What happens to requests on their way: arrivals at homes (R159), landings (R25), refusals and resends
(R112, R118, R182), SPAWN, RCALL and MIGR at their units (R116, R117, R254 to R258), messages (R263), REDs (R119),
in-boxes (R262), barrier operations at their home (R114) and a GBAR's polls (R115). -/

namespace Sys2Proof.Machine

/-! ## The outcome of a COMMIT (R100, R122, R260) -/

/-- A logged word's place as a part, with the address and the entry of its page (R122). -/
def specPart (pages : List (Nat × Nat × BitVec 64)) (x : Nat × BitVec 64 × BitVec 8) : Part :=
  let key := x.1 * 8
  let (va, pte) : Nat × BitVec 64 := match pages.find? fun y => y.1 == key / 65536 with
    | some y => (y.2.1 * 65536 + key % 65536, y.2.2)
    | none => (key, 0)
  ⟨key, BitVec.ofNat 64 va, 8, 0, x.2.2.setWidth 64, pte, x.2.1.setWidth 512, false⟩

/-- The registers of a page whose store has an event of its own: CTXBASE, FLTRSP, TINV, STKOWN, TREELD, CLGO. -/
def ownOffsets : List Nat := [0x20, 0x30, 0x38, 0x40, 0x60, 0x68]

/-- A logged word that is performed by itself: a register with an event of its own, and OWNER. -/
def Part.alone (p : Part) : Bool := ownerKey p.key || (pageKey p.key && ownOffsets.contains (pageOff p.key))

/-- Two logged words have one home (R76): a stack core for a NEAR page, an endpoint of the fabric, else the key's home. -/
def Part.sameHome (p q : Part) : Bool :=
  if p.key ≥ fabricBase || q.key ≥ fabricBase then p.key ≥ fabricBase && q.key ≥ fabricBase && epOfKey p.key == epOfKey q.key
  else homeOfKey p.key == homeOfKey q.key && isHbm p.key == isHbm q.key && (!isHbm p.key || p.pte.getLsbD 9 == q.pte.getLsbD 9)

/-- A home writes a word of a speculation: to a register, or to memory, where the filter takes one of a LOGIT page (R320). -/
def State.commitWord (s : State) (r : Req) (p : Part) : State :=
  let s := s.touch p r.lcore r.ctx
  if pageKey p.key then s.setPlain (coreOfKey p.key) (pageOff p.key) (mergeStore p (s.pageRead (coreOfKey p.key) (pageOff p.key)))
  else
    let s := s.homeStore (some r.th) p.key p.len p.mask p.data.toNat r.rel
    if p.pte.getLsbD 10 then s.filterStore r p else s

/-- The stores of a speculation reach their home, which performs them as one step, or none (R100, R178). -/
def State.commitArrive (s : State) (rid : Nat) : State :=
  match s.req rid with
  | none => s
  | some r =>
    match r.kind, r.parts with
    | .commit, p :: _ =>
      if !(r.st == .inflight && s.mayArrive r 0) then s
      else if !r.parts.all s.homeReady then
        r.parts.foldl (fun s q => if s.homeReady q then s else s.askPart q true r.claim (some (rid, 0))) s
      else s.ifHome r 0 p
        (match r.parts.find? fun q => s.mergeBad q.key q.len q.mask q.pte with
         | some q => (s.logUnc q.key r.ctx.toNat).failReq r cEcc (eccInfo q.key) (some q.va)
         | none => (r.parts.foldl (fun s q => s.commitWord r q) s).complete r 0)
    | _, _ => s

/-- The logged words leave for their homes, those of one home together, while the core has slots for them (R100, R147); the words
of the own tile are performed at once. Answers what is still to be sent. -/
def State.sendCommit (s : State) (th : Nat) (src : Src) : Nat → List Part → State × List Part
  | 0, ps => (s, ps)
  | _, [] => (s, [])
  | n + 1, p :: ps =>
    let mine := if p.alone then [p] else p :: ps.filter fun q => !q.alone && p.sameHome q
    let kind : ReqKind := if !p.alone then .commit else if ownerKey p.key then .owner else if treeKey p.key && p.mask.setWidth 8 == 0xFF then .page else .store
    let r := { s.newReq th src kind mine false with rel := (s.thr th).fences.any fun f => f.scope == 6 }
    if isLocalKey (coreOfTh th) p.key then
      let rid := s.nextRid
      State.sendCommit ((s.addReq r).commitArrive rid) th src n (ps.filter fun q => !mine.contains q)
    else if s.slotsFull (coreOfTh th) then (s, p :: ps)
    else State.sendCommit (s.addReq r) th src n (ps.filter fun q => !mine.contains q)

/-- The recorded versions still hold (R122). -/
def State.readsHold (s : State) (sp : Spec) : Bool := sp.reads.all fun x => (s.tag x.1).ver == x.2

/-- COMMIT writes its result, and its wait ends. -/
def State.commitEnd (s : State) (th : Nat) (d : BitVec 5) (res : BitVec 64) : State :=
  (s.setWs th ((s.getWs th).setS d res)).modThr th fun t => { t with park := .over }

/-- The rest of a COMMIT's stores are sent; once every one is performed the result is written (R100). -/
def State.commitMore (s : State) (th : Nat) (d : BitVec 5) (src : Src) (ps : List Part) : State :=
  let (s, rest) := s.sendCommit th src ps.length ps
  if rest.isEmpty && (s.earlier th (src.seq + 1)).isEmpty then s.commitEnd th d 1
  else s.modThr th fun t => { t with park := .applied d src rest }

/-- COMMIT's outcome: 3 after ABORT, 2 after an overflow, 0 on a failed validation; on success the log is performed, and the
result is 1 (R100, R122, R260). Speculation ends. -/
def State.commitNow (s : State) (th : Nat) (d : BitVec 5) (src : Src) : State :=
  match (s.thr th).spec with
  | none => s
  | some sp =>
    let s := s.modThr th fun t => { t with spec := none }
    if sp.aborted then s.commitEnd th d 3
    else if sp.overflow then s.commitEnd th d 2
    else if s.readsHold sp then s.commitMore th d src (sp.log.map (specPart sp.pages))
    else s.commitEnd th d 0

/-! ## Accesses (R25, R159) -/

/-- Runs an effect on a request that is in the network. -/
def State.onReq (s : State) (rid : Nat) (k : Req → State) : State :=
  match s.req rid with
  | some r => k r
  | none => s

/-- The kinds that REQUEST_ARRIVAL serves; the others have an event of their own. -/
def ReqKind.plain : ReqKind → Bool
  | .load | .store | .amo .. | .amoc .. | .hadd | .ldv _ | .stv | .ldfe | .stfe | .vrcl _ | .gqry | .semv _ | .lcmw .. | .pmrg .. => true
  | _ => false

/-- REQUEST_ARRIVAL (R159): part j of a request reaches its home. -/
def execRequestArrival (rid j : Nat) (s : State) : Host.Outcome State Fault Refusal :=
  .next (s.onReq rid fun r => if r.kind == .commit then s.commitArrive rid else if r.kind.plain then s.arrive rid j else s)

/-- A result takes its value and lands (R25). -/
def State.landWith (s : State) (th : Nat) (p : Pend) (xs : List (BitVec 64)) (fail : Option Failure) : State :=
  let p' : Pend := { p with
    writes := (p.writes.zip xs).map (fun (w, x) => match w with | .s r _ => .s r x | w => w), fail := fail }
  (s.modThr th fun t => { t with pend := t.pend.map fun q => if q = p then p' else q }).land th p'

/-- No thread of the core waits for an element of the same queue since before. -/
def State.firstWaiter (s : State) (th : Nat) (p : Pend) : Bool :=
  (s.threadsOn (coreOfTh th)).all fun k => (s.thr k).pend.all fun q => q.kind != p.kind || q.rid.getD 0 ≥ p.rid.getD 0

/-- The failure of an element whose STATUS is 0x02 (R34). -/
def elementFail (e : BitVec 64) (src : Src) : Option Failure :=
  if getF e 16 8 = 2 then some ⟨cResvFormat, BitVec.ofNat 26 (getF e 0 16), none, src⟩ else none

/-- LONG_LATENCY_RESULT (R25, R263, R266, R268): the k-th result that a thread waits for lands, in the order of R25. -/
def execLongLatencyResult (th k : Nat) (s : State) : Host.Outcome State Fault Refusal :=
  .next (match (s.thr th).pend[k]? with
    | none => s
    | some p =>
      let l := coreOfTh th
      if !landsNext (s.thr th).pend p then s
      else match p.kind with
      | .value | .access _ => if p.ready && !(p.rid.any s.answerOut) then s.land th p else s
      | .pop q =>
        match (s.tile (tOf l)).comp.toList.getD q [] with
        | e :: rest =>
          if s.firstWaiter th p then
            (s.modTile (tOf l) fun x => { x with comp := modAt x.comp q fun _ => rest }).landWith th p [e] (elementFail e p.src)
          else s
        | [] => s
      | .evpop =>
        match (s.tile (tOf l)).evq with
        | e :: rest =>
          if s.firstWaiter th p then (s.modTile (tOf l) fun x => { x with evq := rest }).landWith th p [e] (elementFail e p.src) else s
        | [] => s
      | .recv =>
        match (s.core l).msgs.find? fun m => m.pos == (s.thr th).pos with
        | some m => (s.modCore l fun c => { c with msgs := c.msgs.erase m }).landWith th p [m.d0, m.d1, BitVec.ofNat 64 m.sender] none
        | none => s)

/-- A thread's next issue is due but for its held failures. -/
def State.dueToIssue (s : State) (th : Nat) : Bool :=
  let t := s.thr th
  t.occ && !t.frz && !t.pfrz && !t.sfrz && (!t.trapped || t.rte.isSome) && (t.trapped || t.park == .none || t.park == .over) && !(t.settle && !s.settled th)
    && (match t.walk with | .waiting _ => false | _ => true)

/-- DEFERRED_TRAP (R168): the oldest held failure strikes. -/
def execDeferredTrap (th : Nat) (s : State) : Host.Outcome State Fault Refusal :=
  .next (if s.dueToIssue th && (s.thr th).held != [] then (if (s.thr th).trapped then s.leaveTrap th else s).strike th else s)

/-! ## Sends that end without effect -/

/-- Runs an effect on a send that passes its unit's check (R159, R182): a port core takes any. -/
def State.ifUnit (s : State) (r : Req) (l : Nat) (k : State) : State :=
  if s.refuses (padKey l 0) then s.drainReq r
  else if !s.mayCall r.ctx l then s.failSend r cAccess 18
  else if isTileCore l && s.gone r.ctx r.lid (padKey l 0) then s.failSend r cPeerGone 0
  else k

/-! ## Refusals (R112, R118, R182) -/

/-- The request number of a RETRY_LIMIT (R166); none for those resent without limit. -/
def ReqKind.retryCode : ReqKind → Option Nat
  | .ldv _ => some 1
  | .ldfe => some 2
  | .stfe | .inbox .. => some 3
  | .migr _ => some 4
  | .rcall .. => some 5
  | .spawn .. => some 6
  | _ => none

/-- RETRYLIM of a request's thread. -/
def State.retryLimOf (s : State) (r : Req) : Nat := if r.lim != 0 then r.lim else (s.getWs r.th).retryLim

/-- A request is sent again: an RCALL's unit is found again and its timer restarts with RCTIMEOUT as it stands (R118, R120,
R224, R253). A SPAWN to "any" keeps the target of its first issue, which R117 leaves open (log 54). -/
def State.resend (s : State) (r : Req) : State :=
  let s := s.setReq r.rid fun q => { q with st := .inflight, sent := false, legs := [] }
  match r.kind with
  | .rcall u va e as vs =>
    (s.setReq r.rid fun q => { q with kind := .rcall (s.callUnit r.th u va) va e as vs }).modThr r.th fun t => { t with
      calls := t.calls.map fun c => if c.rid = r.rid then { c with sentAt := s.tick, timeout := (s.getWs r.th).rcTimeout * Config.cyclesPerUs } else c }
  | _ => s

/-- The request has been refused and not sent again. -/
def Req.isRefused (r : Req) : Bool := r.st == .refused

/-- A frozen thread's request waits for the thaw: a SPAWN, RCALL or MIGR does, whose wait takes effect there (R124), and any but
a RED's once the thread's tile is drained (R119, R183). The accesses of a frozen thread go on (R83). -/
def State.waitsFrozen (s : State) (r : Req) : Bool :=
  let t := s.thr r.th
  (t.frz || t.pfrz || t.sfrz) &&
    match r.kind with
    | .spawn .. | .rcall .. | .migr _ => true
    | .red .. => false
    | _ => isTileCore r.lcore && (s.tile (tOf r.lcore)).drain == .drained

/-- REFUSAL (R112): the request is sent again at its thread's next turn, while its count stays below RETRYLIM. -/
def execRefusal (rid : Nat) (s : State) : Host.Outcome State Fault Refusal :=
  .next (s.onReq rid fun r =>
    if r.isRefused && !s.answerOut rid && !s.waitsFrozen r && (r.kind.retryCode.isNone || r.refusals < s.retryLimOf r) then s.resend r else s)

/-- RETRY_LIMIT (R112): the request is given up with no effect, and its thread takes a deferred trap. -/
def execRetryLimit (rid : Nat) (s : State) : Host.Outcome State Fault Refusal :=
  .next (s.onReq rid fun r =>
    match r.kind.retryCode with
    | some c => if r.isRefused && !s.answerOut rid && r.refusals ≥ s.retryLimOf r then (s.failHere r cRetry c none).unpark r.th rid else s
    | none => s)

/-- DRAINED_RESEND (R182, R347): a request is sent again, at most once every 64 rotations; a number that names none stands
for the requests that the fabric's ports hold. -/
def execDrainedResend (rid : Nat) (s : State) : Host.Outcome State Fault Refusal :=
  .next (match s.req rid with
    | some r => match r.st with
      | .drained at_ => if s.tick ≥ at_ + 1024 && !s.answerOut rid && !s.waitsFrozen r then s.resend r else s
      | _ => s
    | none => s.flushInbound)

/-- A request without parts, or with one that is its target, is due at its unit. -/
def State.dueAtUnit (s : State) (r : Req) : Bool := r.st == .inflight && s.mayArrive r 0

/-! ## SPAWN (R116, R117, R254) -/

/-- SPAWN_ARRIVAL (R116): the child claims a place, or the SPAWN is refused. Its answer is 1 or 0. -/
def execSpawnArrival (rid : Nat) (s : State) : Host.Outcome State Fault Refusal :=
  .next (s.onReq rid fun r =>
    match r.kind with
    | .spawn l entry args lend =>
      let answer (s : State) (v : BitVec 64) : State := (s.answerFrom r r.home 0).setReq rid fun q => { q with st := .answered none v }
      if !s.dueAtUnit r then s
      else if l = noThread then answer s 0
      else s.ifUnit r l (match s.childPlace r l with
        | some (w, pos) => answer ((if r.part then s.preemptPos l pos else s).startThread (l * 20 + w) (r.child .child pos) ((Workspace.fresh entry lend).putS 0 args)) 1
        | none => answer s 0)
    | _ => s)

/-- A bounced SPAWN runs its child inline (R117). -/
def State.runInline (s : State) (r : Req) (entry : BitVec 48) (args : List (BitVec 64)) : State :=
  let w := (s.getWs r.th).putS 0 args
  (s.setWs r.th (((w.setS 31 ((r.src.pc + 8).setWidth 64)).setInl true).setPc entry)).unpark r.th r.rid

/-- SPAWN_ANSWER (R116, R117). -/
def execSpawnAnswer (rid : Nat) (s : State) : Host.Outcome State Fault Refusal :=
  .next (s.onReq rid fun r =>
    match r.kind, r.st with
    | .spawn _ entry args _, .answered none v =>
      let t := s.thr r.th
      -- a wait that ends during a freeze takes effect at the thaw (R124)
      if t.frz || t.pfrz || t.sfrz || s.answerOut rid then s
      else if v = 1 then (s.dropReq rid).unpark r.th rid
      else if (s.getWs r.th).inl then s.setReq rid fun q => { q with st := .refused, refusals := q.refusals + 1 }
      else (s.dropReq rid).runInline r entry args
    | _, _ => s)

/-- SPAWN_COUNT_REFRESH (R116): the free ordinary positions of the cores whose tile runs a task. -/
def execSpawnCountRefresh (die : Nat) (s : State) : Host.Outcome State Fault Refusal :=
  .next (s.modDie die fun d => { d with
    counts := (s.tiles.filter fun x => dieOfT x.1 == die).flatMap fun x => x.2.tasks.flatMap fun lid =>
      (List.range 4).map fun c => (lcoreOfT x.1 c, (s.freePositions (lcoreOfT x.1 c)).length, lid) })

/-! ## RCALL (R93, R120, R173, R174, R255, R256) -/

/-- A callee starts at its unit (R256); one that a pre-empting thread has called stays in its column (R161). -/
def State.startCallee (s : State) (r : Req) (u : Nat) (entry : BitVec 48) (args : List (BitVec 64)) (vecs : List (Vec × BitVec 4)) (w pos : Nat) : State :=
  let t : Thread := { r.child .callee pos with part := false, col := r.part, caller := some ⟨r.th, r.rid, r.born⟩ }
  (s.startThread (u * 20 + w) t (((Workspace.fresh entry false).putS 0 args).putV 0 vecs)).dropReq r.rid

/-- RCALL_ARRIVAL (R255, R256): a callee starts, or the arrival is parked or refused (R111, R118). -/
def execRcallArrival (rid : Nat) (s : State) : Host.Outcome State Fault Refusal :=
  .next (s.onReq rid fun r =>
    match r.kind with
    | .rcall u _ entry args vecs =>
      if !s.dueAtUnit r || !s.callRuns r then s
      else s.ifUnit r u (match s.ordPlace u with
        | some (w, pos) => s.startCallee r u entry args vecs w pos
        | none => s.parkReq r)
    | _ => s)

/-- The caller's outstanding call, where its timer has not expired. -/
def State.liveCall (s : State) (th rid : Nat) : Option Call :=
  if (s.thr th).occ then
    match (s.thr th).calls.find? fun c => c.rid == rid with
    | some c => if c.running && s.tick > c.sentAt + c.timeout then none else some c
    | none => none
  else none

/-- A call ends with a result. -/
def State.endCall (s : State) (th rid : Nat) (writes : List RegWrite) (fail : Option Failure) : State :=
  s.modThr th fun t => { t with
    calls := t.calls.filter fun c => c.rid != rid
    pend := t.pend.map fun p => if p.rid = some rid then { p with ready := true, rid := none, writes := writes, fail := fail } else p }

/-- The writes of a reply: as many as were sent and are named (R255). -/
def Call.writes (c : Call) (ss : List (BitVec 64)) (vs : List (Vec × BitVec 4)) : List RegWrite :=
  ((List.range c.ds).zip ss).map (fun (i, x) => .s (BitVec.ofNat 5 (c.sd + i)) x)
    ++ ((List.range c.dv).zip vs).map fun (i, x) => .v (BitVec.ofNat 4 (c.vb + i)) x.1 (BitVec.allOnes 64) (some x.2)

/-- Runs an effect on an answer that its caller's tile does not refuse (R183). -/
def State.ifCaller (s : State) (r : Req) (th : Nat) (k : State) : State :=
  if !s.dueAtUnit r then s
  else if s.refuses (padKey (coreOfTh th) 0) then s.drainReq r
  else k

/-- RCALL_REPLY (R93, R174, R255). -/
def execRcallReply (rid : Nat) (s : State) : Host.Outcome State Fault Refusal :=
  .next (s.onReq rid fun r =>
    match r.kind with
    | .reply th call ss vs =>
      s.ifCaller r th (match s.liveCall th call with
        | some c => (s.dropReq rid).endCall th call (c.writes ss vs) none
        | none => s.dropReq rid)
    | _ => s)

/-- FAULT_RECORD (R173, R174): REMOTE_FAULT with the callee's cause, LCORE and faulting VA. -/
def execFaultRecord (rid : Nat) (s : State) : Host.Outcome State Fault Refusal :=
  .next (s.onReq rid fun r =>
    match r.kind with
    | .faultRec th call cause lcore va =>
      s.ifCaller r th (match s.liveCall th call with
        | some c => (s.dropReq rid).endCall th call [] (some ⟨cRemote, BitVec.ofNat 26 (cause.toNat + lcore * 256), va, c.src⟩)
        | none => s.dropReq rid)
    | _ => s)

/-- RCALL_TIMEOUT (R120, R174): the caller traps; what it sent and nobody took is given up. -/
def execRcallTimeout (th call : Nat) (s : State) : Host.Outcome State Fault Refusal :=
  .next (match (s.thr th).calls.find? fun c => c.rid == call with
    | some c =>
      if c.running && s.tick > c.sentAt + c.timeout then
        ({ s with net := s.net.filter fun r => r.rid != call || !(r.isRefused || (match r.st with | .drained _ => true | _ => false)) }).endCall
          th call [] (some ⟨cTimeout, 0, none, c.src⟩)
      else s
    | none => s)

/-! ## MIGR (R118, R258) -/

/-- A frozen thread does not migrate before the thaw, where its wait's end takes effect (R124); while a drain of its tile goes on,
its round trip is completed (R183). -/
def State.migrWaits (s : State) (r : Req) : Bool :=
  let t := s.thr r.th
  (t.frz || t.pfrz || t.sfrz) && !(isTileCore r.lcore && (s.tile (tOf r.lcore)).drain != .no)

/-- A migrating thread is accepted: it stands at its new position, where it goes on at the position's next turn (R111), and its old
one waits for the answer. -/
def State.acceptMigr (s : State) (r : Req) (u w pos : Nat) : State :=
  let t := s.thr r.th
  let s := s.startThread (u * 20 + w) { t with pos := pos, park := .over, frz := false, frzTo := none, stopped := false, pfrz := false, sfrz := false, lastWrites := [] } (s.getWs r.th)
  (s.answerFrom r r.home 0).setReq r.rid fun q => { q with st := .answered none 1 }

/-- MIGR_ARRIVAL (R258): accepted, parked for a position, or refused. -/
def execMigrArrival (rid : Nat) (s : State) : Host.Outcome State Fault Refusal :=
  .next (s.onReq rid fun r =>
    match r.kind with
    | .migr u =>
      if !s.dueAtUnit r || s.migrWaits r then s
      else s.ifUnit r u (match s.ordPlace u with
        | some (w, pos) => s.acceptMigr r u w pos
        | none => s.parkReq r)
    | _ => s)

/-- MIGR_ANSWER (R258): the old position frees. -/
def execMigrAnswer (rid : Nat) (s : State) : Host.Outcome State Fault Refusal :=
  .next (s.onReq rid fun r =>
    match r.kind, r.st with
    | .migr _, .answered none _ => if s.answerOut rid then s else (s.dropReq rid).endThread r.th
    | _, _ => s)

/-- The oldest arrival that waits for a position of a core; one whose thread is frozen waits on. -/
def State.oldestArrival (s : State) (l : Nat) : Option Req :=
  (s.net.filter fun r => r.isParked && r.homeCore == l && r.parts.isEmpty && !(r.kind == .migr l && s.migrWaits r)).foldl
    (fun b r => match b with
      | none => some r
      | some q => if r.place < q.place then some r else some q) none

/-- PARKED_ARRIVAL_START (R111): it starts when a position frees, where its unit still takes it (R159). -/
def execParkedArrivalStart (core : Nat) (s : State) : Host.Outcome State Fault Refusal :=
  .next (match s.oldestArrival core, s.ordPlace core with
    | some r, some (w, pos) =>
      match r.kind with
      | .rcall u _ entry args vecs => s.ifUnit r u (s.startCallee r u entry args vecs w pos)
      | .migr u => s.ifUnit r u (s.acceptMigr r u w pos)
      | _ => s
    | _, _ => s)

/-! ## Messages (R263) -/

/-- SEND_ARRIVAL (R263): in send order per sender and position; a full queue refuses. -/
def execSendArrival (rid : Nat) (s : State) : Host.Outcome State Fault Refusal :=
  .next (s.onReq rid fun r =>
    match r.kind, r.parts with
    | .send tid sender d0 d1, p :: _ =>
      let l := tid / 16
      let before (q : Req) : Bool := q.rid < rid && (match q.kind with | .send t x _ _ => t == tid && x == sender | _ => false)
      if !s.dueAtUnit r || s.net.any before then s
      else s.ifHome r 0 p
        (if !(s.threadsOn l).any (fun k => (s.thr k).pos == tid % 16 && (s.thr k).lid == r.lid) then s.failReq r cPeerGone 0 none
         else if ((s.core l).msgs.filter fun m => m.pos == tid % 16).length ≥ 4 then
          s.refuseReq r
         else (s.modCore l fun c => { c with msgs := c.msgs ++ [⟨tid % 16, d0, d1, sender⟩] }).complete r 0)
    | _, _ => s)

/-! ## REDs and in-boxes -/

/-- The core whose remote-update thread performs a RED on a key: the home port core of a frame, or the scratchpad's. -/
def redHome (key : Nat) : Nat := if isHbm key then portOfChan (chanOf (key / 65536)) else coreOfKey key

/-- The oldest of the REDs a home has refused. -/
def oldestRed (l : List Nat) : Option Nat := l.foldl (fun b x => match b with | none => some x | some y => some (min x y)) none

/-- A remote-update thread applies a RED and exits. The oldest recorded one takes a position held for it, which frees
again and is held for the next (R119). -/
def State.redDone (s : State) (l rid : Nat) (oldest : Bool) : State :=
  let s := if oldest then s.modPort l fun p => { p with kept := p.kept.map fun x => (x.1, (s.core l).turns) } else s
  s.arrive rid 0

/-- A RED reaches its home (R119): a remote-update thread applies it; without a free position it is refused and recorded. A position
that frees is held for the oldest one recorded, by its first issue; the numbers of requests rise with it. -/
def State.redArrive (s : State) (rid : Nat) : State :=
  s.onReq rid fun r =>
    match r.kind, r.parts with
    | .red .., p :: _ =>
      if !s.dueAtUnit r then s
      else if !s.homeReady p then s.askPart p true r.claim (some (rid, 0))
      else
        let l := redHome p.key
        let free := (s.freePositions l).length
        let reds := (s.port l).reds
        let kept := reds.filter fun x => x != rid && s.net.any fun q => q.rid == x
        let mine := match oldestRed kept with | some x => decide (rid < x) | none => true
        if (if mine then free else (s.openPositions l).length) > 0 then (s.modPort l fun q => { q with reds := kept }).redDone l rid mine
        else
          (s.modPort l fun q => { q with reds := (if reds.contains rid || kept.length ≥ 16 then reds else kept ++ [rid]) }).refuseReq r
    | _, _ => s

/-- RED_ARRIVAL (R119). -/
def execRedArrival (rid : Nat) (s : State) : Host.Outcome State Fault Refusal := .next (s.redArrive rid)

/-- INBOX_WRITE (R262): written at once, or it waits as STFE does. -/
def execInboxWrite (rid : Nat) (s : State) : Host.Outcome State Fault Refusal :=
  .next (s.onReq rid fun r => match r.kind with
    | .inbox .. => s.arrive rid 0
    | _ => s)

/-! ## Barriers (R113 to R115) -/

/-- A barrier object's fields (R113). -/
structure BarrierObj where
  members : BitVec 32
  arrived : BitVec 32
  phase : BitVec 32
  status : BitVec 32
  deriving DecidableEq, Repr

/-- The object at a key. -/
def State.barrierAt (s : State) (key : Nat) : BarrierObj :=
  ⟨BitVec.ofNat 32 (s.rdN key 4), BitVec.ofNat 32 (s.rdN (key + 4) 4), BitVec.ofNat 32 (s.rdN (key + 8) 4), BitVec.ofNat 32 (s.rdN (key + 12) 4)⟩

/-- One operation: 0 JOIN, 1 LEAVE, 2 GBAR, 3 GBARD; none where it traps BARRIER_MEMBERSHIP (R114). -/
def BarrierObj.apply (b : BarrierObj) (op : Nat) : Option BarrierObj :=
  match op with
  | 0 => if b.members = 0xFFFFFFFF then none else some { b with members := b.members + 1 }
  | 2 => if b.members = 0 then none else some { b with arrived := b.arrived + 1 }
  | _ => if b.members = 0 then none else some { b with members := b.members - 1 }

/-- FlipIfDone (R114). -/
def BarrierObj.flip (b : BarrierObj) : BarrierObj :=
  if b.members != 0 && b.arrived == b.members then { b with arrived := 0, phase := b.phase + 1, status := b.status <<< 16 } else b

/-- Operations of one group, in ascending thread id: the object after them, and each request's outcome, the phase it saw
or a trap. -/
def applyOps (b : BarrierObj) : List (Req × Nat) → BarrierObj × List (Req × Option (BitVec 32))
  | [] => (b, [])
  | (r, op) :: l =>
    match b.apply op with
    | some b' => let (c, rs) := applyOps b' l; (c, (r, some b.phase) :: rs)
    | none => let (c, rs) := applyOps b l; (c, (r, none) :: rs)

/-- A list in ascending order of a number. -/
def insertBy {α : Type} (f : α → Nat) (x : α) : List α → List α
  | [] => [x]
  | y :: l => if f x < f y then x :: y :: l else y :: insertBy f x l
/-- Sorted by a number, equals as they stood. -/
def sortBy {α : Type} (f : α → Nat) (l : List α) : List α := l.foldl (fun a x => insertBy f x a) []

/-- The barrier operations of a list of requests that are due at one object. -/
def State.barrierOps (s : State) (rids : List Nat) : List (Req × Nat × Part) :=
  rids.eraseDups.filterMap fun rid => match s.req rid with
    | some r => match r.kind, r.parts with
      | .barrier op, p :: _ => if s.dueAtUnit r && s.homeReady p then some (r, op, p) else none
      | _, _ => none
    | none => none

/-- A barrier operation for which memory is not ready asks for its line. -/
def State.askBarrier (s : State) (rid : Nat) : State :=
  match s.req rid with
  | some r => match r.kind, r.parts with
    | .barrier _, p :: _ => if s.dueAtUnit r && !s.homeReady p then s.askPart p true r.claim (some (rid, 0)) else s
    | _, _ => s
  | none => s

/-- Barrier operations at their home (R114): the operations that reach the first one's object in a cycle: drops, arrivals, at most one
flip, joins. -/
def State.barrierApply (s : State) (rids : List Nat) : State :=
  match s.barrierOps rids with
  | [] => rids.foldl State.askBarrier s
  | (r0, op0, p0) :: rest =>
    let all := (r0, op0, p0) :: rest.filter fun x => x.2.2.key == p0.key
    let s1 := all.foldl (fun s x => match s.homeCheck x.1 x.2.2 with | .ok => s | _ => s.ifHome x.1 0 x.2.2 s) s
    let ok := all.filter fun x => s.homeCheck x.1 x.2.2 == .ok
    let s1 := ok.foldl (fun s x => s.touch x.2.2 x.1.lcore x.1.ctx) s1
    if s1.bad p0.key 16 || s1.mergeBad p0.key 16 (BitVec.allOnes 64) p0.pte then
      ok.foldl (fun s x => (s.logUnc p0.key x.1.ctx.toNat).failReq x.1 cEcc (eccInfo p0.key) (some x.2.2.va)) s1
    else
      let group (f : Nat → Bool) : List (Req × Nat) := (sortBy (fun x => s.tid x.1.th) (ok.filter fun x => f x.2.1)).map fun x => (x.1, x.2.1)
      let b0 := s1.barrierAt p0.key
      let (b1, o1) := applyOps b0 (group fun op => op == 1 || op == 3)
      let (b2, o2) := applyOps b1 (group (· == 2))
      let (b3, o3) := applyOps b2.flip (group (· == 0))
      let outs := o1 ++ o2 ++ o3
      let s1 :=
        if outs.any fun x => x.2.isSome then
          -- a write by one thread's own operation leaves its ready bit (R91)
          let writer := match outs.filter fun x => x.2.isSome with | [x] => some x.1.th | _ => none
          s1.homeStore writer p0.key 16 0xFFFF (b3.members.toNat + 2 ^ 32 * b3.arrived.toNat + 2 ^ 64 * b3.phase.toNat + 2 ^ 96 * b3.status.toNat) false
        else s1
      outs.foldl (fun s x => match x.2 with
        | some ph => s.complete x.1 (ph.setWidth 64)
        | none => s.failReq x.1 cBarrier 0 (some (match x.1.parts with | p :: _ => p.va | [] => 0))) s1

/-- BARRIER_HOME_APPLY (R114). -/
def execBarrierHomeApply (rids : List Nat) (s : State) : Host.Outcome State Fault Refusal := .next (s.barrierApply rids)

/-- Where a poll reads: an on-chip object stays, and a global address is translated again, so that no poll uses a dropped
translation; a miss waits for a walk (R115, R154, R157). -/
def State.pollReach (s : State) (th key : Nat) (va : BitVec 64) : Reach :=
  let vpn := va.toNat / 65536
  if !isHbm key then .at_ key 0
  else match s.tlbFind (coreOfTh th) (s.thr th).ctx vpn with
  | some e => .at_ (e.frame * 65536 + va.toNat % 65536) e.pte
  | none => match (s.thr th).walk with
    | .failed v r => if v = vpn then .trap ⟨8, cPageFault, r, none⟩ else .walk vpn
    | _ => .walk vpn

/-- BARRIER_POLL (R115): a GBAR re-reads PHASE at a home that is not its own core's scratchpad. -/
def execBarrierPoll (th : Nat) (s : State) : Host.Outcome State Fault Refusal :=
  .next (match (s.thr th).park with
    | .phase key va ph d src =>
      let t := s.thr th
      if t.frz || t.pfrz || t.sfrz || (match t.walk with | .waiting _ => true | _ => false) then s
      else match s.pollReach th key va with
      | .trap x => s.pollFail th src x.cause x.info
      | .walk vpn => s.threadWalk th vpn
      | .at_ key pte =>
        let p := onePart key va pte 16 0 0
        if !s.homeReady p then s.askPart p false ⟨s.tick, s.tid th⟩ none
        else match s.homeCheck (s.newReq th src .load [p] false) p with
          | .drained => s
          | .fail c i => s.pollFail th src c i
          | .ok => (s.touch p (coreOfTh th) t.ctx).pollRead th key ph d src
    | _ => s)

end Sys2Proof.Machine
end

