-- ==== Sys2Proof/Machine/Engine.lean ====
section
/-! DEFINITION. How a tile's engines take commands (R303, R304), the descriptors they check (R301, R302), the memory they
reach (R155, R159 to R161, R315), the pieces of a copy (R305), and the completion of a command (R175, R176, R265). -/

namespace Sys2Proof.Machine

/-! ## Descriptors (R301, R302) -/

/-- EXPB, an address/16. -/
def dExpb (d : BitVec 256) : Nat := getF d 212 44
/-- BASE. -/
def dBase (d : BitVec 256) : Nat := getF d 144 48
/-- ROWS. -/
def dRows (d : BitVec 256) : Nat := getF d 128 16
/-- COLS. -/
def dCols (d : BitVec 256) : Nat := getF d 112 16
/-- PITCH. -/
def dPitch (d : BitVec 256) : Nat := getF d 88 24
/-- FMT. -/
def dFmt (d : BitVec 256) : Nat := getF d 84 4
/-- AMODE: ANCHORED. -/
def dAnch (d : BitVec 256) : Bool := getF d 83 1 = 1
/-- ANCHOR. -/
def dAnchor (d : BitVec 256) : Int := sOf 9 (getF d 74 9)

/-- The typed buffer that an address names by its SPACE, 1 to 3; 0 for any other place. -/
def bufOf (va : Nat) : Nat := if fld va 46 2 = 3 && 1 ≤ fld va 26 3 && fld va 26 3 ≤ 3 then fld va 26 3 else 0

/-- A BFP format. -/
def isBfp (f : Nat) : Bool := 8 ≤ f && f ≤ 14

/-- Bits of one element of a format: m of a BFP-m, eight for RAW. -/
def fmtBits (f : Nat) : Nat := if isBfp f then f - 6 else if f = 0 then 8 else tagBits f

/-- Row bytes of a descriptor. -/
def rowBytes (d : BitVec 256) : Nat :=
  if bufOf (dBase d) = 3 && dFmt d = 1 then dCols d * (if dAnch d then 16 else 4) else dCols d * fmtBits (dFmt d) / 8

/-- The engine of a queue reads, or writes, a typed buffer (R160): 1 resident, 2 activation, 3 accumulator. -/
def engRight (q sp : Nat) (write : Bool) : Bool :=
  if write then (match sp with | 1 => q == 1 | 2 => q == 1 || q == 2 | _ => q == 0 || q == 3)
  else match sp with
  | 1 => q == 0 || q == 3
  | _ => true

/-- The size of a typed buffer, and where the pre-emption partition begins in it (R161). -/
def bufSize (sp : Nat) : Nat := if sp = 1 then 0x40000 else if sp = 2 then 0x20000 else 0x10000
/-- Start of the partition. -/
def bufPart (sp : Nat) : Nat := if sp = 1 then 0x38000 else if sp = 2 then 0x1C000 else 0xE000

/-- A range lies outside the column of a command's pusher (R161). -/
def Cmd.crosses (c : Cmd) (off size lo hi : Nat) : Bool :=
  if c.part then off < lo || off + size > hi else c.cls.toNat ≥ 2 && off < hi && off + size > lo

/-- A descriptor index lies outside the column (R161). -/
def Cmd.barred (c : Cmd) (i : Nat) : Bool := if c.part then i < 12 else c.cls.toNat ≥ 2 && i ≥ 12

/-- The first status of a command's start (R175), 0 for none. -/
def startStatus (s7 s6 s3 : Bool) : Nat := if s7 then 7 else if s6 then 6 else if s3 then 3 else 0

/-- The shape checks of R302 for a descriptor and its index. -/
def descBad (c : Cmd) (d : BitVec 256) (i : Nat) : Bool :=
  dRows d == 0 || (dRows d > 1 && dPitch d < rowBytes d) || (isBfp (dFmt d) && dCols d % 32 != 0) || c.barred i

/-- A descriptor's region does not lie wholly within a buffer of the tile, or not within the column (R302). -/
def regionBad (t : Nat) (c : Cmd) (d : BitVec 256) (sp : Nat) : Bool :=
  let off := fld (dBase d) 0 26
  let len := (dRows d - 1) * dPitch d + rowBytes d
  dBase d != spaceKey t sp off || off + len > bufSize sp || c.crosses off len (bufPart sp) (bufSize sp)

/-- A descriptor names a buffer that the command's engine may not use (R160, R302). -/
def bufBad (c : Cmd) (d : BitVec 256) (write : Bool) : Bool := let b := bufOf (dBase d); b != 0 && !engRight c.q b write

/-! ## What an engine reaches -/

/-- Where an access of an engine leads. -/
inductive EngAt where
  | at_ (key : Nat) (pte : BitVec 64)
  | status (st : Nat)
  /-- The page of this VA[47:16] does not translate (R155). -/
  | fault (vpn : Nat)
  deriving DecidableEq, Repr

/-- A change of every command that is queued, or done and not posted. -/
def Tile.mapCmds (x : Tile) (f : Cmd → Cmd) : Tile :=
  { x with queues := x.queues.map (List.map f), finished := x.finished.map fun y => { y with cmd := f y.cmd } }

/-- The translation that a command's tile holds of a page, or that has been made for the command: entry and frame. -/
def State.engPage (s : State) (t : Nat) (c : Cmd) (vpn : Nat) : Option (BitVec 64 × Nat) :=
  match s.tlbFind (lcoreOfT t 0) c.ctx vpn with
  | some e => some (e.pte, e.frame)
  | none => match c.seen.find? fun x => x.1 == vpn with
    | some x => x.2
    | none => none

/-- The outcome of a page's translation is at hand for a command. -/
def State.pageKnown (s : State) (t : Nat) (c : Cmd) (vpn : Nat) : Bool :=
  (s.tlbFind (lcoreOfT t 0) c.ctx vpn).isSome || c.seen.any fun x => x.1 == vpn

/-- A command asks for a page's translation, once (R154). -/
def State.askPage (s : State) (t : Nat) (c : Cmd) (vpn : Nat) : State :=
  let port := portOf (lcoreOfT t 0)
  if (s.port port).walks.any fun w => w.waiters.contains (.check t c.cid) then s else s.startWalk port c.ctx vpn (t % 8) (.check t c.cid)

/-- The target of an access of n bytes, within one page (R155, R159 to R161, R315). -/
def State.engTarget (s : State) (t : Nat) (c : Cmd) (va n : Nat) (write : Bool) : EngAt :=
  if va + n > 2 ^ 48 || fld va 46 2 = 2 then .status 6
  else if fld va 46 2 = 3 then
    match onchip (lcoreOfT t 0) va n with
    | none => .status 6
    | some key =>
      let sp := spaceOf key
      let off := offOf key
      if sp = 0 then
        (if (keyPort key && c.ctx != 0) || (!keyPort key && c.crosses off n 0x8000 0xA000) then .status 6 else .at_ key 0)
      else if sp ≥ 4 then .status 6
      else if keyTile key != t || !engRight c.q sp write then .status 7
      else if c.crosses off n (bufPart sp) (bufSize sp) then .status 6
      else .at_ key 0
  else
    let vpn := va / 65536
    let there (pte : BitVec 64) (frame : Nat) : EngAt :=
      let key := (if fld va 46 2 = 1 then fabricBase else 0) + frame * 65536 + va % 65536
      if (pageForbids pte (if write then .store else .load)).isSome || (c.ctx != 0 && s.inSave key) || !s.routes (lcoreOfT t 0) key then .status 6
      else .at_ key pte
    match s.engPage t c vpn with
    | some e => there e.1 e.2
    | none => .fault vpn

/-- A complete translation enters the group's second level and the tile's cache (R154). -/
def State.installTlb (s : State) (port : Nat) (tile : Option Nat) (e : TlbEntry) : State :=
  let s := { s.modPort port (fun p => { p with l2 := tlbInstall 4096 s.fresh p.l2 e }) with fresh := s.fresh + 1 }
  match tile with
  | some t => { s.modTile t (fun x => { x with tlb := tlbInstall 256 s.fresh x.tlb e }) with fresh := s.fresh + 1 }
  | none => s

/-- A page of an engine's access is in no cache that its tile uses: the access waits for the walk that all its misses share
(R154). -/
def State.engMiss (s : State) (t : Nat) (c : Cmd) (va : Nat) : Bool :=
  fld va 46 2 < 2 && va < 2 ^ 48 && (s.tlbFind (lcoreOfT t 0) c.ctx (va / 65536)).isNone

/-- A command as the maker of a request, for its home's checks. -/
def Cmd.req (c : Cmd) (p : Part) : Req :=
  { Req.hw p with lcore := c.lcore, ctx := c.ctx, lid := c.lid, seed := c.seed, cls := c.cls, part := c.part, root := tOf c.lcore }

/-- What an access of an engine comes to. -/
inductive EngStep where
  /-- The bytes, and a mask of those with an uncorrectable error. -/
  | data (x : Nat) (bad : BitVec 64)
  | status (st : Nat)
  | fault (vpn : Nat)
  /-- Its target refuses it for now (R144, R182). -/
  | wait
  deriving DecidableEq, Repr

/-- The bytes of a range with an uncorrectable error. -/
def State.badMask (s : State) (key n : Nat) : BitVec 64 :=
  if s.upsets = [] then 0 else (List.range n).foldl (fun m i => if s.bad (key + i) 1 then m ||| (1#64 <<< i) else m) 0

/-- Runs an access of a stream once memory is ready for it; before that it asks for its line, with the command's hint (R140). -/
def State.engMem (s : State) (c : Cmd) (key n : Nat) (pte : BitVec 64) (write : Bool) (hint : Option (BitVec 2 × BitVec 4)) (k : State → State × EngStep) :
    State × EngStep :=
  if s.memReady key n pte || s.frameHeld key then k s else (s.askMem key n pte write hint ⟨s.tick, s.tid c.th⟩, .wait)

/-- A request of a die is still on its way to an endpoint of the fabric, behind which an engine's access to it waits (R345). -/
def State.outBusy (s : State) (die key : Nat) : Bool :=
  key ≥ fabricBase && s.net.any fun q => dieOfCore q.lcore == die && q.parts.any fun x => !x.done && x.key ≥ fabricBase && epOfKey x.key == epOfKey key

/-- An engine's access with n bytes through the fabric window leaves the die as a packet (R345, R348). -/
def State.engOut (s : State) (t key n : Nat) : State := if key ≥ fabricBase then s.sendOut (dieOfT t) (epOfKey key) n else s

/-- Runs an access that has its target past its home's check (R159); a command's own tile needs none. -/
def State.engHome (s : State) (t : Nat) (c : Cmd) (p : Part) (k : State → State × EngStep) : State × EngStep :=
  if s.frameHeld p.key || s.outBusy (dieOfT t) p.key then (s, .wait)
  else if !isHbm p.key && p.key < stackBase && !keyPort p.key && keyTile p.key == t then k s
  else match s.homeCheck (c.req p) p with
    | .drained => (s, .wait)
    | .fail cause _ => (s, .status (if cause = cPeerGone then 12 else 6))
    | .ok => k s

/-- A read at a key. -/
def State.engReadAt (s : State) (t : Nat) (c : Cmd) (key va : Nat) (pte : BitVec 64) (n : Nat) : State × EngStep :=
  s.engHome t c ⟨key, BitVec.ofNat 64 va, n, 0, BitVec.allOnes 64, pte, 0, false⟩ fun s =>
    let s := ((if key ≥ fabricBase then { s with fresh := s.fresh + 1 } else s).engOut t key 0).touchWith key va pte c.lcore c.ctx
    let bad := s.badMask key n
    (if bad = 0 then s else s.logUnc key c.ctx.toNat, .data (s.loadN key n) bad)

/-- Runs an access at its target, where it has one. -/
def State.engAt (s : State) (t : Nat) (c : Cmd) (va n : Nat) (write : Bool) (k : Nat → BitVec 64 → State × EngStep) : State × EngStep :=
  if s.engMiss t c va then (s, .fault (va / 65536))
  else match s.engTarget t c va n write with
  | .status st => (s, .status st)
  | .fault vpn => (s, .fault vpn)
  | .at_ key pte => k key pte

/-- A read. -/
def State.engRead (s : State) (t : Nat) (c : Cmd) (va n : Nat) : State × EngStep :=
  s.engAt t c va n false fun key pte => s.engReadAt t c key va pte n

/-- A read of a stream, once memory is ready. -/
def State.engFetch (s : State) (t : Nat) (c : Cmd) (va n : Nat) (hint : Option (BitVec 2 × BitVec 4)) : State × EngStep :=
  s.engAt t c va n false fun key pte => s.engMem c key n pte false hint fun s => s.engReadAt t c key va pte n

/-- A read of at most 64 bytes within one page, block by block. -/
def State.engSpan (s : State) (t : Nat) (c : Cmd) (va n : Nat) (hint : Option (BitVec 2 × BitVec 4)) : State × EngStep :=
  let k := min n (64 - va % 64)
  match s.engFetch t c va k hint with
  | (s, .data x bad) =>
    if k = n then (s, .data x bad)
    else match s.engFetch t c (va + k) (n - k) hint with
      | (s, .data y bad') => (s, .data (x + 256 ^ k * y) (bad ||| bad' <<< k))
      | r => r
  | r => r

/-- A write of masked bytes at a key; on a LOGIT page the filter takes it (R320). `again` goes on with a word that counts as
written already (R314). -/
def State.engWriteAt (s : State) (t : Nat) (c : Cmd) (key va : Nat) (pte : BitVec 64) (n : Nat) (m : BitVec 64) (x : Nat) (again : Bool) :
    State × EngStep :=
  let p : Part := ⟨key, BitVec.ofNat 64 va, n, 0, m, pte, BitVec.ofNat 512 x, false⟩
  s.engHome t c p fun s =>
    let s := (s.engOut t key n).touchWith key va pte c.lcore c.ctx
    if s.mergeBad key n m pte then (s.logUnc key c.ctx.toNat, .data 0 (BitVec.allOnes 64))
    else
      let s := s.homeWrite none key n m x again
      (if pte.getLsbD 10 then s.filterStore (c.req p) p else s, .data 0 0)

/-- A write of masked bytes. -/
def State.engWrite (s : State) (t : Nat) (c : Cmd) (va n : Nat) (m : BitVec 64) (x : Nat) : State × EngStep :=
  s.engAt t c va n true fun key pte => s.engWriteAt t c key va pte n m x false

/-- A write of a stream, once memory is ready; a LOGIT page has the filter's own. -/
def State.engStore (s : State) (t : Nat) (c : Cmd) (va n : Nat) (m : BitVec 64) (x : Nat) (hint : Option (BitVec 2 × BitVec 4)) (again : Bool) :
    State × EngStep :=
  s.engAt t c va n true fun key pte =>
    if pte.getLsbD 10 then s.engWriteAt t c key va pte n m x again
    else s.engMem c key n pte true hint fun s => s.engWriteAt t c key va pte n m x again

/-- The pages of a range that are translated. -/
def rangePages (va n : Nat) : List Nat :=
  if n = 0 then [] else ((List.range ((va + n - 1) / 65536 + 1 - va / 65536)).map (va / 65536 + ·)).filter fun v => v < 2 ^ 31

/-- The statuses 0x07 and 0x06 that a range gives at a command's start; a page that does not translate is met later
(R175). -/
def State.rangeBad (s : State) (t : Nat) (c : Cmd) (va n : Nat) (write : Bool) (st : Nat) : Bool :=
  let at_ (a k : Nat) : Bool := match s.engTarget t c a k write with
    | .status x => x == st
    | .at_ key pte =>
      st == 6 && !isHbm key && key < fabricBase && keyTile key != t
        && (match s.homeCheck (c.req ⟨key, 0, k, 0, 0, pte, 0, false⟩) ⟨key, 0, k, 0, 0, pte, 0, false⟩ with
          | .fail cause _ => cause != cPeerGone
          | _ => false)
    | .fault _ => false
  n != 0 && (if fld va 46 2 ≥ 2 then at_ va n
    else (List.range ((va + n - 1) / 65536 + 1 - va / 65536)).any fun i =>
      let a := if i = 0 then va else (va / 65536 + i) * 65536
      at_ a (min (va + n - a) (65536 - a % 65536)))

/-! ## Taking commands (R303, R304) -/

/-- The head of a queue may start (R92, R182, R303, R304). -/
def State.mayStart (s : State) (t : Nat) (c : Cmd) : Bool :=
  let x := s.tile t
  let q := c.q
  let busy : Cmd → Bool := fun d => d.q == q
  -- one of the four streams, which a command of q3 waits for too
  let slotFree := (x.streams.filter fun y => y.cmd.w.op == 1).length < 4
  x.drain == .no && c.granted
    && !(s.net.any fun r => r.th == c.th && r.src.seq < c.after && r.rid < c.cid && r.kind.isAccess)
    && (match c.pre with
      | none => true
      | some n => !(([0, 1, 2, 3] : List Nat).any fun p => (x.live p).any fun d => d.cid == n))
    && (if q = 1 || q = 2 then !x.streams.any fun y => busy y.cmd
        else
          !(q == 0 && !(x.live 3).isEmpty)
            && (if c.w.op = 1 then
                  slotFree && !(x.streams.any fun y => busy y.cmd && y.cmd.w.op != 1) && !(x.finished.any fun y => busy y.cmd && y.cmd.w.op != 1)
                else (q == 0 || slotFree) && !(x.streams.any fun y => busy y.cmd) && !(x.finished.any fun y => busy y.cmd)))

/-- The head of a queue leaves it and starts, where it is this command. -/
def State.startCmd (s : State) (t q op : Nat) (k : Cmd → State → State) : State :=
  match (s.tile t).queues.toList.getD q [] with
  | c :: _ =>
    if c.w.op = op && s.mayStart t c then k c (s.modTile t fun x => { x with queues := modAt x.queues q fun l => l.drop 1 }) else s
  | [] => s

/-- The head of a queue starts once the pages that its start looks at have been translated; before that it asks for them, one by one
(R154, R175). -/
def State.startPaged (s : State) (t q op : Nat) (pages : State → Cmd → List Nat) (k : Cmd → State → State) : State :=
  match (s.tile t).queues.toList.getD q [] with
  | c :: _ =>
    match (if c.w.op = op && s.mayStart t c then (pages s c).find? fun v => !s.pageKnown t c v else none) with
    | some v => s.askPage t c v
    | none => s.startCmd t q op k
  | [] => s

/-- A command's work is done (R304). -/
def State.finishCmd (s : State) (t : Nat) (c : Cmd) (st info : Nat) (ovf inv : Bool) : State :=
  s.modTile t fun x => { x with
    streams := x.streams.filter fun y => y.cmd.cid != c.cid
    finished := x.finished ++ [⟨c, BitVec.ofNat 8 st, BitVec.ofNat 32 (min info 0xFFFFFFFF), ovf, inv⟩] }

/-- A command in flight is put, or replaced. -/
def State.putStream (s : State) (t : Nat) (y : Stream) : State :=
  s.modTile t fun x => { x with
    streams := if x.streams.any fun z => z.cmd.cid == y.cmd.cid then x.streams.map fun z => if z.cmd.cid == y.cmd.cid then y else z
      else x.streams ++ [y] }

/-- A command at its start. -/
def Stream.start (c : Cmd) (sdx rdx adx : BitVec 256) : Stream :=
  ⟨c, sdx, rdx, adx, [], [], [], [], 0, 0, false, false, 0, none, none⟩

/-- A command stalls at a page (R155). -/
def State.stallStream (s : State) (t : Nat) (y : Stream) (vpn p : Nat) : State :=
  (s.startWalk (portOf (lcoreOfT t 0)) y.cmd.ctx vpn (t % 8) (.stream t y.cmd.cid)).putStream t { y with stall := some (vpn, p) }

/-- Runs the start of a command, or goes on with one that was stopped. -/
def State.startOrGo (s : State) (t q op : Nat) (pages : State → Cmd → List Nat) (start : Cmd → State → State) (go : Stream → State → State) : State :=
  match (s.tile t).streams.find? fun y => y.cmd.q == q && y.cmd.w.op == op with
  | some y => if y.stall.isNone && (s.tile t).drain != .drained then go y s else s
  | none => s.startPaged t q op pages start

/-! ## Copies (R305) -/

/-- One piece of a copy: its source address, or a pattern; its destination; its length. -/
structure Piece where
  src : Option Nat
  pat : Nat
  dst : Nat
  len : Nat
  /-- Its first word counts as written already (R314). -/
  again : Bool
  deriving DecidableEq, Repr

/-- The pieces of n bytes that cross no 64-byte boundary of the destination and no page of the source; `first` for the one
that begins a row. -/
def splitPieces (pat : Nat) : Nat → Bool → Option Nat → Nat → Nat → List Piece
  | 0, _, _, _, _ => []
  | fuel + 1, first, src, dst, n =>
    if n = 0 then []
    else
      let k := min n (min (64 - dst % 64) (match src with | some a => 65536 - a % 65536 | none => 64))
      ⟨src, pat, dst, k, !first && dst % 4 != 0⟩ :: splitPieces pat fuel false (src.map (· + k)) (dst + k) (n - k)

/-- A row's pieces. -/
def rowPieces (src : Option Nat) (dst n : Nat) : List Piece := splitPieces 0 n true src dst n

/-- How far a copy has come. -/
inductive MoveEnd where
  | fin
  | stop (st : Nat)
  | stall (vpn : Nat)
  | wait
  deriving DecidableEq, Repr

/-- The bits of a mask within n bytes. -/
def maskCount (m : BitVec 64) (n : Nat) : Nat := ((List.range n).filter fun i => m.getLsbD i).length

/-- Copies pieces in order: a byte with an uncorrectable error is not written and not counted (R177); a fault or an error
status stops the copy (R155, R305). Answers the number of pieces done, the bytes written, and the first error. -/
def State.movePieces (s : State) (t : Nat) (c : Cmd) (hint : Option (BitVec 2 × BitVec 4)) (y : Stream) :
    List Piece → State × Stream × MoveEnd
  | [] => (s, y, .fin)
  | p :: l =>
    let (s, r) := match p.src with
      | some a => s.engSpan t c a p.len hint
      | none => (s, .data p.pat 0)
    match r with
    | .status st => (s, y, .stop st)
    | .fault vpn => (s, y, .stall vpn)
    | .wait => (s, y, .wait)
    | .data x bad =>
      -- the error of a read strikes before what its write meets (R175)
      let y := { y with err := if y.err = 0 && maskCount bad p.len != 0 then 0x10 else y.err }
      match s.engStore t c p.dst p.len (~~~bad) x hint p.again with
      | (s, .status st) => (s, y, .stop st)
      | (s, .fault vpn) => (s, y, .stall vpn)
      | (s, .wait) => (s, y, .wait)
      | (s, .data _ lost) =>
        let err := if y.err = 0 && lost != 0 then 0x10 else y.err
        let y := { y with done := y.done + 1, bytes := y.bytes + maskCount (~~~bad &&& ~~~lost) p.len, err := err }
        State.movePieces s t c hint y l

/-- Runs a copy on, from where it stands; `last` acts at its end on success. -/
def State.runMove (s : State) (t : Nat) (y : Stream) (ps : List Piece) (hint : Option (BitVec 2 × BitVec 4)) (last : State → State) : State :=
  let (s, y, e) := s.movePieces t y.cmd hint y (ps.drop y.done)
  match e with
  | .fin => (last s).finishCmd t y.cmd y.err.toNat y.bytes false false
  | .stop st => s.finishCmd t y.cmd (if y.err = 0 then st else y.err.toNat) y.bytes false false
  | .stall vpn => s.stallStream t y vpn 0
  | .wait => s.putStream t y

/-- The hint of a command with HEN, CLASS and REUSE from a bit down (R140). -/
def hintOf (w : Tcw) (hen : Nat) : Option (BitVec 2 × BitVec 4) :=
  if w.f hen hen = 1 then some (BitVec.ofNat 2 (w.f (hen - 1) (hen - 2)), BitVec.ofNat 4 (w.f (hen - 3) (hen - 6))) else none

/-! ## Completion (R176, R265) -/

/-- The STATUS bits that a command posts (R176). -/
def barrierBits (st : Nat) (ovf inv : Bool) : Nat :=
  (match st with | 5 => 1 | 2 => 2 | 3 => 4 | 0x10 => 8 | _ => 0) + ovf.toNat * 16 + inv.toNat * 32

/-- The post to a barrier object, and whether it is done: it is not while its page is being translated or its home refuses it; where it cannot be performed the
port core logs NOPOST, and an error that it meets is logged beside (R176, R177). -/
def State.postBarrier (s : State) (t : Nat) (f : Finished) : State × Bool :=
  let c := f.cmd
  let bits := barrierBits f.status.toNat f.ovf f.inv
  let fail (s : State) : State := s.postErr (portOf (lcoreOfT t 0)) 0x0B c.ctx.toNat (c.lcore * 2 ^ 32)
  let vpn := c.w.bar / 65536
  if c.w.bar = 0 || bits = 0 then (s, true)
  else if c.w.bar < 2 ^ 47 && !s.pageKnown t c vpn then (s.askPage t c vpn, false)
  else
    match s.engTarget t c c.w.bar 16 true with
    | .at_ key pte =>
      if key ≥ fabricBase || (!isHbm key && !isPad key) || pte.getLsbD 10 then (fail s, true)
      else if s.bad (key + 12) 4 || s.mergeBad (key + 12) 4 0xF pte then (fail (s.logUnc key c.ctx.toNat), true)
      else
        match s.engMem c key 16 pte true none fun s => s.engHome t c ⟨key, BitVec.ofNat 64 c.w.bar, 16, 0, 0xFFFF, pte, 0, false⟩ fun s =>
          ((s.hit key (pte.getLsbD 9)).homeStore none (key + 12) 4 0xF (Nat.lor (s.rdN (key + 12) 4) bits) false, .data 0 0) with
        | (s, .data _ _) => (s, true)
        | (s, .wait) => (s, false)
        | (s, _) => (fail s, true)
    | _ => (fail s, true)

/-- The completion element (R265). -/
def Finished.element (f : Finished) : BitVec 64 :=
  BitVec.ofNat 64 (f.info.toNat * 2 ^ 32 + f.cmd.q * 2 ^ 26 + f.inv.toNat * 2 ^ 25 + f.ovf.toNat * 2 ^ 24 + f.status.toNat * 2 ^ 16 + f.cmd.w.tag)

/-- A tile whose task has retired discards what no thread took, once its last command has posted (R106). -/
def Tile.discard (x : Tile) : Tile :=
  let x := if x.purgeQ3 && (x.live 3).isEmpty then { x with comp := modAt x.comp 3 fun _ => [], purgeQ3 := false } else x
  if x.purge && [0, 1, 2, 3].all fun q => (x.live q).isEmpty then { x with comp := Vector.replicate 4 [], evq := [], purge := false } else x

/-- COMPLETION_POST (R176, R265): the k-th finished command of queue q. -/
def execCompletionPost (t q k : Nat) (s : State) : Host.Outcome State Fault Refusal :=
  .next (match ((s.tile t).finished.filter fun f => f.cmd.q == q)[k]? with
    | none => s
    | some f => match s.postBarrier t f with
      | (s, false) => s
      | (s, true) => s.modTile t fun x =>
          let x := { x with finished := x.finished.filter fun g => g.cmd.cid != f.cmd.cid }
          (if f.cmd.toEvq then { x with evq := x.evq ++ [f.element] } else { x with comp := modAt x.comp q (· ++ [f.element]) }).discard)

end Sys2Proof.Machine
end

