-- ==== Sys2Proof/Machine/Dispatcher.lean ====
section
/-! DEFINITION. The dispatchers: launch messages and their checks (R103 to R105, R337, R338), dispatch (R106, R107, R22),
pre-emption (R123 to R125), and the retirement of tasks (R97, R98, R107). -/

namespace Sys2Proof.Machine

/-! ## Launch messages (R103 to R105) -/

/-- An ANSWER payload (R105). -/
def answerPayload (lid : BitVec 32) (kind check detail : Nat) : BitVec 128 :=
  BitVec.ofNat 128 (lid.toNat + kind * 2 ^ 32 + check * 2 ^ 40 + detail % 2 ^ 16 * 2 ^ 64)

/-- The dispatcher answers an endpoint. -/
def State.answerTo (s : State) (die ep : Nat) (lid : BitVec 32) (kind check detail : Nat) : State :=
  ({ s with answers := s.answers ++ [⟨ep, answerPayload lid kind check detail⟩] } : State).sendOut die ep 16

/-- A launch is live on the module (R104). -/
def State.isLive (s : State) (lid : BitVec 32) : Bool := s.launches.any fun x => x.lid == lid

/-- The context's VALID bit (R151). -/
def State.ctxValid (s : State) (ctx : BitVec 6) : Bool := !s.ctxBad ctx.toNat && (s.rdByte (s.ctxEntry ctx.toNat + 16)).getLsbD 0

/-- A coordinate of a tile index: die, super-group, group, tile. -/
def coordsOf (t : Nat) : List Nat := [t / 1024, t / 128 % 8, t / 8 % 16, t % 8]

/-- The tiles of a rectangle, in ascending T (R103). -/
def rectTiles (lo hi : Nat) : List Nat :=
  (List.range (hi + 1 - lo)).filterMap fun i =>
    let t := lo + i
    if ((coordsOf t).zip ((coordsOf lo).zip (coordsOf hi))).all fun x => x.2.1 ≤ x.1 && x.1 ≤ x.2.2 then some t else none

/-- The image that a launch names: its entry, and the place and length of its .data; none where check 10 fails (R337,
R338). -/
def State.readImage (s : State) (ctx : BitVec 6) (image : Nat) : Option (BitVec 48 × Nat × Nat) :=
  if image % 64 != 0 then none
  else match s.filterBytes ctx image .load 64 with
  | none => none
  | some h =>
    let f (o n : Nat) : Nat := leNat ((h.drop o).take n)
    let (entry, toff, tlen, doff, dlen) := (f 8 8, f 0x10 4, f 0x14 4, f 0x18 4, f 0x1C 4)
    if f 0 4 != 0x4C52494D || f 4 2 != 1 || f 6 2 % 2 = 0 || entry % 8 != 0 || entry < toff || entry ≥ toff + tlen || dlen > 24576 then none
    else if (s.filterBytes ctx (image + doff) .load dlen).isNone then none
    else some (BitVec.ofNat 48 (image + entry), image + doff, dlen)

/-- The first index of a list word that fails a check. -/
def failIdx (ws : List Nat) (f : Nat → Nat → Bool) : Option Nat := (ws.zipIdx.find? fun x => f x.2 x.1).map (·.2)

/-- The tile set of a message, or its first failing check of 4 to 8 with its DETAIL (R105). -/
def launchTiles (die : Nat) (hdr : BitVec 512) (list : List (BitVec 32)) : Except (Nat × Nat) (List Nat) :=
  let count := getF hdr 304 13
  if getF hdr 296 1 = 1 then
    let ws := (list.take count).map (·.toNat)
    match failIdx ws (fun _ w => w > 6143), failIdx ws (fun _ w => w / 1024 != die), failIdx ws (fun i w => (ws.take i).contains w) with
    | some i, _, _ => .error (4, i)
    | none, some i, _ => .error (5, i)
    | none, none, some i => .error (6, i)
    | none, none, none => if count < 1 || count > 6144 || list.length < count then .error (8, 0) else .ok ws
  else
    let lo := getF hdr 320 32
    let hi := getF hdr 352 32
    if lo > 6143 then .error (4, 0xFFFF)
    else if hi > 6143 then .error (4, 0xFFFE)
    else if lo / 1024 != die then .error (5, 0xFFFF)
    else if hi / 1024 != die then .error (5, 0xFFFE)
    else if ((coordsOf lo).zip (coordsOf hi)).any fun x => x.2 < x.1 then .error (7, 0)
    else if count != 0 then .error (8, 0)
    else .ok (rectTiles lo hi)

/-- A message with the checks of R105 in their order: the first that fails and its DETAIL, or the launch. -/
def State.launchOf (s : State) (die ep : Nat) (hdr : BitVec 512) (list : List (BitVec 32)) : Except (Nat × Nat) Launch :=
  let lid := BitVec.ofNat 32 (getF hdr 128 32)
  let ctx := BitVec.ofNat 6 (getF hdr 290 6)
  if getF hdr 384 128 != 0 || getF hdr 317 3 != 0 || getF hdr 297 7 != 0 || (getF hdr 296 1 = 1 && getF hdr 320 64 != 0) then .error (1, 0)
  else if lid = 0 then .error (2, 0)
  else if s.isLive lid then .error (3, 0)
  else match launchTiles die hdr list with
  | .error e => .error e
  | .ok ts =>
    if !s.ctxValid ctx || ts.any fun t => (s.tile t).ctx != ctx then .error (9, 0)
    else match s.readImage ctx (getF hdr 0 64) with
    | none => .error (10, 0)
    | some (entry, dataAt, dataLen) =>
      .ok ⟨lid, die, ep, ctx, BitVec.ofNat 2 (getF hdr 288 2), (List.range 4).map fun i => BitVec.ofNat 32 (getF hdr (160 + 32 * i) 32),
        BitVec.ofNat 64 (getF hdr 64 64), entry, dataAt, dataLen, ts, .queued, ts, 0, false⟩

/-- An uncorrectable error for which a launch fails check 9 or 10 is logged (R177). -/
def State.logLaunch (s : State) (check : Nat) (ctx : BitVec 6) (image : Nat) : State :=
  if check = 9 then s.logCtx ctx.toNat
  else if check = 10 && image % 64 == 0 then
    s.logReads ctx ((image, 64) :: match s.filterBytes ctx image .load 64 with
      | some h => [(image + leNat ((h.drop 0x18).take 4), min 24576 (leNat ((h.drop 0x1C).take 4)))]
      | none => [])
  else s

/-- LAUNCH (R103 to R105), a message that has come over the fabric: accepted and queued, or rejected; none is accepted before the device is ready (R163). -/
def execLaunch (die sg g ep : Nat) (hdr : BitVec 512) (list : List (BitVec 32)) (s : State) : Host.Outcome State Fault Refusal :=
  .next (
    if die ≥ 6 || sg ≥ 8 || g ≥ 16 || s.dawn.stage != 5 || s.dawn.hold != 0 then s
    else s.takeMsg die (.launch sg g ep hdr list) fun s => match s.launchOf die ep hdr list with
    | .error (check, detail) => (s.logLaunch check (BitVec.ofNat 6 (getF hdr 290 6)) (getF hdr 0 64)).answerTo die ep (BitVec.ofNat 32 (getF hdr 128 32)) 2 check detail
    | .ok x =>
      let l := portOfGroup (die * 128 + sg * 16 + g)
      let s := (s.visitVa l x.ctx (getF hdr 0 64) 64 false).visitVa l x.ctx x.dataAt x.dataLen false
      ({ s with launches := s.launches ++ [x] }.modDie die fun d => { d with queue := d.queue ++ [x.lid] }).answerTo die ep x.lid 1 0 0)

/-! ## Dispatch (R106, R107) -/

/-- The slot of a tile is fenced (R185). -/
def State.slotFenced (s : State) (t : Nat) : Bool := s.fenced.contains (sgKeyOfT t * 256 + s.slotOf t)

/-- A tile takes no new task, whatever runs on it: it is drained, under scan, fenced or being cleared, or a supervisor of it
has trapped (R106, R158, R172, R185). -/
def State.tileHeld (s : State) (t : Nat) : Bool :=
  let x := s.tile t
  x.scrub || x.drain != .no || x.scan.isSome || x.supDead || s.slotFenced t

/-- The tile is free (R106): no task, no ordinary thread (R22), no command, element or record. R106 names no callee and no sampling
thread that outlives the task: that one keeps the tile from being free is the model's reading (log 54). -/
def State.tileFree (s : State) (t : Nat) : Bool :=
  let x := s.tile t
  !s.tileHeld t && x.tasks.isEmpty && ((s.tileThreads t).all fun k => (s.thr k).pos == 15) && ([0, 1, 2, 3].all fun q => (x.live q).isEmpty)
    && (x.comp.toList.all List.isEmpty) && x.evq.isEmpty

/-- Every prerequisite of a launch is met (R104). -/
def State.prqMet (s : State) (x : Launch) : Bool := x.prq.all fun p => p == 0 || !s.isLive p

/-- The head of a class on a die (R106). -/
def State.classHead (s : State) (die : Nat) (cls : BitVec 2) : Option Launch :=
  (s.die die).queue.findSome? fun lid => s.launches.find? fun x => x.lid == lid && x.cls == cls && x.phase == .queued && s.prqMet x

/-- A launch may take a tile by pre-emption: it is free, or only class-2 and class-3 tasks run on it (R123), and W16 and q3 are
free (R22). -/
def State.mayPreempt (s : State) (lid : BitVec 32) (t : Nat) : Bool :=
  (s.tileFree t || (!s.tileHeld t && !(s.tile t).tasks.isEmpty
      && (s.tile t).tasks.all fun l => s.launches.any fun y => y.lid == l && y.cls.toNat ≥ 2))
    && ((s.tile t).live 3).isEmpty && ((s.tile t).comp.toList.getD 3 []).isEmpty && (s.partPlace (lcoreOfT t 0) lid).any fun x => x.1 == 16

/-- A launch leaves its die's queue. -/
def State.unqueue (s : State) (x : Launch) : State := s.modDie x.die fun d => { d with queue := d.queue.filter fun l => l != x.lid }

/-- A launch stops being live. -/
def State.endLaunch (s : State) (lid : BitVec 32) : State := { s with launches := s.launches.filter fun x => x.lid != lid }

/-- A launch runs. -/
def State.setRunning (s : State) (x : Launch) (preempt : Bool) : State :=
  { s with launches := s.launches.map fun y => if y.lid = x.lid then { y with phase := .running, preempt := preempt } else y }

/-- The .data of a launch in a control core's scratchpad, with VER 0 (R22, R336). -/
def State.placeData (s : State) (t : Nat) (bytes : List Byte) : State :=
  let key := padKey (lcoreOfT t 0) 0xA000
  let n := bytes.length
  let s := s.wrList key bytes
  let s := { s with upsets := s.upsets.filter fun u => !(key ≤ u * 8 && u * 8 + 8 ≤ key + n) }
  (List.range ((n + 3) / 4)).foldl (fun s i => s.modTag (key / 4 + i) fun g => { g with ver := 0 }) s

/-- The task of tile t starts, the i-th of n (R107). -/
def State.startTask (s : State) (x : Launch) (t i n w pos : Nat) (part : Bool) : State :=
  let th : Thread := { Thread.none with
    pos := pos, kind := .task, ctx := x.ctx, lid := x.lid, seed := x.seed, cls := x.cls, part := part, root := t }
  let ws := (Workspace.fresh x.entry false).putS 0 [BitVec.ofNat 64 i, BitVec.ofNat 64 n, x.lid.setWidth 64]
  (s.startThread (lcoreOfT t 0 * 20 + w) th ws).modTile t fun y => { y with tasks := y.tasks ++ [x.lid] }

/-- A launch is dispatched to all its tiles; one whose .data cannot be read is abandoned (R22, R107, R338). -/
def State.dispatchLaunch (s : State) (x : Launch) : State :=
  match s.filterBytes x.ctx x.dataAt .load x.dataLen with
  | none => (((s.logReads x.ctx [(x.dataAt, x.dataLen)]).unqueue x).endLaunch x.lid).answerTo x.die x.ep x.lid 4 10 0
  | some bytes =>
    let s := ((s.visitVa (portOfGroup (x.die * 128)) x.ctx x.dataAt x.dataLen false).unqueue x).setRunning x false
    let s := x.tiles.foldl (fun s t => (s.placeData t bytes).modTile t fun y => { y with sem := Vector.replicate 16 0 }) s
    x.tiles.zipIdx.foldl (fun s p => s.startTask x p.1 p.2 x.tiles.length 0 0 false) s

/-- A launch is dispatched by pre-emption, its tasks in W16 (R22, R123). -/
def State.dispatchPart (s : State) (x : Launch) : State :=
  let s := (s.unqueue x).setRunning x true
  x.tiles.zipIdx.foldl (fun s p =>
    let l := lcoreOfT p.1 0
    match s.partPlace l x.lid with
    | some (w, pos) =>
      ((s.preemptPos l pos).modTile p.1 fun y => { y with sem := (List.range' 12 4).foldl (fun v i => modAt v i fun _ => 0) y.sem }).startTask
        x p.1 p.2 x.tiles.length w pos true
    | none => s) s

/-- The classes from one on, at a decision: 3 waits for a class-0 launch that waits (R106). -/
def State.dispatchLower (s : State) (die : Nat) (wait0 : Bool) : List (BitVec 2) → State
  | [] => s
  | c :: l =>
    match s.classHead die c with
    | some x => if x.tiles.all s.tileFree && !(c == 3 && wait0) then s.dispatchLaunch x else State.dispatchLower s die wait0 l
    | none => State.dispatchLower s die wait0 l

/-- DISPATCH (R106, R107, R123): one decision of a die's dispatcher. -/
def execDispatch (die : Nat) (s : State) : Host.Outcome State Fault Refusal :=
  .next (match s.classHead die 0 with
    | some x =>
      if x.tiles.all s.tileFree then s.dispatchLaunch x
      else if x.dataLen = 0 && x.tiles.all (s.mayPreempt x.lid) then s.dispatchPart x
      else s.dispatchLower die true [1, 2, 3]
    | none => s.dispatchLower die false [1, 2, 3])

/-! ## Retirement (R97, R98, R106, R107) -/

/-- The task of launch lid on tile t may retire: its thread and every thread it spawned have exited, and their SENDs have
been accepted (R97). -/
def State.mayRetire (s : State) (lid : BitVec 32) (t : Nat) : Bool :=
  s.runsTask t lid
    && (s.threads.all fun x => !(x.2.occ && x.2.root == t && x.2.lid == lid && (x.2.kind == .task || x.2.kind == .child)))
    && s.net.all fun r => !(r.root == t && r.lid == lid && (match r.kind with | .send .. => true | _ => false))

/-- The requests that wait at a tile, in its scratchpads or for a position of a core, for a launch that runs no task there any more:
they meet PEER_GONE (R98, R159). -/
def State.revoked98 (s : State) (t : Nat) : List Req :=
  s.net.filter fun r => r.isParked && (match r.parts with
    | p :: _ => inTile t p.key && s.gone r.ctx r.lid p.key
    | [] => ofTile t r.homeCore && s.gone r.ctx r.lid (padKey r.homeCore 0))

/-- The scratchpads of a tile are revoked (R98). -/
def State.revokeTile (s : State) (t : Nat) : State :=
  (s.revoked98 t).foldl (fun s r => match r.parts with
    | p :: _ => s.failReq r cPeerGone 0 (some p.va)
    | [] => s.failSend r cPeerGone 0) s

/-- A task of a launch has retired; with its last, the completion record is sent (R107). -/
def State.retireFrom (s : State) (x : Launch) (t : Nat) : State :=
  let left := x.left.filter fun u => u != t
  if left.isEmpty then (s.endLaunch x.lid).answerTo x.die x.ep x.lid 3 0 x.exit.toNat
  else { s with launches := s.launches.map fun y => if y.lid = x.lid then { y with left := left } else y }

/-- TASK_RETIRE (R97, R98, R106, R107). -/
def execTaskRetire (lid t : Nat) (s : State) : Host.Outcome State Fault Refusal :=
  let id := BitVec.ofNat 32 lid
  .next (match s.launches.find? fun x => x.lid == id && x.phase == .running && x.left.contains t with
    | some x =>
      if s.mayRetire id t then
        let s := s.modTile t fun y =>
          let ts := y.tasks.filter fun l => l != id
          { y with tasks := ts, purge := ts.isEmpty, purgeQ3 := !ts.isEmpty && x.preempt }.discard
        (s.revokeTile t).retireFrom x t
      else s
    | none => s)

/-- PREEMPT_THAW (R125): once no pre-empting thread is left on a core, its victims thaw. -/
def execPreemptThaw (core : Nat) (s : State) : Host.Outcome State Fault Refusal :=
  .next (if (s.threadsOn core).any fun k => (s.thr k).part then s
    else s.forThreads ((s.threadsOn core).filter fun k => (s.thr k).pfrz) fun t => { t with pfrz := false })

end Sys2Proof.Machine
end

