-- ==== Sys2Proof/Machine/Scalar.lean ====
section
/-! DEFINITION. Scalar arithmetic, bit fields and addresses (R206 to R215), NOP (R204) and the immediate's widening
(R192). -/

namespace Sys2Proof.Machine

/-- NOP (R204). -/
def execNop (_z : BitVec 1) (s : State) : Host.Outcome State Fault Refusal := .next s
/-- ADD (R207). -/
def execAdd (_z : BitVec 1) (d a b : BitVec 5) (s : State) : Host.Outcome State Fault Refusal := .next (s.wS d (s.rS a + s.rS b))
/-- SUB (R207). -/
def execSub (_z : BitVec 1) (d a b : BitVec 5) (s : State) : Host.Outcome State Fault Refusal := .next (s.wS d (s.rS a - s.rS b))
/-- AND (R207). -/
def execAnd (_z : BitVec 1) (d a b : BitVec 5) (s : State) : Host.Outcome State Fault Refusal := .next (s.wS d (s.rS a &&& s.rS b))
/-- OR (R207). -/
def execOr (_z : BitVec 1) (d a b : BitVec 5) (s : State) : Host.Outcome State Fault Refusal := .next (s.wS d (s.rS a ||| s.rS b))
/-- XOR (R207). -/
def execXor (_z : BitVec 1) (d a b : BitVec 5) (s : State) : Host.Outcome State Fault Refusal := .next (s.wS d (s.rS a ^^^ s.rS b))
/-- A register's low six bits, the shift amount (R207). -/
def shiftAmt (x : BitVec 64) : Nat := x.toNat % 64
/-- SHL (R207). -/
def execShl (_z : BitVec 1) (d a b : BitVec 5) (s : State) : Host.Outcome State Fault Refusal := .next (s.wS d (s.rS a <<< shiftAmt (s.rS b)))
/-- SHR (R207). -/
def execShr (_z : BitVec 1) (d a b : BitVec 5) (s : State) : Host.Outcome State Fault Refusal := .next (s.wS d (s.rS a >>> shiftAmt (s.rS b)))
/-- SRA (R207). -/
def execSra (_z : BitVec 1) (d a b : BitVec 5) (s : State) : Host.Outcome State Fault Refusal := .next (s.wS d ((s.rS a).sshiftRight (shiftAmt (s.rS b))))
/-- A truth value as a register (R207). -/
def bit64 (b : Bool) : BitVec 64 := if b then 1 else 0
/-- SLT (R207). -/
def execSlt (_z : BitVec 1) (d a b : BitVec 5) (s : State) : Host.Outcome State Fault Refusal := .next (s.wS d (bit64 ((s.rS a).slt (s.rS b))))
/-- SLTN (R207). -/
def execSltn (_z : BitVec 1) (d a b : BitVec 5) (s : State) : Host.Outcome State Fault Refusal := .next (s.wS d (bit64 ((s.rS a).ult (s.rS b))))
/-- MIN (R207). -/
def execMin (_z : BitVec 1) (d a b : BitVec 5) (s : State) : Host.Outcome State Fault Refusal :=
  .next (s.wS d (if (s.rS a).slt (s.rS b) then s.rS a else s.rS b))
/-- MAX (R207). -/
def execMax (_z : BitVec 1) (d a b : BitVec 5) (s : State) : Host.Outcome State Fault Refusal :=
  .next (s.wS d (if (s.rS a).slt (s.rS b) then s.rS b else s.rS a))
/-- MINN (R207). -/
def execMinn (_z : BitVec 1) (d a b : BitVec 5) (s : State) : Host.Outcome State Fault Refusal :=
  .next (s.wS d (if (s.rS a).ult (s.rS b) then s.rS a else s.rS b))
/-- MAXN (R207). -/
def execMaxn (_z : BitVec 1) (d a b : BitVec 5) (s : State) : Host.Outcome State Fault Refusal :=
  .next (s.wS d (if (s.rS a).ult (s.rS b) then s.rS b else s.rS a))
/-- SEL: the old rd is the condition (R207). -/
def execSel (_z : BitVec 1) (d a b : BitVec 5) (s : State) : Host.Outcome State Fault Refusal :=
  .next (s.wS d (if s.rS d != 0 then s.rS a else s.rS b))
/-- Leading zero bits, 0 to 64 (R207). -/
def clz64 (x : BitVec 64) : Nat := if x = 0 then 64 else 63 - Nat.log2 x.toNat
/-- CLZ (R207). -/
def execClz (_z : BitVec 1) (d a : BitVec 5) (s : State) : Host.Outcome State Fault Refusal := .next (s.wS d (BitVec.ofNat 64 (clz64 (s.rS a))))
/-- One bits of a word (R207). -/
def popc64 (x : BitVec 64) : Nat := ((List.range 64).filter fun i => x.getLsbD i).length
/-- POPC (R207). -/
def execPopc (_z : BitVec 1) (d a : BitVec 5) (s : State) : Host.Outcome State Fault Refusal := .next (s.wS d (BitVec.ofNat 64 (popc64 (s.rS a))))

/-- MUL (R208). -/
def execMul (_z : BitVec 1) (d a b : BitVec 5) (s : State) : Host.Outcome State Fault Refusal := .next (s.wS d (s.rS a * s.rS b))
/-- MULH: the high half of the signed product (R208). -/
def execMulh (_z : BitVec 1) (d a b : BitVec 5) (s : State) : Host.Outcome State Fault Refusal :=
  .next (s.wS d (((((s.rS a).signExtend 128) * ((s.rS b).signExtend 128)) >>> 64).setWidth 64))
/-- MULHN: the high half of the natural product (R208). -/
def execMulhn (_z : BitVec 1) (d a b : BitVec 5) (s : State) : Host.Outcome State Fault Refusal :=
  .next (s.wS d (((((s.rS a).setWidth 128) * ((s.rS b).setWidth 128)) >>> 64).setWidth 64))
/-- DIV: truncated toward zero; all ones by 0 (R208). -/
def execDiv (_z : BitVec 1) (d a b : BitVec 5) (s : State) : Host.Outcome State Fault Refusal :=
  .next (s.wS d (if s.rS b = 0 then BitVec.allOnes 64 else (s.rS a).sdiv (s.rS b)))
/-- DIVN (R208). -/
def execDivn (_z : BitVec 1) (d a b : BitVec 5) (s : State) : Host.Outcome State Fault Refusal :=
  .next (s.wS d (if s.rS b = 0 then BitVec.allOnes 64 else s.rS a / s.rS b))
/-- REM: the sign of rs1; rs1 by 0 (R208). -/
def execRem (_z : BitVec 1) (d a b : BitVec 5) (s : State) : Host.Outcome State Fault Refusal :=
  .next (s.wS d (if s.rS b = 0 then s.rS a else (s.rS a).srem (s.rS b)))
/-- REMN (R208). -/
def execRemn (_z : BitVec 1) (d a b : BitVec 5) (s : State) : Host.Outcome State Fault Refusal :=
  .next (s.wS d (if s.rS b = 0 then s.rS a else s.rS a % s.rS b))

/-- ADDI (R209). -/
def execAddi (_z : BitVec 1) (d a : BitVec 5) (i : BitVec 10) (s : State) : Host.Outcome State Fault Refusal := .next (s.wS d (s.rS a + s.immS i))
/-- ANDI (R209). -/
def execAndi (_z : BitVec 1) (d a : BitVec 5) (i : BitVec 10) (s : State) : Host.Outcome State Fault Refusal := .next (s.wS d (s.rS a &&& s.immN i))
/-- ORI (R209). -/
def execOri (_z : BitVec 1) (d a : BitVec 5) (i : BitVec 10) (s : State) : Host.Outcome State Fault Refusal := .next (s.wS d (s.rS a ||| s.immN i))
/-- XORI (R209). -/
def execXori (_z : BitVec 1) (d a : BitVec 5) (i : BitVec 10) (s : State) : Host.Outcome State Fault Refusal := .next (s.wS d (s.rS a ^^^ s.immN i))
/-- SLTI (R209). -/
def execSlti (_z : BitVec 1) (d a : BitVec 5) (i : BitVec 10) (s : State) : Host.Outcome State Fault Refusal :=
  .next (s.wS d (bit64 ((s.rS a).slt (s.immS i))))
/-- SHLI (R210). -/
def execShli (_z : BitVec 1) (d a : BitVec 5) (h : BitVec 6) (s : State) : Host.Outcome State Fault Refusal := .next (s.wS d (s.rS a <<< h.toNat))
/-- SHRI (R210). -/
def execShri (_z : BitVec 1) (d a : BitVec 5) (h : BitVec 6) (s : State) : Host.Outcome State Fault Refusal := .next (s.wS d (s.rS a >>> h.toNat))
/-- SRAI (R210). -/
def execSrai (_z : BitVec 1) (d a : BitVec 5) (h : BitVec 6) (s : State) : Host.Outcome State Fault Refusal :=
  .next (s.wS d ((s.rS a).sshiftRight h.toNat))

/-- A mask of len + 1 bits from bit pos on (R211). -/
def fieldMask (l p : BitVec 6) : BitVec 64 := (BitVec.allOnes 64 >>> (63 - l.toNat)) <<< p.toNat
/-- BFX (R211); l holds len − 1. -/
def execBfx (_z : BitVec 1) (d a : BitVec 5) (l p : BitVec 6) (s : State) : Host.Outcome State Fault Refusal :=
  .next (s.wS d ((s.rS a >>> p.toNat) &&& fieldMask l 0))
/-- BFI (R211). -/
def execBfi (_z : BitVec 1) (d a : BitVec 5) (l p : BitVec 6) (s : State) : Host.Outcome State Fault Refusal :=
  .next (s.wS d ((s.rS d &&& ~~~(fieldMask l p)) ||| ((s.rS a <<< p.toNat) &&& fieldMask l p)))
/-- LIMH (R212). -/
def execLimh (_z : BitVec 1) (d : BitVec 5) (i : BitVec 10) (s : State) : Host.Outcome State Fault Refusal :=
  .next (s.wS d (((s.immN i) <<< 32) ||| ((s.rS d) &&& 0xFFFFFFFF)))

/-- The address LEA forms in the issuing core's own scratchpad or SRAM (R213, R214). -/
def leaAddr (l w : Nat) : Nat := if isStack l then 3 * 2 ^ 46 + 15 * 2 ^ 31 + w else padKey l w
/-- The largest W of LEA with BASE 0 (R213, R214). -/
def leaMax (l : Nat) : Nat := if isStack l then 262143 else 65535
/-- LEA (R213, R214): BASE 0 an own-scratchpad address, BASE 1 an address relative to the bundle. -/
def execLea (_z : BitVec 1) (d b : BitVec 5) (i : BitVec 10) (s : State) : Host.Outcome State Fault Refusal :=
  if b = 0 then
    .next (s.check [((s.immN i).toNat > leaMax s.lcore, ⟨1, cIllegal, 7, none⟩)]
      (s.wS d (BitVec.ofNat 64 (leaAddr s.lcore (s.immN i).toNat))))
  else .next (s.wS d (s.iss.pc.setWidth 64 + s.immS i))

/-- The address of a peer core of the group (R215). -/
def leapAddr (l : Nat) (x : BitVec 64) (i : Nat) : BitVec 64 :=
  putF (putF (putF (putF (putF x 42 3 (dieOf l)) 39 3 (sgOf l)) 35 4 (grpOf l)) 31 4 (i / 4)) 29 2 (i % 4)
/-- LEAP (R215). -/
def execLeap (_z : BitVec 1) (d a i : BitVec 5) (s : State) : Host.Outcome State Fault Refusal :=
  .next (s.check [(isStack s.lcore, ⟨8, cAccess, 16, none⟩)] (s.wS d (leapAddr s.lcore (s.rS a) i.toNat)))

/-- IMM32 widens the immediate of the slot A form of its bundle (R192). -/
def execImm32 (i : BitVec 26) (s : State) : Host.Outcome State Fault Refusal := .next { s with iss := { s.iss with imm := some i } }

end Sys2Proof.Machine
end

