-- ==== Sys2Proof/Machine/Vector.lean ====
section
/-! DEFINITION. Vector arithmetic, compare, select, logic, shifts, conversion, reduction, permutation and movement (R269
to R283), the selection helpers (R284, R285) and the histogram (R286, R287). -/

namespace Sys2Proof.Machine

/-! ## Shared operations -/

/-- A vector write of masked bytes, with the tag of the whole register (R23, R38, R270). -/
def State.wVm (s : State) (d : BitVec 4) (x : Vec) (m : BitVec 64) (tag : BitVec 4) : State := s.upd fun w => w.apply (.v d x m (some tag))

/-- The results of the elements, where active; an inactive one raises nothing (R48, R269). -/
def elemRes (pg : BitVec 64) (e : Nat) (f : Nat → Nat × Flags) : List (Nat × Flags) :=
  (List.range (64 / e)).map fun i => if activeEl pg e i then f i else (0, 0)

/-- The values of a list of results as a register. -/
def resVec (e : Nat) (l : List (Nat × Flags)) : Vec := ofElems e (l.map (·.1))

/-- Chunk j, where the mode is the stochastic one (R42, R44). -/
def State.chunkIf (s : State) (md j : Nat) : Nat := if md = 5 then s.chunk j else 0

/-- An element-wise instruction of one rotation: N chunks under its mode, the flags of its active elements, its
destination's active elements and tag (R48, R269, R270). -/
def State.elemWise (s : State) (d : BitVec 4) (g : BitVec 3) (e : Nat) (tag : BitVec 4) (md : Nat) (f : Nat → Nat × Flags) : State :=
  let rs := elemRes (s.rP g) e f
  s.finish (allFlags rs) md (64 / e) fun s' => s'.wVm d (resVec e rs) (activeMask (s.rP g) e) tag

/-- A byte-wise instruction: the active bytes and the tag of vs1 (R269, R277, R283). -/
def State.byteWise (s : State) (d a : BitVec 4) (g : BitVec 3) (x : Vec) : State := s.wVm d x (s.rP g) (s.src.vtag a)

/-- The elements of a register. -/
def State.el (s : State) (r : BitVec 4) (e i : Nat) : Nat := elemN (s.rV r) e i

/-- The floating-point format of a FMT field (R27, R38). -/
def ffOf (f : BitVec 4) : FF := FF.ofTag f.toNat

/-- NOPV (R204). -/
def execNopv (s : State) : Host.Outcome State Fault Refusal := .next s

/-! ## Arithmetic (R272 to R274) -/

/-- Delivers an exact integer result: saturated to the reading's range, or modulo 2^w (R273). -/
def intResult (w : Nat) (sat nat : Bool) (x : Int) : Nat :=
  if sat then bitsOf w (if nat then clampInt 0 (2 ^ w - 1) x else clampInt (sMin w) (sMax w) x) else bitsOf w x

/-- An element read as natural or signed (R273). -/
def readEl (w : Nat) (nat : Bool) (x : Nat) : Int := if nat then (x : Int) else sOf w x

/-- VADD, VSUB and VMUL: both sources carry FMT; OPT[0] saturates and OPT[1] reads as natural (R272, R273). -/
def State.arith (s : State) (d a b : BitVec 4) (g : BitVec 3) (f : BitVec 4) (r : BitVec 3) (p : BitVec 4)
    (ff : FF → Nat → Nat → Nat → Nat → Nat × Flags) (fi : Int → Int → Int) : State :=
  let e := Fmt.size f
  let md := roundMode s.src r.toNat
  let nat := p.getLsbD 1
  s.unless (s.vtagTrap [(a, f), (b, f)])
    (s.elemWise d g e f md fun i =>
      if Fmt.isFloat f then ff (ffOf f) md (s.chunkIf md i) (s.el a e i) (s.el b e i)
      else (intResult (8 * e) (p.getLsbD 0) nat (fi (readEl (8 * e) nat (s.el a e i)) (readEl (8 * e) nat (s.el b e i))), 0))

/-- VADD (R272, R273). -/
def execVadd (d a b : BitVec 4) (g : BitVec 3) (f : BitVec 4) (r : BitVec 3) (p : BitVec 4) (s : State) : Host.Outcome State Fault Refusal :=
  .next (s.arith d a b g f r p FF.add (· + ·))
/-- VSUB (R272, R273). -/
def execVsub (d a b : BitVec 4) (g : BitVec 3) (f : BitVec 4) (r : BitVec 3) (p : BitVec 4) (s : State) : Host.Outcome State Fault Refusal :=
  .next (s.arith d a b g f r p FF.sub (· - ·))
/-- VMUL (R272, R273). -/
def execVmul (d a b : BitVec 4) (g : BitVec 3) (f : BitVec 4) (r : BitVec 3) (p : BitVec 4) (s : State) : Host.Outcome State Fault Refusal :=
  .next (s.arith d a b g f r p FF.mul (· * ·))

/-- VFMA and VFMS: vd is a source too, and one rounding is made (R51, R272). -/
def State.fused (s : State) (d a b : BitVec 4) (g : BitVec 3) (f : BitVec 4) (r : BitVec 3)
    (op : FF → Nat → Nat → Nat → Nat → Nat → Nat × Flags) : State :=
  let e := Fmt.size f
  let md := roundMode s.src r.toNat
  s.unless (s.vtagTrap [(a, f), (b, f), (d, f)])
    (s.elemWise d g e f md fun i => op (ffOf f) md (s.chunkIf md i) (s.el a e i) (s.el b e i) (s.el d e i))

/-- VFMA (R272). -/
def execVfma (d a b : BitVec 4) (g : BitVec 3) (f : BitVec 4) (r : BitVec 3) (_p : BitVec 4) (s : State) : Host.Outcome State Fault Refusal :=
  .next (s.fused d a b g f r FF.fma)
/-- VFMS (R272). -/
def execVfms (d a b : BitVec 4) (g : BitVec 3) (f : BitVec 4) (r : BitVec 3) (_p : BitVec 4) (s : State) : Host.Outcome State Fault Refusal :=
  .next (s.fused d a b g f r FF.fms)

/-- VMIN and VMAX: OPT[1] is the natural reading (R274). -/
def State.minMax (s : State) (mx : Bool) (d a b : BitVec 4) (g : BitVec 3) (f : BitVec 4) (p : BitVec 7) : State :=
  let e := Fmt.size f
  let nat := p.getLsbD 1
  s.unless (s.vtagTrap [(a, f), (b, f)])
    (s.elemWise d g e f 0 fun i =>
      let x := s.el a e i
      let y := s.el b e i
      if Fmt.isFloat f then (ffOf f).minMax mx x y
      else (if (decide (readEl (8 * e) nat x ≤ readEl (8 * e) nat y)) != mx then x else y, 0))

/-- VMIN (R274). -/
def execVmin (d a b : BitVec 4) (g : BitVec 3) (f : BitVec 4) (p : BitVec 7) (s : State) : Host.Outcome State Fault Refusal :=
  .next (s.minMax false d a b g f p)
/-- VMAX (R274). -/
def execVmax (d a b : BitVec 4) (g : BitVec 3) (f : BitVec 4) (p : BitVec 7) (s : State) : Host.Outcome State Fault Refusal :=
  .next (s.minMax true d a b g f p)

/-- VABS and VNEG: the sign bit alone of a float; an integer modulo 2^w, or saturated with OPT[0] (R274). -/
def State.signOp (s : State) (d a : BitVec 4) (g : BitVec 3) (f : BitVec 4) (p : BitVec 7) (ff : FF → Nat → Nat) (fi : Int → Int) : State :=
  let e := Fmt.size f
  s.unless (s.vtagTrap [(a, f)])
    (s.elemWise d g e f 0 fun i =>
      let x := s.el a e i
      if Fmt.isFloat f then (ff (ffOf f) x, 0) else (intResult (8 * e) (p.getLsbD 0) false (fi (sOf (8 * e) x)), 0))

/-- VABS (R274). -/
def execVabs (d a : BitVec 4) (g : BitVec 3) (f : BitVec 4) (p : BitVec 7) (s : State) : Host.Outcome State Fault Refusal :=
  .next (s.signOp d a g f p (fun ff x => x % ff.signBit) fun x => if x < 0 then -x else x)
/-- VNEG (R274). -/
def execVneg (d a : BitVec 4) (g : BitVec 3) (f : BitVec 4) (p : BitVec 7) (s : State) : Host.Outcome State Fault Refusal :=
  .next (s.signOp d a g f p (fun ff x => Nat.xor x ff.signBit) fun x => -x)

/-! ## Compare, select, logic, shifts (R275 to R278) -/

/-- The predicate bits of the elements whose one-bit result is set (R269). -/
def predOf (e : Nat) (l : List Bool) : BitVec 64 :=
  ((List.range (64 / e)).zip l).foldl (fun m x => if x.2 then m ||| elMask e x.1 else m) 0

/-- Writes a predicate's masked bits (R269). -/
def State.wPm (s : State) (d : BitVec 3) (x m : BitVec 64) : State := s.upd fun w => w.apply (.p d x m)

/-- VCMP (R275). -/
def execVcmp (d : BitVec 3) (a b : BitVec 4) (g : BitVec 3) (f : BitVec 4) (c : BitVec 7) (s : State) : Host.Outcome State Fault Refusal :=
  let e := Fmt.size f
  let nat := c.getLsbD 3
  let cond := c.toNat % 8
  let rs := elemRes (s.rP g) e fun i =>
    let x := s.el a e i
    let y := s.el b e i
    let (t, fl) :=
      if Fmt.isFloat f then (ffOf f).compare cond x y
      else (condHolds cond (compare (readEl (8 * e) nat x) (readEl (8 * e) nat y)), 0)
    (t.toNat, fl)
  .next (s.unless (s.vtagTrap [(a, f), (b, f)])
    (s.finish (allFlags rs) 0 0 fun s' => s'.wPm d (predOf e (rs.map fun x => x.1 == 1)) (activeMask (s.rP g) e)))

/-- VSEL: pg selects; both sources carry one tag (R276). -/
def execVsel (d a b : BitVec 4) (g : BitVec 3) (s : State) : Host.Outcome State Fault Refusal :=
  .next (s.unless (s.vtagTrap [(b, s.src.vtag a)]) (s.wV d (mergeBytes (s.rV b) (s.rV a) (s.rP g)) (s.src.vtag a)))

/-- VAND (R277). -/
def execVand (d a b : BitVec 4) (g : BitVec 3) (s : State) : Host.Outcome State Fault Refusal := .next (s.byteWise d a g (s.rV a &&& s.rV b))
/-- VOR (R277). -/
def execVor (d a b : BitVec 4) (g : BitVec 3) (s : State) : Host.Outcome State Fault Refusal := .next (s.byteWise d a g (s.rV a ||| s.rV b))
/-- VXOR (R277). -/
def execVxor (d a b : BitVec 4) (g : BitVec 3) (s : State) : Host.Outcome State Fault Refusal := .next (s.byteWise d a g (s.rV a ^^^ s.rV b))
/-- VNOT (R277). -/
def execVnot (d a : BitVec 4) (g : BitVec 3) (s : State) : Host.Outcome State Fault Refusal := .next (s.byteWise d a g (~~~(s.rV a)))

/-- A shift: the amount of OPT[4:0], or of vs2's elements read as natural (R278). -/
def State.shift (s : State) (d a b : BitVec 4) (g : BitVec 3) (f : BitVec 4) (p : BitVec 7) (op : Nat → Nat → Nat → Nat) : State :=
  let e := Fmt.size f
  let imm := p.getLsbD 6
  s.unless (s.vtagTrap ((a, f) :: if imm then [] else [(b, f)]))
    (s.elemWise d g e f 0 fun i => (op (8 * e) (s.el a e i) (if imm then p.toNat % 32 else s.el b e i), 0))

/-- Left shift of w bits. -/
def shl (w x n : Nat) : Nat := if n ≥ w then 0 else x * 2 ^ n % 2 ^ w
/-- Logical right shift of w bits. -/
def shr (w x n : Nat) : Nat := if n ≥ w then 0 else x / 2 ^ n
/-- Arithmetic right shift of w bits. -/
def sar (w x n : Nat) : Nat := bitsOf w (sOf w x / 2 ^ min n w)

/-- VSHL (R278). -/
def execVshl (d a b : BitVec 4) (g : BitVec 3) (f : BitVec 4) (p : BitVec 7) (s : State) : Host.Outcome State Fault Refusal :=
  .next (s.shift d a b g f p shl)
/-- VSHR (R278). -/
def execVshr (d a b : BitVec 4) (g : BitVec 3) (f : BitVec 4) (p : BitVec 7) (s : State) : Host.Outcome State Fault Refusal :=
  .next (s.shift d a b g f p shr)
/-- VSRA (R278). -/
def execVsra (d a b : BitVec 4) (g : BitVec 3) (f : BitVec 4) (p : BitVec 7) (s : State) : Host.Outcome State Fault Refusal :=
  .next (s.shift d a b g f p sar)

/-! ## Conversion and reduction (R52, R279, R280) -/

/-- VCVT: H is the part, `sf` the source format (R279). -/
def execVcvt (d a h : BitVec 4) (g : BitVec 3) (f : BitVec 4) (r : BitVec 3) (sf : BitVec 4) (s : State) : Host.Outcome State Fault Refusal :=
  let es := Fmt.size sf
  let ed := Fmt.size f
  let md := roundMode s.src r.toNat
  let n := min (64 / es) (64 / ed)
  let narrow : Bool := es > ed
  -- result j stands in destination element `at_ j` and reads source element `from_ j`
  let at_ (j : Nat) := if narrow then h.toNat * n + j else j
  let from_ (j : Nat) := if narrow then j else h.toNat * n + j
  let rs := (List.range n).map fun j =>
    if activeEl (s.rP g) ed (at_ j) then convElem sf.toNat f.toNat md (s.chunkIf md j) (s.el a es (from_ j)) else (0, 0)
  let mask := (List.range n).foldl (fun m j => if activeEl (s.rP g) ed (at_ j) then m ||| elMask ed (at_ j) else m) 0
  .next (s.unless (s.vtagTrap [(a, sf)])
    (s.finish (allFlags rs) md n fun s' => s'.wVm d (resVec ed rs <<< (8 * ed * at_ 0)) mask f))

/-- One level of the tree of R52: neighbours combined, node j onwards. -/
def redLevel (op : Nat → Nat → Nat → Nat × Flags) : Nat → List Nat → List (Nat × Flags)
  | j, a :: b :: l => op j a b :: redLevel op (j + 1) l
  | _, _ => []

/-- The tree of R52: its root, and the flags of its nodes. -/
def redTree (op : Nat → Nat → Nat → Nat × Flags) : Nat → Nat → List Nat → Nat × Flags
  | 0, _, l => (l.headD 0, 0)
  | k + 1, j, l =>
    let r := redLevel op j l
    withFlags (redTree op k (j + r.length) (r.map (·.1))) (allFlags r)

/-- The identity of VRED's operation (R52). -/
def redIdentity (f : BitVec 4) (p : Nat) : Nat :=
  let w := 8 * Fmt.size f
  if Fmt.isFloat f then (if p = 0 then (ffOf f).signBit else (ffOf f).inf (p == 2))
  else match p with
  | 1 => bitsOf w (sMax w)
  | 2 => bitsOf w (sMin w)
  | 9 => 2 ^ w - 1
  | _ => 0

/-- A node of VRED: 0 ADD, 1 MIN, 2 MAX, 9 MINN, 10 MAXN (R52, R280). -/
def redNode (f : BitVec 4) (p md R a b : Nat) : Nat × Flags :=
  let w := 8 * Fmt.size f
  if Fmt.isFloat f then (if p = 0 then (ffOf f).add md R a b else (ffOf f).minMax (p == 2) a b)
  else match p with
  | 0 => ((a + b) % 2 ^ w, 0)
  | 1 => (if sOf w a ≤ sOf w b then a else b, 0)
  | 2 => (if sOf w a ≤ sOf w b then b else a, 0)
  | 9 => (min a b, 0)
  | _ => (max a b, 0)

/-- VRED (R52, R280). -/
def execVred (d a : BitVec 4) (g : BitVec 3) (f : BitVec 4) (r : BitVec 3) (p : BitVec 4) (s : State) : Host.Outcome State Fault Refusal :=
  let e := Fmt.size f
  let n := 64 / e
  let md := roundMode s.src r.toNat
  let lanes := (List.range n).map fun i => if activeEl (s.rP g) e i then s.el a e i else redIdentity f p.toNat
  let x := redTree (fun j a b => redNode f p.toNat md (s.chunkIf md j) a b) (Nat.log2 n) 0 lanes
  .next (s.unless (s.vtagTrap [(a, f)])
    (s.finish x.2 md (n - 1) fun s' => s'.wVm d (BitVec.ofNat 512 x.1) (elMask e 0) f))

/-! ## Permutation and movement (R281 to R283) -/

/-- VPERM (R281). -/
def execVperm (d a b : BitVec 4) (g : BitVec 3) (f : BitVec 4) (s : State) : Host.Outcome State Fault Refusal :=
  let e := Fmt.size f
  .next (s.unless (s.vtagTrap [(b, intTag e)])
    (s.elemWise d g e (s.src.vtag a) 0 fun i => (s.el a e (s.el b e i % (64 / e)), 0)))

/-- VBCAST (R282). -/
def execVbcast (d : BitVec 4) (a : BitVec 5) (g : BitVec 3) (f : BitVec 4) (s : State) : Host.Outcome State Fault Refusal :=
  .next (s.elemWise d g (Fmt.size f) f 0 fun _ => (lowElem (s.rS a) (Fmt.size f), 0))
/-- VEXTR: `a` names the destination, `b` the index (R282). -/
def execVextr (v : BitVec 4) (a b : BitVec 5) (f : BitVec 4) (e : BitVec 1) (s : State) : Host.Outcome State Fault Refusal :=
  let z := Fmt.size f
  let x := s.el v z ((s.rS b).toNat % (64 / z))
  .next (s.wS a (if e = 1 then BitVec.ofInt 64 (sOf (8 * z) x) else BitVec.ofNat 64 x))
/-- VINS: the tag stays (R282). -/
def execVins (v : BitVec 4) (a b : BitVec 5) (f : BitVec 4) (s : State) : Host.Outcome State Fault Refusal :=
  let z := Fmt.size f
  let i := (s.rS b).toNat % (64 / z)
  .next (s.upd fun w => w.apply (.v v (BitVec.ofNat 512 (lowElem (s.rS a) z * 2 ^ (8 * z * i))) (elMask z i) none))

/-- VMOV (R283). -/
def execVmov (d a : BitVec 4) (g : BitVec 3) (s : State) : Host.Outcome State Fault Refusal := .next (s.byteWise d a g (s.rV a))
/-- VIOTA: element indices, or with `.pfx` the count of active elements below (R283). -/
def execViota (d : BitVec 4) (g : BitVec 3) (f : BitVec 4) (x : BitVec 1) (s : State) : Host.Outcome State Fault Refusal :=
  let e := Fmt.size f
  .next (s.elemWise d g e f 0 fun i => (if x = 1 then ((List.range i).filter (activeEl (s.rP g) e)).length else i, 0))

/-! ## Selection helpers (R284 to R287) -/

/-- VORD's key of an element (R284). -/
def ordKey (f : BitVec 4) (desc : Bool) (x : Nat) : Nat :=
  let w := 8 * Fmt.size f
  let k := if Fmt.isFloat f then (ffOf f).orderKey x else Nat.xor x (2 ^ (w - 1))
  if desc then 2 ^ w - 1 - k else k

/-- VORD (R284). -/
def execVord (d a : BitVec 4) (g : BitVec 3) (f : BitVec 4) (x : BitVec 1) (s : State) : Host.Outcome State Fault Refusal :=
  let e := Fmt.size f
  .next (s.unless (s.vtagTrap [(a, f)]) (s.elemWise d g e (intTag e) 0 fun i => (ordKey f (x == 1) (s.el a e i), 0)))

/-- VDIG: w is the width code, sh the shift (R285). -/
def execVdig (d a : BitVec 4) (g : BitVec 3) (f : BitVec 4) (w : BitVec 2) (sh : BitVec 5) (s : State) : Host.Outcome State Fault Refusal :=
  let e := Fmt.size f
  .next (s.unless (s.vtagTrap [(a, f)])
    (s.elemWise d g e f 0 fun i => (s.el a e i / 2 ^ sh.toNat % 2 ^ 2 ^ w.toNat, 0)))

/-- Adds an increment to its word's sum, words in the order of their first naming. -/
def addBin (l : List (Nat × Nat)) (x : Nat × Nat) : List (Nat × Nat) :=
  if l.any fun y => y.1 == x.1 then l.map fun y => if y.1 = x.1 then (y.1, (y.2 + x.2) % 2 ^ 32) else y else l ++ [(x.1, x.2 % 2 ^ 32)]

/-- The updates of VHADD on words of the own scratchpad: into the log of a speculation, at once, or as a request behind
an earlier access to one of their blocks (R82, R121, R286, R287). DESIGN CHOICE (log 54): those made at once fall in one step. -/
def State.histAdd (s : State) (bins : List (Nat × Nat)) : State :=
  let ps := bins.map fun x => onePart (padKey s.lcore x.1) (BitVec.ofNat 64 (leaAddr s.lcore x.1)) 0 4 0 x.2
  match ps.find? fun p => s.gone s.me.ctx s.me.lid p.key with
  | some p => s.deferFail cPeerGone 0 (some p.va)
  | none =>
    match ps.find? fun p => s.bad p.key 4 with
    | some p => (s.logUnc p.key s.me.ctx.toNat).raise ⟨8, cEcc, 1, some p.va⟩
    | none =>
      if s.me.spec.isSome then
        ps.foldl (fun s p =>
          let x := s.specSplit p
          let old := maskedN x.1.mask (s.rdN p.key 4) 4 + x.2
          (s.specRead s.cur p.key 4).modMe fun t => { t with spec := t.spec.map fun sp => specLog sp p.key 0xF ((old + p.data.toNat) % 2 ^ 32) 4 }) s
      else if ps.isEmpty then s
      else if s.blockBusy s.cur s.issSrc ps || s.relHolds s.cur s.me.seq then s.addReq (s.newReq s.cur s.issSrc .hadd ps false)
      else ps.foldl (fun s p => s.homeStore (some s.cur) p.key 4 0xF ((s.rdN p.key 4 + p.data.toNat) % 2 ^ 32) false) s

/-- VHADD: `v` names vb, whose element 0 is the offset of bin 0 (R286, R287). DESIGN CHOICE (log 54): a MISALIGNED record takes its VA
from that offset modulo 2^26. -/
def execVhadd (v a b : BitVec 4) (g : BitVec 3) (f : BitVec 4) (x : BitVec 1) (s : State) : Host.Outcome State Fault Refusal :=
  let e := Fmt.size f
  let base := s.el v 4 0
  let adds := ((List.range (64 / e)).filter (activeEl (s.rP g) e)).map fun i =>
    (base + 4 * s.el a e i, if x = 1 then bitsOf 32 (sOf (8 * e) (s.el b e i)) else 1)
  .next (s.unless (s.vtagTrap ((a, f) :: (if x = 1 then [(b, f)] else []) ++ [(v, 7)]))
    (s.check
      [ (base % 4 != 0, ⟨8, cMisaligned, 10, some (BitVec.ofNat 64 (leaAddr s.lcore (base % 2 ^ 26)))⟩),
        (adds.any fun y => y.1 + 4 > 65536, ⟨8, cAccess, 16, none⟩),
        (isTileCore s.lcore && adds.any fun y => crosses s.me y.1 4 0x8000 0xA000, ⟨8, cAccess, 20, none⟩) ]
      (s.histAdd (adds.foldl addBin []))))

end Sys2Proof.Machine
end

