-- ==== Sys2Proof/Machine/Matrix.lean ====
section
/-! DEFINITION. The matrix engine: contracting loads (R64 to R68, R306 to R309), CZR (R310) and SMX (R311). -/

namespace Sys2Proof.Machine

/-! ## Contributions (R64 to R66) -/

/-- An exact value in units of 2^−150, or of 2^−300 for products and their sums. -/
inductive Ctr where
  | fin (x : Int)
  | inf (neg : Bool)
  | nan
  deriving DecidableEq, Repr

/-- A value of a format the matrix engine takes, in units of 2^−150. -/
def Ctr.ofVal : FVal → Ctr
  | .fin n m e => .fin (signed n (m * 2 ^ (e + 150).toNat))
  | .inf n => .inf n
  | .nan _ => .nan

/-- Exact product. -/
def Ctr.mul : Ctr → Ctr → Ctr
  | .fin x, .fin y => .fin (x * y)
  | .nan, _ => .nan
  | _, .nan => .nan
  | .inf n, .fin y => if y = 0 then .nan else .inf (n != decide (y < 0))
  | .fin x, .inf n => if x = 0 then .nan else .inf (n != decide (x < 0))
  | .inf n, .inf m => .inf (n != m)

/-- Exact sum. -/
def Ctr.add : Ctr → Ctr → Ctr
  | .fin x, .fin y => .fin (x + y)
  | .nan, _ => .nan
  | _, .nan => .nan
  | .inf n, .fin _ => .inf n
  | .fin _, .inf n => .inf n
  | .inf n, .inf m => if n = m then .inf n else .nan

/-- No number. -/
def Ctr.special : Ctr → Bool
  | .fin _ => false
  | _ => true

/-- RNE(C) in F32, with its flags (R66). A C of exactly zero is +0, which the spec leaves open (log 54). -/
def Ctr.toF32 : Ctr → Nat × Flags
  | .fin x => (Exact.ofInt x (-300) false).deliver .f32 0 0
  | .inf n => (FF.f32.inf n, 0)
  | .nan => (FF.f32.nan, 0)

/-- The ANCHORED element at a key: X, 144 bits, [143:128] from the guard store (R65). -/
def State.getX (s : State) (key : Nat) : Nat := s.rdN key 16 + (Store.get 0 s.guard (key / 16)).toNat * 2 ^ 128

/-- Writes an ANCHORED element. -/
def State.putX (s : State) (key x : Nat) : State :=
  let s := s.homeStore none key 16 0xFFFF (x % 2 ^ 128) false
  { s with guard := Store.put 0 s.guard (key / 16) (BitVec.ofNat 16 (x / 2 ^ 128)) }

/-- The limits of an ANCHORED element. -/
def anchMax : Int := 2 ^ 127 - 1
/-- Its least value. -/
def anchMin : Int := -(2 ^ 127)

/-- ⌊x·2^e⌋. -/
def floorShift (x : Int) (e : Int) : Int := if 0 ≤ e then x * 2 ^ e.toNat else x / 2 ^ (-e).toNat

/-- One ANCHORED contribution to an element: the state, and whether it was clamped (R65). -/
def State.addAnchored (s : State) (key : Nat) (anchor : Int) (c : Int) : State × Bool :=
  let T := floorShift c (-204 - anchor)
  let T' := clampInt anchMin anchMax T
  (s.putX key (bitsOf 144 (s.getX key + T')), T != T')

/-- A NaN or an infinity. -/
def FVal.special : FVal → Bool
  | .fin .. => false
  | _ => true

/-- One FAST contribution: the state, OVF and INV, which a NaN or an infinity that propagates sets (R66). -/
def State.addFast (s : State) (key : Nat) (c : Ctr) : State × Bool × Bool :=
  let rc := c.toF32
  let old := s.rdN key 4
  let r := FF.f32.add 0 0 old rc.1
  (s.homeStore none key 4 0xF r.1 false, (rc.2 ||| r.2).getLsbD 2, c.special || (FF.f32.val old).special || (FF.f32.val r.1).isNan)

/-! ## The geometry of a stream (R64, R308) -/

/-- B of a contracting load. -/
def Stream.B (y : Stream) : Nat := y.cmd.w.f 191 144
/-- Its length in sectors. -/
def Stream.len (y : Stream) : Nat := y.cmd.w.f 143 128
/-- Row origin O. -/
def Stream.O (y : Stream) : Nat := dBase y.sdx
/-- The address of sector i. -/
def Stream.at_ (y : Stream) (i : Nat) : Nat := y.B + 32 * i
/-- Bits of a stream element. -/
def Stream.bits (y : Stream) : Nat := fmtBits (dFmt y.sdx)
/-- Elements in a row: K. -/
def Stream.K (y : Stream) : Nat := dCols y.sdx

/-- Rows that sector i overlaps. -/
def Stream.rowsIn (y : Stream) (i : Nat) : List Nat :=
  let r0 := (y.at_ i - y.O) / dPitch y.sdx
  (List.range' r0 ((y.at_ i + 31 - y.O) / dPitch y.sdx + 1 - r0)).filter fun r => y.O + r * dPitch y.sdx + rowBytes y.sdx > y.at_ i

/-- Elements (row, column) that belong to sector i: those whose last byte lies in it. -/
def Stream.elemsIn (y : Stream) (i : Nat) : List (Nat × Nat) :=
  (y.rowsIn i).flatMap fun r => ((List.range y.K).filter fun k =>
    let a := y.O + r * dPitch y.sdx + (y.bits * k + y.bits - 1) / 8
    y.at_ i ≤ a && a < y.at_ i + 32).map fun k => (r, k)

/-- The first byte of an element. -/
def Stream.elemAt (y : Stream) (r k : Nat) : Nat := y.O + r * dPitch y.sdx + y.bits * k / 8

/-- Sector i has an element that begins in the sector before. -/
def Stream.straddles (y : Stream) (i : Nat) : Bool := (y.elemsIn i).any fun (r, k) => y.elemAt r k < y.at_ i

/-- Sector i carries row data. -/
def Stream.carries (y : Stream) (i : Nat) : Bool := !(y.rowsIn i).isEmpty && rowBytes y.sdx != 0

/-- The exponent bytes of the rows that sector i overlaps: each block's address, with its row's first byte. -/
def Stream.expsIn (y : Stream) (i : Nat) : List (Nat × Nat) :=
  if isBfp (dFmt y.sdx) then
    (y.rowsIn i).flatMap fun r => (List.range (y.K / 32)).map fun j => (dExpb y.sdx * 16 + r * (y.K / 32) + j, y.O + r * dPitch y.sdx)
  else []

/-! ## Issuing sectors in order (R67, R305, R307, R308) -/

/-- A page is translated for a stream, once. -/
def State.streamPage (s : State) (t : Nat) (y : Stream) (va p : Nat) : State × Stream × MoveEnd :=
  if y.pages.any fun x => x.1 == va / 65536 then (s, y, .fin)
  else if s.engMiss t y.cmd va then (s, { y with stall := some (va / 65536, p) }, .stall (va / 65536))
  else match s.engTarget t y.cmd va 1 false with
    | .fault vpn => (s, { y with stall := some (vpn, p) }, .stall vpn)
    | .status st => (s, y, .stop st)
    | .at_ key pte => (s, { y with pages := y.pages ++ [(va / 65536, key / 65536 * 65536, pte)] }, .fin)

/-- A read of a stream, in a page it has translated. -/
def State.streamRead (s : State) (t : Nat) (y : Stream) (va n : Nat) (hint : Option (BitVec 2 × BitVec 4)) : State × EngStep :=
  match y.pages.find? fun x => x.1 == va / 65536 with
  | some x => s.engMem y.cmd (x.2.1 + va % 65536) n x.2.2 false hint fun s => s.engReadAt t y.cmd (x.2.1 + va % 65536) va x.2.2 n
  | none => (s, .wait)

/-- The exponent bytes of a list of blocks are read, each once; one with an error leaves the block out (R177, R308). -/
def State.streamExps (s : State) (t : Nat) : List (Nat × Nat) → Stream → State × Stream × MoveEnd
  | [], y => (s, y, .fin)
  | (a, p) :: l, y =>
    if y.exps.any fun x => x.1 == a then State.streamExps s t l y
    else match s.streamPage t y a (max y.B p) with
      | (s, y, .fin) =>
        match s.streamRead t y a 1 none with
        | (s, .data x bad) =>
          State.streamExps s t l { y with
            exps := y.exps ++ [(a, if bad = 0 then BitVec.ofNat 8 x else 0xFF)]
            err := if y.err = 0 && bad != 0 then 0x10 else y.err }
        | (s, .status st) => (s, y, .stop st)
        | (s, _) => (s, y, .wait)
      | r => r

/-- Sector i is issued: its page, what it needs below B, its exponents. Where its page does not translate the stream ends at the
sector: those before it, in the page too where it has been dropped meanwhile, have contributed (R67). -/
def State.issueSector (s : State) (t : Nat) (y : Stream) (i : Nat) : State × Stream × MoveEnd :=
  let below := if i = 0 && y.straddles 0 then s.streamPage t y (y.B - 32) y.B else (s, y, .fin)
  match below with
  | (s, y, .fin) =>
    match s.streamPage t y (y.at_ i) (y.at_ i) with
    | (s, y, .fin) => s.streamExps t (y.expsIn i) y
    | r => r
  | r => r

/-- Sectors are issued in order up to sector i. -/
def State.issueTo (s : State) (t i : Nat) : Nat → Stream → State × Stream × MoveEnd
  | 0, y => (s, y, .fin)
  | n + 1, y =>
    if y.done > i then (s, y, .fin)
    else match s.issueSector t y y.done with
      | (s, y, .fin) => State.issueTo s t i n { y with done := y.done + 1 }
      | r => r

/-! ## A sector's contribution -/

/-- The bytes of a numbered sector as read, and its mask of errors. -/
def Stream.sector (y : Stream) (n : Nat) : BitVec 256 × BitVec 64 :=
  match y.got.find? fun x => x.1 == n with
  | some x => x.2
  | none => (0, 0)

/-- Sector i and the one before it. -/
def Stream.window (y : Stream) (i : Nat) : Nat := (y.sector i).1.toNat + (y.sector (i + 1)).1.toNat * 2 ^ 256

/-- The bits of an element of sector i. -/
def Stream.elemBits (y : Stream) (i r k : Nat) : Nat :=
  y.window i / 2 ^ (8 * (y.O + r * dPitch y.sdx + 32) + y.bits * k - 8 * y.at_ i) % 2 ^ y.bits

/-- A byte of an element of sector i holds an error. -/
def Stream.elemError (y : Stream) (i r k : Nat) : Bool :=
  let e := (y.sector i).2.toNat + (y.sector (i + 1)).2.toNat % 2 ^ 32 * 2 ^ 32
  let a := y.elemAt r k + 32 - y.at_ i
  getF (BitVec.ofNat 64 e) a ((y.bits * k + y.bits - 1) / 8 + 1 - y.bits * k / 8) != 0

/-- A BFP element's value (R32). -/
def bfpVal (m : Nat) (E : Nat) (bits : Nat) : FVal :=
  let x := sOf m bits
  .fin (x < 0) x.natAbs ((E : Int) - 127 - (m - 1 : Nat))

/-- The value of a stream element; none in a block whose exponent byte is 255 (R34). -/
def Stream.elemVal (y : Stream) (r k bits : Nat) : Option FVal :=
  if isBfp (dFmt y.sdx) then
    let a := dExpb y.sdx * 16 + r * (y.K / 32) + k / 32
    match y.exps.find? fun x => x.1 == a with
    | some x => if x.2 = 255 then none else some (bfpVal y.bits x.2.toNat bits)
    | none => none
  else some ((FF.ofTag (dFmt y.sdx)).val bits)

/-- A resident element: row k, column j; none where it holds an error (R177). -/
def State.residentAt (s : State) (y : Stream) (k j : Nat) : Option Ctr :=
  let f := dFmt y.rdx
  let e := fmtBits f / 8
  let key := dBase y.rdx + k * dPitch y.rdx + e * j
  if s.bad key e then none else some (Ctr.ofVal ((FF.ofTag f).val (s.rdN key e)))

/-- One element of an accumulator row takes its contribution from a sector: the products of the elements given. -/
def State.feed (s : State) (y : Stream) (row j : Nat) (es : List (Nat × FVal)) : State × Stream :=
  let anch := dAnch y.adx
  let ps := es.map fun (k, v) => (s.residentAt y k j).map fun w => (Ctr.ofVal v).mul w
  let bad := ps.any Option.isNone
  let ps := ps.filterMap id
  let inv := anch && ps.any Ctr.special
  let c := (if anch then ps.filter fun p => !p.special else ps).foldl Ctr.add (.fin 0)
  let key := dBase y.adx + row * dPitch y.adx + (if anch then 16 else 4) * j
  let ecc := s.bad key (if anch then 16 else 4)
  let y := { y with err := if y.err = 0 && (bad || ecc) then 0x10 else y.err, inv := y.inv || inv }
  if ecc then (s.logUnc key y.cmd.ctx.toNat, y)
  else match anch, c with
    | true, .fin x =>
      let (s, o) := s.addAnchored key (dAnchor y.adx) x
      (s, { y with ovf := y.ovf || o })
    | _, c =>
      let (s, o, i) := s.addFast key c
      (s, { y with ovf := y.ovf || o, inv := y.inv || i })

/-- Sector i contributes: per accumulator row, and in it per element, the exact sum of its products (R64); an
element with an error is not counted (R177). -/
def State.contribute (s : State) (y : Stream) (i : Nat) : State × Stream :=
  let es := ((y.elemsIn i).filter fun (r, k) => !y.elemError i r k).map fun (r, k) => (r % dRows y.adx, k, y.elemVal r k (y.elemBits i r k))
  let resv := es.any fun e => e.2.2.isNone
  let y := { y with counted := i :: y.counted }
  let s := if s.bad (dBase y.rdx) ((dRows y.rdx - 1) * dPitch y.rdx + rowBytes y.rdx) then s.logUnc (dBase y.rdx) y.cmd.ctx.toNat else s
  let r := (es.map (·.1)).eraseDups.foldl (fun (a : State × Stream) row =>
    let mine := (es.filter fun e => e.1 == row).filterMap fun e => e.2.2.map fun v => (e.2.1, v)
    if mine.isEmpty then a else (List.range (dCols y.adx)).foldl (fun (a : State × Stream) j => a.1.feed a.2 row j mine) a) (s, y)
  -- of errors of one cycle an uncorrectable one is reported first (R175)
  (r.1, { r.2 with err := if r.2.err = 0 && resv then 2 else r.2.err })

/-- Sector i has what it needs, and has not contributed. -/
def Stream.ready (y : Stream) (i : Nat) : Bool :=
  !y.counted.contains i && (y.got.any fun x => x.1 == i + 1) && (!y.straddles i || y.got.any fun x => x.1 == i)

/-- Sector i contributes once it has all it needs. -/
def State.tryCount (s : State) (y : Stream) (i : Nat) : State × Stream := if y.ready i then s.contribute y i else (s, y)

/-- Sectors that count: all, or those below where the stream ended (R67). -/
def Stream.live (y : Stream) : Nat := match y.stop with
  | some p => (p - y.B) / 32
  | none => y.len

/-- An ANCHORED element of the region lies outside the limits (R65). -/
def State.regionOvf (s : State) (d : BitVec 256) : Bool :=
  dAnch d && (List.range (dRows d)).any fun r => (List.range (dCols d)).any fun j =>
    let x := sOf 144 (s.getX (dBase d + r * dPitch d + 16 * j))
    x < anchMin || x > anchMax

/-- The stream ends once every sector that counts has contributed (R305, R307). -/
def State.endStream (s : State) (t : Nat) (y : Stream) : State :=
  let n := y.live
  if y.stall.isNone && (List.range n).all fun i => y.counted.contains i then
    s.finishCmd t y.cmd y.err.toNat (((List.range n).filter y.carries).length * 65536 + n) (y.ovf || s.regionOvf y.adx) y.inv
  else s.putStream t y

/-- A stream ends at an address with a status (R67). -/
def State.stopStream (s : State) (t : Nat) (y : Stream) (st p : Nat) : State :=
  s.endStream t { y with stall := none, stop := some p, err := if y.err = 0 then BitVec.ofNat 8 st else y.err }

/-- Sector i is read, and it and the one after it contribute. -/
def State.readSector (s : State) (t : Nat) (y : Stream) (i : Nat) : State :=
  let hint := hintOf y.cmd.w 110
  let (s, below) := if i = 0 && y.straddles 0 then s.streamRead t y (y.B - 32) 32 hint else (s, .data 0 0)
  match below with
  | .wait => s.putStream t y
  | .data x0 bad0 =>
    match s.streamRead t y (y.at_ i) 32 hint with
    | (s, .data x bad) =>
      let y := { y with
        got := (if i = 0 && y.straddles 0 then [(0, BitVec.ofNat 256 x0, bad0)] else []) ++ (i + 1, BitVec.ofNat 256 x, bad) :: y.got
        err := if y.err = 0 && (bad != 0 || bad0 != 0) then 0x10 else y.err }
      let (s, y) := s.tryCount y i
      let (s, y) := if i + 1 < y.live then s.tryCount y (i + 1) else (s, y)
      s.endStream t y
    | (s, .status st) => s.stopStream t y st (y.at_ i)
    | (s, _) => s.putStream t y
  | .status st => s.stopStream t y st y.B
  | .fault _ => s

/-- CLD_SECTOR_REPLY (R64 to R67): sector sec of the k-th stream of a tile. -/
def execCldSectorReply (t k sec : Nat) (s : State) : Host.Outcome State Fault Refusal :=
  .next (match (s.tile t).streams[k]? with
    | none => s
    | some y =>
      if y.cmd.w.op != 1 || y.stall.isSome || sec ≥ y.live || y.got.any fun x => x.1 == sec + 1 then s
      else match s.issueTo t sec (sec + 1) y with
        | (s, y, .fin) => s.readSector t y sec
        | (s, y, .stall vpn) => s.stallStream t y vpn ((y.stall.map (·.2)).getD y.B)
        | (s, y, .stop st) => s.stopStream t y st (y.at_ y.done)
        | (s, y, .wait) => s.putStream t y)

/-- The place of a stream's addresses: global or fabric space, or the tile's activation buffer. -/
def streamPlace (t va : Nat) : Bool := fld va 46 2 < 2 || (bufOf va == 2 && va == spaceKey t 2 (fld va 0 26) && fld va 0 26 < bufSize 2)

/-- CLD's status at its start (R302, R307, R308). -/
def State.cldStatus (t : Nat) (c : Cmd) (S R A : BitVec 256) : Nat :=
  let w := c.w
  let b := w.f 191 144
  let last := b + 32 * w.f 143 128 - 1
  let kb := rowBytes S
  let bfp := isBfp (dFmt S)
  startStatus
    (bufOf (dBase S) == 1 || bufOf (dBase S) == 3 || bufOf (dBase R) != 1 || bufOf (dBase A) != 3)
    (!streamPlace t (dBase S) || b < dBase S || kb > 64 || kb > dPitch S || dRows R != dCols S || dCols R > 32 || dCols R != dCols A
      || descBad c S (w.f 127 124) || descBad c R (w.f 123 120) || descBad c A (w.f 119 116) || regionBad t c R 1 || regionBad t c A 3
      || (bufOf (dBase S) == 2 && regionBad t c S 2)
      || !streamPlace t b || last ≥ 2 ^ 48 || fld last 46 2 != fld b 46 2 || !streamPlace t last
      || (bufOf b == 2 && c.crosses (fld b 0 26) (32 * w.f 143 128) (bufPart 2) (bufSize 2))
      || (bfp && (dBase S % 64 != 0 || dPitch S % 64 != 0 || b % 64 != 0)))
    (dFmt S != w.f 115 112 || !(dFmt R == 2 || dFmt R == 3 || dFmt R == 4) || dFmt A != 1 || dAnch A != (w.f 111 111 == 1))

/-- CLD starts (R306, R307): its sectors are then read one by one. -/
def execCld (t q : Nat) (s : State) : Host.Outcome State Fault Refusal :=
  .next (s.startCmd t q 1 fun c s =>
    let x := s.tile t
    let (S, R, A) := (x.getDesc (c.w.f 127 124), x.getDesc (c.w.f 123 120), x.getDesc (c.w.f 119 116))
    let st := State.cldStatus t c S R A
    if st != 0 then s.finishCmd t c st 0 false false else s.putStream t (.start c S R A))

/-! ## CZR and SMX -/

/-- CZR (R310). -/
def execCzr (t q : Nat) (s : State) : Host.Outcome State Fault Refusal :=
  .next (s.startCmd t q 5 fun c s =>
    let off := c.w.f 79 64
    let n := c.w.f 144 128
    if c.crosses off n (bufPart 3) (bufSize 3) then s.finishCmd t c 6 0 false false
    else ((List.range (n / 16)).foldl (fun s i => s.putX (spaceKey t 3 (off + 16 * i)) 0) s).finishCmd t c 0 0 false false)

/-- The partial of one row (R311): m and s. -/
def smxRow (xs : List Nat) (sc : Nat) : Nat × Nat :=
  let n := xs.length
  let nan : Nat → Bool := fun x => (FF.f32.val x).isNan
  let ys := (xs.map fun x => f32Mul x sc) ++ List.replicate (32 - n) f32NegInf
  let m := (redTree (fun _ a b => FF.f32.minMax true a b) 5 0 ys).1
  if ys.any nan then (FF.f32.nan, FF.f32.nan)
  else if m = f32NegInf then (m, 0)
  else
    let ws := ((ys.take n).map fun y => f32Exp2 (f32Sub y m)) ++ List.replicate (32 - n) FF.f32.signBit
    (m, (redTree (fun _ a b => FF.f32.add 0 0 a b) 5 0 ws).1)

/-- SMX's status at its start. -/
def State.smxStatus (t : Nat) (c : Cmd) (A D : BitVec 256) : Nat :=
  startStatus (bufBad c A false || bufBad c D true)
    (descBad c A (c.w.f 127 124) || descBad c D (c.w.f 123 120) || regionBad t c A 3 || regionBad t c D 3 || dCols A > 32 || dCols D != 2
      || dRows D != dRows A)
    (dFmt A != 1 || dAnch A || dFmt D != 1 || dAnch D)

/-- SMX (R311). -/
def execSmx (t q : Nat) (s : State) : Host.Outcome State Fault Refusal :=
  .next (s.startCmd t q 0x0E fun c s =>
    let x := s.tile t
    let (A, D) := (x.getDesc (c.w.f 127 124), x.getDesc (c.w.f 123 120))
    let st := State.smxStatus t c A D
    if st != 0 then s.finishCmd t c st 0 false false
    else
      let r := (List.range (dRows A)).foldl (fun (a : State × Nat × Bool × Bool) r =>
        let (s, n, inv, e) := a
        let key := dBase A + r * dPitch A
        -- a row with an error is not counted (R177)
        if s.bad key (4 * dCols A) then (s.logUnc key c.ctx.toNat, n, inv, true)
        else
          let (m, sm) := smxRow ((List.range (dCols A)).map fun j => s.rdN (key + 4 * j) 4) (c.w.f 191 160)
          (s.homeStore none (dBase D + r * dPitch D) 8 0xFF (m + 2 ^ 32 * sm) false, n + 1,
            inv || (FF.f32.val m).isNan || (FF.f32.val sm).isNan, e)) (s, 0, false, false)
      r.1.finishCmd t c (if r.2.2.2 then 0x10 else 0) r.2.1 false r.2.2.1)

end Sys2Proof.Machine
end

