-- ==== Sys2Proof/Machine/Translation.lean ====
section
/-! DEFINITION. Page walks and stream faults (R154 to R156), invalidation (R157), and the writes to a port core's page of
registers and to OWNER (R142, R145, R150, R151, R158, R179). -/

namespace Sys2Proof.Machine

/-! ## Walks (R154, R155) -/

/-- The tile a waiter's translation is kept for. -/
def Waiter.tile : Waiter → Option Nat
  | .thread th => if isTileCore (coreOfTh th) then some (tOf (coreOfTh th)) else none
  | .stream t _ | .check t _ => some t

/-- The walk of a slot, its walk not yet failed. -/
def State.walkAt (s : State) (port slot : Nat) : Option WalkSlot := (s.port port).walks.find? fun w => w.slot == slot && w.fault.isNone

/-- A walk slot is freed; the oldest walk that waits for one takes it (R154). -/
def State.freeSlot (s : State) (port slot : Nat) : State :=
  s.modPort port fun p =>
    let ws := p.walks.filter fun w => w.slot != slot
    let next := ws.findIdx? fun w => w.slot == 64
    { p with
      fltq := p.fltq.filter fun t => t != slot
      walks := ws.mapIdx fun i w => if some i = next then { w with slot := slot } else w }

/-- A waiter's wait for a translation ends: it translates again. -/
def State.wakeWaiter (s : State) (vpn : Nat) : Waiter → State
  | .thread th => if (s.thr th).walk == .waiting vpn then s.modThr th fun t => { t with walk := .none } else s
  | .stream t cid => s.modTile t fun x => { x with streams := x.streams.map fun y => if y.cmd.cid = cid then { y with stall := none } else y }
  | .check .. => s

/-- A walk has failed for a waiter: a thread takes its reason at its next issue, a stream stays stalled (R155). -/
def State.failWaiter (s : State) (vpn reason : Nat) : Waiter → State
  | .thread th => if (s.thr th).walk == .waiting vpn then s.modThr th fun t => { t with walk := .failed vpn reason } else s
  | .stream .. | .check .. => s

/-- A command that has asked for a page takes the walk's outcome. -/
def State.seePage (s : State) (vpn : Nat) (e : Option (BitVec 64 × Nat)) : Waiter → State
  | .check t cid => s.modTile t fun x => x.mapCmds fun c => if c.cid = cid then { c with seen := (vpn, e) :: c.seen } else c
  | _ => s

/-- The waiter is a stream. -/
def Waiter.isStream : Waiter → Bool
  | .stream .. => true
  | .thread _ | .check .. => false

/-- Runs the end of a walk once the lines of the entries that it reads stand in their slices; before that it asks for the first that
is absent (R140). -/
def State.walkMem (s : State) (ctx : BitVec 6) (vpn : Nat) (k : State → State) : State :=
  let l := s.walkReads ctx vpn
  match l.find? fun x => !s.memReady x.1 x.2 0 with
  | some x => s.askMem x.1 x.2 0 false none ⟨s.tick, 0⟩
  | none => k (l.foldl (fun s x => s.hit x.1 false) s)

/-- WALK_COMPLETE (R154 to R157): the translation is installed, unless a TINV dropped it, and its waiters go on; or the
walk fails, and a stream's fault is posted. -/
def execWalkComplete (port slot : Nat) (s : State) : Host.Outcome State Fault Refusal :=
  .next (match (if slot < 64 then s.walkAt port slot else none) with
    | none => s
    | some w => s.walkMem w.ctx w.vpn fun s =>
      match s.walkPage w.ctx w.vpn with
      | .ok (pte, frame, _) =>
        let e : TlbEntry := ⟨w.ctx, w.vpn, BitVec.ofNat 64 pte, frame⟩
        let s := if w.drop then s
          else ((w.waiters.filterMap Waiter.tile).eraseDups).foldl (fun s t => s.installTlb port (some t) e) (s.installTlb port none e)
        (w.waiters.foldl (fun s x => (s.wakeWaiter w.vpn x).seePage w.vpn (some (e.pte, frame)) x) s).freeSlot port slot
      | .error r =>
        let s := match s.walkError w.ctx w.vpn with
          | some a => s.logUnc a w.ctx.toNat
          | none => s
        let s := w.waiters.foldl (fun s x => (s.failWaiter w.vpn r x).seePage w.vpn none x) s
        if w.waiters.any Waiter.isStream then
          s.modPort port fun p => { p with
            fltq := p.fltq ++ [slot]
            walks := p.walks.map fun x => if x.slot = slot then { x with fault := some (r, s.tick), waiters := x.waiters.filter Waiter.isStream } else x }
        else s.freeSlot port slot)

/-! ## Stream faults (R155, R156) -/

/-- A stalled stream ends with status FAULT (R67, R155). -/
def State.faultStream (s : State) : Waiter → State
  | .stream t cid =>
    match (s.tile t).streams.find? fun y => y.cmd.cid == cid with
    | some y => match y.stall with
      | some (_, p) => if y.cmd.w.op = 1 then s.stopStream t y 5 p else s.finishCmd t y.cmd (if y.err = 0 then 5 else y.err.toNat) y.bytes y.ovf y.inv
      | none => s
    | none => s
  | _ => s

/-- A posted fault, by its walk slot. -/
def State.faultAt (s : State) (port slot : Nat) : Option WalkSlot := (s.port port).walks.find? fun w => w.slot == slot && w.fault.isSome

/-- A posted fault ends its streams. -/
def State.failFault (s : State) (port : Nat) (w : WalkSlot) : State := (w.waiters.foldl State.faultStream s).freeSlot port w.slot

/-- STREAM_FAULT_TIMEOUT (R155): 1 ms after the posting. -/
def execStreamFaultTimeout (port slot : Nat) (s : State) : Host.Outcome State Fault Refusal :=
  .next (match s.faultAt port slot with
    | some w => match w.fault with
      | some (_, at_) => if s.tick ≥ at_ + 1000 * Config.cyclesPerUs then s.failFault port w else s
      | none => s
    | none => s)

/-! ## The page of registers (R142, R150) -/

/-- The address of a port core's page of registers (R142). -/
def pageBase (port : Nat) : Nat := padKey port 0 + 5 * 2 ^ 26

/-- The kinds that store to a page of registers. -/
def ReqKind.pageStore : ReqKind → Bool
  | .store | .page => true
  | _ => false

/-- The first store that is due at a register of a port core's page, whose value passes: its request, part and value. -/
def State.pageStore (s : State) (port off : Nat) (ok : BitVec 64 → Bool) : Option (Req × Nat × Part × BitVec 64) :=
  s.net.findSome? fun r =>
    if r.kind.pageStore && r.st == .inflight then
      r.parts.zipIdx.findSome? fun (p, j) =>
        let x := mergeStore p (s.pageRead port off)
        if !p.done && pageKey p.key && coreOfKey p.key == port && pageOff p.key == off && s.mayArrive r j && ok x then some (r, j, p, x) else none
    else none

/-- Runs a register's effect on the first store due at it that passes its home's check (R159). -/
def State.onPage (s : State) (port off : Nat) (ok : BitVec 64 → Bool) (k : Req → Nat → BitVec 64 → State → State) : State :=
  if !isPort port then s
  else match s.pageStore port off ok with
  | some (r, j, p, x) => s.ifHome r j p (k r j x s)
  | none => s

/-- A load that is due at a register of a port core's page: its request and part. -/
def State.pageLoadDue (s : State) (port off : Nat) : Option (Nat × Nat) :=
  s.net.findSome? fun r =>
    if r.kind == .load && r.st == .inflight then
      (r.parts.zipIdx.find? fun x => !x.1.done && !isHbm x.1.key && x.1.key < stackBase && x.1.key / 8 == (pageBase port + off) / 8 && s.mayArrive r x.2).map
        fun x => (r.rid, x.2)
    else none

/-- A read of a register that takes an entry is performed. -/
def State.readPage (s : State) (port off : Nat) : State :=
  match (if isPort port then s.pageLoadDue port off else none) with
  | some (rid, j) => s.arrive rid j
  | none => s

/-- FLTPOP (R156): a load of it takes the oldest entry. -/
def execFltpop (port : Nat) (s : State) : Host.Outcome State Fault Refusal := .next (s.readPage port 0x28)
/-- ERRPOP (R179). -/
def execErrpop (port : Nat) (s : State) : Host.Outcome State Fault Refusal := .next (s.readPage port 0x48)

/-- FLTRSP_REPLAY (R156): the walk of the fault is made again. -/
def execFltrspReplay (port tag : Nat) (s : State) : Host.Outcome State Fault Refusal :=
  .next (s.onPage port 0x30 (fun x => getF x 0 2 == 1 && getF x 8 6 == tag) fun r j _ s =>
    let s := s.partDone r j
    match s.faultAt port tag with
    | some _ => s.modPort port fun p => { p with
        fltq := p.fltq.filter fun t => t != tag
        walks := p.walks.map fun w => if w.slot = tag then { w with fault := none, drop := false } else w }
    | none => s)

/-- FLTRSP_FAIL (R156). -/
def execFltrspFail (port tag : Nat) (s : State) : Host.Outcome State Fault Refusal :=
  .next (s.onPage port 0x30 (fun x => getF x 0 2 == 2 && getF x 8 6 == tag) fun r j _ s =>
    let s := s.partDone r j
    match s.faultAt port tag with
    | some w => s.failFault port w
    | none => s)

/-! ## Invalidation (R157) -/

/-- A translation of page u of a context, of a page of SIZE size, covers page vpn of ctx, or all of it. -/
def covers (ctx : Nat) (all : Bool) (vpn : Nat) (c : BitVec 6) (u size : Nat) : Bool :=
  c.toNat == ctx && (all || (if size = 2 then u / 512 == vpn / 512 else if size = 1 then u / 32 == vpn / 32 else u == vpn))

/-- Entries that stay after an invalidation. -/
def keepTlb (ctx : Nat) (all : Bool) (vpn : Nat) (l : List TlbEntry) : List TlbEntry :=
  l.filter fun e => !covers ctx all vpn e.ctx e.vpn (getF e.pte 4 2)

/-- A command's own translations without those that an invalidation drops; the next look at one walks again. -/
def Cmd.unsee (c : Cmd) (ctx : Nat) (all : Bool) (vpn : Nat) : Cmd :=
  { c with seen := c.seen.filter fun x => !covers ctx all vpn c.ctx x.1 (match x.2 with | some e => getF e.1 4 2 | none => 2) }

/-- Every cached translation of a page, or of a context, is dropped, and what walks in progress would install (R157). -/
def State.dropTlb (s : State) (ctx : Nat) (all : Bool) (vpn : Nat) : State :=
  { s with
    tiles := Store.mapAll Tile.zero (fun _ t => { t with tlb := keepTlb ctx all vpn t.tlb }.mapCmds fun c => c.unsee ctx all vpn) s.tiles
    ports := Store.mapAll Port.zero (fun _ p => { p with
      l2 := keepTlb ctx all vpn p.l2
      walks := p.walks.map fun w => if w.fault.isNone && covers ctx all vpn w.ctx w.vpn 2 then { w with drop := true } else w }) s.ports }

/-- A write to TINV: refused while BUSY. -/
def State.tinvWrite (s : State) (port : Nat) (ok : BitVec 64 → Bool) : State :=
  s.onPage port 0x38 ok fun r j x s =>
    if (s.port port).tinv.isSome then s.refuseReq r
    else
      let (ctx, all, vpn) := (getF x 56 6, getF x 62 1 == 1, getF x 16 32)
      ((s.dropTlb ctx all vpn).modPort port fun p => { p with tinv := some (ctx, all, vpn) }).partDone r j

/-- TINV_PAGE (R157). -/
def execTinvPage (port ctx vpn : Nat) (s : State) : Host.Outcome State Fault Refusal :=
  .next (s.tinvWrite port fun x => getF x 62 1 == 0 && getF x 56 6 == ctx && getF x 16 32 == vpn)
/-- TINV_ALL (R157). -/
def execTinvAll (port ctx : Nat) (s : State) : Host.Outcome State Fault Refusal :=
  .next (s.tinvWrite port fun x => getF x 62 1 == 1 && getF x 56 6 == ctx)

/-- A speculation has logged a store that a dropped translation made. -/
def Spec.stale (sp : Spec) (c : BitVec 6) (ctx : Nat) (all : Bool) (vpn : Nat) : Bool :=
  !sp.aborted && !sp.overflow && sp.pages.any fun x => covers ctx all vpn c x.2.1 (getF x.2.2 4 2)

/-- A part that a dropped translation of its maker's context made is still to be performed. -/
def Part.stale (p : Part) (c : BitVec 6) (ctx : Nat) (all : Bool) (vpn : Nat) : Bool :=
  !p.done && (isHbm p.key || p.key ≥ fabricBase) && p.pte != 0 && covers ctx all vpn c (p.va.toNat / 65536) (getF p.pte 4 2)

/-- An access that a dropped translation made is still to be performed: a request's, a store that a COMMIT is still to send, or one
in a speculation's log. -/
def State.tinvOpen (s : State) (ctx : Nat) (all : Bool) (vpn : Nat) : Bool :=
  (s.net.any fun r => r.parts.any fun p => p.stale r.ctx ctx all vpn)
  || s.threads.any fun x =>
    (match x.2.spec with
    | some sp => sp.stale x.2.ctx ctx all vpn
    | none => false)
    || match x.2.park with
    | .applied _ _ rest => rest.any fun p => p.stale x.2.ctx ctx all vpn
    | _ => false

/-- A stream has issued a sector of page u whose reply has not come. -/
def Stream.openPage (y : Stream) (u : Nat) : Bool :=
  (List.range y.done).any fun i => !(y.got.any fun x => x.1 == i + 1) && (y.at_ i / 65536 == u || (i == 0 && y.straddles 0 && (y.B - 32) / 65536 == u))

/-- A stream's own translations that an invalidation concerns. -/
def Stream.stale (y : Stream) (ctx : Nat) (all : Bool) (vpn : Nat) : List Nat :=
  (y.pages.filter fun x => covers ctx all vpn y.cmd.ctx x.1 (getF x.2.2 4 2)).map (·.1)

/-- INVALIDATION_DONE (R157): BUSY clears once every access that a dropped entry translated is performed. -/
def execInvalidationDone (port : Nat) (s : State) : Host.Outcome State Fault Refusal :=
  .next (match (s.port port).tinv with
    | none => s
    | some (ctx, all, vpn) =>
      if s.tinvOpen ctx all vpn || s.tiles.any fun x => x.2.streams.any fun y => (y.stale ctx all vpn).any y.openPage then s
      else
        let drop (y : Stream) : Stream := { y with pages := y.pages.filter fun x => !(y.stale ctx all vpn).contains x.1 }
        let s := { s with tiles := Store.mapAll Tile.zero (fun _ t => { t with streams := t.streams.map drop }) s.tiles }
        s.modPort port fun p => { p with tinv := none })

/-! ## Other registers (R142, R145, R151, R158) -/

/-- CTXBASE_WRITE (R151): CTXBASE stands at port core 0.0.0.P. -/
def execCtxbaseWrite (v : BitVec 64) (s : State) : Host.Outcome State Fault Refusal :=
  .next (s.onPage (portOfGroup 0) 0x20 (· == v) fun r j x s => ({ s with ctxbase := x } : State).partDone r j)

/-- The stack core whose STKOWN a port core holds (R8, R158). -/
def stackOfPort (port : Nat) : Option Nat := if port / 36 % 2 = 0 then some (27648 + port / 36 / 2) else none

/-- The clear of a stack core's 256 KiB (R158). -/
def State.clearStack (s : State) (l : Nat) : State :=
  let mine (k : Nat) : Bool := stackBase ≤ k && k < fabricBase && (k - stackBase) / 2 ^ 18 == l
  { s with
    mem := s.mem.filter fun x => !mine x.1
    ws := s.ws.filter fun x => coreOfTh x.1 != l
    tags := s.tags.filter fun x => !mine (x.1 * 4)
    upsets := s.upsets.filter fun u => !mine (u * 8) }

/-- STKOWN_WRITE (R158): performed once no callee runs on the stack core. -/
def execStkownWrite (port : Nat) (v : BitVec 64) (s : State) : Host.Outcome State Fault Refusal :=
  .next (match stackOfPort port with
    | none => s
    | some l =>
      if (s.ordinaryOn l).isEmpty then
        s.onPage port 0x40 (· == v) fun r j x s =>
          let new := x &&& 0x3F
          let s := if new = (s.port port).stkown then s else s.clearStack l
          (s.modPort port fun p => { p with stkown := new }).partDone r j
      else s)

/-- A store to OWNER that is due at a tile: its request and part. -/
def State.ownerStore (s : State) (t : Nat) (v : BitVec 64) : Option (Req × Nat × Part) :=
  s.net.findSome? fun r =>
    if r.kind == .owner && r.st == .inflight then
      r.parts.zipIdx.findSome? fun (p, j) => if !p.done && p.pageValue == v && keyTile p.key == t && s.mayArrive r j then some (r, j, p) else none
    else none

/-- The context that a store to OWNER names; the tile's own where the store leaves CTX's byte alone. -/
def ownerCtx (old : BitVec 6) (p : Part) (v : BitVec 64) : BitVec 6 := if offOf p.key = 0xFF00 && p.mask.getLsbD 0 then v.setWidth 6 else old

/-- OWNER_WRITE (R158): only a free tile takes it; a change of CTX clears the tile. -/
def execOwnerWrite (t : Nat) (v : BitVec 64) (s : State) : Host.Outcome State Fault Refusal :=
  .next (match s.ownerStore t v with
    | none => s
    | some (r, j, p) =>
      s.ifHome r j p
        (if !s.tileFree t then s.failReq r cAccess 21 (some p.va)
         else
          let new := ownerCtx (s.tile t).ctx p v
          let s := if new = (s.tile t).ctx then s
            else (s.clearTile t).modTile t fun x => { x with ctx := new, scrub := true, scrubAt := s.tick }
          s.partDone r j))

/-- SCRUB_DONE (R158). -/
def execScrubDone (t : Nat) (s : State) : Host.Outcome State Fault Refusal := .next (s.modTile t fun x => { x with scrub := false })

/-- A register whose write has an event of its own. -/
def ownEvent (port off : Nat) (v : BitVec 64) (page : Bool) : Bool :=
  (off == 0x20 && port == portOfGroup 0) || (off == 0x30 && (getF v 0 2 == 1 || getF v 0 2 == 2)) || off == 0x38
    || (off == 0x40 && (stackOfPort port).isSome) || ((off == 0x60 || off == 0x68) && port % 4608 == 32 && page)

/-- REGISTER_WRITE (R142): a store to a register without behaviour of its own; one that nothing assigns ignores it (R5). -/
def execRegisterWrite (port off : Nat) (v : BitVec 64) (s : State) : Host.Outcome State Fault Refusal :=
  .next (s.onPage port off (· == v) fun r j x s => if ownEvent port off x (r.kind == .page) then s else (s.setPlain port off x).partDone r j)

end Sys2Proof.Machine
end

