-- ==== Sys2Proof/Machine/Collective.lean ====
section
/-! DEFINITION. Reduction trees and collectives (R349 to R351): TREELD, CLGO, the values received and the result. -/

namespace Sys2Proof.Machine

/-! ## What a collective unit reaches, in context 0 -/

/-- The key and page entry of an access of n bytes by the unit of a port core, as a load or store of context 0 would find
them; else the cause and INFO of its trap (R155, R238). -/
def State.unitReach (s : State) (l va n : Nat) (k : AccKind) : Except (BitVec 8 × Nat) (Nat × BitVec 64) :=
  if fld va 48 16 != 0 || fld va 46 2 = 2 then .error (cAccess, 16)
  else if fld va 46 2 = 3 then
    match onchip l va n with
    | some key => if spaceOf key = 0 then .ok (key, 0) else .error (cAccess, 16)
    | none => .error (cAccess, 16)
  else match s.walkPage 0 (va / 65536) with
    | .error r => .error (cPageFault, r)
    | .ok (pte, frame, _) =>
      match pageForbids (BitVec.ofNat 64 pte) k with
      | some r => .error (cAccess, r)
      | none => .ok ((if fld va 46 2 = 1 then fabricBase else 0) + frame * 65536 + va % 65536, BitVec.ofNat 64 pte)

/-- n words of k bytes from va; the first that fails gives the trap and its VA. -/
def State.unitRead (s : State) (l va k : Nat) : Nat → Except (BitVec 8 × Nat × Nat) (List Nat)
  | 0 => .ok []
  | n + 1 =>
    match s.unitReach l va k .load with
    | .error (c, i) => .error (c, i, va)
    | .ok (key, _) =>
      if s.bad key k then .error (cEcc, eccInfo key, va)
      else match State.unitRead s l (va + k) k n with
        | .error e => .error e
        | .ok xs => .ok (s.loadN key k :: xs)

/-- Writes bytes from va in pieces of n; a piece that cannot be performed is dropped (log 24), one whose merge meets an error with an
entry in the log (R178). -/
def State.unitWrite (s : State) (l va n : Nat) : List (List Byte) → State
  | [] => s
  | bs :: rest =>
    let s := match s.unitReach l va n .store with
      | .ok (key, pte) =>
        let p := onePart key (BitVec.ofNat 64 va) pte n 0 (leNat bs)
        if s.mergeBad key n (BitVec.allOnes 64) pte then s.logUnc key 0
        else
          let s := s.homeStore none key n (BitVec.allOnes 64) (leNat bs) true
          if pte.getLsbD 10 then s.filterStore (Req.hw p) p else s
      | .error _ => s
    State.unitWrite s l (va + n) n rest

/-- Pieces of n bytes, at most k of them. -/
def piecesOf (n : Nat) : Nat → List Byte → List (List Byte)
  | 0, _ => []
  | k + 1, bs => if bs.isEmpty then [] else bs.take n :: piecesOf n k (bs.drop n)

/-! ## Tree tables (R349, R350) -/

/-- Entry i of N participants fails its checks (R350). -/
def treeBad (n i e : Nat) : Bool :=
  let parent := fld e 0 16
  fld e 28 4 != 0 || (if i = 0 then parent != 0xFFFF else parent == i || parent ≥ n || parent > i)

/-- The entries of a table from entry i on, each read and checked in turn. -/
def State.readEntries (s : State) (l va n : Nat) : Nat → Nat → Except (BitVec 8 × Nat × Nat) (List (BitVec 32))
  | 0, _ => .ok []
  | k + 1, i =>
    match s.unitRead l (va + 8 + 4 * i) 4 1 with
    | .error e => .error e
    | .ok es =>
      let e := es.headD 0
      if treeBad n i e then .error (cTreeBad, i, va)
      else match State.readEntries s l va n k (i + 1) with
        | .error e => .error e
        | .ok rest => .ok (BitVec.ofNat 32 e :: rest)

/-- A table as read and checked: word 0, then its entries (R349, R350). -/
def State.readTree (s : State) (l va : Nat) : Except (BitVec 8 × Nat × Nat) (List (BitVec 32)) :=
  match s.unitRead l va 4 1 with
  | .error e => .error e
  | .ok hs =>
    let h := hs.headD 0
    let n := fld h 0 16
    if n < 1 || n > 256 || fld h 16 16 ≥ n then .error (cTreeBad, 0xFFFF, va)
    else match s.readEntries l va n n 0 with
      | .error e => .error e
      | .ok es => .ok (BitVec.ofNat 32 h :: es)

/-- A read that meets an error is logged, as a load's is (R177). -/
def State.unitLog (s : State) (l : Nat) (e : BitVec 8 × Nat × Nat) : State :=
  match s.unitReach l e.2.2 4 .load with
  | .ok (key, _) => if e.1 = cEcc then s.logUnc key 0 else s
  | .error _ => s

/-- A failed store traps in its issuer, with a VA where its cause has one. -/
def State.unitFail (s : State) (l : Nat) (r : Req) (e : BitVec 8 × Nat × Nat) : State :=
  (s.unitLog l e).failReq r e.1 e.2.1 (if e.1 = cTreeBad then none else some (BitVec.ofNat 64 e.2.2))

/-- Die d's port core d.0.0.P. -/
def unitPort (die : Nat) : Nat := portOfGroup (die * 128)

/-- TREELD (R350): slot k takes the table, or keeps its own; a slot in use waits. -/
def execTreeld (die : Nat) (v : BitVec 64) (s : State) : Host.Outcome State Fault Refusal :=
  .next (if die ≥ 6 then s
    else
      let k := getF v 48 4
      if (s.die die).colls.any fun c => c.slot == k then s
      else s.onPage (unitPort die) 0x60 (· == v) fun r _ _ s =>
        if r.kind != .page then s
        else match s.readTree (unitPort die) (getF v 3 45 * 8) with
        | .error e => s.unitFail (unitPort die) r e
        | .ok t => ((s.visitVa (unitPort die) 0 (getF v 3 45 * 8) (4 + 4 * t.length) false).modDie die fun d => { d with trees := (d.trees.filter fun x => x.1 != k) ++ [(k, t)] }).complete r 0)

/-! ## Collectives (R351) -/

/-- SELF of a table. -/
def treeSelf (t : List (BitVec 32)) : Nat := fld (t.headD 0).toNat 16 16
/-- PARENT of participant i. -/
def treeParent (t : List (BitVec 32)) (i : Nat) : Nat := fld (t.getD (i + 1) 0).toNat 0 16
/-- This participant's children, in ascending index. -/
def treeChildren (t : List (BitVec 32)) : List Nat := (List.range (t.length - 1)).filter fun i => i != 0 && treeParent t i == treeSelf t

/-- EP of participant i (R349). -/
def treeEp (t : List (BitVec 32)) (i : Nat) : Nat := fld (t.getD (i + 1) 0).toNat 16 12

/-- Op on two 4-byte elements: F32 ADD, I32 ADD, F32 MAX, F32 MIN (R351). -/
def collOp (op a b : Nat) : Nat :=
  match op with
  | 0 => f32Add a b
  | 1 => (a + b) % 2 ^ 32
  | 2 => f32Max a b
  | _ => f32Min a b

/-- Op on every element. -/
def collBytes (op : Nat) (a b : List Byte) : List Byte :=
  ((piecesOf 4 (a.length / 4) a).zip (piecesOf 4 (b.length / 4) b)).flatMap fun (x, y) => leBytes 4 (collOp op (leNat x) (leNat y))

/-- The fields of a command block are beyond their limits (R351). -/
def blockBad (w : List Nat) : Bool :=
  let (src, dst, x, done) := (w.getD 0 0, w.getD 1 0, w.getD 2 0, w.getD 3 0)
  let len := fld x 0 32
  src % 64 != 0 || dst % 64 != 0 || len % 64 != 0 || len < 64 || len > 2 ^ 24 || fld x 36 4 != 0 || fld x 42 6 != 0 || fld x 48 16 != 0 || done % 8 != 0

/-- Values that came early are combined as their turn comes (R351). -/
def Coll.drainEarly (c : Coll) : Nat → Coll
  | 0 => c
  | n + 1 =>
    match c.waiting with
    | [] => c
    | i :: rest =>
      match c.early.find? fun x => x.1 == i with
      | some x => Coll.drainEarly { c with acc := collBytes c.op c.acc x.2, waiting := rest, early := c.early.filter fun y => y.1 != i } n
      | none => c

/-- A collective that starts with its own input (log 24). -/
def newColl (w : List Nat) (tree : List (BitVec 32)) (own : Except (BitVec 8 × Nat × Nat) (List Nat)) : Coll :=
  let x := w.getD 2 0
  let len := fld x 0 32
  ⟨fld x 32 4, fld x 40 2, BitVec.ofNat 64 (w.getD 0 0), BitVec.ofNat 64 (w.getD 1 0), len, BitVec.ofNat 64 (w.getD 3 0), 0,
    (match own with | .ok xs => xs.flatMap (leBytes 8) | .error _ => []), treeChildren tree, [], none,
    (match own with | .ok _ => false | .error _ => true)⟩

/-- A unit sends a message to participant i of a collective's tree. -/
def State.collSend (s : State) (die : Nat) (c : Coll) (tree : List (BitVec 32)) (i : Nat) (data : CollData) : State :=
  ({ s with collOut := s.collOut ++ [⟨die, c.slot, treeEp tree i, treeSelf tree, data⟩] } : State).sendOut die (treeEp tree i) (match data with | .gone => 0 | _ => c.len)

/-- The tree of a slot. -/
def State.tree (s : State) (die slot : Nat) : List (BitVec 32) :=
  match (s.die die).trees.find? fun x => x.1 == slot with
  | some (_, t) => t
  | none => []

/-- A participant other than the root sends its parent the partial that its last child completes (R351). -/
def State.collUp (s : State) (die : Nat) (c : Coll) : State :=
  let t := s.tree die c.slot
  if c.waiting.isEmpty && !c.failed && treeSelf t != 0 then s.collSend die c t (treeParent t (treeSelf t)) (.part c.acc) else s

/-- A collective's own input is read, and it starts; one without children has its partial at once. -/
def State.startColl (s : State) (die : Nat) (w : List Nat) (tree : List (BitVec 32)) : State :=
  let own := s.unitRead (unitPort die) (w.getD 0 0) 8 (fld (w.getD 2 0) 0 32 / 8)
  let c := newColl w tree own
  let s := match own with
    | .error e => s.unitLog (unitPort die) e
    | .ok _ => s.visitVa (unitPort die) 0 (w.getD 0 0) (fld (w.getD 2 0) 0 32) false
  (s.modDie die fun d => { d with colls := d.colls ++ [c] }).collUp die c

/-- CLGO (R351): the block is read and checked, and the collective starts; a ninth is refused. -/
def execClgo (die : Nat) (v : BitVec 64) (s : State) : Host.Outcome State Fault Refusal :=
  .next (if die ≥ 6 then s
    else s.onPage (unitPort die) 0x68 (· == v) fun r _ _ s =>
      let l := unitPort die
      let bad := s.failReq r cAccess 24 none
      if r.kind != .page then s
      else if (s.die die).colls.length ≥ 8 then s.refuseReq r
      else if v.toNat % 32 != 0 then bad
      else match s.unitRead l v.toNat 8 4 with
      | .error e => s.unitFail l r e
      | .ok w =>
        match (s.die die).trees.find? fun x => x.1 == fld (w.getD 2 0) 32 4 with
        | some (_, tree) =>
          if blockBad w then bad else ((s.visitVa l 0 v.toNat 32 false).startColl die w tree).complete r 0
        | none => bad)

/-- COLLECTIVE_VALUE_RECEIVED (R351): participant `child` sends its partial value, or the parent the root's result; data of
another length stands for a participant that answers gone or is unroutable (log 24). -/
def execCollectiveValueReceived (die k child : Nat) (data : List (BitVec 8)) (s : State) : Host.Outcome State Fault Refusal :=
  .next (s.takeMsg die (.value k child data) fun s => match (s.die die).colls[k]? with
    | none => s
    | some c =>
      let t := s.tree die c.slot
      let parent := if treeSelf t = 0 then none else some (treeParent t (treeSelf t))
      let put (c : Coll) : State := s.modDie die fun d => { d with colls := d.colls.set k c }
      if !c.waiting.contains child && some child != parent then s
      else if data.length != c.len then put { c with failed := true }
      else if c.waiting.contains child then
        if c.early.any fun x => x.1 == child then s
        else
          let c := { c with early := c.early ++ [(child, data)] }.drainEarly c.waiting.length
          (put c).collUp die c
      else if c.waiting.isEmpty then put { c with result := some data }
      else s)

/-- A collective's outcome where it has one: the result's bytes, none on failure; where no link leads to the fabric any more, the
participants that it still waits for are unroutable (R346, R351). -/
def State.collEnd (s : State) (die : Nat) (c : Coll) : Option (Option (List Byte)) :=
  let lost := (s.exitDie die).isNone
  if c.failed then some none
  else if treeSelf (s.tree die c.slot) == 0 then (if c.waiting.isEmpty then some (some c.acc) else if lost then some none else none)
  else if c.result.isNone && lost then some none
  else c.result.map some

/-- A collective's outcome goes on: the result to the children, a failure to the children and the parent (R351). -/
def State.collDown (s : State) (die : Nat) (c : Coll) (res : Option (List Byte)) : State :=
  let t := s.tree die c.slot
  let data : CollData := match res with
    | some bs => .result bs
    | none => .gone
  let up := if res.isNone && treeSelf t != 0 then [treeParent t (treeSelf t)] else []
  (up ++ treeChildren t).foldl (fun s i => s.collSend die c t i data) s

/-- COLLECTIVE_DONE (R351): the result to DST and then 1 to DONE, or 0xC to DONE. -/
def execCollectiveDone (die k : Nat) (s : State) : Host.Outcome State Fault Refusal :=
  .next (match (s.die die).colls[k]? with
    | none => s
    | some c => match s.collEnd die c with
      | none => s
      | some res =>
        let l := unitPort die
        let s := match res with
          | some bs => ((s.unitWrite l c.dst.toNat 64 (piecesOf 64 (c.len / 64) bs)).visitVa l 0 c.dst.toNat c.len true).unitWrite l c.done.toNat 8 [leBytes 8 1]
          | none => s.unitWrite l c.done.toNat 8 [leBytes 8 0xC]
        let s := s.visitVa l 0 c.done.toNat 8 true
        (s.collDown die c res).modDie die fun d => { d with colls := d.colls.eraseIdx k })

end Sys2Proof.Machine
end

