-- ==== Sys2Proof/Machine/ContextSave.lean ====
section
/-! DEFINITION. The context-save engine: SAVE and RSTR (R162, R319, R355, R357). -/

namespace Sys2Proof.Machine

/-- The frames of AREA, where all its pages are PIN pages of context 0 that allow the access (R319). -/
def State.areaFrames (s : State) (area : Nat) (k : AccKind) : Nat → Option (List Nat)
  | 0 => some []
  | n + 1 =>
    match State.areaFrames s area k n with
    | none => none
    | some fs =>
      match s.walkPage 0 (area / 65536 + n) with
      | .error _ => none
      | .ok (pte, frame, _) =>
        if area % 65536 != 0 || fld area 46 2 != 0 || fld pte 8 1 != 1 || (pageForbids (BitVec.ofNat 64 pte) k).isSome then none
        else some (fs ++ [frame])

/-- The state that a save of a tile holds (R162). -/
def State.snapshot (s : State) (t : Nat) (frames : List Nat) : Save where
  t := t
  frames := frames
  tile := s.tile t
  mem := s.mem.filter fun x => inTile t x.1
  ws := s.ws.filter fun x => ofTile t (coreOfTh x.1)
  tags := s.tags.filter fun x => inTile t (x.1 * 4)
  guard := s.guard.filter fun x => inTile t (x.1 * 16)
  threads := s.threads.filter fun x => ofTile t (coreOfTh x.1)
  cores := s.cores.filter fun x => ofTile t x.1
  reqs := s.net.filter fun r => r.savedWith t

/-- A byte of an area. -/
def areaKey (frames : List Nat) (i : Nat) : Nat := frames.getD (i / 65536) 0 * 65536 + i % 65536

/-- The area takes the engine's own form (log 15), its first doubleword T, the context and VALID (R319). -/
def State.writeArea (s : State) (frames : List Nat) (header : Nat) : State :=
  let s := (List.range 737280).foldl (fun s i => s.wrByte (areaKey frames i) (Config.saveByte s.fresh i)) s
  { s.wrN (areaKey frames 0) 8 header with
    fresh := s.fresh + 1
    upsets := s.upsets.filter fun u => !inArea frames (u * 8) }

/-- The tile holds an uncorrectable error. -/
def State.tileBad (s : State) (t : Nat) : Bool := s.upsets.any fun u => inTile t (u * 8)

/-- The end of a SAVE: the save takes the place of any that shares a page with it (R357); a tile with an uncorrectable
error leaves none (R177). -/
def State.saveTo (s : State) (t : Nat) (frames : List Nat) : State :=
  let kept := s.saves.filter fun x => !x.frames.any fun f => frames.contains f
  if s.tileBad t then { s.writeArea frames 0 with saves := kept }
  else
    { s.writeArea frames (t + (s.tile t).ctx.toNat * 2 ^ 32 + 2 ^ 63) with saves := kept ++ [s.snapshot t frames] }

/-- The port core's log takes an entry for each unit of the tile in error. -/
def State.logTile (s : State) (t c : Nat) : State :=
  (s.upsets.filter fun u => inTile t (u * 8)).foldl (fun s u => s.logUnc (u * 8) c) s

/-- What a command of the context-save engine starts with: its tile, and the area's frames; none for status 0x06
(R319). -/
def State.saveStart (s : State) (t : Nat) (c : Cmd) (k : AccKind) : Option (Nat × List Nat) :=
  let n := c.w.f 140 128
  if n = t || (s.tile n).drain != .drained || (s.tile n).scan.isSome then none
  else (s.areaFrames (c.w.f 191 144) k areaPages).map fun fs => (n, fs)

/-- SAVE (R319). -/
def execSave (t q : Nat) (s : State) : Host.Outcome State Fault Refusal :=
  .next (s.startCmd t q 0x10 fun c s =>
    match s.saveStart t c .store with
    | none => s.finishCmd t c 6 0 false false
    | some (n, fs) => (((s.logTile n 0).saveTo n fs).visitVa c.lcore 0 (c.w.f 191 144) 737280 true).finishCmd t c (if s.tileBad n then 0x10 else 0) 0 false false)

/-- The valid save that an area holds of a tile (R319). -/
def State.validSave (s : State) (t : Nat) (frames : List Nat) : Option Save :=
  let h := s.rdN (areaKey frames 0) 8
  if fld h 63 1 = 1 && fld h 0 13 = t then s.saves.find? fun x => x.frames == frames && x.t == t else none

/-- The area holds an uncorrectable error. -/
def State.areaBad (s : State) (frames : List Nat) : Bool := s.upsets.any fun u => inArea frames (u * 8)

/-- One queue entry for each trapped ordinary thread, in ascending position order (R182). -/
def State.rebuildTrapq (s : State) (l : Nat) : List (BitVec 64) :=
  (List.range 15).flatMap fun p =>
    ((s.threadsOn l).filter fun k => (s.thr k).pos == p && (s.thr k).trapped).map fun k => trapEntry k p (recCause (s.getWs k).trap)

/-- Keys of a sparse part that another gives, merged in order. -/
def Store.union {α : Type} [DecidableEq α] (d : α) (m : Store α) : Store α → Store α
  | [] => m
  | (k, v) :: l => Store.union d (Store.put d m k v) l

/-- RSTR puts a save back: OWNER too, without a clear; the supervisors it holds replace those of the tile; it stays
drained (R319, R355, R357). -/
def State.restore (s : State) (x : Save) : State :=
  let t := x.t
  let s := (s.emptyTile t).clearTile t
  let s := { s with
    mem := Store.union Memory.unlisted s.mem x.mem
    ws := Store.union Workspace.zero s.ws x.ws
    tags := Store.union WordTag.zero s.tags x.tags
    guard := Store.union 0 s.guard x.guard
    threads := Store.union Thread.none s.threads x.threads
    net := (s.net.filter fun (r : Req) => x.reqs.all fun q => q.rid != r.rid) ++ x.reqs }
  let s := s.modTile t fun y => { x.tile with tlb := y.tlb, drain := y.drain, scan := y.scan, scrub := y.scrub, scrubAt := y.scrubAt }
  (List.range 4).foldl (fun s i =>
    let l := lcoreOfT t i
    let old := Store.get CoreSt.zero x.cores l
    s.modCore l fun c => { c with watches := old.watches, msgs := old.msgs, trapq := s.rebuildTrapq l }) s

/-- RSTR (R319). -/
def execRstr (t q : Nat) (s : State) : Host.Outcome State Fault Refusal :=
  .next (s.startCmd t q 0x11 fun c s =>
    match s.saveStart t c .load with
    | none => s.finishCmd t c 6 0 false false
    | some (n, fs) =>
      match s.validSave n fs with
      | none => s.finishCmd t c 6 0 false false
      | some x =>
        let u := s.visitVa c.lcore 0 (c.w.f 191 144) 737280 false
        if s.areaBad fs then u.finishCmd t c 0x10 0 false false else (u.restore x).finishCmd t c 0 0 false false)

end Sys2Proof.Machine
end

