-- ==== Sys2Proof/Machine/Controller.lean ====
section
/-! DEFINITION. The memory controller's refresh management (R136 to R138), placement (R143 to R145), and the power budget
with the thermal stop (R146, R309, R343). -/

namespace Sys2Proof.Machine

/-! ## Refresh (R136, R137) -/

/-- A bank is blocked until a TICK. -/
def Port.block (p : Port) (bank until_ : Nat) : Port := { p with blocked := (bank, until_) :: p.blocked.filter fun x => x.1 != bank }

/-- RFMPB (R137): the refresh-management command that a bank is due at a level blocks it for tRFM. -/
def execRfmpb (port bank level : Nat) (s : State) : Host.Outcome State Fault Refusal :=
  .next (if isPort port && (s.port port).rfm.contains (bank, level) then
      s.modPort port fun p => { p with rfm := p.rfm.erase (bank, level) }.block bank (s.tick + Config.tRfm)
    else s)

/-- REFRESH (R136): it closes the bank's row, and blocks the one bank (log 41). -/
def execRefresh (port bank : Nat) (s : State) : Host.Outcome State Fault Refusal :=
  .next (if !isPort port then s
    else s.modPort port fun p => { p with rows := p.rows.filter fun x => x.1 != bank }.block bank (s.tick + Config.tRfc))

/-! ## Placement (R143 to R145) -/

/-- A frame is free (log 27): in memory, not taken, and holding nothing. -/
def State.frameFree (s : State) (f : Nat) : Bool :=
  f < Config.frames && !s.allocated.contains f && !(s.mem.any fun x => x.1 / 65536 == f && isHbm x.1)

/-- The first number from a start on, in a cycle of n, that a test takes. -/
def firstFrom (n : Nat) (ok : Nat → Bool) (start : Nat) : Nat → Option Nat
  | 0 => none
  | k + 1 => if ok (start % n) then some (start % n) else firstFrom n ok (start + 1) k

/-- A free frame of a channel, where there is one (log 27). -/
def State.freeFrame (s : State) (chan : Nat) : Option Nat :=
  (firstFrom 24576 (fun i => s.frameFree (chan + 768 * i)) (Config.freeFrame chan s.fresh) 24576).map fun i => chan + 768 * i

/-- Free frames for a page of n frames, from a multiple of n on: a 2 MiB page in a stack of the die, a 32 MiB page anywhere
(R143). -/
def State.freeBlock (s : State) (die n : Nat) : Option Nat :=
  (firstFrom (Config.frames / n) (fun b => (n != 32 || chanOf (b * n) / 128 == die) && (List.range n).all fun i => s.frameFree (b * n + i))
    (Config.freeFrame (768 + n) s.fresh) (Config.frames / n)).map (· * n)

/-- Frames are taken for a die's allocation. -/
def State.takeFrames (s : State) (die : Nat) (fs : List Nat) : State :=
  { s.modDie die (fun d => { d with lastAlloc := d.lastAlloc ++ fs }) with fresh := s.fresh + 1, allocated := s.allocated ++ fs }

/-- Takes n frames, one from each next channel of a die (R143); a channel without a free one is passed over, which the spec leaves
open (log 54). -/
def State.allocate (s : State) (die : Nat) : Nat → State
  | 0 => s
  | n + 1 =>
    let c := (s.die die).cursor
    let s := (s.takeFrames die (s.freeFrame (128 * die + c)).toList).modDie die fun d => { d with cursor := (c + 1) % 128 }
    State.allocate s die n

/-- Takes the frames of n large pages of k frames each, where they stand free together; no cursor moves (R143). -/
def State.allocateLarge (s : State) (die k : Nat) : Nat → State
  | 0 => s
  | n + 1 =>
    let fs := match s.freeBlock die k with
      | some f => (List.range k).map (f + ·)
      | none => []
    State.allocateLarge (s.takeFrames die fs) die k n

/-- ALLOCATION (R143) of pages of 64 KiB. -/
def execAllocation (die frames : Nat) (s : State) : Host.Outcome State Fault Refusal :=
  .next (if die ≥ 6 then s else (s.modDie die fun d => { d with lastAlloc := [] }).allocate die frames)

/-- An allocation of n pages of 32 MiB, or else of 2 MiB (R143). -/
def State.allocatePages (s : State) (die n : Nat) (large : Bool) : State :=
  if die ≥ 6 then s else (s.modDie die fun d => { d with lastAlloc := [] }).allocateLarge die (if large then 512 else 32) n

/-- A page of the tracker: its context and VA[47:16]. -/
def hotCtx (page : Nat) : BitVec 6 := BitVec.ofNat 6 page
/-- VA[47:16] of a page of the tracker. -/
def hotVpn (page : Nat) : Nat := page / 64

/-- The page with the largest count from one other group (R144), the first listed of equals, which the spec leaves open (log 54). -/
def hotBest (own : Nat) : List (Nat × Nat × Nat) → Option (Nat × Nat × Nat)
  | [] => none
  | x :: l =>
    match hotBest own l with
    | none => if x.2.1 = own then none else some x
    | some y => if x.2.1 != own && x.2.2 ≥ y.2.2 then some x else some y

/-- A counter that saturates at 2^32 − 1. -/
def satInc (x : Nat) : Nat := min (x + 1) 0xFFFFFFFF

/-- A migration begins: the old home holds new accesses to the frame. -/
def State.startCopy (s : State) (port page grp : Nat) (pte frame at_ : Nat) : State :=
  if fld pte 8 1 = 1 then s.modPort port fun p => { p with hpstat := putF p.hpstat 0 32 (satInc (getF p.hpstat 0 32)) }
  else
    let s' := { s with fresh := s.fresh + 1 }
    match s.freeFrame grp with
    | some f => { s' with allocated := s'.allocated ++ [f] }.modPort port fun p => { p with copy := some ⟨hotCtx page, hotVpn page, frame, f, at_, []⟩ }
    | none => s'

/-- The tracker's period in cycles: PERIOD µs, 0 acting as 1 (R145). -/
def Port.period (p : Port) : Nat := max 1 (getF p.hpctl 16 16) * Config.cyclesPerUs

/-- HOT_PAGE_PERIOD (R144): a period of the tracker ends. -/
def execHotPagePeriod (port : Nat) (s : State) : Host.Outcome State Fault Refusal :=
  let p := s.port port
  .next (if !isPort port || s.tick < p.periodAt + p.period then s
    else
      let ok := p.hot.filter fun x => x.2.1 < 768 && !(p.cool.any fun c => c.1 == x.1)
      let s := s.modPort port fun p => { p with periodAt := s.tick, hot := [], cool := (p.cool.map fun c => (c.1, c.2 - 1)).filter fun c => c.2 != 0 }
      match (if getF p.hpctl 63 1 = 1 && p.copy.isNone then hotBest (port / 36) ok else none) with
      | some (page, grp, n) =>
        if n < getF p.hpctl 32 16 then s
        else match s.walkPage (hotCtx page) (hotVpn page) with
          | .ok (pte, frame, at_) =>
            if fld pte 4 2 != 0 || portOfChan (chanOf frame) != port then s else s.startCopy port page grp pte frame at_
          | .error _ => s
      | none => s)

/-- A key in one frame, moved to another. -/
def movedKey (a b k : Nat) : Nat := if isHbm k && k / 65536 == a then b * 65536 + k % 65536 else k

/-- A line lies in a frame. -/
def inFrame (frame line : Nat) : Bool := line * 128 / 65536 == frame

/-- The bytes of a frame, and its errors, are copied to another. -/
def State.copyFrame (s : State) (a b : Nat) : State :=
  let s := (s.mem.filter fun x => isHbm x.1 && x.1 / 65536 == a).foldl (fun s x => { s with mem := s.mem.write (movedKey a b x.1) x.2 }) s
  { s with upsets := s.upsets ++ (s.upsets.filter fun u => isHbm (u * 8) && u * 8 / 65536 == a).map fun u => movedKey a b (u * 8) / 8 }

/-- The words that a speculation has logged in a moved frame follow it (R99). -/
def movedSpec (a b : Nat) (sp : Spec) : Spec :=
  { sp with
    log := sp.log.map fun x => (movedKey a b (x.1 * 8) / 8, x.2)
    pages := sp.pages.map fun x => if x.1 = a then (b, x.2.1, BitVec.ofNat 64 (putF x.2.2 16 32 b).toNat) else x }

/-- The accesses held at the old home pass to the new one, and what waits on a place in the frame follows it (R144). -/
def State.passFrame (s : State) (a b : Nat) : State :=
  let part (p : Part) : Part := { p with key := movedKey a b p.key }
  let page (x : Nat × Nat × BitVec 64) : Nat × Nat × BitVec 64 := (x.1, movedKey a b x.2.1, x.2.2)
  let park : Park → Park := fun k => match k with
    | .phase key va ph d src => .phase (movedKey a b key) va ph d src
    | .applied d src rest => .applied d src (rest.map part)
    | k => k
  -- a request whose packet was made for the old home is handed on with the rest
  let legs (r : Req) : List Nat := if r.sent then r.legs ++ (r.parts.filter fun p => (part p).key != p.key).map fun p => (part p).node else r.legs
  { s with
    net := s.net.map fun r => { r with parts := r.parts.map part, legs := legs r }
    threads := Store.mapAll Thread.none (fun _ t => { t with park := park t.park, spec := t.spec.map (movedSpec a b) }) s.threads
    tiles := Store.mapAll Tile.zero (fun _ t => { t with streams := t.streams.map fun y => { y with pages := y.pages.map page } }) s.tiles }

/-- The accesses that a copy's old home has held go on in their order, at the frame's home (R144). -/
def State.releaseHeld (s : State) (home : Nat) (c : FrameCopy) : State :=
  s.modPort home fun p => { p with passed := (p.passed.filter fun x => s.undone x.1 x.2) ++ c.held }

/-- FRAME_COPY_DONE (R144): the frame is copied, the leaf entry names the new one, every cached entry of the page is dropped,
and the held accesses go on; where system software has changed the entry meanwhile, or made the page PIN (R99), nothing moves. -/
def execFrameCopyDone (port : Nat) (s : State) : Host.Outcome State Fault Refusal :=
  .next (match (s.port port).copy with
    | none => s
    | some c =>
      let pte := s.rdN c.pteAt 8
      let s := s.modPort port fun p => { p with copy := none }
      if fld pte 0 1 != 1 || fld pte 16 32 != c.fromFrame || fld pte 8 1 = 1 then { s with allocated := s.allocated.filter fun f => f != c.toFrame }.releaseHeld port c
      else
        let s := s.copyFrame c.fromFrame c.toFrame
        let s := (s.markDirty c.pteAt 8).wrN c.pteAt 8 (pte - c.fromFrame * 65536 + c.toFrame * 65536)
        let s := (s.dropTlb c.ctx.toNat false c.vpn).passFrame c.fromFrame c.toFrame
        let s := { s with allocated := s.allocated.filter fun f => f != c.fromFrame }.modPort port fun p => { p with
          lines := p.lines.filter fun x => !inFrame c.fromFrame x.line
          misses := p.misses.filter fun x => !inFrame c.fromFrame x.line
          queue := p.queue.filter fun x => !inFrame c.fromFrame x.line
          direct := p.direct.filter fun x => !inFrame c.fromFrame x
          hpstat := putF p.hpstat 32 32 (satInc (getF p.hpstat 32 32)) }
        let s := s.releaseHeld (portOfChan (chanOf c.toFrame)) c
        -- the new home's tracker counts the periods in which it leaves the page alone
        s.modPort (portOfChan (chanOf c.toFrame)) fun p => { p with
          cool := if getF p.hpctl 0 16 = 0 then p.cool else p.cool ++ [(c.vpn * 64 + c.ctx.toNat, getF p.hpctl 0 16)] })

/-! ## The power budget (R146, R309, R343) -/

/-- The module budget of a period at a coolant inlet temperature, in units of 1 nJ (R146, R343). -/
def moduleBudget (inlet : Nat) : Int := (5600 - 160 * ((min inlet 45 - 35 : Nat) : Int)) * 1000

/-- A command's toggle estimate (R309). -/
def State.estimate (s : State) (t : Nat) (c : Cmd) : Nat :=
  if c.w.toggle != 0 || c.w.op != 1 then 256 * c.w.toggle
  else (c.w.f 143 128 * (65536 + 3 * getF ((s.tile t).getDesc (c.w.f 123 120)) 192 16) + 524287) / 524288

/-- The commands of a die that wait for budget: heads of queues that could start: (tile, command, estimate). -/
def State.waitingCmds (s : State) (die : Nat) : List (Nat × Cmd × Nat) :=
  (s.tiles.filter fun x => dieOfT x.1 == die).flatMap fun x => x.2.queues.toList.filterMap fun q => match q with
    | c :: _ => if !c.granted && s.mayStart x.1 { c with granted := true } then some (x.1, c, s.estimate x.1 c) else none
    | [] => none

/-- A list in ascending order of two numbers. -/
def insertKey {α : Type} (f g : α → Nat) (x : α) : List α → List α
  | [] => [x]
  | y :: l => if f x < f y || (f x == f y && g x < g y) then x :: y :: l else y :: insertKey f g x l

/-- Grants of a period: the commands granted, and the units left (R146). -/
def grants (left : Int) : List (Nat × Cmd × Nat) → List Nat × Int
  | [] => ([], left)
  | x :: l =>
    if x.2.1.waited ≥ 8 || (x.2.2 : Int) ≤ left then
      let (ids, r) := grants (left - x.2.2) l
      (x.2.1.cid :: ids, r)
    else grants left l

/-- The order of R146: those that have waited 8 periods, oldest first; then the lowest estimate, the older among equals. -/
def grantOrder (l : List (Nat × Cmd × Nat)) : List (Nat × Cmd × Nat) :=
  ((l.filter fun x => x.2.1.waited ≥ 8).foldl (fun a x => insertKey (fun y => 2 ^ 40 - y.2.1.waited) (fun y => y.2.1.cid) x a) [])
    ++ (l.filter fun x => !(x.2.1.waited ≥ 8)).foldl (fun a x => insertKey (fun y => y.2.2) (fun y => y.2.1.cid) x a) []

/-- A temperature's stop after a reading (R343): set above its limit, cleared 5 °C below. -/
def hotNext (now : Bool) (limit reading : Nat) : Bool := if reading > limit then true else if reading ≤ limit - 5 then false else now

/-- The thermal stop: of the inlet, or of any die's junction (R343). -/
def State.thermal (s : State) : Bool := s.inletHot || (List.range 6).any fun d => (s.die d).hot

/-- Units that a die has granted to commands, by their numbers. -/
def grantedUnits (ids : List Nat) (l : List (Nat × Cmd × Nat)) : Nat := ((l.filter fun x => ids.contains x.2.1.cid).map fun x => x.2.2).foldl (· + ·) 0

/-- The coolant inlet as the central arbiter reads it, once in a period of 1 µs: when the first of the dies grants in it (R343). -/
def State.readInlet (s : State) (inlet : Nat) : State :=
  if (List.range 6).all fun d => (s.die d).nextAt ≤ s.tick then { s with inlet := inlet, inletHot := hotNext s.inletHot 45 inlet } else s

/-- BUDGET_PERIOD (R146, R343): each 1 µs a die's arbiter grants, from the reading of the inlet that all dies share; `measured` is
the die's power that is not engine power, in units a period. A shortfall of the budget itself is carried on as deficit, which the
spec leaves open (log 54). -/
def execBudgetPeriod (die measured inlet junction : Nat) (s : State) : Host.Outcome State Fault Refusal :=
  .next (if die ≥ 6 || s.tick < (s.die die).nextAt then s
    else
      let s := (s.readInlet inlet).modDie die fun d =>
        { d with nextAt := (s.tick / Config.cyclesPerUs + 1) * Config.cyclesPerUs, hot := hotNext d.hot 105 junction, power := measured }
      if s.thermal then s
      else
        let budget := moduleBudget s.inlet / 6 - measured - (s.die die).deficit
        let all := s.waitingCmds die
        let (ids, left) := grants budget (grantOrder all)
        let upd (c : Cmd) : Cmd :=
          if ids.contains c.cid then { c with granted := true } else if all.any fun x => x.2.1.cid == c.cid then { c with waited := c.waited + 1 } else c
        { s with tiles := Store.mapAll Tile.zero (fun _ t => { t with queues := t.queues.map (List.map upd) }) s.tiles }.modDie die fun d =>
          { d with budget := budget, deficit := if left < 0 then -left else 0, power := measured + grantedUnits ids all })

end Sys2Proof.Machine
end

