-- ==== Sys2Proof/Machine/Conversion.lean ====
section
/-! DEFINITION. The conversion engine: CRD (R312), CVT with its block formats and histogram (R32 to R34, R71, R313). -/

namespace Sys2Proof.Machine

/-- Chunk j of a command's stream, under .rs (R45). -/
def Cmd.chunk (c : Cmd) (j : Nat) : Nat := if c.rnd = 5 then chunkAt c.seed c.lcore c.ctx.toNat c.sbcnt j else 0

/-! ## CRD (R312) -/

/-- Where an element of a descriptor stands, for elements of e bytes. -/
def elemKey (d : BitVec 256) (e i j : Nat) : Nat := dBase d + i * dPitch d + e * j

/-- Element (i, j) of the accumulator, rounded to the destination's format. -/
def State.crdElem (s : State) (c : Cmd) (A D : BitVec 256) (i j : Nat) : Nat × Flags :=
  let ff := FF.ofTag (dFmt D)
  let R := c.chunk (i * dCols D + j)
  if dAnch A then
    (Exact.ofInt (clampInt anchMin anchMax (sOf 144 (s.getX (elemKey A 16 i j)))) (dAnchor A - 96) false).deliver ff c.rnd.toNat R
  else convFF .f32 ff c.rnd.toNat R (s.rdN (elemKey A 4 i j) 4)

/-- What a conversion has come to. -/
structure ConvEnd where
  n : Nat
  fl : Flags
  inv : Bool
  ecc : Bool
  deriving DecidableEq, Repr

/-- CRD's status at its start. -/
def State.crdStatus (t : Nat) (c : Cmd) (A D : BitVec 256) : Nat :=
  startStatus (bufBad c A false || bufBad c D true)
    (descBad c A (c.w.f 127 124) || descBad c D (c.w.f 123 120) || regionBad t c A 3 || regionBad t c D 2 || dRows A != dRows D || dCols A != dCols D)
    (dFmt A != 1 || !(1 ≤ dFmt D && dFmt D ≤ 4))

/-- CRD (R312): elements in row-major order; one with an error is neither written nor counted (R177). -/
def execCrd (t q : Nat) (s : State) : Host.Outcome State Fault Refusal :=
  .next (s.startCmd t q 6 fun c s =>
    let x := s.tile t
    let (A, D) := (x.getDesc (c.w.f 127 124), x.getDesc (c.w.f 123 120))
    let st := State.crdStatus t c A D
    if st != 0 then s.finishCmd t c st 0 false false
    else
      let e := fmtBits (dFmt D) / 8
      let w := if dAnch A then 16 else 4
      let r := (List.range (dRows A)).foldl (fun (a : State × ConvEnd) i => (List.range (dCols A)).foldl (fun (a : State × ConvEnd) j =>
        let (s, z) := a
        if s.bad (elemKey A w i j) w then (s.logUnc (elemKey A w i j) c.ctx.toNat, { z with ecc := true })
        else
          let (b, f) := s.crdElem c A D i j
          (s.homeStore none (elemKey D e i j) e 0xF b false,
            ⟨z.n + 1, z.fl ||| f, z.inv || ((FF.ofTag (dFmt D)).val b).isNan, z.ecc⟩)) a) (s, ⟨0, 0, false, false⟩)
      r.1.finishCmd t c (if r.2.ecc then 0x10 else 0) r.2.n (r.2.fl.getLsbD 2) r.2.inv)

/-! ## CVT (R313) -/

/-- A source element: its value, and its bits as format tag f holds them. -/
structure SrcElem where
  v : FVal
  f : Nat
  bits : Nat
  deriving DecidableEq, Repr

/-- The value of an element of a format 1 to 7. -/
def tagVal (f bits : Nat) : FVal :=
  if f ≤ 4 then (FF.ofTag f).val bits
  else let x := sOf (tagBits f) bits; .fin (x < 0) x.natAbs 0

/-- Bits [8·a+w-1:8·a] of memory from a bit on: the w bits at bit b from a key. -/
def State.bitsAt (s : State) (key b w : Nat) : Nat := s.rdN (key + b / 8) ((b % 8 + w + 7) / 8) / 2 ^ (b % 8) % 2 ^ w

/-- The exponent byte of source element (i, j): 255 reserved, 256 in error, 0 where the format has none. -/
def srcExp (S : BitVec 256) (exps : List Nat) (i j : Nat) : Nat := if isBfp (dFmt S) then exps.getD (i * (dCols S / 32) + j / 32) 255 else 0

/-- Source element (i, j) holds an uncorrectable error. -/
def State.srcBad (s : State) (S : BitVec 256) (i j : Nat) : Bool :=
  let w := fmtBits (dFmt S)
  s.bad (dBase S + i * dPitch S + w * j / 8) ((w * j + w - 1) / 8 + 1 - w * j / 8)

/-- The status that source element (i, j) gives: an uncorrectable error before a reserved exponent (R175). -/
def State.srcErr (s : State) (S : BitVec 256) (exps : List Nat) (i j : Nat) : Nat :=
  let E := srcExp S exps i j
  if s.srcBad S i j || E = 256 then 0x10 else if E = 255 then 2 else 0

/-- Source element (i, j); none in a block of exponent byte 255 (R34) or where it holds an error; a BFP value is exact in
F32 (R32). `exps` are the exponent bytes. -/
def State.srcElem (s : State) (S : BitVec 256) (exps : List Nat) (i j : Nat) : Option SrcElem :=
  let f := dFmt S
  let w := fmtBits f
  let E := srcExp S exps i j
  if s.srcBad S i j then none
  else
    let b := s.bitsAt (dBase S + i * dPitch S) (w * j) w
    if isBfp f then
      if E ≥ 255 then none
      else let v := bfpVal w E b; some ⟨v, 1, (v.exact.deliver .f32 0 0).1⟩
    else some ⟨tagVal f b, f, b⟩

/-- A block of 32 values in BFP-m (R33): its exponent byte, its mantissas, its flags. `R` gives each element's chunk. -/
def bfpEncode (m md : Nat) (R : Nat → Nat) (xs : List FVal) : Nat × List Nat × Flags :=
  let mags := xs.filterMap fun x => match x with
    | .fin _ k e => if k = 0 then none else some ((Nat.log2 k : Int) + e)
    | _ => none
  let emax : Option Int := mags.foldl (fun a x => some (match a with | none => x | some y => max x y)) none
  let E0 : Int := match emax with | some e => e + 128 | none => 0
  let E : Int := clampInt 0 254 E0
  let sh : Int := (m - 1 : Nat) - (E - 127)
  let el (x : Nat × FVal) : Int × Flags := match x.2 with
    | .nan _ => (0, flNV)
    | .inf n => (if n then sMin m else sMax m, flOF ||| flNX)
    | .fin n k e =>
      let c := cutAt k (e + sh) 0 false
      let y := signed n (c.round md (R x.1) n)
      (clampInt (sMin m) (sMax m) y, if c.inexact || y < sMin m || y > sMax m then flNX ||| (if E0 < 0 then flUF else 0) else 0)
  let ys := ((List.range xs.length).zip xs).map el
  (E.toNat, ys.map fun y => bitsOf m y.1, ys.foldl (fun f y => f ||| y.2) (if E0 > 254 then flOF else 0))

/-- The histogram with one value counted (R71). -/
def Tile.countExp (x : Tile) (H : Int) (v : FVal) : Tile :=
  let inc (c : BitVec 32) : BitVec 32 := if c = 0xFFFFFFFF then c else c + 1
  match v with
  | .fin _ m e => if m = 0 then { x with zcnt := inc x.zcnt }
      else { x with hist := modAt x.hist (clampInt 0 63 ((Nat.log2 m : Int) + e - H)).toNat inc }
  | _ => { x with spcnt := inc x.spcnt }

/-- The addresses of an exponent plane's bytes (R308). -/
def expAddrs (d : BitVec 256) : List Nat :=
  if isBfp (dFmt d) then (List.range (dRows d * (dCols d / 32))).map fun b => dExpb d * 16 + b else []

/-- Reads exponent bytes in order; one with an error reads as 256. -/
def State.readExps (s : State) (t : Nat) (c : Cmd) : List Nat → State × List Nat × MoveEnd
  | [] => (s, [], .fin)
  | a :: l =>
    match s.engRead t c a 1 with
    | (s, .data x bad) =>
      let (s, xs, e) := State.readExps s t c l
      (s, (if bad = 0 then x else 256) :: xs, e)
    | (s, .status st) => (s, [], .stop st)
    | (s, .fault vpn) => (s, [], .stall vpn)
    | (s, .wait) => (s, [], .wait)

/-- The exponent bytes can be written: nothing is written before every one of them can be. -/
def State.expsWritable (s : State) (t : Nat) (c : Cmd) : List Nat → MoveEnd
  | [] => .fin
  | a :: l =>
    match s.engTarget t c a 1 true with
    | .status st => .stop st
    | .fault vpn => .stall vpn
    | .at_ key pte =>
      match (s.engHome t c ⟨key, BitVec.ofNat 64 a, 1, 0, 1, pte, 0, false⟩ fun s => (s, .data 0 0)).2 with
      | .wait => .wait
      | .status st => .stop st
      | _ => State.expsWritable s t c l

/-- Writes w bits at bit b from a key. -/
def State.putBitsAt (s : State) (key b w x : Nat) : State :=
  let a := key + b / 8
  let n := (b % 8 + w + 7) / 8
  let old := s.rdN a n
  let cleared := old - old / 2 ^ (b % 8) % 2 ^ w * 2 ^ (b % 8)
  s.homeStore none a n (BitVec.ofNat 64 (2 ^ n - 1)) (cleared + x % 2 ^ w * 2 ^ (b % 8)) false

/-- The exponent byte of block b of row i of a BFP destination cannot be merged into its COMPRESS block (R178). -/
def State.expLost (s : State) (t : Nat) (c : Cmd) (D : BitVec 256) (i b : Nat) : Bool :=
  isBfp (dFmt D) && match s.engTarget t c (dExpb D * 16 + i * (dCols D / 32) + b) 1 true with
    | .at_ key pte => s.mergeBad key 1 1 pte
    | _ => false

/-- One block of a BFP destination: its mantissa record and its exponent byte, unless a source element is missing; it counts where
the exponent byte is written. -/
def State.cvtBlock (s : State) (t : Nat) (c : Cmd) (D : BitVec 256) (i b : Nat) (xs : List (Option SrcElem)) (z : ConvEnd) : State × ConvEnd :=
  if xs.any Option.isNone then (s, z)
  else
    let m := fmtBits (dFmt D)
    let j0 := i * dCols D + 32 * b
    let (E, ms, f) := bfpEncode m c.rnd.toNat (fun k => c.chunk (j0 + k)) ((xs.filterMap id).map (·.v))
    let s := ((List.range 32).zip ms).foldl (fun s (k, x) => s.putBitsAt (dBase D + i * dPitch D) (m * (32 * b + k)) m x) s
    let lost := s.expLost t c D i b
    ((s.engWrite t c (dExpb D * 16 + i * (dCols D / 32) + b) 1 1 E).1, ⟨if lost then z.n else z.n + 32, z.fl ||| f, z.inv, z.ecc || lost⟩)

/-- The rows of a conversion, each with its source elements. -/
def State.cvtRows (s : State) (t : Nat) (c : Cmd) (D : BitVec 256) (z : ConvEnd) : List (Nat × List (Option SrcElem)) → State × ConvEnd
  | [] => (s, z)
  | (i, xs) :: l =>
    let r :=
      if isBfp (dFmt D) then
        (List.range (dCols D / 32)).foldl (fun (a : State × ConvEnd) b => a.1.cvtBlock t c D i b ((xs.drop (32 * b)).take 32) a.2) (s, z)
      else
        let e := fmtBits (dFmt D) / 8
        ((List.range xs.length).zip xs).foldl (fun (a : State × ConvEnd) (j, x) =>
          match x with
          | none => a
          | some x =>
            let (b, f) := convElem x.f (dFmt D) c.rnd.toNat (c.chunk (i * dCols D + j)) x.bits
            (a.1.homeStore none (elemKey D e i j) e 0xF b false, ⟨a.2.n + 1, a.2.fl ||| f, a.2.inv, a.2.ecc⟩)) (s, z)
    State.cvtRows r.1 t c D r.2 l

/-- The exponent bytes of a plane for which memory is not ready. -/
def State.planeWaits (s : State) (t : Nat) (c : Cmd) (write : Bool) (l : List Nat) : List (Nat × BitVec 64) :=
  l.filterMap fun a => match s.engTarget t c a 1 write with
    | .at_ key pte => if s.memReady key 1 pte || s.frameHeld key || (write && pte.getLsbD 10) then none else some (key, pte)
    | _ => none

/-- Lines that a command's plane is to find. -/
def State.askPlane (s : State) (c : Cmd) (write : Bool) (l : List (Nat × BitVec 64)) : State :=
  l.foldl (fun s x => s.askMem x.1 1 x.2 write none ⟨s.tick, s.tid c.th⟩) s

/-- A CVT runs once memory is ready for its exponent planes (R140): its exponent bytes are read, its elements converted, its counts added in one update (R71). -/
def State.cvtGo (s : State) (t : Nat) (y : Stream) : State :=
  let c := y.cmd
  let (S, D) := (y.sdx, y.rdx)
  let (reads, writes) := (s.planeWaits t c false (expAddrs S), s.planeWaits t c true (expAddrs D))
  if !(reads.isEmpty && writes.isEmpty) then ((s.askPlane c false reads).askPlane c true writes).putStream t y
  else match s.readExps t c (expAddrs S) with
  | (s, _, .stall vpn) => s.stallStream t y vpn 0
  | (s, _, .wait) => s.putStream t y
  | (s, _, .stop st) => s.finishCmd t c st 0 false false
  | (s, exps, .fin) =>
    match s.expsWritable t c (expAddrs D) with
    | .stall vpn => s.stallStream t y vpn 0
    | .wait => s.putStream t y
    | .stop st => s.finishCmd t c st 0 false false
    | .fin =>
      let rows := (List.range (dRows S)).map fun i => (i, (List.range (dCols S)).map fun j => s.srcElem S exps i j)
      let n := (dRows S - 1) * dPitch S + rowBytes S
      let s := if s.bad (dBase S) n then s.logUnc (dBase S) c.ctx.toNat else s
      let (s', z) := s.cvtRows t c D ⟨0, 0, false, false⟩ rows
      -- the first error in row-major order (R175)
      let errs := (List.range (dRows S)).flatMap fun i => (List.range (dCols S)).flatMap fun j =>
        [s.srcErr S exps i j, if j % 32 = 31 && s.expLost t c D i (j / 32) then 0x10 else 0]
      let st := (errs.find? (· != 0)).getD 0
      let s' := if c.w.f 119 119 = 1 && (st = 0 || st = 2) then
          s'.modTile t fun x => (rows.flatMap fun r => r.2.filterMap id).foldl (fun x e => x.countExp (sOf 8 (c.w.f 111 104)) e.v) x
        else s'
      s'.finishCmd t c st z.n (z.fl.getLsbD 2) (z.fl.getLsbD 4)

/-- CVT's status at its start (R161, R302, R313). -/
def State.cvtStatus (s : State) (t : Nat) (c : Cmd) (S D : BitVec 256) : Nat :=
  let acc := bufOf (dBase S) == 3
  let fmtBad (f : Nat) : Bool := f == 0 || f == 15
  let planes (st : Nat) : Bool :=
    (isBfp (dFmt S) && s.rangeBad t c (dExpb S * 16) (dRows S * (dCols S / 32)) false st)
      || (isBfp (dFmt D) && s.rangeBad t c (dExpb D * 16) (dRows D * (dCols D / 32)) true st)
  startStatus
    (bufBad c S false || bufBad c D true || planes 7)
    (descBad c S (c.w.f 127 124) || descBad c D (c.w.f 123 120) || regionBad t c S (if acc then 3 else 2) || regionBad t c D 2
      || dRows S != dRows D || dCols S != dCols D || (c.part && c.w.f 119 119 == 1) || planes 6)
    (fmtBad (dFmt S) || fmtBad (dFmt D) || (acc && (dFmt S != 1 || dAnch S)))

/-- The pages that CVT's start looks at: those of its exponent planes. -/
def State.cvtPages (s : State) (t : Nat) (c : Cmd) : List Nat :=
  let plane (d : BitVec 256) : List Nat := if isBfp (dFmt d) then rangePages (dExpb d * 16) (dRows d * (dCols d / 32)) else []
  plane ((s.tile t).getDesc (c.w.f 127 124)) ++ plane ((s.tile t).getDesc (c.w.f 123 120))

/-- CVT (R313). -/
def execCvt (t q : Nat) (s : State) : Host.Outcome State Fault Refusal :=
  .next (s.startOrGo t q 7 (fun s c => s.cvtPages t c) (fun c s =>
    let x := s.tile t
    let (S, D) := (x.getDesc (c.w.f 127 124), x.getDesc (c.w.f 123 120))
    let st := s.cvtStatus t c S D
    if st != 0 then s.finishCmd t c st 0 false false else s.cvtGo t (.start c S D 0)) fun y s => s.cvtGo t y)

end Sys2Proof.Machine
end

