-- ==== Sys2Proof/Machine/Copy.lean ====
section
/-! DEFINITION. The copy engine's commands (R314 to R317) and TDSC (R318). -/

namespace Sys2Proof.Machine

/-! ## Shaped copies: WLD, ALD, AST (R314) -/

/-- The rows of a descriptor. -/
def rowsOf (d : BitVec 256) : List Nat := if rowBytes d = 0 then [] else List.range (dRows d)

/-- The pieces of a shaped copy: row r in memory at MEM + r·MPITCH, in the buffer at BASE + r·PITCH. -/
def shapedPieces (w : Tcw) (d : BitVec 256) : List Piece :=
  (rowsOf d).flatMap fun r =>
    let m := w.f 191 144 + r * w.f 143 120
    let b := dBase d + r * dPitch d
    if w.op = 4 then rowPieces (some b) m (rowBytes d) else rowPieces (some m) b (rowBytes d)

/-- MEM of a row names a typed buffer, other than WLD's own activation buffer; one that R160 closes gives 0x07 before. -/
def memBufBad (t : Nat) (w : Tcw) (va : Nat) : Bool := bufOf va != 0 && !(w.op == 2 && bufOf va == 2 && va == spaceKey t 2 (fld va 0 26))

/-- The pages that a shaped copy's start looks at. -/
def State.shapedPages (s : State) (t : Nat) (c : Cmd) : List Nat :=
  let d := (s.tile t).getDesc (c.w.f 119 116)
  (rowsOf d).flatMap fun r => rangePages (c.w.f 191 144 + r * c.w.f 143 120) (rowBytes d)

/-- The status of a shaped copy's start. `sp` tells where DX must lie. -/
def State.shapedStatus (s : State) (t : Nat) (c : Cmd) (d : BitVec 256) : Nat :=
  let w := c.w
  let st := w.op == 4
  let sp := if w.op = 2 then 1 else if w.op = 3 then 2 else if bufOf (dBase d) = 3 then 3 else 2
  let bad6 := descBad c d (w.f 119 116) || regionBad t c d sp || (dRows d > 1 && w.f 143 120 < rowBytes d)
  let mem (r : Nat) : Nat := w.f 191 144 + r * w.f 143 120
  startStatus
    (bufBad c d (!st) || (rowsOf d).any fun r => s.rangeBad t c (mem r) (rowBytes d) st 7)
    (bad6 || (rowsOf d).any fun r => memBufBad t w (mem r) || s.rangeBad t c (mem r) (rowBytes d) st 6)
    false

/-- Bits that differ between consecutive bytes. -/
def toggles : List Byte → Nat
  | a :: b :: l => ((List.range 8).filter fun i => (a ^^^ b).getLsbD i).length + toggles (b :: l)
  | _ => 0

/-- TOGGLE of a resident region (R314). -/
def State.toggleOf (s : State) (d : BitVec 256) : Nat :=
  let f := (rowsOf d).foldl (fun n r => n + toggles (s.rdList (dBase d + r * dPitch d) (rowBytes d))) 0
  let T := 8 * (rowBytes d - 1) * dRows d
  if T = 0 then 0 else 65535 * f / T

/-- WLD's end: DX takes its TOGGLE. -/
def State.setToggle (s : State) (t i : Nat) (d : BitVec 256) : State :=
  s.modTile t fun x => { x with desc := modAt x.desc i fun e => putF e 192 16 (s.toggleOf d) }

/-- A shaped copy goes on. -/
def State.shapedGo (s : State) (t : Nat) (y : Stream) : State :=
  let w := y.cmd.w
  s.runMove t y (shapedPieces w y.sdx) (hintOf w 115) fun s => if w.op = 2 then s.setToggle t (w.f 119 116) y.sdx else s

/-- A shaped copy starts. -/
def State.shapedStart (s : State) (t : Nat) (c : Cmd) : State :=
  let d := (s.tile t).getDesc (c.w.f 119 116)
  let st := s.shapedStatus t c d
  if st != 0 then s.finishCmd t c st 0 false false else s.shapedGo t (.start c d 0 0)

/-- WLD (R314). -/
def execWld (t q : Nat) (s : State) : Host.Outcome State Fault Refusal :=
  .next (s.startOrGo t q 2 (fun s c => s.shapedPages t c) (fun c s => s.shapedStart t c) fun y s => s.shapedGo t y)
/-- ALD (R314). -/
def execAld (t q : Nat) (s : State) : Host.Outcome State Fault Refusal :=
  .next (s.startOrGo t q 3 (fun s c => s.shapedPages t c) (fun c s => s.shapedStart t c) fun y s => s.shapedGo t y)
/-- AST (R314). -/
def execAst (t q : Nat) (s : State) : Host.Outcome State Fault Refusal :=
  .next (s.startOrGo t q 4 (fun s c => s.shapedPages t c) (fun c s => s.shapedStart t c) fun y s => s.shapedGo t y)

/-! ## CPY and FILL (R315) -/

/-- CPY's pieces. -/
def cpyPieces (w : Tcw) : List Piece := rowPieces (some (w.f 191 144)) (w.f 127 80) (w.f 44 20)

/-- CPY goes on. -/
def State.cpyGo (s : State) (t : Nat) (y : Stream) : State := s.runMove t y (cpyPieces y.cmd.w) (hintOf y.cmd.w 79) id

/-- CPY's status at its start: ranges that overlap give 0x06. -/
def State.cpyStatus (s : State) (t : Nat) (c : Cmd) : Nat :=
  let (a, b, n) := (c.w.f 191 144, c.w.f 127 80, c.w.f 44 20)
  startStatus (s.rangeBad t c a n false 7 || s.rangeBad t c b n true 7)
    ((a < b + n && b < a + n) || s.rangeBad t c a n false 6 || s.rangeBad t c b n true 6) false

/-- The pages that CPY's start looks at. -/
def cpyPages (c : Cmd) : List Nat := rangePages (c.w.f 191 144) (c.w.f 44 20) ++ rangePages (c.w.f 127 80) (c.w.f 44 20)

/-- CPY (R315). -/
def execCpy (t q : Nat) (s : State) : Host.Outcome State Fault Refusal :=
  .next (s.startOrGo t q 8 (fun _ c => cpyPages c) (fun c s =>
    let st := s.cpyStatus t c
    if st != 0 then s.finishCmd t c st 0 false false else s.cpyGo t (.start c 0 0 0)) fun y s => s.cpyGo t y)

/-- The pattern of FILL, over 64 bytes. -/
def fillPattern (pat : Nat) : Nat := packN 8 (List.replicate 8 pat)

/-- FILL's pieces. -/
def fillPieces (w : Tcw) : List Piece := splitPieces (fillPattern (w.f 191 128)) (w.f 44 20) true none (w.f 127 80) (w.f 44 20)

/-- FILL goes on. -/
def State.fillGo (s : State) (t : Nat) (y : Stream) : State := s.runMove t y (fillPieces y.cmd.w) none id

/-- FILL's status at its start. -/
def State.fillStatus (s : State) (t : Nat) (c : Cmd) : Nat :=
  startStatus (s.rangeBad t c (c.w.f 127 80) (c.w.f 44 20) true 7) (s.rangeBad t c (c.w.f 127 80) (c.w.f 44 20) true 6) false

/-- The pages that FILL's start looks at. -/
def fillPages (c : Cmd) : List Nat := rangePages (c.w.f 127 80) (c.w.f 44 20)

/-- FILL (R315). -/
def execFill (t q : Nat) (s : State) : Host.Outcome State Fault Refusal :=
  .next (s.startOrGo t q 0x0C (fun _ c => fillPages c) (fun c s =>
    let st := s.fillStatus t c
    if st != 0 then s.finishCmd t c st 0 false false else s.fillGo t (.start c 0 0 0)) fun y s => s.fillGo t y)

/-! ## GTH and SCT (R316) -/

/-- Index k of an index descriptor, in row-major order. -/
def State.indexAt (s : State) (ix : BitVec 256) (k : Nat) : Int :=
  sOf 32 (s.rdN (dBase ix + k / dCols ix * dPitch ix + 4 * (k % dCols ix)) 4)

/-- The address of table row k; one outside the addresses is out of reach. -/
def State.tableVa (s : State) (w : Tcw) (ix : BitVec 256) (k : Nat) : Nat :=
  let a : Int := w.f 191 144 + s.indexAt ix k * w.f 143 120
  if a < 0 || a ≥ 2 ^ 48 then 2 ^ 48 else a.toNat

/-- Index k holds an uncorrectable error: its row is not copied (R177). -/
def State.indexBad (s : State) (ix : BitVec 256) (k : Nat) : Bool := s.bad (dBase ix + k / dCols ix * dPitch ix + 4 * (k % dCols ix)) 4

/-- The pieces of a gather or scatter. -/
def State.tablePieces (s : State) (w : Tcw) (d ix : BitVec 256) : List Piece :=
  ((rowsOf d).filter fun k => !s.indexBad ix k).flatMap fun k =>
    let a := s.tableVa w ix k
    let b := dBase d + k * dPitch d
    if w.op = 0x0A then rowPieces (some b) a (rowBytes d) else rowPieces (some a) b (rowBytes d)

/-- A gather or scatter goes on. -/
def State.tableGo (s : State) (t : Nat) (y : Stream) : State := s.runMove t y (s.tablePieces y.cmd.w y.sdx y.rdx) none id

/-- The status of a gather's or scatter's start. -/
def State.tableStatus (s : State) (t : Nat) (c : Cmd) (d ix : BitVec 256) : Nat :=
  let w := c.w
  let st := w.op == 0x0A
  let bad6 := descBad c d (w.f 119 116) || descBad c ix (w.f 115 112) || regionBad t c d 2 || regionBad t c ix 2
    || dRows ix * dCols ix < dRows d
  let rows := if bad6 || dFmt ix != 7 then [] else (rowsOf d).filter fun k => !s.indexBad ix k
  startStatus
    (bufBad c d (!st) || bufBad c ix false || rows.any fun r => s.rangeBad t c (s.tableVa w ix r) (rowBytes d) st 7)
    (bad6 || rows.any fun r => s.rangeBad t c (s.tableVa w ix r) (rowBytes d) st 6)
    (dFmt ix != 7)

/-- The pages that a gather's or scatter's start looks at. -/
def State.rowPages (s : State) (t : Nat) (c : Cmd) : List Nat :=
  let d := (s.tile t).getDesc (c.w.f 119 116)
  let ix := (s.tile t).getDesc (c.w.f 115 112)
  (rowsOf d).flatMap fun r => rangePages (s.tableVa c.w ix r) (rowBytes d)

/-- A gather or scatter starts. -/
def State.tableStart (s : State) (t : Nat) (c : Cmd) : State :=
  let d := (s.tile t).getDesc (c.w.f 119 116)
  let ix := (s.tile t).getDesc (c.w.f 115 112)
  let k := s.tableStatus t c d ix
  if k != 0 then s.finishCmd t c k 0 false false
  else if (rowsOf d).any (s.indexBad ix) then (s.logUnc (dBase ix) c.ctx.toNat).tableGo t { Stream.start c d ix 0 with err := 0x10 }
  else s.tableGo t (.start c d ix 0)

/-- GTH (R316). -/
def execGth (t q : Nat) (s : State) : Host.Outcome State Fault Refusal :=
  .next (s.startOrGo t q 9 (fun s c => s.rowPages t c) (fun c s => s.tableStart t c) fun y s => s.tableGo t y)
/-- SCT (R316). -/
def execSct (t q : Nat) (s : State) : Host.Outcome State Fault Refusal :=
  .next (s.startOrGo t q 0x0A (fun s c => s.rowPages t c) (fun c s => s.tableStart t c) fun y s => s.tableGo t y)

/-! ## XFR (R317) -/

/-- A row's destination lies in the activation buffer of another tile, in the column (R317): none, or a status. -/
def State.peerStatus (s : State) (t : Nat) (c : Cmd) (va n : Nat) : Option Nat :=
  match (if va + n > 2 ^ 48 || fld va 46 2 != 3 then none else onchip (lcoreOfT t 0) va n) with
  | none => some 6
  | some key =>
    if spaceOf key = 1 || spaceOf key = 3 then some 7
    else if spaceOf key != 2 || keyTile key = t || c.crosses (offOf key) n (bufPart 2) (bufSize 2) then some 6
    else
      let p : Part := ⟨key, BitVec.ofNat 64 va, n, 0, 0, 0, 0, false⟩
      match s.homeCheck (c.req p) p with
      | .fail cause _ => some (if cause = cPeerGone then 12 else 6)
      | _ => none

/-- Copies rows into the other tile's buffer, row by row, from row r on; a refused row waits (R182). -/
def State.xfrRows (s : State) (t : Nat) (y : Stream) : List Nat → State
  | [] => s.finishCmd t y.cmd y.err.toNat y.bytes false false
  | r :: l =>
    let w := y.cmd.w
    let n := rowBytes y.sdx
    let va := w.f 191 144 + r * w.f 143 120
    match s.peerStatus t y.cmd va n with
    | some st => s.finishCmd t y.cmd (if y.err = 0 then st else y.err.toNat) y.bytes false false
    | none =>
      if s.refuses va then s.putStream t y
      else
        let src := dBase y.sdx + r * dPitch y.sdx
        let bad : Nat → Bool := fun i => s.bad (src + i) 1
        let is := List.range n
        let s' := is.foldl (fun s' i => if bad i then s' else s'.homeStore none (va + i) 1 1 (s.rdByte (src + i)).toNat false) s
        let e := is.any bad
        let s' := { s' with upsets := s'.upsets.filter fun u => !(va ≤ u * 8 && u * 8 + 8 ≤ va + n) }
        State.xfrRows (if e then s'.logUnc src y.cmd.ctx.toNat else s') t
          { y with done := y.done + 1, bytes := y.bytes + (is.filter fun i => !bad i).length, err := if y.err = 0 && e then 0x10 else y.err } l

/-- XFR goes on. -/
def State.xfrGo (s : State) (t : Nat) (y : Stream) : State := s.xfrRows t y ((rowsOf y.sdx).drop y.done)

/-- XFR's status at its start. -/
def State.xfrStatus (s : State) (t : Nat) (c : Cmd) (d : BitVec 256) : Nat :=
  let w := c.w
  let sp := if bufOf (dBase d) = 3 then 3 else 2
  let bad6 := descBad c d (w.f 119 116) || regionBad t c d sp
  let peer := if bad6 then [] else (rowsOf d).filterMap fun r => s.peerStatus t c (w.f 191 144 + r * w.f 143 120) (rowBytes d)
  startStatus (bufBad c d false || peer.contains 7) (bad6 || peer.contains 6) false

/-- XFR (R317). -/
def execXfr (t q : Nat) (s : State) : Host.Outcome State Fault Refusal :=
  .next (s.startOrGo t q 0x0B (fun _ _ => []) (fun c s =>
    let d := (s.tile t).getDesc (c.w.f 119 116)
    let k := s.xfrStatus t c d
    if k != 0 then s.finishCmd t c k 0 false false else s.xfrGo t (.start c d 0 0)) fun y s => s.xfrGo t y)

/-! ## TDSC (R318) -/

/-- TDSC (R318): DX takes bits [191:74] and EXPB; its TOGGLE is cleared. -/
def execTdsc (t q : Nat) (s : State) : Host.Outcome State Fault Refusal :=
  .next (s.startCmd t q 0x0D fun c s =>
    let i := c.w.f 73 70
    if c.barred i then s.finishCmd t c 6 0 false false
    else (s.modTile t fun x => { x with
      desc := modAt x.desc i fun _ => BitVec.ofNat 256 (c.w.f 191 74 * 2 ^ 74 + c.w.f 63 20 * 2 ^ 212) }).finishCmd t c 0 0 false false)

end Sys2Proof.Machine
end

