-- ==== Sys2Proof/Machine/Directional.lean ====
section
/-! DEFINITION. Directional registers (R54 to R63, R293 to R299). A group of 2^G registers is a list of 32·2^G
components, each an integer multiple of 2^−14, with a norm that is an integer multiple of 2^−21. -/

namespace Sys2Proof.Machine

/-- A direction: components in 2^−14, norm in 2^−21. -/
structure Dir where
  c : List Int
  n : Int
  deriving DecidableEq, Repr

/-- The norm code ZERO (R54). -/
def normZero : Int := -(2 ^ 31)
/-- The largest norm code. -/
def normMax : Int := 2 ^ 31 - 1
/-- Components of a group (R55). -/
def dirLen (g : BitVec 2) : Nat := 32 * 2 ^ g.toNat
/-- The zero vector (R56). -/
def Dir.zero (g : BitVec 2) : Dir := ⟨List.replicate (dirLen g) 0, normZero⟩
/-- Read as the zero vector (R56). -/
def Dir.isZero (a : Dir) : Bool := a.n == normZero || a.c.all (· == 0)

/-- A group's registers. -/
def dirRegs (k : BitVec 3) (g : BitVec 2) : List (BitVec 3) := (List.range (2 ^ g.toNat)).map fun j => k + BitVec.ofNat 3 j

/-- A group as read (R54, R55). -/
def State.rDir (s : State) (k : BitVec 3) (g : BitVec 2) : Dir :=
  ⟨(dirRegs k g).flatMap fun r => (elems (s.src.getD r) 2).map (sOf 16), (s.src.getN k).toInt⟩

/-- The writes of a group (R55, R63): every component and the norm together. -/
def dirWrites (k : BitVec 3) (g : BitVec 2) (a : Dir) : List RegWrite :=
  (List.range (2 ^ g.toNat)).map (fun j =>
    RegWrite.d (k + BitVec.ofNat 3 j) (ofElems 2 (((a.c.drop (32 * j)).take 32).map (bitsOf 16))))
  ++ [.n k (BitVec.ofInt 32 a.n)]

/-- The registers a group's result names (R25). -/
def dirDests (k : BitVec 3) (g : BitVec 2) : List Reg := (dirRegs k g).map (fun r => Reg.d r.toNat) ++ [.n k.toNat]

/-- Writes a group at once. -/
def State.wDir (s : State) (k : BitVec 3) (g : BitVec 2) (a : Dir) : State := s.upd fun w => w.applyAll (dirWrites k g a)

/-- The first register of a group without the DQ tag (R38, R55). -/
def State.dirTag (s : State) (k : BitVec 3) (g : BitVec 2) : Option Trap := s.dtagTrap k.toNat (2 ^ g.toNat)

/-- Runs an effect where two groups carry their tags. -/
def State.dirTags2 (s : State) (a b : BitVec 3) (g : BitVec 2) (k : State) : State := s.unless (s.dirTag a g) (s.unless (s.dirTag b g) k)

/-- Renorm (R57): `u` in 2^−30, `m` in 2^−21. -/
def renorm (u : List Int) (m : Int) (g : BitVec 2) : Dir × Flags :=
  let s : Nat := u.foldl (fun a x => a + x.natAbs * x.natAbs) 0
  if s = 0 then (Dir.zero g, 0)
  else
    let (r, x, st) := recipSqrt s (-60)
    let (q, qe) := roundSig 24 r x st
    let c := u.map fun y => roundFixed 14 (y * q) (qe - 30) false
    let h : Int := if isPow2 s then log2Floor s (-60) * 2 ^ 20 else roundFixed 21 (log2Fx s (-60)) (-(fxP : Int) - 1) true
    let v := m + h
    let sum : Int := c.foldl (fun a y => a + y * y) 0
    let c :=
      if (sum - 2 ^ 28).natAbs > 2 ^ 18 then
        let mx := c.foldl (fun a y => max a y.natAbs) 0
        let j := (c.findIdx? fun y => y.natAbs == mx).getD 0
        c.mapIdx fun i y => if i = j then (if sum > 2 ^ 28 then y - y.sign else y + y.sign) else y
      else c
    if v > normMax then (⟨c, normMax⟩, flOF)
    else if v < normZero + 1 then (Dir.zero g, flUF)
    else (⟨c, v⟩, 0)

/-- A renormalising instruction's result, long-latency (R58, R63). -/
def State.pendDir (s : State) (d : BitVec 3) (g : BitVec 2) (x : Dir × Flags) : State := s.pendReady (dirDests d g) (dirWrites d g x.1) x.2

/-- An integer times 2^e, toward zero. -/
def truncShift (x : Int) (e : Int) : Int := if 0 ≤ e then x * 2 ^ e.toNat else x.tdiv (2 ^ (-e).toNat)

/-- AddDir (R295): weights in sixteenths. -/
def addDir (a b : Dir) (wa wb : Int) (g : BitVec 2) : Dir × Flags :=
  if a.isZero && b.isZero then (Dir.zero g, 0)
  else
    let aFirst := b.isZero || (!a.isZero && a.n ≥ b.n)
    let (x, wx, y, wy) := if aFirst then (a, wa, b, wb) else (b, wb, a, wa)
    let (q, qe) := if y.isZero then (0, 0) else (pow2 true (x.n - y.n).toNat (-21)).sig 32
    let u := (x.c.zip y.c).map fun (xi, yi) => wx * xi * 2 ^ 12 + truncShift (wy * q * yi) (qe + 12)
    renorm u x.n g

/-- VTOD's source values become a direction (R61). -/
def vecToDir (l : List FVal) (g : BitVec 2) : Dir × Flags :=
  let mags := l.filterMap fun
    | .fin _ m e => if m = 0 then none else some (log2Floor m e)
    | _ => none
  if l.any fun | .fin .. => false | _ => true then (Dir.zero g, flNV)
  else match mags with
  | [] => (Dir.zero g, 0)
  | x :: xs =>
    let e := xs.foldl max x
    renorm (l.map fun | .fin n m ex => truncShift (signed n m) (ex - e + 30) | _ => 0) (e * 2 ^ 21) g

/-- VTOD (R61, R294). -/
def execVtod (d : BitVec 3) (v : BitVec 4) (g : BitVec 2) (f : BitVec 4) (_r : BitVec 3) (s : State) : Host.Outcome State Fault Refusal :=
  let rs := (List.range (dirVecCount f g)).map fun j => v + BitVec.ofNat 4 j
  let l := rs.flatMap fun r => (elems (s.rV r) (Fmt.size f)).map (ffOf f).val
  .next (s.unless (s.vtagTrap (rs.map fun r => (r, f))) (s.pendDir d g (vecToDir l g)))

/-- DTOV's element: |c|·P·2^k rounded once; beyond the format it is infinite under every code (R62). -/
def dirElem (f : FF) (md R : Nat) (c : Int) (q : Nat) (e : Int) : Nat × Flags :=
  let x := f.round md R (c < 0) (c.natAbs * q) (e - 14) false
  if hasFlag x.2 flOF then (f.inf (c < 0), flOF ||| flNX) else x

/-- DTOV (R62, R294). -/
def execDtov (v : BitVec 4) (a : BitVec 3) (g : BitVec 2) (f : BitVec 4) (r : BitVec 3) (s : State) : Host.Outcome State Fault Refusal :=
  let x := s.rDir a g
  let md := roundMode s.src r.toNat
  let k := x.n / 2 ^ 21
  let (q, qe) := (pow2 false (x.n % 2 ^ 21).toNat (-21)).sig 32
  let rs := if x.isZero then x.c.map fun _ => (0, 0)
    else x.c.mapIdx fun j c => dirElem (ffOf f) md (s.chunkIf md j) c q (qe + k)
  let n := 64 / Fmt.size f
  let ws := (List.range (dirVecCount f g)).map fun j =>
    RegWrite.v (v + BitVec.ofNat 4 j) (resVec (Fmt.size f) ((rs.drop (n * j)).take n)) (BitVec.allOnes 64) (some f)
  .next (s.unless (s.dirTag a g)
    ((s.consume md (dirLen g)).pendReady ((List.range (dirVecCount f g)).map fun j => .v (v.toNat + j)) ws (allFlags rs)))

/-- DADD, DSUB and DLERP (R295). -/
def State.dirSum (s : State) (d a b : BitVec 3) (g : BitVec 2) (wa wb : Int) : State :=
  s.dirTags2 a b g (s.pendDir d g (addDir (s.rDir a g) (s.rDir b g) wa wb g))

/-- DADD (R295). -/
def execDadd (d a b : BitVec 3) (g : BitVec 2) (_r : BitVec 3) (s : State) : Host.Outcome State Fault Refusal := .next (s.dirSum d a b g 16 16)
/-- DSUB (R295). -/
def execDsub (d a b : BitVec 3) (g : BitVec 2) (_r : BitVec 3) (s : State) : Host.Outcome State Fault Refusal := .next (s.dirSum d a b g 16 (-16))
/-- DLERP: OPT holds t − 1 (R295). -/
def execDlerp (d a b : BitVec 3) (g : BitVec 2) (_r : BitVec 3) (t : BitVec 4) (s : State) : Host.Outcome State Fault Refusal :=
  .next (s.dirSum d a b g (15 - t.toNat) (t.toNat + 1))

/-- DREN (R296). -/
def execDren (d a : BitVec 3) (g : BitVec 2) (_r : BitVec 3) (s : State) : Host.Outcome State Fault Refusal :=
  let x := s.rDir a g
  .next (s.unless (s.dirTag a g)
    (s.pendDir d g (if x.isZero then (Dir.zero g, 0) else renorm (x.c.map (· * 2 ^ 16)) x.n g)))

/-- Writes the norm alone. -/
def State.wNorm (s : State) (k : BitVec 3) (n : Int) : State := s.upd fun w => w.setN k (BitVec.ofInt 32 n)

/-- DSCL (R59, R297). The scalar code 0x8000_0000, which R54 gives to ZERO and R59 does not name, is added as −1024
(log 54). -/
def execDscl (d : BitVec 3) (sa : BitVec 5) (g : BitVec 2) (s : State) : Host.Outcome State Fault Refusal :=
  let x := s.rDir d g
  let v := x.n + ((s.rS sa).setWidth 32).toInt
  .next (s.unless (s.dirTag d g)
    (if x.isZero then s
     else if v > normMax then s.finish flOF 0 0 fun s' => s'.wNorm d normMax
     else if v < normZero + 1 then s.finish flUF 0 0 fun s' => s'.wDir d g (Dir.zero g)
     else s.wNorm d v))

/-- DSETN (R297). -/
def execDsetn (d : BitVec 3) (sa : BitVec 5) (g : BitVec 2) (s : State) : Host.Outcome State Fault Refusal :=
  let x := s.rDir d g
  let v := ((s.rS sa).setWidth 32).toInt
  .next (s.unless (s.dirTag d g)
    (if v = normZero then s.wDir d g (Dir.zero g) else if x.isZero then s else s.wNorm d v))

/-- A component negated; −2 has no negative (R58; log 21). -/
def negComp (i : Nat) (c : Int) : Int := if c = -32768 then sOf 16 (Config.dqNegMin i).toNat else -c

/-- The components of a negated direction: never all 0 where they were not (R56). -/
def negComps (c : List Int) : List Int :=
  let y := c.mapIdx negComp
  if y.all (· == 0) then c.mapIdx fun i v => if v = -32768 then sOf 16 ((Config.dqNegNonzero i).val + 1) else -v else y

/-- DNEG (R58, R298). -/
def execDneg (d a : BitVec 3) (g : BitVec 2) (s : State) : Host.Outcome State Fault Refusal :=
  let x := s.rDir a g
  .next (s.unless (s.dirTag a g) (s.wDir d g (if x.isZero then Dir.zero g else ⟨negComps x.c, x.n⟩)))
/-- DMOV (R298). -/
def execDmov (d a : BitVec 3) (g : BitVec 2) (s : State) : Host.Outcome State Fault Refusal :=
  let x := s.rDir a g
  .next (s.unless (s.dirTag a g) (s.wDir d g (if x.isZero then Dir.zero g else x)))

/-- DCOS (R60, R299): one chunk. -/
def execDcos (sd : BitVec 5) (a b : BitVec 3) (g : BitVec 2) (r : BitVec 3) (s : State) : Host.Outcome State Fault Refusal :=
  let x := s.rDir a g
  let y := s.rDir b g
  let md := roundMode s.src r.toNat
  let p : Int := (x.c.zip y.c).foldl (fun t (u, v) => t + u * v) 0
  let q := if x.isZero || y.isZero then (0, flZD) else FF.f32.round md (s.chunkIf md 0) (p < 0) p.natAbs (-28) false
  .next (s.dirTags2 a b g (s.finish q.2 md 1 fun s' => s'.wS sd (BitVec.ofNat 64 q.1)))

/-- DNRM (R299). -/
def execDnrm (sd : BitVec 5) (a : BitVec 3) (g : BitVec 2) (_r : BitVec 3) (s : State) : Host.Outcome State Fault Refusal :=
  let x := s.rDir a g
  .next (s.unless (s.dirTag a g) (s.wS sd (BitVec.ofInt 64 (if x.isZero then normZero else x.n))))

end Sys2Proof.Machine
end

