-- ==== Sys2Proof/Machine/Fabric.lean ====
section
/-! DEFINITION. The networks' own steps: conflicts at banks and butterflies (R130), the die mesh (R128, R131 to R134), bridges
(R135), and links with replay, retraining and failover (R180, R181, R344 to R346). A request is performed at a home of another
node once its packet has come there (R127). -/

namespace Sys2Proof.Machine

/-! ## Conflicts (R129, R130) -/

/-- A bank of 8 KiB of an on-chip memory, by a key. R129 gives the size for a scratchpad; for a typed buffer and a page it is the
model's (log 54). -/
def bankOf (k : Nat) : Nat × Nat × Nat := (coreOfKey k, spaceOf k, offOf k / 8192)

/-- The output of a butterfly by which a key is reached: that of its tile or port core. -/
def outputOf (k : Nat) : Nat := homeOfKey k / 4

/-- The requests of a list of claims that are due at a bank of another core's memory, or across a butterfly, each with its part's
place. -/
def State.claims (s : State) (bank : Bool) (l : List (Nat × Nat)) : List (Req × Nat × Part) :=
  l.eraseDups.filterMap fun x => match s.req x.1 with
    | some r => match r.parts[x.2]? with
      | some p =>
        if r.st == .inflight && s.mayArrive r x.2 && p.key < fabricBase
            && (if bank then !isHbm p.key && r.lcore != coreOfKey p.key else r.lcore / 4 != outputOf p.key) then some (r, x.2, p) else none
      | none => none
    | none => none

/-- Part j of a request is served at its home, in the way of its kind. -/
def State.servePart (s : State) (r : Req) (j : Nat) : State :=
  match r.kind with
  | .red .. => s.redArrive r.rid
  | .barrier _ => s.barrierApply [r.rid]
  | .commit => s.commitArrive r.rid
  | _ => s.arrive r.rid j

/-- Several requests meet at a bank or at an output of a butterfly, the first one's: the oldest is served at its home, and each other
returns to its core and is sent again at its thread's next turn (R130). Nothing is lost where the home cannot serve it yet. -/
def State.contend (s : State) (bank : Bool) (l : List (Nat × Nat)) : State :=
  match s.claims bank l with
  | [] => s
  | (r0, j0, p0) :: rest =>
    let here (k : Nat) : Bool := if bank then bankOf k == bankOf p0.key else outputOf k == outputOf p0.key
    let all := (r0, j0, p0) :: rest.filter fun x => x.1.rid != r0.rid && here x.2.2.key
    match s.first (fun x => x.1.claim) all with
    | none => s
    | some w =>
      let u := s.servePart w.1 w.2.1
      if (u.claims bank [(w.1.rid, w.2.1)]).isEmpty then
        (all.filter fun x => x.1.rid != w.1.rid).foldl (fun s x => s.setReq x.1.rid fun q => if q.st == .inflight then { q with st := .replay } else q) u
      else s

/-! ## Packets (R133) -/

/-- Mesh flits of a request's packet to a node: a 64-byte header and its payload; a MIGR has 33. -/
def Req.flits (r : Req) (node : Nat) : Nat :=
  match r.kind with
  | .load | .ldv _ | .ldfe | .gqry | .vrcl _ | .barrier _ => 1
  | .migr _ => 33
  | .spawn _ _ as _ => flitsOf (8 * as.length)
  | .rcall _ _ _ as vs | .reply _ _ as vs => flitsOf (8 * as.length + 64 * vs.length)
  | .faultRec .. => flitsOf 32
  | .inbox _ _ bs _ => flitsOf bs.length
  | .send .. => flitsOf 16
  | .amo .. | .amoc .. | .red .. => flitsOf 16
  | _ => flitsOf (((r.parts.filter fun p => p.node == node).map Part.len).foldl (· + ·) 0)

/-- A request may leave its core: it has not, and nothing holds it there (R78, R86, R255). -/
def State.maySend (s : State) (r : Req) : Bool :=
  r.st == .inflight && !r.sent && (!r.hold || (s.earlier r.th r.src.seq).isEmpty)
    && !(r.kind.isWrite && s.fencesHold r.fences r.th r.lcore r.src.seq)
    && (match r.kind with | .rcall .. => s.callRuns r | _ => true)

/-- A request cannot reach a node: ACCESS with reason 22, deferred where its bundle has issued (R181). -/
def State.unroutable (s : State) (r : Req) : State := (s.failHere r cAccess 22 none).unpark r.th r.rid

/-- The packets of a request are made, one for each node that it goes to; with no path it is answered as unroutable. -/
def State.sendReq (s : State) (r : Req) : State :=
  if r.nodes.all fun n => (s.hopOf (r.node / 8) n).isSome then
    (r.nodes.foldl (fun s n => s.addPacket (.req r.rid) r.node n (r.flits n) (r.claim)) s).setReq r.rid fun q => { q with sent := true }
  else s.unroutable r

/-- The flits of a packet at a router, in order of index. -/
def packetFlits (p : Packet) (dst via at_ : Nat) : List Flit := (List.range p.len).map fun i => ⟨p.src, dst, p.id, i, p.len, p.claim, via, at_⟩

/-- A packet leaves the networks. -/
def State.dropPacket (s : State) (id : Nat) : State := { s with packets := s.packets.filter fun p => p.id != id }

/-- A packet with no path: a request is answered as unroutable, anything else is dropped (R181; log 8). -/
def State.noPath (s : State) (p : Packet) : State :=
  let s := s.dropPacket p.id
  match p.load with
  | .req rid => s.onReq rid s.unroutable
  | _ => s

/-- A packet is handed to a die's mesh at a router. -/
def State.enterMesh (s : State) (die via at_ : Nat) (p : Packet) : State :=
  match s.hopOf die p.dst with
  | some e => s.modDie die fun d => { d with inject := d.inject ++ packetFlits p e via at_ }
  | none => s.noPath p

/-- The packets that a die's cores and ports have made enter its mesh. -/
def State.launchPackets (s : State) (die : Nat) : State :=
  let s := (s.net.filter fun r => dieOfCore r.lcore == die && s.maySend r).foldl State.sendReq s
  let new := s.packets.filter fun p => !p.entered && p.src < 48 && p.src / 8 == die
  let s := { s with packets := s.packets.map fun p => if new.contains p then { p with entered := true } else p }
  new.foldl (fun s p => s.enterMesh die 0 (p.src % 8) p) s

/-! ## Routers (R131) -/

/-- The router at which an endpoint of a mesh stands. -/
def routerOf (e : Nat) : Nat := if e < 8 then e else (Config.bridgeNode (e - 8)).val

/-- The nodes that a node's outputs lead to, of the 2 × 4 mesh: X before Y. -/
def outputs (n : Nat) : List Nat :=
  (if n % 4 > 0 then [n - 1] else []) ++ (if n % 4 < 3 then [n + 1] else []) ++ [if n < 4 then n + 4 else n - 4]

/-- Hops between two nodes. -/
def meshDist (a b : Nat) : Nat := (max (a % 4) (b % 4) - min (a % 4) (b % 4)) + (if a / 4 = b / 4 then 0 else 1)

/-- Of the free outputs, the first that shortens the path; else the first. -/
def pickOutput (free : List Nat) (at_ dst : Nat) : Option Nat :=
  match free.find? fun o => meshDist o dst < meshDist at_ dst with
  | some o => some o
  | none => free.head?

/-- One flit stands before another: the older, then the lower thread id, then the lower index (R128); of two packets of one claim
the one made first. -/
def State.flitBefore (s : State) (a b : Flit) : Bool :=
  s.older a.claim b.claim || (!s.older b.claim a.claim && (a.index < b.index || (a.index == b.index && a.tag < b.tag)))

/-- Ranked by age. -/
def State.rankFlit (s : State) (x : Flit) : List Flit → List Flit
  | [] => [x]
  | y :: l => if s.flitBefore x y then x :: y :: l else y :: State.rankFlit s x l

/-- Bytes of packets in a buffer. -/
def bytesIn (l : List Nat) : Nat := 64 * l.foldl (· + ·) 0

/-- A packet buffer of 64 KiB (R135). -/
def bridgeBytes : Nat := 65536

/-- Bytes that the near buffer of a link's bridge holds or has given to packets on their way into it. -/
def nearBytes (as : List Assembly) (e : Nat) (near : List Packet) : Nat :=
  bytesIn ((as.filter fun a => a.dst == e).map Assembly.len) + bytesIn (near.map Packet.len)

/-- An endpoint takes a flit where its packet has a place, or one is free for the whole packet: one of a router's 32 slots (R133),
or space in a bridge's buffer (R135). -/
def State.takeFlit (s : State) (as : List Assembly) (f : Flit) : Option (List Assembly) :=
  let mine : Assembly → Bool := fun a => a.dst == f.dst && a.tag == f.tag
  if as.any mine then some (as.map fun a => if mine a then { a with have_ := f.index :: a.have_.filter fun i => i != f.index } else a)
  else if (if f.dst < 8 then (as.filter fun a => a.dst == f.dst).length < 32
      else nearBytes as f.dst (s.link (f.dst - 8)).nearBuf + 64 * f.len ≤ bridgeBytes) then some (as ++ [⟨f.dst, f.tag, f.len, [f.index]⟩])
  else none

/-- A router in a hop cycle: outputs and ejection ports left, flits sent, assemblies. -/
structure Router where
  free : List Nat
  eject : Nat
  out : List Flit
  as : List Assembly
  deriving DecidableEq, Repr

/-- A flit at a router takes an ejection port, an output that shortens its path, or any free output (R131). A deflected one takes
the first free output, X before Y, in its own place in the ranking: the spec says neither (log 54). -/
def State.route (s : State) (n : Nat) (r : Router) (f : Flit) : Router :=
  let move (r : Router) : Router := match pickOutput r.free n (routerOf f.dst) with
    | some o => { r with free := r.free.filter fun x => x != o, out := r.out ++ [{ f with at_ := o }] }
    | none => { r with out := r.out ++ [f] }
  if routerOf f.dst = n && r.eject > 0 then
    match s.takeFlit r.as f with
    | some as => { r with eject := r.eject - 1, as := as }
    | none => move r
  else move r

/-- A node's hop: its arrivals by rank, then one injection where an output is free and no other router starves. -/
def State.node (s : State) (d : Die) (n : Nat) (acc : Die) : Die :=
  let here := (d.flits.filter fun f => f.at_ == n).foldl (fun l f => s.rankFlit f l) []
  let r := here.foldl (s.route n) ⟨outputs n, 2, [], acc.assemblies⟩
  let acc := { acc with assemblies := r.as, flits := acc.flits ++ r.out }
  match d.inject.find? fun f => f.at_ == n with
  | none => { acc with heads := acc.heads.filter fun h => h.1 != n }
  | some f =>
    let waits := { acc with heads := if acc.heads.any fun h => h.1 == n && h.2.1 == f then acc.heads else (n, f, s.tick) :: acc.heads.filter fun h => h.1 != n }
    match pickOutput r.free n (routerOf f.dst) with
    | some o =>
      if d.starve.isEmpty || d.starve.contains n then
        { acc with
          flits := acc.flits ++ [{ f with at_ := o }], inject := acc.inject.erase f, starve := acc.starve.filter fun x => x != n
          heads := acc.heads.filter fun h => h.1 != n }
      else waits
    | none => waits

/-- A die's mesh moves by one hop. -/
def State.hop (s : State) (d : Die) : Die := (List.range 8).foldl (fun acc n => s.node d n acc) { d with flits := [] }

/-- A packet whole at a bridge stands in its near buffer (R135). -/
def State.gather (s : State) (die : Nat) : State :=
  ((s.die die).assemblies.filter fun a => a.dst ≥ 8 && a.have_.length == a.len).foldl (fun s a =>
    let s := s.modDie die fun d => { d with assemblies := d.assemblies.erase a }
    match s.packets.find? fun p => p.id == a.tag with
    | some p => s.modLink (a.dst - 8) fun x => { x with nearBuf := x.nearBuf ++ [p] }
    | none => s) s

/-- The refusals in a die's slot registers leave (R134). -/
def State.sendRefusals (s : State) (die : Nat) : State :=
  let rs := (s.die die).refusals
  let s := s.modDie die fun d => { d with refusals := [] }
  rs.foldl (fun s x => match x.2.load with
    | .req rid => s.addPacket (.ans rid) (8 * die + x.1) x.2.src 1 x.2.claim
    | _ => s) s

/-- HOP_CYCLE (R131, R134): what has been made enters the mesh, and every flit moves. -/
def execHopCycle (die : Nat) (s : State) : Host.Outcome State Fault Refusal :=
  .next (if die ≥ 6 then s
    else
      let s := (s.sendRefusals die).launchPackets die
      (s.modDie die s.hop).gather die)

/-- STARVE (R132): the head of a router's injection queue has waited 64 cycles. -/
def execStarve (die node : Nat) (s : State) : Host.Outcome State Fault Refusal :=
  .next (if (s.die die).heads.any fun h => h.1 == node && s.tick ≥ h.2.2 + 64 then
      s.modDie die fun d => { d with starve := if d.starve.contains node then d.starve else d.starve ++ [node] }
    else s)

/-- A packet is delivered to a node, or to an endpoint of the fabric. -/
def State.deliver (s : State) (p : Packet) : State :=
  let s := s.dropPacket p.id
  match p.load with
  | .req rid => s.setReq rid fun q => { q with legs := q.legs ++ [p.dst] }
  | _ => s

/-- An endpoint refuses a request's packet: a bounce of a SPAWN, and a refusal of what R112 and R119 let a target refuse; any
other is taken. -/
def State.refusePacket (s : State) (r : Req) : Option State :=
  match r.kind with
  | .spawn .. => some (s.setReq r.rid fun q => { q with st := .answered none 0 })
  | .ldv _ | .ldfe | .stfe | .inbox .. | .migr _ | .rcall .. | .red .. | .send .. =>
    some (s.setReq r.rid fun q => { q with st := .refused, refusals := q.refusals + 1 })
  | _ => none

/-- PACKET_REASSEMBLED (R134): a complete packet frees its slot; its target accepts it, or its endpoint refuses it and holds the
answer in the slot's register. -/
def execPacketReassembled (die node tag : Nat) (accept : Bool) (s : State) : Host.Outcome State Fault Refusal :=
  .next (match (s.die die).assemblies.find? fun a => a.dst == node && a.dst < 8 && a.tag == tag && a.have_.length == a.len with
    | none => s
    | some a =>
      let s := s.modDie die fun d => { d with assemblies := d.assemblies.erase a }
      match s.packets.find? fun p => p.id == tag with
      | none => s
      | some p =>
        let refused := match p.load with
          | .req rid => (s.req rid).bind fun r => if r.st == .inflight then s.refusePacket r else none
          | _ => none
        match (if accept then none else refused) with
        | some t => (t.dropPacket p.id).modDie die fun d => { d with refusals := d.refusals ++ [(node, p)] }
        | none => s.deliver p)

/-! ## Bridges and links (R135, R180, R344) -/

/-- Link flits of a packet: two of 256 bits to a mesh flit between dies, one of 512 on a Kensel link (R135, R344). -/
def linkFlits (k n : Nat) : Nat := if k < 14 then 2 * n else n

/-- The die into which the far bridge of a link leads; none where it is a peer's. -/
def farDie (k : Nat) : Option Nat := match linkDies k with
  | some (_, b) => some b
  | none => if k < 40 then none else some (linkDie k)

/-- Bytes of the far bridge's buffer: of packets that it has granted space, holds whole, or has not wholly injected (R135). -/
def State.farBytes (s : State) (k : Nat) : Nat :=
  let x := s.link k
  bytesIn ((x.coming ++ x.farBuf).map Packet.len) + match farDie k with
    | some d => 64 * ((s.die d).inject.filter fun f => f.via == 8 + k).length
    | none => 0

/-- The number that a die keeps for a pair of a source and a destination. -/
def pairNo (l : List (Nat × Nat × Nat)) (p : Packet) : Nat :=
  match l.find? fun x => x.1 == p.src && x.2.1 == p.dst with
  | some x => x.2.2
  | none => 0

/-- A pair's number is kept. -/
def setPair (l : List (Nat × Nat × Nat)) (p : Packet) (n : Nat) : List (Nat × Nat × Nat) :=
  (p.src, p.dst, n) :: l.filter fun x => !(x.1 == p.src && x.2.1 == p.dst)

/-- The latest number of a pair over the dies whose links its packets have crossed. -/
def State.pairLast (s : State) (f : Die → List (Nat × Nat × Nat)) (p : Packet) : Nat :=
  (List.range 6).foldl (fun n d => max n (pairNo (f (s.die d)) p)) 0

/-- A packet that goes onto a Kensel link for the first time takes its pair's next number (R346). -/
def State.number (s : State) (k : Nat) (p : Packet) : State × Packet :=
  if k < 14 || p.pair != 0 then (s, p)
  else
    let n := s.pairLast Die.pairs p + 1
    ({ s with packets := s.packets.map fun (q : Packet) => if q.id = p.id then { q with pair := n } else q }.modDie (linkDie k) fun d => { d with pairs := setPair d.pairs p n },
      { p with pair := n })

/-- A request of a peer by its endpoint and flags, where a message is one. -/
def reqFlags : PeerMsg → Option (Nat × Bool × Bool)
  | .request ep _ _ _ _ ord rel _ => some (ep, ord, rel)
  | _ => none

/-- Of two requests of peers one is performed after the other, where it comes later (R347). -/
def flagsWait (x y : Nat × Bool × Bool) : Bool := x.1 == y.1 && (x.2.2 || (x.2.1 && (y.2.1 || y.2.2)))

/-- A peer's message waits at a bridge for an earlier one that has another link (R96, R347). -/
def State.msgWaits (s : State) (k : Nat) (p : Packet) : Bool :=
  match p.load with
  | .msg m => match reqFlags m with
    | some x =>
      (s.packets.any fun q => q.id < p.id && match q.load with | .msg n => (reqFlags n).any (flagsWait x) | _ => false)
        || s.links.any fun y => y.1 != k && y.2.inbox.any fun n => (reqFlags n).any (flagsWait x)
    | none => false
  | _ => false

/-- A packet whole at a far bridge waits for one before it in its pair's order, at another link (R346), or for a peer's earlier
message. -/
def State.bridgeWaits (s : State) (k : Nat) (p : Packet) : Bool :=
  k ≥ 14 && (s.msgWaits k p || s.links.any fun y => y.1 != k && y.2.farBuf.any fun q => q.src == p.src && q.dst == p.dst && q.pair < p.pair)

/-- A packet whole at a far bridge goes on: into the die's mesh, to the peer, or, a peer's message, to the port (R135, R181). -/
def State.passOn (s : State) (k : Nat) (p : Packet) : State :=
  match farDie k with
  | none => s.deliver p
  | some d => match p.load with
    | .msg m => (s.dropPacket p.id).modLink k fun x => { x with inbox := x.inbox ++ [m] }
    | .out => if k ≥ 40 then s.dropPacket p.id else s.enterMesh d (8 + k) (routerOf (8 + k)) p
    | _ => s.enterMesh d (8 + k) (routerOf (8 + k)) p

/-- The near bridge sends its first packet, where the link takes it and the far bridge holds space for it (R135, R180). -/
def State.sendOn (s : State) (k : Nat) : State :=
  let x := s.link k
  match x.nearBuf with
  | [] => s
  | p :: rest =>
    let m := linkFlits k p.len
    if !x.up || x.retraining || x.unacked.length + m > 2048 || s.farBytes k + 64 * p.len > bridgeBytes then s
    else
      let fs := (List.range m).map fun i => ((x.next + i) % 4096, p.id, i + 1 == m)
      let (s, p) := s.number k p
      s.modLink k fun x => { x with nearBuf := rest, coming := x.coming ++ [p], next := (x.next + m) % 4096, unacked := x.unacked ++ fs, wire := x.wire ++ fs }

/-- The answers and messages of peers that leave for the module by a Kensel link (R345). -/
def State.peerPackets (s : State) (k : Nat) : State :=
  let port (p : Packet) : Option Nat := match p.load with
    | .msg _ => s.kenselOf (p.dst / 8) (p.src - 64)
    | _ => (s.exitDie (p.dst / 8)).bind fun d => s.kenselOf d (p.src - 64)
  let mine (p : Packet) : Bool := !p.entered && p.src ≥ 64 && (port p).any fun j => j + 24 == k
  let new := s.packets.filter mine
  { s with packets := s.packets.map fun p => if mine p then { p with entered := true } else p }.modLink k fun x => { x with nearBuf := x.nearBuf ++ new }

/-- BRIDGE_FORWARD (R135): a packet that is whole at the far end passes on, unless it waits for another link's, else a whole packet of
the near bridge goes onto the link. -/
def execBridgeForward (link : Nat) (s : State) : Host.Outcome State Fault Refusal :=
  .next (if !isLink link then s
    else match (s.link link).farBuf with
      | p :: rest =>
        if s.bridgeWaits link p then (if link ≥ 40 then s.peerPackets link else s).sendOn link
        else (s.modLink link fun x => { x with farBuf := rest }).passOn link p
      | [] => (if link ≥ 40 then s.peerPackets link else s).sendOn link)

/-- Bytes of payload of a peer's message. -/
def msgBytes : PeerMsg → Nat
  | .request _ _ _ size write _ _ _ => if write then size else 0
  | .launch _ _ _ _ list => 64 + 4 * list.length
  | .grant .. | .revoke .. => 16
  | .value _ _ data => data.length
  | .firmware image sigR sigS keyR keyS _ _ => image.length + sigR.length + sigS.length + keyR.length + keyS.length

/-- The endpoint that a message names as its own is the one that sends it. -/
def msgFrom (m : PeerMsg) (ep : Nat) : Bool :=
  match m with
  | .request e .. | .launch _ _ e _ _ => e == ep
  | _ => true

/-- A peer sends a die a message, which its link is to bring in packets of its size; the last one completes it (R133, R344, R347). -/
def State.peerSends (s : State) (die ep : Nat) (m : PeerMsg) : State :=
  if die ≥ 6 || ep ≥ 4096 || !msgFrom m ep then s
  else
    let l := pieceFlits (msgBytes m)
    (l.dropLast.foldl (fun s n => s.addPacket .out (64 + ep) (8 * die) n ⟨s.tick, 0⟩) s).addPacket (.msg m) (64 + ep) (8 * die) (l.getLastD 1) ⟨s.tick, 0⟩

/-- A receiver has accepted the last flit of a packet: it is whole in the far buffer; on a Kensel link a duplicate is discarded
(R346). -/
def State.whole (s : State) (k id : Nat) : State :=
  match (s.link k).coming.find? fun p => p.id == id with
  | some p =>
    let dup := k ≥ 14 && p.pair ≤ s.pairLast Die.got p
    let s := s.modLink k fun x => { x with coming := x.coming.erase p, farBuf := if dup then x.farBuf else x.farBuf ++ [p] }
    if k ≥ 14 && !dup then s.modDie (linkDie k) fun d => { d with got := setPair d.got p p.pair } else s
  | none => s

/-- LINK_FLIT_RECEIVE (R180): accepted in sequence; a bad one and every later one is discarded and answered, and where the flit
was a replay the replay has failed; a duplicate is discarded. -/
def execLinkFlitReceive (link : Nat) (crcOk : Bool) (s : State) : Host.Outcome State Fault Refusal :=
  .next (match (s.link link).wire with
    | [] => s
    | (q, p, last) :: rest =>
      let s := s.modLink link fun x => { x with wire := rest }
      let x := s.link link
      if !crcOk then
        s.modLink link fun x => { x with
          nak := true
          replays := if x.replaying && q = x.expect then x.replays + 1 else x.replays
          errors := s.tick :: x.errors.filter fun t => s.tick < t + 1000 * Config.cyclesPerUs }
      else if q = x.expect then
        let s := s.modLink link fun x => { x with expect := (q + 1) % 4096, nak := false, replaying := false, replays := 0 }
        if last then s.whole link p else s
      else s)

/-- The flits from a sequence number on. -/
def fromSeq (q : Nat) : List (Nat × Nat × Bool) → List (Nat × Nat × Bool)
  | [] => []
  | f :: l => if f.1 = q then f :: l else fromSeq q l

/-- LINK_REPLAY (R180): the transmitter takes the number that the receiver expects and resends from it, in order. -/
def execLinkReplay (link expected : Nat) (s : State) : Host.Outcome State Fault Refusal :=
  .next (if (s.link link).nak && (s.link link).expect = expected && !(s.link link).retraining then
      s.modLink link fun x => { x with wire := x.wire ++ fromSeq expected x.unacked, nak := false, replaying := true }
    else s)

/-- LINK_ACKNOWLEDGE (R180): flits that the receiver has accepted, up to a number, leave the transmitter's store. -/
def execLinkAcknowledge (link upto : Nat) (s : State) : Host.Outcome State Fault Refusal :=
  .next (s.modLink link fun x =>
    let done := x.unacked.takeWhile fun f => f.1 != x.expect
    match done.findIdx? fun f => f.1 == upto with
    | some i => { x with unacked := x.unacked.drop (i + 1) }
    | none => x)

/-- LINK_RETRAIN (R180): after 16 CRC errors within 1 ms, or 8 failed replays of one flit. -/
def execLinkRetrain (link : Nat) (s : State) : Host.Outcome State Fault Refusal :=
  .next (let x := s.link link
    if isLink link && x.up && !x.retraining && ((x.errors.filter fun t => s.tick < t + 1000 * Config.cyclesPerUs).length ≥ 16 || x.replays ≥ 8) then
      s.modLink link fun x => { x with retraining := true, wire := [] }
    else s)

/-- The log of a link's die takes an entry (R179). -/
def State.logLink (s : State) (link kind detail : Nat) : State := s.postErr (portOfGroup (linkDie link * 128)) kind 0 (linkLog link + detail)

/-- The packets that a down link has to give up: on a die-to-die link those that its receiver does not hold whole, on a Kensel
link those not acknowledged (R346), then those behind them. -/
def State.pendingPackets (s : State) (k : Nat) : List Packet :=
  let x := s.link k
  let fs := if k < 14 then fromSeq x.expect x.unacked else x.unacked
  let held := x.coming ++ x.farBuf ++ s.packets
  ((fs.map fun f => f.2.1).eraseDups.filterMap fun id => held.find? fun p => p.id == id) ++ x.nearBuf

/-- A list of packets with one put in its place: those that a link has sent before stand first, in their pairs' order. -/
def insertPacket (p : Packet) : List Packet → List Packet
  | [] => [p]
  | q :: l => if p.pair != 0 && (q.pair = 0 || p.pair < q.pair) then p :: q :: l else q :: insertPacket p l

/-- A packet takes another link out of a die, ahead of every later one (R181, R346); with none it is answered as unroutable. -/
def State.reroute (s : State) (k : Nat) (p : Packet) : State :=
  let there := if k < 40 then s.hopOf (linkDie k) p.dst else (s.kenselOf (linkDie k) (p.src - 64)).map fun j => 8 + j + 24
  match there with
  | some e => if e < 8 then s else s.modLink (e - 8) fun x => { x with nearBuf := insertPacket p x.nearBuf }
  | none => s.noPath p

/-- What a down link holds goes to another link (R181, R346). -/
def State.moveTraffic (s : State) (link : Nat) : State :=
  (s.pendingPackets link).foldl (State.reroute · link ·) (s.modLink link fun x => { x with unacked := [], wire := [], nearBuf := [], coming := [] })

/-- A link goes down, in both directions, and what it holds goes to other links in the same step, so that no later packet comes before
it (R346). -/
def State.linkDown (s : State) (link : Nat) : State :=
  let down (x : Link) : Link := { x with up := false, retraining := false }
  ((((s.modLink link down).modLink (otherWay link) down).logLink link 0x07 0).moveTraffic link).moveTraffic (otherWay link)

/-- LINK_RETRAIN_DONE (R180): replay resumes from the number that the receiver reports; a third failure in a row takes the link
down. -/
def execLinkRetrainDone (link : Nat) (ok : Bool) (s : State) : Host.Outcome State Fault Refusal :=
  .next (if !(s.link link).retraining then s
    else if ok then
      (s.modLink link fun x => { x with
        retraining := false, retrains := 0, errors := [], replays := 0, nak := false, replaying := false, wire := fromSeq x.expect x.unacked }).logLink link 0x06 256
    else
      let s := (s.modLink link fun x => { x with retrains := x.retrains + 1 }).logLink link 0x06 0
      if (s.link link).retrains ≥ 3 then s.linkDown link else s)

/-- LINKDOWN (R181, R346): what a down link holds goes to another link. -/
def execLinkdown (link : Nat) (s : State) : Host.Outcome State Fault Refusal :=
  .next (if !isLink link || (s.link link).up then s else s.moveTraffic link)

end Sys2Proof.Machine
end

