-- ==== Sys2Proof/Machine/Predicate.lean ====
section
/-! DEFINITION. The predicate instructions (R289 to R292). -/

namespace Sys2Proof.Machine

/-- PWHILE: sa + i < sb exactly, signed or natural (R289). -/
def execPwhile (d : BitVec 3) (a b : BitVec 5) (g : BitVec 3) (f : BitVec 4) (n : BitVec 1) (s : State) : Host.Outcome State Fault Refusal :=
  let e := Fmt.size f
  let x := readEl 64 (n == 1) (s.rS a).toNat
  let y := readEl 64 (n == 1) (s.rS b).toNat
  .next (s.wPm d (predOf e ((List.range (64 / e)).map fun (i : Nat) => decide (x + i < y))) (activeMask (s.rP g) e))

/-- PAND (R290). -/
def execPand (d a b g : BitVec 3) (s : State) : Host.Outcome State Fault Refusal := .next (s.wPm d (s.rP a &&& s.rP b) (s.rP g))
/-- POR (R290). -/
def execPor (d a b g : BitVec 3) (s : State) : Host.Outcome State Fault Refusal := .next (s.wPm d (s.rP a ||| s.rP b) (s.rP g))
/-- PXOR (R290). -/
def execPxor (d a b g : BitVec 3) (s : State) : Host.Outcome State Fault Refusal := .next (s.wPm d (s.rP a ^^^ s.rP b) (s.rP g))
/-- PNOT (R290). -/
def execPnot (d a g : BitVec 3) (s : State) : Host.Outcome State Fault Refusal := .next (s.wPm d (~~~(s.rP a)) (s.rP g))

/-- PCNT: the elements active in both predicates (R291). -/
def execPcnt (p : BitVec 3) (d : BitVec 5) (g : BitVec 3) (f : BitVec 4) (s : State) : Host.Outcome State Fault Refusal :=
  let e := fmtSize f
  .next (s.wS d (BitVec.ofNat 64 ((List.range (64 / e)).filter fun i => activeEl (s.rP p) e i && activeEl (s.rP g) e i).length))

/-- PFIRST: of the elements active in pg, only the lowest that is active in ps1 too (R292). -/
def execPfirst (d a g : BitVec 3) (f : BitVec 4) (s : State) : Host.Outcome State Fault Refusal :=
  let e := fmtSize f
  let x := match (List.range (64 / e)).find? fun i => activeEl (s.rP a) e i && activeEl (s.rP g) e i with
    | some i => elMask e i
    | none => 0
  .next (s.wPm d x (activeMask (s.rP g) e))

/-- PSET: the elements below k (R292). -/
def execPset (d g : BitVec 3) (f : BitVec 4) (k : BitVec 7) (s : State) : Host.Outcome State Fault Refusal :=
  let e := fmtSize f
  .next (s.wPm d (predOf e ((List.range (64 / e)).map fun i => decide (i < k.toNat))) (activeMask (s.rP g) e))

end Sys2Proof.Machine
end

