-- ==== Sys2Proof/Machine/Recovery.lean ====
section
/-! DEFINITION. The end of a drain (R162, R182, R183), scan (R184, R185, R354 to R356), wear (R189), DAWN and attestation
(R163, R164), and the management port (R352). -/

namespace Sys2Proof.Machine

/-! ## Drain (R182, R183) -/

/-- The result of a DUSK or SCAN is ready to land in its issuer. -/
def State.landResult (s : State) (th seq : Nat) (v : BitVec 64) : State :=
  s.modThr th fun t => { t with
    pend := t.pend.map fun p => if p.src.seq = seq && p.kind == .value && !p.ready && p.rid.isNone then
      { p with ready := true, writes := p.writes.map fun w => match w with | .s r _ => .s r v | w => w } else p }

/-- A request of a tile's threads is still on its way: in flight, or returned by a conflict, and held by nothing; or its answer
is (R130, R183). -/
def State.onItsWay (s : State) (t : Nat) (r : Req) : Bool :=
  ofTile t r.lcore && match r.st with
    | .inflight | .replay => (match r.kind with | .rcall .. => s.callRuns r | _ => true) && (List.range (max 1 r.parts.length)).any (s.mayGo r)
    | .answered .. => (match r.kind with | .spawn .. => s.answerOut r.rid | k => !k.heldAtIssue)
    | _ => false

/-- An answer to a tile's thread is on its way, to a request that has left the network. -/
def State.answersOut (s : State) (t : Nat) : Bool :=
  (s.tileThreads t).any fun k => (s.thr k).pend.any fun p => p.rid.any s.answerOut

/-- Every supervisor of the tile has taken its queue's entries, or has trapped (R172, R182). -/
def State.supersDone (s : State) (t : Nat) : Bool :=
  (List.range 4).all fun i =>
    let l := lcoreOfT t i
    (s.core l).trapq.isEmpty || (s.threadsOn l).all fun k => (s.thr k).pos != 15 || (s.thr k).trapped

/-- The requests of other cores that wait at a tile are refused with the drained mark (R162, R182). -/
def State.refuseParked (s : State) (t : Nat) : State :=
  (s.net.filter fun r => r.isParked && ofTile t r.homeCore && !ofTile t r.lcore).foldl State.drainReq s

/-- The freeze of every ordinary thread of the tile has taken effect (R124). -/
def State.allStopped (s : State) (t : Nat) : Bool := (s.tileThreads t).all fun k => (s.thr k).pos == 15 || (s.thr k).stopped

/-- DRAIN_COMPLETE (R182, R183, R235): the supervisors freeze; the result 0 of the DUSK that drained the tile is ready, and 1
of every later one. -/
def execDrainComplete (t : Nat) (s : State) : Host.Outcome State Fault Refusal :=
  .next (match (s.tile t).drain with
    | .draining dusks =>
      let x := s.tile t
      if x.streams.isEmpty && x.finished.isEmpty && !(s.net.any (s.onItsWay t)) && !s.answersOut t && s.supersDone t && s.allStopped t then
        let s := s.forThreads (s.tileThreads t) fun k => { k with sfrz := true, stopped := true }
        let s := ((s.withdraw t).refuseParked t).modTile t fun x => { x with drain := .drained, supDead := false }
        dusks.zipIdx.foldl (fun s x => s.landResult x.1.1 x.1.2 (if x.2 = 0 then 0 else 1)) s
      else s
    | _ => s)

/-! ## Scan (R184, R185, R354 to R356) -/

/-- Cycles of one pattern block, 3,125 ns (R354). -/
def blockCycles : Nat := 6250

/-- SCAN_BLOCK_DONE (R354): the last block, or the first that differs, ends the set; a failure fences the slot and logs
SCANFAIL. -/
def execScanBlockDone (t : Nat) (same : Bool) (s : State) : Host.Outcome State Fault Refusal :=
  .next (match (s.tile t).scan with
    | some x =>
      if x.result.isSome || s.tick < x.startedAt + (x.block + 1) * blockCycles then s
      else if same then
        s.modTile t fun y => { y with scan := some (if x.block = 63 then { x with result := some 0 } else { x with block := x.block + 1 }) }
      else
        let s := { s with fenced := (sgKeyOfT t * 256 + x.slot) :: s.fenced.filter fun f => f != sgKeyOfT t * 256 + x.slot }
        (s.postErr (portOf (lcoreOfT t 0)) 0x09 0 (x.core * 2 ^ 32 + x.block)).modTile t fun y => { y with
          scan := some { x with result := some (BitVec.ofNat 64 (1 + x.block * 2 ^ 16)) } }
    | none => s)

/-- SCAN_ABORT (R185). -/
def execScanAbort (t : Nat) (s : State) : Host.Outcome State Fault Refusal :=
  .next (match (s.tile t).scan with
    | some x => if x.result.isNone && s.urgent t then s.modTile t fun y => { y with scan := some { x with result := some 0x16, aborted := true } } else s
    | none => s)

/-- A fresh supervisor starts on a core (R163, R355). -/
def State.startSuper (s : State) (l : Nat) (frozen : Bool) : State :=
  s.startThread (l * 20 + 15) { Thread.none with pos := 15, kind := .super, sfrz := frozen } (Workspace.fresh s.dawn.entry false)

/-- SCAN_CLEAR_DONE (R354, R355): fresh supervisors, frozen while the tile stays drained; an abort ends the drain. -/
def execScanClearDone (t : Nat) (s : State) : Host.Outcome State Fault Refusal :=
  .next (match (s.tile t).scan with
    | some x => match x.result with
      | some v =>
        let s := (s.blankTile t).modTile t fun y => { y with scan := none, drain := if x.aborted then .no else y.drain }
        ((List.range 4).foldl (fun s i => s.startSuper (lcoreOfT t i) (!x.aborted)) s).landResult x.th x.seq v
      | none => s
    | none => s)

/-! ## Wear (R189) -/

/-- Cycles of one hour of powered time, which TICK counts from power-up. -/
def hourCycles : Nat := 3600 * 1000000 * Config.cyclesPerUs

/-- Powered time in units of 16 hours, saturating (R189). -/
def State.poweredUnits (s : State) : Nat := min (s.tick / (16 * hourCycles)) 0xFFFF

/-- WEAR (R189): every 24 hours of powered time, which `hours` names in units of 16. -/
def execWear (sg drift hours pred : Nat) (s : State) : Host.Outcome State Fault Refusal :=
  let w := Store.get WearSt.zero s.wear sg
  .next (if sg ≥ 48 || s.tick < w.at_ + 24 * hourCycles || hours != s.poweredUnits then s
    else
      let new : WearSt := ⟨BitVec.ofNat 16 drift, BitVec.ofNat 16 hours, BitVec.ofNat 16 pred, s.tick⟩
      let s := { s with wear := Store.put WearSt.zero s.wear sg new }
      if new.pred.toNat < 6 && w.pred.toNat ≥ 6 then s.postErr (portOfGroup (sg * 16)) 0x0A 0 (sg + new.pred.toNat * 256) else s)

/-! ## DAWN and attestation (R163, R164) -/

/-- DAWN-HOLD with a code, which is reported over the fabric too (R163). -/
def State.dawnHold (s : State) (code : Nat) : State := { s with dawn := { s.dawn with hold := code, reported := s.dawn.reported ++ [code] } }

/-- Step 4: the firmware is placed, supervisors start on every core, the context table and owners are set (log 25). -/
def State.dawnPlace (s : State) : State :=
  let im := s.dawn.image
  let s := (Config.fwWrites im).foldl (fun s x => s.wrByte (x.1 % 2 ^ 47) x.2) s
  let s := { s with ctxbase := Config.fwCtxbase im }
  let s := (Config.fwOwners im).foldl (fun s x => s.modTile (x.1 % 6144) fun t => { t with ctx := x.2 }) s
  let s := ((List.range (Config.maxLcore + 1)).filter namesCore).foldl (fun s l => s.startSuper l false) s
  { s with dawn := { s.dawn with stage := 5, image := [], readyAt := s.tick } }

/-- DAWN (R163): steps 1 and 4, which a check may fail. -/
def execDawn (ok : Bool) (s : State) : Host.Outcome State Fault Refusal :=
  .next (if s.dawn.hold != 0 then s
    else match s.dawn.stage with
    | 1 => if ok then { s with dawn := { s.dawn with stage := 2 }, fenced := [] } else s.dawnHold 1
    | 4 => if ok then s.dawnPlace else s.dawnHold 5
    | _ => s)

/-- Code of the first check of an image that fails, 0 for none (R163; log 25). -/
def imageCode (image sigR sigS keyR keyS : List Byte) (secVer : Nat) : Nat :=
  let d := Config.sha384 image
  if Config.sha384 keyR != Config.fusedKeyR || !Config.rsaVerify keyR d.toList sigR then 2
  else if Config.sha384 keyS != Config.fusedKeyS || !Config.slhVerify keyS d.toList sigS then 3
  else if secVer < Config.fusedMinVersion then 4 else 0

/-- FIRMWARE_IMAGE (R163): steps 2 and 3, also out of DAWN-HOLD. -/
def execFirmwareImage (image sigR sigS keyR keyS : List (BitVec 8)) (secVer : Nat) (entry : BitVec 48) (s : State) : Host.Outcome State Fault Refusal :=
  .next (if s.dawn.stage != 2 && s.dawn.hold = 0 then s
    else s.takeMsg 0 (.firmware image sigR sigS keyR keyS secVer entry) fun s =>
      let code := imageCode image sigR sigS keyR keyS secVer
      if code != 0 then { s with dawn := { s.dawn with stage := 3 } }.dawnHold code
      else { s with dawn := { s.dawn with stage := 4, hold := 0, image := image, digest := (Config.sha384 image).toList, version := secVer, entry := entry } })

/-- ATTESTATION_QUOTE (R164). -/
def execAttestationQuote (nonce : List (BitVec 8)) (s : State) : Host.Outcome State Fault Refusal :=
  .next (if nonce.length != 32 || s.dawn.stage < 4 then s
    else
      let q := nonce ++ s.dawn.digest ++ Config.fusedIdentity.toList ++ leBytes 4 s.dawn.version
      { s with dawn := { s.dawn with quote := q ++ (Config.rsaSign q).toList ++ (Config.slhSign q).toList } })

/-! ## The management port (R352) -/

/-- The log entries that the management port reports: LINKDOWN, SUPERVISOR, SCANFAIL. -/
def reported (e : BitVec 64) : Bool := let k := getF e 56 7; k == 0x07 || k == 0x08 || k == 0x09

/-- The module's power in the latest budget periods of its dies (R352). -/
def State.power (s : State) : Nat := ((List.range 6).map fun d => (s.die d).power).foldl (· + ·) 0

/-- MANAGEMENT_QUERY (R352): 0 the DAWN stage and code, 1 THERMAL and the coolant temperature, 2 power, 3 every WEAR, 4 the
error-log entries (log 26). -/
def execManagementQuery (item : Nat) (s : State) : Host.Outcome State Fault Refusal :=
  .next { s with mgmt := match item with
    | 0 => [BitVec.ofNat 64 (s.dawn.stage + s.dawn.hold * 256)]
    | 1 => [BitVec.ofNat 64 (s.thermal.toNat + s.inlet * 256)]
    | 2 => [BitVec.ofNat 64 s.power]
    | 3 => (List.range 48).map fun sg => s.pageRead (portOfGroup (sg * 16)) 0x58
    | _ => s.ports.flatMap fun x => x.2.errlog.filter reported }

end Sys2Proof.Machine
end

