-- ==== Sys2Proof/Machine/SpecialFn.lean ====
section
/-! DEFINITION. The special functions, which are long-latency (R49, R50, R288). -/

namespace Sys2Proof.Machine

/-- A special function of the elements: its sources carry FMT, its n chunks are consumed at issue, its flags are raised
when it lands (R44, R48, R288). -/
def State.special (s : State) (d : BitVec 4) (srcs : List (BitVec 4)) (g : BitVec 3) (f : BitVec 4) (r : BitVec 3) (fn : Nat → Exact) : State :=
  let e := Fmt.size f
  let md := roundMode s.src r.toNat
  let rs := elemRes (s.rP g) e fun i => (fn i).deliver (ffOf f) md (s.chunkIf md i)
  s.unless (s.vtagTrap (srcs.map fun a => (a, f)))
    ((s.consume md (64 / e)).pendReady [.v d.toNat] [.v d (resVec e rs) (activeMask (s.rP g) e) (some f)] (allFlags rs))

/-- The value of element i of a source. -/
def State.elVal (s : State) (a : BitVec 4) (f : BitVec 4) (i : Nat) : FVal := (ffOf f).val (s.el a (Fmt.size f) i)

/-- VDIV (R288). -/
def execVdiv (d a b : BitVec 4) (g : BitVec 3) (f : BitVec 4) (r : BitVec 3) (s : State) : Host.Outcome State Fault Refusal :=
  .next (s.special d [a, b] g f r fun i => exactDiv (s.elVal a f i) (s.elVal b f i))
/-- VSQRT (R288). -/
def execVsqrt (d a : BitVec 4) (g : BitVec 3) (f : BitVec 4) (r : BitVec 3) (s : State) : Host.Outcome State Fault Refusal :=
  .next (s.special d [a] g f r fun i => exactSqrt (s.elVal a f i))
/-- VRCP (R49). -/
def execVrcp (d a : BitVec 4) (g : BitVec 3) (f : BitVec 4) (r : BitVec 3) (s : State) : Host.Outcome State Fault Refusal :=
  .next (s.special d [a] g f r fun i => exactRcp (s.elVal a f i))
/-- VRSQ (R49). -/
def execVrsq (d a : BitVec 4) (g : BitVec 3) (f : BitVec 4) (r : BitVec 3) (s : State) : Host.Outcome State Fault Refusal :=
  .next (s.special d [a] g f r fun i => exactRsq (s.elVal a f i))
/-- VEXP2 (R49). -/
def execVexp2 (d a : BitVec 4) (g : BitVec 3) (f : BitVec 4) (r : BitVec 3) (s : State) : Host.Outcome State Fault Refusal :=
  .next (s.special d [a] g f r fun i => exactExp2 (s.elVal a f i))
/-- VLOG2 (R49). -/
def execVlog2 (d a : BitVec 4) (g : BitVec 3) (f : BitVec 4) (r : BitVec 3) (s : State) : Host.Outcome State Fault Refusal :=
  .next (s.special d [a] g f r fun i => exactLog2 (s.elVal a f i))
/-- VSIN (R49, R50). -/
def execVsin (d a : BitVec 4) (g : BitVec 3) (f : BitVec 4) (r : BitVec 3) (s : State) : Host.Outcome State Fault Refusal :=
  .next (s.special d [a] g f r fun i => exactTrig false (s.elVal a f i))
/-- VCOS (R49, R50). -/
def execVcos (d a : BitVec 4) (g : BitVec 3) (f : BitVec 4) (r : BitVec 3) (s : State) : Host.Outcome State Fault Refusal :=
  .next (s.special d [a] g f r fun i => exactTrig true (s.elVal a f i))
/-- VTANH (R49). -/
def execVtanh (d a : BitVec 4) (g : BitVec 3) (f : BitVec 4) (r : BitVec 3) (s : State) : Host.Outcome State Fault Refusal :=
  .next (s.special d [a] g f r fun i => exactTanh (s.elVal a f i))

end Sys2Proof.Machine
end

