-- ==== Sys2Proof/Machine/Dispatch.lean ====
section
/-! DEFINITION. The one dispatch of an instruction to its meaning. -/

namespace Sys2Proof.Machine

/-- What an instruction, command, operation or event does. -/
def exec (i : Instr) (s : State) : Host.Outcome State Fault Refusal :=
  match i with
  | .nop z => Sys2Proof.Machine.execNop z s
  | .add z d a b => Sys2Proof.Machine.execAdd z d a b s
  | .sub z d a b => Sys2Proof.Machine.execSub z d a b s
  | .and z d a b => Sys2Proof.Machine.execAnd z d a b s
  | .or z d a b => Sys2Proof.Machine.execOr z d a b s
  | .xor z d a b => Sys2Proof.Machine.execXor z d a b s
  | .shl z d a b => Sys2Proof.Machine.execShl z d a b s
  | .shr z d a b => Sys2Proof.Machine.execShr z d a b s
  | .sra z d a b => Sys2Proof.Machine.execSra z d a b s
  | .slt z d a b => Sys2Proof.Machine.execSlt z d a b s
  | .sltn z d a b => Sys2Proof.Machine.execSltn z d a b s
  | .min z d a b => Sys2Proof.Machine.execMin z d a b s
  | .max z d a b => Sys2Proof.Machine.execMax z d a b s
  | .minn z d a b => Sys2Proof.Machine.execMinn z d a b s
  | .maxn z d a b => Sys2Proof.Machine.execMaxn z d a b s
  | .sel z d a b => Sys2Proof.Machine.execSel z d a b s
  | .clz z d a => Sys2Proof.Machine.execClz z d a s
  | .popc z d a => Sys2Proof.Machine.execPopc z d a s
  | .mul z d a b => Sys2Proof.Machine.execMul z d a b s
  | .mulh z d a b => Sys2Proof.Machine.execMulh z d a b s
  | .mulhn z d a b => Sys2Proof.Machine.execMulhn z d a b s
  | .div z d a b => Sys2Proof.Machine.execDiv z d a b s
  | .divn z d a b => Sys2Proof.Machine.execDivn z d a b s
  | .rem z d a b => Sys2Proof.Machine.execRem z d a b s
  | .remn z d a b => Sys2Proof.Machine.execRemn z d a b s
  | .addi z d a i_ => Sys2Proof.Machine.execAddi z d a i_ s
  | .andi z d a i_ => Sys2Proof.Machine.execAndi z d a i_ s
  | .ori z d a i_ => Sys2Proof.Machine.execOri z d a i_ s
  | .xori z d a i_ => Sys2Proof.Machine.execXori z d a i_ s
  | .slti z d a i_ => Sys2Proof.Machine.execSlti z d a i_ s
  | .shli z d a h => Sys2Proof.Machine.execShli z d a h s
  | .shri z d a h => Sys2Proof.Machine.execShri z d a h s
  | .srai z d a h => Sys2Proof.Machine.execSrai z d a h s
  | .bfx z d a l p => Sys2Proof.Machine.execBfx z d a l p s
  | .bfi z d a l p => Sys2Proof.Machine.execBfi z d a l p s
  | .limh z d i_ => Sys2Proof.Machine.execLimh z d i_ s
  | .lea z d b i_ => Sys2Proof.Machine.execLea z d b i_ s
  | .leap z d a i_ => Sys2Proof.Machine.execLeap z d a i_ s
  | .bcc z c a b i_ => Sys2Proof.Machine.execBcc z c a b i_ s
  | .bccz z c a i_ => Sys2Proof.Machine.execBccz z c a i_ s
  | .jmp z i_ => Sys2Proof.Machine.execJmp z i_ s
  | .jal z d i_ => Sys2Proof.Machine.execJal z d i_ s
  | .jr z a => Sys2Proof.Machine.execJr z a s
  | .exit z => Sys2Proof.Machine.execExit z s
  | .ldb z d a i_ => Sys2Proof.Machine.execLdb z d a i_ s
  | .ldbz z d a i_ => Sys2Proof.Machine.execLdbz z d a i_ s
  | .ldh z d a i_ => Sys2Proof.Machine.execLdh z d a i_ s
  | .ldhz z d a i_ => Sys2Proof.Machine.execLdhz z d a i_ s
  | .ldw z d a i_ => Sys2Proof.Machine.execLdw z d a i_ s
  | .ldwz z d a i_ => Sys2Proof.Machine.execLdwz z d a i_ s
  | .ldd z d a i_ => Sys2Proof.Machine.execLdd z d a i_ s
  | .stb z d a i_ => Sys2Proof.Machine.execStb z d a i_ s
  | .sth z d a i_ => Sys2Proof.Machine.execSth z d a i_ s
  | .stw z d a i_ => Sys2Proof.Machine.execStw z d a i_ s
  | .std z d a i_ => Sys2Proof.Machine.execStd z d a i_ s
  | .vld z v a g f i_ => Sys2Proof.Machine.execVld z v a g f i_ s
  | .vst z v a g i_ => Sys2Proof.Machine.execVst z v a g i_ s
  | .vlds z v a g f t => Sys2Proof.Machine.execVlds z v a g f t s
  | .vgth z v a g f x => Sys2Proof.Machine.execVgth z v a g f x s
  | .vsct z v a g f x => Sys2Proof.Machine.execVsct z v a g f x s
  | .ldv z d a n i_ => Sys2Proof.Machine.execLdv z d a n i_ s
  | .stv z d a i_ => Sys2Proof.Machine.execStv z d a i_ s
  | .ldfe z d a i_ => Sys2Proof.Machine.execLdfe z d a i_ s
  | .stfe z d a i_ => Sys2Proof.Machine.execStfe z d a i_ s
  | .amo z d a b w p => Sys2Proof.Machine.execAmo z d a b w p s
  | .amoc z d a b w => Sys2Proof.Machine.execAmoc z d a b w s
  | .red z a b w p => Sys2Proof.Machine.execRed z a b w p s
  | .vrcl z a b => Sys2Proof.Machine.execVrcl z a b s
  | .watch z d a => Sys2Proof.Machine.execWatch z d a s
  | .unwatch z a => Sys2Proof.Machine.execUnwatch z a s
  | .wait z => Sys2Proof.Machine.execWait z s
  | .pfh z a => Sys2Proof.Machine.execPfh z a s
  | .tcls z a c r => Sys2Proof.Machine.execTcls z a c r s
  | .fence z s_ k => Sys2Proof.Machine.execFence z s_ k s
  | .spawn z s_ a n l y i_ => Sys2Proof.Machine.execSpawn z s_ a n l y i_ s
  | .rcall z s_ a n v c => Sys2Proof.Machine.execRcall z s_ a n v c s
  | .rret z s_ v n c => Sys2Proof.Machine.execRret z s_ v n c s
  | .migr z a => Sys2Proof.Machine.execMigr z a s
  | .join z a => Sys2Proof.Machine.execJoin z a s
  | .leave z a => Sys2Proof.Machine.execLeave z a s
  | .gbar z d a => Sys2Proof.Machine.execGbar z d a s
  | .gbard z a => Sys2Proof.Machine.execGbard z a s
  | .gqry z d a => Sys2Proof.Machine.execGqry z d a s
  | .spec z => Sys2Proof.Machine.execSpec z s
  | .commit z d => Sys2Proof.Machine.execCommit z d s
  | .abort z => Sys2Proof.Machine.execAbort z s
  | .pmrg z d a b v f => Sys2Proof.Machine.execPmrg z d a b v f s
  | .send z a s_ => Sys2Proof.Machine.execSend z a s_ s
  | .recv z d => Sys2Proof.Machine.execRecv z d s
  | .push z r q => Sys2Proof.Machine.execPush z r q s
  | .pop z d q => Sys2Proof.Machine.execPop z d q s
  | .fstat z d q => Sys2Proof.Machine.execFstat z d q s
  | .semp z n => Sys2Proof.Machine.execSemp z n s
  | .semv z n => Sys2Proof.Machine.execSemv z n s
  | .evpop z d => Sys2Proof.Machine.execEvpop z d s
  | .hget z d a => Sys2Proof.Machine.execHget z d a s
  | .hclr z => Sys2Proof.Machine.execHclr z s
  | .csrr z d n => Sys2Proof.Machine.execCsrr z d n s
  | .csrw z a n => Sys2Proof.Machine.execCsrw z a n s
  | .trap z c => Sys2Proof.Machine.execTrap z c s
  | .brk z c => Sys2Proof.Machine.execBrk z c s
  | .rte z d a m => Sys2Proof.Machine.execRte z d a m s
  | .idle z d => Sys2Proof.Machine.execIdle z d s
  | .frz z d a => Sys2Proof.Machine.execFrz z d a s
  | .thaw z d a => Sys2Proof.Machine.execThaw z d a s
  | .slotq z d a => Sys2Proof.Machine.execSlotq z d a s
  | .vwid z d c => Sys2Proof.Machine.execVwid z d c s
  | .rdtk z d => Sys2Proof.Machine.execRdtk z d s
  | .sbsr z d a => Sys2Proof.Machine.execSbsr z d a s
  | .duskDrain z d a => Sys2Proof.Machine.execDuskDrain z d a s
  | .duskRelease z d a => Sys2Proof.Machine.execDuskRelease z d a s
  | .lcmw z d a b => Sys2Proof.Machine.execLcmw z d a b s
  | .scan z d a => Sys2Proof.Machine.execScan z d a s
  | .rep c m t => Sys2Proof.Machine.execRep c m t s
  | .nopv => Sys2Proof.Machine.execNopv s
  | .vadd d a b g f r p => Sys2Proof.Machine.execVadd d a b g f r p s
  | .vsub d a b g f r p => Sys2Proof.Machine.execVsub d a b g f r p s
  | .vmul d a b g f r p => Sys2Proof.Machine.execVmul d a b g f r p s
  | .vfma d a b g f r p => Sys2Proof.Machine.execVfma d a b g f r p s
  | .vfms d a b g f r p => Sys2Proof.Machine.execVfms d a b g f r p s
  | .vmin d a b g f p => Sys2Proof.Machine.execVmin d a b g f p s
  | .vmax d a b g f p => Sys2Proof.Machine.execVmax d a b g f p s
  | .vabs d a g f p => Sys2Proof.Machine.execVabs d a g f p s
  | .vneg d a g f p => Sys2Proof.Machine.execVneg d a g f p s
  | .vcmp d a b g f c => Sys2Proof.Machine.execVcmp d a b g f c s
  | .vsel d a b g => Sys2Proof.Machine.execVsel d a b g s
  | .vand d a b g => Sys2Proof.Machine.execVand d a b g s
  | .vor d a b g => Sys2Proof.Machine.execVor d a b g s
  | .vxor d a b g => Sys2Proof.Machine.execVxor d a b g s
  | .vnot d a g => Sys2Proof.Machine.execVnot d a g s
  | .vshl d a b g f p => Sys2Proof.Machine.execVshl d a b g f p s
  | .vshr d a b g f p => Sys2Proof.Machine.execVshr d a b g f p s
  | .vsra d a b g f p => Sys2Proof.Machine.execVsra d a b g f p s
  | .vcvt d a h g f r s_ => Sys2Proof.Machine.execVcvt d a h g f r s_ s
  | .vperm d a b g f => Sys2Proof.Machine.execVperm d a b g f s
  | .vbcast d a g f => Sys2Proof.Machine.execVbcast d a g f s
  | .vextr v a b f e => Sys2Proof.Machine.execVextr v a b f e s
  | .vins v a b f => Sys2Proof.Machine.execVins v a b f s
  | .vmov d a g => Sys2Proof.Machine.execVmov d a g s
  | .viota d g f x => Sys2Proof.Machine.execViota d g f x s
  | .vord d a g f x => Sys2Proof.Machine.execVord d a g f x s
  | .vdig d a g f w s_ => Sys2Proof.Machine.execVdig d a g f w s_ s
  | .vhadd v a b g f x => Sys2Proof.Machine.execVhadd v a b g f x s
  | .pwhile d a b g f n => Sys2Proof.Machine.execPwhile d a b g f n s
  | .pand d a b g => Sys2Proof.Machine.execPand d a b g s
  | .por d a b g => Sys2Proof.Machine.execPor d a b g s
  | .pxor d a b g => Sys2Proof.Machine.execPxor d a b g s
  | .pnot d a g => Sys2Proof.Machine.execPnot d a g s
  | .pcnt p d g f => Sys2Proof.Machine.execPcnt p d g f s
  | .pfirst d a g f => Sys2Proof.Machine.execPfirst d a g f s
  | .pset d g f k => Sys2Proof.Machine.execPset d g f k s
  | .vtod d v g f r => Sys2Proof.Machine.execVtod d v g f r s
  | .dtov v a g f r => Sys2Proof.Machine.execDtov v a g f r s
  | .dadd d a b g r => Sys2Proof.Machine.execDadd d a b g r s
  | .dsub d a b g r => Sys2Proof.Machine.execDsub d a b g r s
  | .dscl d s_ g => Sys2Proof.Machine.execDscl d s_ g s
  | .dsetn d s_ g => Sys2Proof.Machine.execDsetn d s_ g s
  | .dneg d a g => Sys2Proof.Machine.execDneg d a g s
  | .dmov d a g => Sys2Proof.Machine.execDmov d a g s
  | .dcos s_ a b g r => Sys2Proof.Machine.execDcos s_ a b g r s
  | .dnrm s_ a g r => Sys2Proof.Machine.execDnrm s_ a g r s
  | .dren d a g r => Sys2Proof.Machine.execDren d a g r s
  | .dlerp d a b g r t => Sys2Proof.Machine.execDlerp d a b g r t s
  | .vdiv d a b g f r => Sys2Proof.Machine.execVdiv d a b g f r s
  | .vsqrt d a g f r => Sys2Proof.Machine.execVsqrt d a g f r s
  | .vrcp d a g f r => Sys2Proof.Machine.execVrcp d a g f r s
  | .vrsq d a g f r => Sys2Proof.Machine.execVrsq d a g f r s
  | .vexp2 d a g f r => Sys2Proof.Machine.execVexp2 d a g f r s
  | .vlog2 d a g f r => Sys2Proof.Machine.execVlog2 d a g f r s
  | .vsin d a g f r => Sys2Proof.Machine.execVsin d a g f r s
  | .vcos d a g f r => Sys2Proof.Machine.execVcos d a g f r s
  | .vtanh d a g f r => Sys2Proof.Machine.execVtanh d a g f r s
  | .vred d a g f r p => Sys2Proof.Machine.execVred d a g f r p s
  | .imm32 i_ => Sys2Proof.Machine.execImm32 i_ s
  | .lnop => Sys2Proof.Machine.execLnop s
  | .lldk d => Sys2Proof.Machine.execLldk d s
  | .lcnt d => Sys2Proof.Machine.execLcnt d s
  | .lhis d => Sys2Proof.Machine.execLhis d s
  | .lbia d => Sys2Proof.Machine.execLbia d s
  | .lban d a => Sys2Proof.Machine.execLban d a s
  | .ladd d a b => Sys2Proof.Machine.execLadd d a b s
  | .lsub d a b => Sys2Proof.Machine.execLsub d a b s
  | .lmul d a b => Sys2Proof.Machine.execLmul d a b s
  | .lsel d a b c => Sys2Proof.Machine.execLsel d a b c s
  | .lcmp d a b c => Sys2Proof.Machine.execLcmp d a b c s
  | .lmax d a b => Sys2Proof.Machine.execLmax d a b s
  | .lmin d a b => Sys2Proof.Machine.execLmin d a b s
  | .lscl d a k => Sys2Proof.Machine.execLscl d a k s
  | .lclp d a b => Sys2Proof.Machine.execLclp d a b s
  | .lpen d a b k => Sys2Proof.Machine.execLpen d a b k s
  | .ltopk a => Sys2Proof.Machine.execLtopk a s
  | .lmov d a => Sys2Proof.Machine.execLmov d a s
  | .limmConst d k => Sys2Proof.Machine.execLimmConst d k s
  | .limmValue d v => Sys2Proof.Machine.execLimmValue d v s
  | .lhalt => Sys2Proof.Machine.execLhalt s
  | .cld t q => Sys2Proof.Machine.execCld t q s
  | .cldSectorReply t k sec => Sys2Proof.Machine.execCldSectorReply t k sec s
  | .wld t q => Sys2Proof.Machine.execWld t q s
  | .ald t q => Sys2Proof.Machine.execAld t q s
  | .ast t q => Sys2Proof.Machine.execAst t q s
  | .czr t q => Sys2Proof.Machine.execCzr t q s
  | .crd t q => Sys2Proof.Machine.execCrd t q s
  | .cvt t q => Sys2Proof.Machine.execCvt t q s
  | .cpy t q => Sys2Proof.Machine.execCpy t q s
  | .gth t q => Sys2Proof.Machine.execGth t q s
  | .sct t q => Sys2Proof.Machine.execSct t q s
  | .xfr t q => Sys2Proof.Machine.execXfr t q s
  | .fill t q => Sys2Proof.Machine.execFill t q s
  | .tdsc t q => Sys2Proof.Machine.execTdsc t q s
  | .smx t q => Sys2Proof.Machine.execSmx t q s
  | .save t q => Sys2Proof.Machine.execSave t q s
  | .rstr t q => Sys2Proof.Machine.execRstr t q s
  | .completionPost t q k => Sys2Proof.Machine.execCompletionPost t q k s
  | .launch die sg g ep hdr list => Sys2Proof.Machine.execLaunch die sg g ep hdr list s
  | .dispatch die => Sys2Proof.Machine.execDispatch die s
  | .taskRetire lid t => Sys2Proof.Machine.execTaskRetire lid t s
  | .preemptThaw core => Sys2Proof.Machine.execPreemptThaw core s
  | .requestArrival rid j => Sys2Proof.Machine.execRequestArrival rid j s
  | .longLatencyResult th k => Sys2Proof.Machine.execLongLatencyResult th k s
  | .refusal rid => Sys2Proof.Machine.execRefusal rid s
  | .retryLimit rid => Sys2Proof.Machine.execRetryLimit rid s
  | .drainedResend rid => Sys2Proof.Machine.execDrainedResend rid s
  | .deferredTrap th => Sys2Proof.Machine.execDeferredTrap th s
  | .spawnArrival rid => Sys2Proof.Machine.execSpawnArrival rid s
  | .spawnAnswer rid => Sys2Proof.Machine.execSpawnAnswer rid s
  | .spawnCountRefresh die => Sys2Proof.Machine.execSpawnCountRefresh die s
  | .rcallArrival rid => Sys2Proof.Machine.execRcallArrival rid s
  | .rcallReply rid => Sys2Proof.Machine.execRcallReply rid s
  | .faultRecord rid => Sys2Proof.Machine.execFaultRecord rid s
  | .rcallTimeout th call => Sys2Proof.Machine.execRcallTimeout th call s
  | .migrArrival rid => Sys2Proof.Machine.execMigrArrival rid s
  | .migrAnswer rid => Sys2Proof.Machine.execMigrAnswer rid s
  | .parkedArrivalStart core => Sys2Proof.Machine.execParkedArrivalStart core s
  | .sendArrival rid => Sys2Proof.Machine.execSendArrival rid s
  | .redArrival rid => Sys2Proof.Machine.execRedArrival rid s
  | .inboxWrite rid => Sys2Proof.Machine.execInboxWrite rid s
  | .barrierHomeApply rids => Sys2Proof.Machine.execBarrierHomeApply rids s
  | .barrierPoll th => Sys2Proof.Machine.execBarrierPoll th s
  | .walkComplete port slot => Sys2Proof.Machine.execWalkComplete port slot s
  | .streamFaultTimeout port slot => Sys2Proof.Machine.execStreamFaultTimeout port slot s
  | .fltpop port => Sys2Proof.Machine.execFltpop port s
  | .fltrspReplay port tag => Sys2Proof.Machine.execFltrspReplay port tag s
  | .fltrspFail port tag => Sys2Proof.Machine.execFltrspFail port tag s
  | .tinvPage port ctx vpn => Sys2Proof.Machine.execTinvPage port ctx vpn s
  | .tinvAll port ctx => Sys2Proof.Machine.execTinvAll port ctx s
  | .invalidationDone port => Sys2Proof.Machine.execInvalidationDone port s
  | .ctxbaseWrite v => Sys2Proof.Machine.execCtxbaseWrite v s
  | .stkownWrite port v => Sys2Proof.Machine.execStkownWrite port v s
  | .ownerWrite t v => Sys2Proof.Machine.execOwnerWrite t v s
  | .scrubDone t => Sys2Proof.Machine.execScrubDone t s
  | .errpop port => Sys2Proof.Machine.execErrpop port s
  | .registerWrite port off v => Sys2Proof.Machine.execRegisterWrite port off v s
  | .treeld die v => Sys2Proof.Machine.execTreeld die v s
  | .clgo die v => Sys2Proof.Machine.execClgo die v s
  | .collectiveDone die k => Sys2Proof.Machine.execCollectiveDone die k s
  | .budgetPeriod die measured inlet junction => Sys2Proof.Machine.execBudgetPeriod die measured inlet junction s
  | .hotPagePeriod port => Sys2Proof.Machine.execHotPagePeriod port s
  | .rfmpb port bank level => Sys2Proof.Machine.execRfmpb port bank level s
  | .starve die node => Sys2Proof.Machine.execStarve die node s
  | .packetReassembled die node tag accept => Sys2Proof.Machine.execPacketReassembled die node tag accept s
  | .bridgeForward link => Sys2Proof.Machine.execBridgeForward link s
  | .linkFlitReceive link crcOk => Sys2Proof.Machine.execLinkFlitReceive link crcOk s
  | .linkReplay link expected => Sys2Proof.Machine.execLinkReplay link expected s
  | .linkRetrain link => Sys2Proof.Machine.execLinkRetrain link s
  | .linkRetrainDone link ok => Sys2Proof.Machine.execLinkRetrainDone link ok s
  | .linkdown link => Sys2Proof.Machine.execLinkdown link s
  | .inboundRequest die ep ctx va size write ord rel data => Sys2Proof.Machine.execInboundRequest die ep ctx va size write ord rel data s
  | .fabricGrant lo hi => Sys2Proof.Machine.execFabricGrant lo hi s
  | .fabricRevoke lo hi => Sys2Proof.Machine.execFabricRevoke lo hi s
  | .bind rid j => Sys2Proof.Machine.execBind rid j s
  | .unbind rid j => Sys2Proof.Machine.execUnbind rid j s
  | .logitStore rid j => Sys2Proof.Machine.execLogitStore rid j s
  | .chunkRun win chunk => Sys2Proof.Machine.execChunkRun win chunk s
  | .samplerResend win => Sys2Proof.Machine.execSamplerResend win s
  | .drainComplete t => Sys2Proof.Machine.execDrainComplete t s
  | .scanBlockDone t same => Sys2Proof.Machine.execScanBlockDone t same s
  | .scanAbort t => Sys2Proof.Machine.execScanAbort t s
  | .scanClearDone t => Sys2Proof.Machine.execScanClearDone t s
  | .wear sg drift hours pred => Sys2Proof.Machine.execWear sg drift hours pred s
  | .dawn ok => Sys2Proof.Machine.execDawn ok s
  | .firmwareImage image sigR sigS keyR keyS secVer entry => Sys2Proof.Machine.execFirmwareImage image sigR sigS keyR keyS secVer entry s
  | .attestationQuote nonce => Sys2Proof.Machine.execAttestationQuote nonce s
  | .managementQuery item => Sys2Proof.Machine.execManagementQuery item s
  | .refresh port bank => Sys2Proof.Machine.execRefresh port bank s
  | .hopCycle die => Sys2Proof.Machine.execHopCycle die s
  | .linkAcknowledge link upto => Sys2Proof.Machine.execLinkAcknowledge link upto s
  | .collectiveValueReceived die k child data => Sys2Proof.Machine.execCollectiveValueReceived die k child data s
  | .frameCopyDone port => Sys2Proof.Machine.execFrameCopyDone port s
  | .allocation die frames => Sys2Proof.Machine.execAllocation die frames s

end Sys2Proof.Machine
end

