-- ==== Sys2Proof/Machine/Regs.lean ====
section
/-! DEFINITION. The registers that a form reads, those it writes, and whether it is in the remote subset: what the
spacing check of R109, the register errors of R177 and stage 2 of R205 look at (R195, R196). -/

namespace Sys2Proof.Machine

/-- n scalar registers from k. -/
def sRegs (k n : Nat) : List Reg := (List.range n).map fun i => .s (k + i)
/-- n vector registers from k. -/
def vRegs (k n : Nat) : List Reg := (List.range n).map fun i => .v (k + i)
/-- A group's directional registers and its norm (R55). -/
def dRegs (k : BitVec 3) (g : BitVec 2) : List Reg := (List.range (2 ^ g.toNat)).map (fun i => Reg.d (k.toNat + i)) ++ [.n k.toNat]

/-- The registers that a slot A form reads (R191, R206 to R268). -/
def readsA : Instr → List Reg
  | .add _ _ a b | .sub _ _ a b | .and _ _ a b | .or _ _ a b | .xor _ _ a b | .shl _ _ a b | .shr _ _ a b | .sra _ _ a b
  | .slt _ _ a b | .sltn _ _ a b | .min _ _ a b | .max _ _ a b | .minn _ _ a b | .maxn _ _ a b | .mul _ _ a b | .mulh _ _ a b
  | .mulhn _ _ a b | .div _ _ a b | .divn _ _ a b | .rem _ _ a b | .remn _ _ a b | .bcc _ _ a b _ | .amo _ _ a b _ _
  | .red _ a b _ _ | .vrcl _ a b | .pmrg _ _ a b _ _ | .lcmw _ _ a b => [.s a.toNat, .s b.toNat]
  | .sel _ d a b | .amoc _ d a b _ => [.s d.toNat, .s a.toNat, .s b.toNat]
  | .clz _ _ a | .popc _ _ a | .addi _ _ a _ | .andi _ _ a _ | .ori _ _ a _ | .xori _ _ a _ | .slti _ _ a _ | .shli _ _ a _
  | .shri _ _ a _ | .srai _ _ a _ | .bfx _ _ a _ _ | .leap _ _ a _ | .bccz _ _ a _ | .jr _ a => [.s a.toNat]
  | .bfi _ d a _ _ => [.s d.toNat, .s a.toNat]
  | .limh _ d _ => [.s d.toNat]
  | .ldb _ _ a _ | .ldbz _ _ a _ | .ldh _ _ a _ | .ldhz _ _ a _ | .ldw _ _ a _ | .ldwz _ _ a _ | .ldd _ _ a _ | .ldv _ _ a _ _
  | .ldfe _ _ a _ | .watch _ _ a | .unwatch _ a | .pfh _ a | .tcls _ a _ _ | .migr _ a | .join _ a | .leave _ a | .gbar _ _ a
  | .gbard _ a | .gqry _ _ a | .hget _ _ a | .rte _ _ a _ | .frz _ _ a | .thaw _ _ a | .slotq _ _ a | .duskDrain _ _ a
  | .duskRelease _ _ a | .scan _ _ a => [.s a.toNat]
  | .stb _ d a _ | .sth _ d a _ | .stw _ d a _ | .std _ d a _ | .stv _ d a _ | .stfe _ d a _ => [.s d.toNat, .s a.toNat]
  | .vld _ _ a g _ _ => [.s a.toNat, .p g.toNat]
  | .vst _ v a g _ => [.v v.toNat, .s a.toNat, .p g.toNat]
  | .vlds _ _ a g _ t => [.s a.toNat, .s t.toNat, .p g.toNat]
  | .vgth _ _ a g _ x => [.s a.toNat, .v x.toNat, .p g.toNat]
  | .vsct _ v a g _ x => [.v v.toNat, .s a.toNat, .v x.toNat, .p g.toNat]
  | .spawn _ k a n _ y _ => sRegs k.toNat n.toNat ++ if y = 0 then [.s a.toNat] else []
  | .rcall _ k a n v c => sRegs k.toNat n.toNat ++ vRegs v.toNat c.toNat ++ [.s a.toNat, .c 0x00E]
  | .rret _ k v n c => sRegs k.toNat n.toNat ++ vRegs v.toNat c.toNat
  | .send _ a k => [.s a.toNat, .s k.toNat, .s (k.toNat + 1)]
  | .push _ r _ => sRegs r.toNat 4 ++ [.c 0x005, .c 0x007]
  | .csrr _ _ n => [.c n.toNat]
  | .csrw _ a _ => [.s a.toNat]
  | .sbsr _ _ a => [.s a.toNat, .c 0x007]
  | _ => []

/-- The registers that a slot A form writes. -/
def writesA (i : Instr) : List Reg :=
  destA i ++ match i with
  | .csrw _ _ n => [.c n.toNat]
  | .sbsr .. | .push .. => [.c 0x007]
  | .rep .. => []
  | _ => []

/-- The control registers that rounding under a code reads (R41, R44). -/
def rndReads (r : BitVec 3) : List Reg := if r = 5 then [.c 0x007] else if r = 6 then [.c 0x005, .c 0x007] else []
/-- Those it writes (R44). -/
def rndWrites (r : BitVec 3) : List Reg := if r = 5 || r = 6 then [.c 0x007] else []

/-- A slot B form may raise flags, and so reads and writes FLAGS (R47, R48). -/
def raisesFlags : Instr → Bool
  | .vadd _ _ _ _ f _ _ | .vsub _ _ _ _ f _ _ | .vmul _ _ _ _ f _ _ | .vfma _ _ _ _ f _ _ | .vfms _ _ _ _ f _ _
  | .vmin _ _ _ _ f _ | .vmax _ _ _ _ f _ | .vcmp _ _ _ _ f _ | .vred _ _ _ f _ _ => Fmt.isFloat f
  | .vcvt .. | .vdiv .. | .vsqrt .. | .vrcp .. | .vrsq .. | .vexp2 .. | .vlog2 .. | .vsin .. | .vcos .. | .vtanh .. | .vtod ..
  | .dtov .. | .dadd .. | .dsub .. | .dlerp .. | .dren .. | .dscl .. | .dcos .. => true
  | _ => false

/-- The registers that a slot B form reads (R193, R269 to R299). -/
def readsB (i : Instr) : List Reg :=
  (if raisesFlags i then [.c 0x004] else []) ++ match i with
  | .vadd _ a b g _ r _ | .vsub _ a b g _ r _ | .vmul _ a b g _ r _ | .vdiv _ a b g _ r => [.v a.toNat, .v b.toNat, .p g.toNat] ++ rndReads r
  | .vfma d a b g _ r _ | .vfms d a b g _ r _ => [.v d.toNat, .v a.toNat, .v b.toNat, .p g.toNat] ++ rndReads r
  | .vmin _ a b g _ _ | .vmax _ a b g _ _ | .vcmp _ a b g _ _ => [.v a.toNat, .v b.toNat, .p g.toNat]
  | .vsel _ a b g | .vand _ a b g | .vor _ a b g | .vxor _ a b g | .vperm _ a b g _ => [.v a.toNat, .v b.toNat, .p g.toNat]
  | .vshl _ a b g _ p | .vshr _ a b g _ p | .vsra _ a b g _ p => [.v a.toNat, .p g.toNat] ++ if p.getLsbD 6 then [] else [.v b.toNat]
  | .vabs _ a g _ _ | .vneg _ a g _ _ | .vnot _ a g | .vmov _ a g | .vord _ a g _ _ | .vdig _ a g _ _ _ => [.v a.toNat, .p g.toNat]
  | .vcvt _ a _ g _ r _ | .vred _ a g _ r _ => [.v a.toNat, .p g.toNat] ++ rndReads r
  | .vsqrt _ a g _ r | .vrcp _ a g _ r | .vrsq _ a g _ r | .vexp2 _ a g _ r | .vlog2 _ a g _ r | .vsin _ a g _ r
  | .vcos _ a g _ r | .vtanh _ a g _ r => [.v a.toNat, .p g.toNat] ++ rndReads r
  | .vbcast _ a g _ => [.s a.toNat, .p g.toNat]
  | .vextr v _ b _ _ => [.v v.toNat, .s b.toNat]
  | .vins _ a b _ => [.s a.toNat, .s b.toNat]
  | .viota _ g _ _ | .pset _ g _ _ => [.p g.toNat]
  | .vhadd v a b g _ x => [.v v.toNat, .v a.toNat, .p g.toNat] ++ if x = 1 then [.v b.toNat] else []
  | .pwhile _ a b g _ _ => [.s a.toNat, .s b.toNat, .p g.toNat]
  | .pand _ a b g | .por _ a b g | .pxor _ a b g => [.p a.toNat, .p b.toNat, .p g.toNat]
  | .pnot _ a g | .pfirst _ a g _ => [.p a.toNat, .p g.toNat]
  | .pcnt p _ g _ => [.p p.toNat, .p g.toNat]
  | .vtod _ v g f _ => vRegs v.toNat (dirVecCount f g)
  | .dtov _ a g _ r => dRegs a g ++ rndReads r
  | .dadd _ a b g _ | .dsub _ a b g _ | .dlerp _ a b g _ _ => dRegs a g ++ dRegs b g
  | .dscl d k g | .dsetn d k g => dRegs d g ++ [.s k.toNat]
  | .dneg _ a g | .dmov _ a g | .dnrm _ a g _ | .dren _ a g _ => dRegs a g
  | .dcos _ a b g r => dRegs a g ++ dRegs b g ++ rndReads r
  | _ => []

/-- The registers that a slot B form writes. -/
def writesB (i : Instr) : List Reg :=
  destB i ++ (if raisesFlags i then [.c 0x004] else []) ++ match i with
  | .vcmp d _ _ _ _ _ | .pwhile d _ _ _ _ _ | .pand d _ _ _ | .por d _ _ _ | .pxor d _ _ _ | .pnot d _ _ | .pfirst d _ _ _
  | .pset d _ _ _ => [.p d.toNat]
  | .vtod d _ g _ _ | .dadd d _ _ g _ | .dsub d _ _ g _ | .dlerp d _ _ g _ _ | .dscl d _ g | .dsetn d _ g | .dneg d _ g
  | .dmov d _ g | .dren d _ g _ => dRegs d g
  | .vadd _ _ _ _ _ r _ | .vsub _ _ _ _ _ r _ | .vmul _ _ _ _ _ r _ | .vfma _ _ _ _ _ r _ | .vfms _ _ _ _ _ r _
  | .vcvt _ _ _ _ _ r _ | .vred _ _ _ _ r _ | .vdiv _ _ _ _ _ r | .vsqrt _ _ _ _ r | .vrcp _ _ _ _ r | .vrsq _ _ _ _ r
  | .vexp2 _ _ _ _ r | .vlog2 _ _ _ _ r | .vsin _ _ _ _ r | .vcos _ _ _ _ r | .vtanh _ _ _ _ r | .dtov _ _ _ _ r
  | .dcos _ _ _ _ r => rndWrites r
  | _ => []

/-- The forms outside the remote subset: those marked "no" in R195 and R196. -/
def remoteNo : Instr → Bool
  | .watch .. | .unwatch .. | .wait .. | .spawn .. | .rcall .. | .migr .. | .join .. | .leave .. | .gbar .. | .gbard ..
  | .gqry .. | .spec .. | .commit .. | .abort .. | .send .. | .recv .. | .push .. | .pop .. | .fstat .. | .semp .. | .semv ..
  | .evpop .. | .hget .. | .hclr .. | .csrr .. | .csrw .. | .brk .. | .rte .. | .idle .. | .frz .. | .thaw .. | .slotq ..
  | .vwid .. | .rdtk .. | .sbsr .. | .duskDrain .. | .duskRelease .. | .lcmw .. | .scan .. | .vtod .. | .dtov .. | .dadd ..
  | .dsub .. | .dscl .. | .dsetn .. | .dneg .. | .dmov .. | .dcos .. | .dnrm .. | .dren .. | .dlerp .. => true
  | _ => false

/-- The bytes of a register in its workspace: offset and length (R222); a control register has none of its own. -/
def regBytes : Reg → Nat × Nat
  | .s n => (8 * n, 8)
  | .p n => (256 + 8 * n, 8)
  | .v n => (384 + 64 * n, 64)
  | .d n => (1408 + 64 * n, 64)
  | .n k => (1920 + 4 * k, 4)
  | .c _ => (320, 0)

/-- The number of a register in its file. -/
def regNum : Reg → Nat
  | .s n | .p n | .v n | .d n | .n n | .c n => n

end Sys2Proof.Machine
end

