-- ==== Sys2Proof/Machine/Issue.lean ====
section
/-! DEFINITION. A core's turn (R102, R108, R109): the ends of a thread's waits (R126), fetching (R190), the issue of a
bundle with its checks in their stages (R205), the repetitions of a REP (R220), a bundle held at issue (R358), and the
lending of idle turns. -/

namespace Sys2Proof.Machine

/-! ## Ends of waits -/

/-- EXIT acts at the end of its wait (R107, R219); a supervisor's traps. What a speculation has logged is discarded (R260). An inline
EXIT takes s31 as it stands: DESIGN CHOICE (log 54), low bits not zero trap at the next issue. -/
def State.exitAct (s : State) (th : Nat) (src : Src) : State :=
  let w := s.getWs th
  let t := s.thr th
  if w.inl then (s.setWs th ((w.setInl false).setPc ((w.getS 31).setWidth 48))).modThr th fun t => { t with park := .none, spec := none }
  else if t.caller.isSome then s.sendReply th [] []
  else if t.pos = 15 then s.takeTrap th ⟨cIllegal, 7, none, src⟩ false w.pc false
  else
    let s := if t.kind = .task then
        { s with launches := s.launches.map fun x => if x.lid = t.lid then { x with exit := x.exit ||| w.exst } else x }
      else s
    s.endThread th

/-- MIGR is sent at the end of its wait, unless its unit is the own core (R258): the unit is found and checked there again. -/
def State.migrSend (s : State) (th : Nat) (va : BitVec 64) (src : Src) : State :=
  let s := { s with cur := th, iss := { Issue.none with pc := src.pc, bundle := src.bundle, word := src.bundle } }
  s.onUnit va true fun l =>
    let t := s.upd fun w => w.setPc (src.pc + 8)
    if l = s.lcore then t.modMe fun t => { t with park := .none }
    else if !sameTile s.lcore l && s.slotsFull s.lcore then s
    else (t.addReq (t.newReq th src (.migr l) [] true)).modMe fun t => { t with park := .answer s.nextRid }

/-- The value of an access in a fence's scope has not returned yet (R86). -/
def Pend.openIn (p : Pend) (l scope : Nat) : Bool :=
  match p.kind with
  | .access ks => ks.any fun k => inScope l scope k
  | _ => false

/-- A FENCE's condition: ACQ waits until the reads before it in its scope have returned their values, FULL also until every
access is performed (R86). -/
def State.fenceDone (s : State) (th kind scope seq : Nat) : Bool :=
  ((s.earlier th seq).all fun r => (kind == 2 && !r.kind.returns) || !r.openIn (coreOfTh th) scope)
    && (s.thr th).pend.all fun p => p.src.seq ≥ seq || !p.openIn (coreOfTh th) scope

/-- A result of one kind is still to land. -/
def Thread.awaits (t : Thread) (k : PendKind) : Bool := t.pend.any fun p => p.kind == k

/-- A thread's wait ends at its own turn where its condition holds (R111, R126). -/
def State.wake (s : State) (th : Nat) : State :=
  let t := s.thr th
  let go := s.modThr th fun t => { t with park := .none }
  match t.park with
  | .none => s
  | .exit src => if !s.settled th then s else if t.held != [] then s.strike th else s.exitAct th src
  | .rret sr vr sn vn =>
    if !s.settled th then s
    else if t.held != [] then s.strike th
    else
      let w := s.getWs th
      s.sendReply th ((List.range sn).map fun i => w.getS (BitVec.ofNat 5 (sr + i))) (w.getVs (BitVec.ofNat 4 vr) vn)
  | .migrWait va src => if !s.settled th then s else if t.held != [] then s.strike th else s.migrSend th va src
  | .fence kind scope seq => if s.fenceDone th kind scope seq then go else s
  | .semp _ => s
  | .wait => if t.ready then s.modThr th fun t => { t with park := .none, ready := false } else s
  | .phase key _ ph d src =>
    if coreOfKey key = coreOfTh th && isPad key then s.pollRead th key ph d src else s
  | .held .. => s
  | .answer rid =>
    match s.req rid with
    | some r =>
      match r.kind with
      | .rcall .. => if (s.earlier th r.src.seq).isEmpty then s.sendCall th rid else s
      | _ => s
    | none => s
  | .idle d => if (s.core (coreOfTh th)).trapq.isEmpty then s else s.takeEntry th d
  | .commit d src => if (s.earlier th src.seq).isEmpty then s.commitNow th d src else s
  | .applied d src rest => s.commitMore th d src rest
  | .recv => if t.awaits .recv then s else go
  | .word rid => match s.req rid with
    | some r => if r.isParked then s else go
    | none => go
  | .over => s

/-! ## Checks at issue -/

/-- A stored thread-state word breaks a field's limits (R223): PC, REPPC, REPJ, MODE, the tags. -/
def Workspace.storedBad (w : Workspace) : Bool :=
  getF w.pc 0 3 != 0 || getF w.repPc 0 3 != 0 || w.repJ > w.repN || w.mode > 5
    || (List.range 16).any (fun i => (w.vtag (BitVec.ofNat 4 i)).toNat > 7)
    || (List.range 8).any fun i => w.dtag (BitVec.ofNat 3 i) != 0 && w.dtag (BitVec.ofNat 3 i) != 15

/-- An uncorrectable error in a register that a slot reads: its trap at stage 5 (R177, R205), and the key. -/
def State.regError (s : State) (l : List Reg) : Option (Trap × Nat) :=
  if s.upsets = [] then none
  else
    let key (r : Reg) := padKey s.lcore (winOfTh s.cur * 2048 + (regBytes r).1)
    (l.find? fun r => r != .p 0 && s.bad (key r) (regBytes r).2).map fun r => (⟨5, cEcc, regNum r * 4, none⟩, key r)

/-- The spacing check: no register of the bundle was written by a bundle issued fewer than 12 cycles before (R109). -/
def State.spaced (s : State) (th : Nat) (b : Bundle) : Bool :=
  let now := (s.core (coreOfTh th)).turns
  let used := readsA b.a ++ writesA b.a ++ readsB b.b ++ writesB b.b
  (s.thr th).lastWrites.all fun x => now ≥ x.1 + 12 || !x.2.any fun r => used.contains r

/-- The state an outcome leaves; a meaning always answers one. -/
def after (o : Host.Outcome State Fault Refusal) (s : State) : State :=
  match o with
  | .next t => t
  | _ => s

/-- A slot's outcome with its register errors: the stage of its trap, 0 for none, and the state (R205). -/
def State.slotTry (s : State) (i : Instr) (reads : List Reg) : Nat × State :=
  let t := after (exec i s) s
  match s.regError reads with
  | some (e, key) => if t.iss.stage = 0 || t.iss.stage > 5 then (5, (s.logUnc key s.me.ctx.toNat).raise e) else (t.iss.stage, t)
  | none => (t.iss.stage, t)

/-- The bundle's slot B is IMM32. -/
def isImm : Instr → Bool
  | .imm32 _ => true
  | _ => false

/-- Both slots of a bundle (R21, R166, R205, R225): the trap of the earliest stage, slot A before slot B; else slot A's
stall or hold; else slot A's effect and then slot B's, which reads its operands as they stood before. -/
def State.slots (s : State) (b : Bundle) : State :=
  let ops := s.src
  let s := if isImm b.b then after (exec b.b s) s else s
  let (ka, ta) := s.slotTry b.a (readsA b.a)
  let sB := { s with iss := { s.iss with slotB := true } }
  let (kb, tb) := if isImm b.b then (0, s) else sB.slotTry b.b (readsB b.b)
  if ka != 0 && (kb = 0 || ka ≤ kb) then ta
  else if kb != 0 && (!ta.iss.stalled || kb ≤ 7) then tb
  else if ta.iss.stalled || ta.iss.held || isImm b.b || !(ta.thr s.cur).occ then ta
  else
    let t := { ta with iss := { ta.iss with slotB := true, ops := some ops } }
    after (exec b.b t) t

/-! ## The issue of a bundle -/

/-- How a turn given to a thread ends. -/
inductive TurnEnd where
  /-- The turn is used. -/
  | used
  /-- It counts as idle (R102). -/
  | idle
  /-- The spacing check failed (R109). -/
  | spacing
  deriving DecidableEq, Repr

/-- A bundle that has passed its encoding checks issues: `second` for a bundle whose held answer has come (R358). -/
def State.runBundle (s : State) (b : Bundle) (second : Bool) : State × TurnEnd :=
  let th := s.cur
  let w := s.live
  let rep := s.iss.inRep
  let s1 := if second then s else s.modMe fun t => { t with seq := t.seq + 1 }
  let s1 := if rep then s1 else s1.upd fun w => w.setPc (w.pc + 8)
  let t := s1.slots b
  if t.iss.stage != 0 || !(t.thr th).occ then (t, .used)
  else if t.iss.stalled then ((t.setWs th w).modThr th fun x => { x with seq := (s.thr th).seq }, .idle)
  else if t.iss.held then (t.setWs th w, .used)
  else
    let t := if rep then t.setWs th ((t.getWs th).nextBundle true) else t
    let now := (t.core (coreOfTh th)).turns
    (t.modThr th fun x => { x with
      rte := none
      settle := settleOf b.a && !t.settled th
      lastWrites := (x.lastWrites.filter fun y => now < y.1 + 12) ++ [(now, writesA b.a ++ writesB b.b)] }, .used)

/-- A decoded bundle meets the remote subset (R8, R173, R205 stage 2) and the spacing check (R109), and issues. -/
def State.issueDecoded (s : State) (b : Bundle) : State × TurnEnd :=
  let t := s.me
  if (t.caller.isSome || isStack s.lcore) && (remoteNo b.a || remoteNo b.b) then
    match t.caller with
    | some c => (s.calleeEnds s.cur c cSubset none, .used)
    | none => (s.endThread s.cur, .used)
  else if !s.spaced s.cur b then (s, .spacing)
  else s.runBundle b false

/-- The word that issues under an RTE's mode: one slot emptied, an IMM32 kept with slot A (R170, R192). -/
def modeWord (mode m : Nat) : Nat :=
  let imm := fld m 26 6 = 0x3E
  if mode = 1 then m / 2 ^ 63 * 2 ^ 63 + m % 2 ^ 32
  else if mode = 2 then (if imm then m else m / 2 ^ 32 * 2 ^ 32)
  else m

/-- The positions of a REP's mask that concern the slots that issue. -/
def modeMask (mode mask : Nat) : Nat := if mode = 1 then mask % 8 else if mode = 2 then mask / 8 * 8 else mask

/-- A fetched bundle issues: by the mode of an RTE, stepped within a REP, checked (R170, R205, R220). -/
def State.issueWord (s : State) (m : Nat) : State × TurnEnd :=
  let w := s.live
  let mode := (s.me.rte.getD 0).toNat
  let rep := s.iss.inRep
  let s := { s with iss := { s.iss with bundle := BitVec.ofNat 64 m } }
  if mode = 1 && fld m 26 6 = 0x3E then
    ((s.upd fun w => w.nextBundle rep).modMe fun t => { t with rte := none }, .used)
  else
    match (if rep then stepBundle (modeMask mode w.repMask) w.repStep w.repJ (modeWord mode m) else .ok (modeWord mode m)) with
    | .error b => ({ s with iss := { s.iss with slotB := b } }.raise ⟨1, cIllegal, 3, none⟩, .used)
    | .ok x =>
      let s := { s with iss := { s.iss with word := BitVec.ofNat 64 x } }
      match decodeBundle x with
      | .error e => ({ s with iss := { s.iss with slotB := e.slotB } }.raise ⟨1, cIllegal, e.cause.reason, none⟩, .used)
      | .ok b => s.issueDecoded b

/-- The issuing thread has fetched the bundle at its PC: a stored value beyond its field's limit traps (R223), else the
bundle issues. -/
def State.issueFetched (s : State) (key : Nat) (bad : Bool) : State × TurnEnd :=
  if bad then ({ s with iss := { s.iss with bundle := BitVec.ofNat 64 (s.rdN key 8) } }.raise ⟨7, cIllegal, 7, none⟩, .used)
  else if s.bad key 8 then ((s.logUnc key s.me.ctx.toNat).raise ⟨8, cEcc, 3, none⟩, .used)
  else s.issueWord (s.rdN key 8)

/-- A thread that is ready issues: a held failure strikes first (R168), an RTE of mode 3 passes over a bundle (R170); then
the bundle is fetched (R190) from its PC, or from REPPC within a REP (R220), and the stored state is checked (R223). -/
def State.issueAt (s : State) (th : Nat) : State × TurnEnd :=
  let w := s.getWs th
  let rep := w.repAct
  let pc := if rep then w.repPc else w.pc
  let s := { s with cur := th, iss := { Issue.none with pc := pc, inRep := rep } }
  if s.me.held != [] then (s.strike th, .used)
  else if s.me.rte = some 3 then ((s.upd fun w => w.nextBundle rep).modMe fun t => { t with rte := none }, .used)
  else if getF pc 0 3 != 0 then (s.raise ⟨7, cIllegal, 7, none⟩, .used)
  else
    match s.reach (pc.setWidth 64) 8 .fetch with
    | .trap x => (s.raise (if w.storedBad then ⟨7, cIllegal, 7, none⟩ else { x with va := some (pc.setWidth 64) }), .used)
    | .walk vpn => (s.stallWalk vpn, .idle)
    | .at_ key pte => s.fetchAt key (pc.setWidth 64) pte (fun s => s.issueFetched key w.storedBad) fun s => (s, .idle)

/-- The second issue of a held bundle, once its request is answered (R358). -/
def State.issueHeld (s : State) (th rid : Nat) (word : BitVec 64) (ops : Workspace) : State × TurnEnd :=
  match s.req rid with
  | some r =>
    match r.st with
    | .answered f v =>
      if s.answerOut rid then (s, .idle)
      else
      let key := match r.parts with | p :: _ => p.key | [] => 0
      let iss : Issue := { Issue.none with
        pc := r.src.pc, bundle := r.src.bundle, word := word, ops := some ops, answer := some ⟨f, v, key⟩
        inRep := (s.getWs th).repAct }
      let s := ({ s with cur := th, iss := iss }.dropReq rid).modThr th fun t => { t with park := .none }
      match decodeBundle word.toNat with
      | .ok b => s.runBundle b true
      | .error _ => (s, .idle)
    | _ => (s, .idle)
  | none => (s, .idle)

/-! ## Turns (R102, R108, R109) -/

/-- A thread is frozen (R124, R171, R172). -/
def Thread.frozen (t : Thread) : Bool := t.frz || t.pfrz || t.sfrz

/-- A thread waits for a translation of its own (R238). -/
def Thread.walking (t : Thread) : Bool :=
  match t.walk with
  | .waiting _ => true
  | _ => false

/-- A thread's own turn: a trap is left by RTE alone, a wait is looked at, and a ready thread issues. -/
def State.ownTurn (s : State) (th : Nat) : State × TurnEnd :=
  let t := s.thr th
  if t.trapped then
    match t.rte with
    | none => (s, .idle)
    | some _ => (s.leaveTrap th).issueAt th
  else if t.walking then (s, .idle)
  else
    match t.park with
    | .held rid word ops => s.issueHeld th rid word ops
    | _ =>
      let s := s.wake th
      let t := s.thr th
      if !t.occ || t.trapped then (s, .used)
      else if (t.park != .none && t.park != .over) || t.walking then (s, .idle)
      else if t.settle && !s.settled th then (s, .idle)
      else (s.modThr th fun t => { t with settle := false, park := .none }).issueAt th

/-- A thread may take a lent turn; one whose wait has ended takes the next turn of its own position first (R109, R111). -/
def State.mayBorrow (s : State) (th : Nat) (ctx : Nat) : Bool :=
  let t := s.thr th
  (s.getWs th).lend && t.ctx.toNat == ctx && !t.stopped && !t.trapped && t.park == .none && !t.settle && !t.walking

/-- An idle turn goes to the first of the borrowers that passes the spacing check (R109). -/
def State.lendTo (s : State) : List Nat → State
  | [] => s
  | th :: l =>
    match s.issueAt th with
    | (_, .spacing) => State.lendTo s l
    | (t, _) => t

/-- A position's turn comes round: a FRZ or THAW acts on its threads (R230), and a freeze takes effect (R124). -/
def State.freezeTurn (s : State) (l p : Nat) : State :=
  s.forThreads ((s.threadsOn l).filter fun k => (s.thr k).pos == p) fun t =>
    let t := { t with frz := t.frzTo.getD t.frz, frzTo := none }
    { t with stopped := t.frozen }

/-- What has lost a conflict is sent again at its thread's turn, or at the core's next one where its thread has ended (R130). -/
def State.replayTurn (s : State) (l p : Nat) : State :=
  { s with net := s.net.map fun r =>
      if r.st == .replay && r.lcore == l && (r.th ≥ noThread || (s.thr r.th).pos == p) then { r with st := .inflight, sent := false, legs := [] } else r }

/-- The turn of a core's next position. An empty one is lent to the threads of the tile's owner (R109): DESIGN CHOICE (log 54), a port
core's, which no context owns, to those of context 0. -/
def State.turn (s : State) (l : Nat) : State :=
  let p := (s.core l).barrel.toNat
  let s := ((s.modCore l fun c => { c with barrel := c.barrel + 1, turns := c.turns + 1 }).freezeTurn l p).replayTurn l p
  let lend (s : State) (ctx : Nat) (own : Option Nat) : State :=
    if p = 15 then s
    else s.lendTo (((List.range 15).filterMap fun q => s.threadAt l q).filter fun th => some th != own && s.mayBorrow th ctx)
  let s := match s.threadAt l p with
    | some th =>
      if (s.thr th).frozen then s
      else
        let ctx := (s.thr th).ctx.toNat
        match s.ownTurn th with
        | (t, .used) => t
        | (t, _) => lend t ctx (some th)
    | none => lend s ((s.ownerOf l).getD 0) none
  { s with iss := Issue.none }

/-! ## Moves (log 1) -/

/-- The constructors of Instr that are tile commands, operations and events, which no bundle and no logit program holds. -/
def isEvent : Instr → Bool
  | .cld .. | .cldSectorReply .. | .wld .. | .ald .. | .ast .. | .czr .. | .crd .. | .cvt .. | .cpy .. | .gth ..
  | .sct .. | .xfr .. | .fill .. | .tdsc .. | .smx .. | .save .. | .rstr .. | .completionPost .. | .launch ..
  | .dispatch .. | .taskRetire .. | .preemptThaw .. | .requestArrival .. | .longLatencyResult .. | .refusal ..
  | .retryLimit .. | .drainedResend .. | .deferredTrap .. | .spawnArrival .. | .spawnAnswer ..
  | .spawnCountRefresh .. | .rcallArrival .. | .rcallReply .. | .faultRecord .. | .rcallTimeout .. | .migrArrival ..
  | .migrAnswer .. | .parkedArrivalStart .. | .sendArrival .. | .redArrival .. | .inboxWrite ..
  | .barrierHomeApply .. | .barrierPoll .. | .walkComplete .. | .streamFaultTimeout .. | .fltpop ..
  | .fltrspReplay .. | .fltrspFail .. | .tinvPage .. | .tinvAll .. | .invalidationDone .. | .ctxbaseWrite ..
  | .stkownWrite .. | .ownerWrite .. | .scrubDone .. | .errpop .. | .registerWrite .. | .treeld .. | .clgo ..
  | .collectiveDone .. | .budgetPeriod .. | .hotPagePeriod .. | .rfmpb .. | .starve .. | .packetReassembled ..
  | .bridgeForward .. | .linkFlitReceive .. | .linkReplay .. | .linkRetrain .. | .linkRetrainDone .. | .linkdown ..
  | .inboundRequest .. | .fabricGrant .. | .fabricRevoke .. | .bind .. | .unbind .. | .logitStore .. | .chunkRun ..
  | .samplerResend .. | .drainComplete .. | .scanBlockDone .. | .scanAbort .. | .scanClearDone .. | .wear ..
  | .dawn .. | .firmwareImage .. | .attestationQuote .. | .managementQuery .. | .refresh .. | .hopCycle ..
  | .linkAcknowledge .. | .collectiveValueReceived .. | .frameCopyDone .. | .allocation .. => true
  | _ => false

/-- The next logit instruction of a window's run (R324). -/
def State.logitStep (s : State) (win : Nat) : Host.Outcome State Fault Refusal :=
  match s.logitFetch win with
  | none => .next s
  | some i => exec i (s.logitAdvance win)

/-- One move of the machine. -/
def State.makeMove (s : State) (m : Move) : Host.Outcome State Fault Refusal :=
  match m with
  | .turn l => .next (if namesCore l then s.turn l else s)
  | .event i => if isEvent i then exec i s else .next s
  | .chunkBegin win c => .next (s.chunkStart win c)
  | .logit win => s.logitStep win
  | .time n => .next { s with tick := s.tick + n }
  | .corrected l n => .next (s.correct l n)
  | .serve port => .next (if isPort port then s.serveMem port else s)
  | .contend bank claims => .next (s.contend bank claims)
  | .largePages die n large => .next (s.allocatePages die n large)
  | .peer die ep m => .next (s.peerSends die ep m)
  | .upset u => .next (if s.upsets.contains u then s else { s with upsets := u :: s.upsets })

end Sys2Proof.Machine
end

