-- ==== Sys2Proof/Machine/Step.lean ====
section
/-! DEFINITION. The step: the next move of the machine (log 1); and where an instruction stands for the step to run it
(log 4). -/

namespace Sys2Proof.Machine

/-- One step: the first move of the agenda, or the move that a free value names. -/
def step (s : State) : Host.Outcome State Fault Refusal :=
  match s.agenda with
  | m :: l => { s with agenda := l }.makeMove m
  | [] => { s with moves := s.moves + 1 }.makeMove (Config.nextMove s.moves)

/-- The bundle that holds a word of the opcode table: in slot A, or in slot B beside a NOP (R190, log 5). -/
def tableBundle (w : Nat) : Nat :=
  match decodeA w with
  | .ok _ => w * 2 ^ 32
  | .error _ => w

/-- The word is read as a core's. -/
def isCoreWord (w : Nat) : Bool := (decodeA w).toOption.isSome || (decodeB w).toOption.isSome

/-- A thread of context 0 at position 0 of core 0 with a bundle at its PC 0, on a page that its tile's cache translates and in a
line that stands in its home's slice (log 4). -/
def State.withBundle (s : State) (b : Nat) : State :=
  let s := (s.startThread 0 Thread.none (Workspace.fresh 0 false)).modCore 0 fun c => { c with barrel := 0 }
  let s := s.modTile 0 fun t => { t with tlb := ⟨0, 0, 1, 0⟩ :: t.tlb }
  let s := s.modPort (memPort 0) fun p => { p with lines := ⟨0, 3, 15, false, none, false, []⟩ :: p.lines }
  { s.wrN 0 8 b with agenda := [.turn 0] }

/-- A window bound at page 0 whose run is at a one-word program (log 4). -/
def State.withLogit (s : State) (w : Nat) : State :=
  let zero : Vector (BitVec 32) 32 := Vector.replicate 32 0
  let r : LRun := ⟨0, Vector.replicate 16 zero, zero, Vector.replicate 32 0, 0, 0, Vector.replicate 32 0, Vector.replicate 8 0, 0, none, false, false⟩
  let b : Binding := ⟨0, 0, 0, 0, false, 65536, false, 32, 1, [BitVec.ofNat 32 w], 0, 0, 0, 0, 0, 0, Vector.replicate 8 0,
    BitVec.ofNat 32 f32NegInf, 0, 0, 0, [], 0, [], [], [], none, some r⟩
  { s.setBinding 0 (some b) with agenda := [.logit 0] }

/-- The state in which the next step runs the instruction of a word of the opcode table. -/
def State.withFetchWord (s : State) (_nbits w : Nat) : State :=
  if isCoreWord w then s.withBundle (tableBundle w) else s.withLogit w

end Sys2Proof.Machine
end

