-- ==== Sys2Proof/Safety.lean ====
section
/-! DEFINITION. The terms in which claims are made: what a safe step is, what an instruction leaves as it was, the
canonical form that every step keeps, and where an instruction's word stands in a bundle. -/

namespace Sys2Proof.Machine

/-! ## Safe steps -/

/-- A step that neither faults nor is refused. -/
def State.safeStep (s : State) : Prop := ∃ t, step s = .next t

/-! ## What is kept -/

/-- Every byte of the machine's memories reads in t as in s, but for the bytes of thread th's workspace (R222) in one of
the ranges, each an offset and a length. -/
def State.bytesKeptBut (s t : State) (th : Nat) (rs : List (Nat × Nat)) : Prop :=
  ∀ k, (∀ off, wsOf k = some (th, off) → ∀ r ∈ rs, off < r.1 ∨ r.1 + r.2 ≤ off) → t.rdByte k = s.rdByte k

/-- Every byte of the machine's memories reads in t as in s. -/
def State.bytesKept (s t : State) : Prop := ∀ k, t.rdByte k = s.rdByte k

/-- t is s but for those bytes of the issuing thread's workspace: threads, cores, tiles, requests, tags and every other
part are as they were, and so is every other byte of memory. -/
def State.onlyBytes (s t : State) (rs : List (Nat × Nat)) : Prop :=
  t = { s with ws := t.ws } ∧ (∀ th, th ≠ s.cur → t.getWs th = s.getWs th) ∧ s.bytesKeptBut t s.cur rs

/-- Where scalar register d stands in a workspace (R222). -/
def sBytes (d : BitVec 5) : Nat × Nat := (8 * d.toNat, 8)
/-- Where predicate register d stands. -/
def pBytes (d : BitVec 3) : Nat × Nat := (256 + 8 * d.toNat, 8)
/-- Where vector register d stands. -/
def vBytes (d : BitVec 4) : Nat × Nat := (384 + 64 * d.toNat, 64)
/-- Where directional register d stands. -/
def dBytes (d : BitVec 3) : Nat × Nat := (1408 + 64 * d.toNat, 64)
/-- Where norm register d stands. -/
def nBytes (d : BitVec 3) : Nat × Nat := (1920 + 4 * d.toNat, 4)
/-- Where PC stands, TS0[47:0]. -/
def pcBytes : Nat × Nat := (320, 6)
/-- Where FLAGS stands, TS1[15:0]. -/
def flagBytes : Nat × Nat := (328, 2)
/-- Where SBCNT stands, TS6. -/
def sbcntBytes : Nat × Nat := (368, 8)
/-- Where the tag of vector register d stands: its byte of TS4. -/
def vtagByte (d : BitVec 4) : Nat × Nat := (352 + d.toNat / 2, 1)
/-- Where the tag of directional register d stands: its byte of TS5. -/
def dtagByte (d : BitVec 3) : Nat × Nat := (360 + d.toNat / 2, 1)

/-- Scalar register d of the issuing thread takes x, and nothing else of the machine changes. -/
def State.onlyS (s t : State) (d : BitVec 5) (x : BitVec 64) : Prop := t.live.getS d = x ∧ s.onlyBytes t [sBytes d]

/-- t is s but for the issuing thread, which has changed as f says: every byte of memory, every other thread and every
other part is as it was. -/
def State.onlyThread (s t : State) (f : Thread → Thread) : Prop :=
  t = { s with threads := t.threads } ∧ t.me = f s.me ∧ ∀ th, th ≠ s.cur → t.thr th = s.thr th

/-- The condition of a BCC (R216). -/
def condOf (c : BitVec 3) (x y : BitVec 64) : Prop :=
  match c.toNat with
  | 0 => x = y
  | 1 => x ≠ y
  | 2 => x.toInt < y.toInt
  | 3 => y.toInt ≤ x.toInt
  | 4 => x.toNat < y.toNat
  | _ => y.toNat ≤ x.toNat

/-- Byte k of memory is none of the n bytes from key on, and no other name of one of them: a workspace's byte is named by
every key from which `wsOf` finds it. -/
def outside (k key n : Nat) : Prop := ∀ j < n, k ≠ key + j ∧ (wsOf k = none ∨ wsOf k ≠ wsOf (key + j))

/-- The bits of a byte that a store to it leaves as they were: the reserved ones of a workspace, LEND, and the read-only
fields of a trap record (R5, R167, R222, R223). -/
def fixedBits (k : Nat) : Byte :=
  match wsOf k with
  | some (_, off) =>
    if 320 ≤ off ∧ off < 384 then ~~~(byteOf (tsMask ((off - 320) / 8)) (off % 8))
    else if 1952 ≤ off ∧ off < 1984 then ~~~(byteOf trapMask (off - 1952))
    else if 1984 ≤ off then 0xFF else 0
  | none => 0

/-- What byte k reads as once b is stored to it. -/
def State.storedByte (s : State) (k : Nat) (b : Byte) : Byte := (s.rdByte k &&& fixedBits k) ||| (b &&& ~~~(fixedBits k))

/-- The traps of an instruction that accesses va (R238, R245, R348), once its context-0 check has passed: MISALIGNED; ACCESS
reason 16 of an address that no address form gives, or that its kind does not reach; a page without a translation, with
the reason of its walk; a page that forbids the access. -/
def State.trapsAt (s : State) (i : Instr) (va : BitVec 64) (size : Nat) (k : AccKind) : Prop :=
  s.ctx0Trap va size k = none →
  let a := va.toNat
  let traps := fun (t : Trap) => exec i s = .next (s.raise t)
  (a % size ≠ 0 → traps ⟨8, cMisaligned, Nat.log2 size + (if k.writes then 8 else 0), some va⟩) ∧
  (a % size = 0 →
    (fld a 48 16 ≠ 0 ∨ fld a 46 2 = 2 ∨ (fld a 46 2 = 3 ∧ onchip s.lcore a size = none) → traps (trapAccess 16 va)) ∧
    (fld a 48 16 = 0 → fld a 46 2 < 2 →
      (k.isWord = true ∨ (fld a 46 2 = 1 ∧ k = .atomic) → traps (trapAccess 16 va)) ∧
      (k.isWord = false → (fld a 46 2 = 1 → k ≠ .atomic ∧ k ≠ .fetch) →
        (∀ r, s.tlbFind s.lcore s.me.ctx (a / 65536) = none → s.me.walk = .failed (a / 65536) r → traps ⟨8, cPageFault, r, some va⟩) ∧
        ∀ e r, s.tlbFind s.lcore s.me.ctx (a / 65536) = some e → pageForbids e.pte k = some r → traps (trapAccess r va))))

/-- An instruction sends one request: of its own thread, with these parts; beside it only the issuing thread may have
changed, and every byte of memory is as it was. -/
def State.sends (s t : State) (kind : ReqKind) (ps : List Part) (hold : Bool) : Prop :=
  (∃ r : Req, t.net = s.net ++ [r] ∧ r.rid = s.nextRid ∧ r.th = s.cur ∧ r.lcore = s.lcore ∧ r.ctx = s.me.ctx ∧
    r.lid = s.me.lid ∧ r.src = s.issSrc ∧ r.kind = kind ∧ r.parts = ps ∧ r.st = .inflight ∧ r.hold = hold) ∧
  t = { s with net := t.net, nextRid := s.nextRid + 1, threads := t.threads } ∧ ∀ th, th ≠ s.cur → t.thr th = s.thr th

/-- The issuing thread expects the answer of the request it sends, for these registers; of its other parts only its list of REL
fences, fs, may differ. -/
def State.expects (s t : State) (fs : List RelFence) (ds : List Reg) : Prop :=
  ∃ p : Pend, t.me = { s.me with pend := s.me.pend ++ [p], fences := fs } ∧ p.rid = some s.nextRid ∧ p.dests = ds ∧ p.ready = false ∧
    p.src = s.issSrc ∧ p.fail = none

/-- A release (R78, R81): where an access before it is not yet performed, the thread's later writes are held for those before it
as by a REL fence of every scope; else its fences are as they were. -/
def State.releases (s t : State) : Prop :=
  (s.earlier s.cur s.me.seq = [] → t.me.fences = s.me.fences) ∧
    (s.earlier s.cur s.me.seq ≠ [] → s.iss.stalled = false → s.iss.stage = 0 → ⟨s.me.seq, 7⟩ ∈ t.me.fences)

/-- The issuing thread parks at its bundle's address, and nothing else changes. -/
def State.parksHere (s t : State) (p : Park) : Prop :=
  t.live.pc = s.iss.pc ∧ t.me = { s.me with park := p } ∧ t = { s with ws := t.ws, threads := t.threads } ∧
    s.bytesKeptBut t s.cur [pcBytes] ∧ ∀ th, th ≠ s.cur → t.thr th = s.thr th

/-- The issuing bundle is held at issue (R358): one request leaves, its thread waits for the answer, and nothing else
changes. -/
def State.holdsAt (s t : State) (kind : ReqKind) (ps : List Part) (hold : Bool) : Prop :=
  (∃ r : Req, t.net = s.net ++ [r] ∧ r.rid = s.nextRid ∧ r.th = s.cur ∧ r.lcore = s.lcore ∧ r.ctx = s.me.ctx ∧ r.lid = s.me.lid ∧
    r.src = s.issSrc ∧ r.kind = kind ∧ r.parts = ps ∧ r.st = .inflight ∧ r.hold = hold) ∧
  t.me = { s.me with park := .held s.nextRid s.iss.word s.src } ∧ (∀ th, th ≠ s.cur → t.thr th = s.thr th) ∧
  t = { s with net := t.net, nextRid := s.nextRid + 1, threads := t.threads, iss := { s.iss with held := true } }

/-- A send passes its unit's checks: the unit's tile is not drained, the sender's context may call it, and its tile runs a
task of the sender's launch (R159, R182, R254, R255). -/
def State.unitTakes (s : State) (r : Req) (l : Nat) : Prop :=
  s.refuses (padKey l 0) = false ∧ s.mayCall r.ctx l = true ∧
    (isTileCore l && s.gone r.ctx r.lid (padKey l 0)) = false

/-- A peer's message heads the inbox of a Kensel port of a die, the lowest such port's (R344), and u is the state without it. -/
def State.brings (s : State) (die : Nat) (m : PeerMsg) (u : State) : Prop :=
  ∃ n < 4, (s.link (40 + 4 * die + n)).inbox.head? = some m ∧ (∀ j < n, (s.link (40 + 4 * die + j)).inbox.head? ≠ some m) ∧
    u = s.modLink (40 + 4 * die + n) fun x => { x with inbox := x.inbox.drop 1 }

/-- Request rid stands in the network as r alone. -/
def State.isReq (s : State) (rid : Nat) (r : Req) : Prop := s.req rid = some r ∧ r.rid = rid ∧ ∀ q ∈ s.net, q.rid = rid → q = r

/-- Request rid stands in the network as r, and may be taken at its unit or home (R78, R82, R86). -/
def State.isDue (s : State) (rid : Nat) (r : Req) : Prop := s.isReq rid r ∧ s.dueAtUnit r = true

/-- The network with request rid answered. -/
def answeredIn (net : List Req) (rid : Nat) (v : BitVec 64) : List Req :=
  net.map fun q => if q.rid = rid then { q with st := .answered none v } else q

/-- Of the threads only th has changed, as f says. -/
def State.onlyTh (s t : State) (th : Nat) (f : Thread → Thread) : Prop := t.thr th = f (s.thr th) ∧ ∀ k, k ≠ th → t.thr k = s.thr k

/-- Scalar register d will take x as a result that is ready and lands later (R24), and nothing else changes. -/
def State.answersSoon (s t : State) (d : BitVec 5) (x : BitVec 64) : Prop :=
  s.onlyThread t fun q => { q with pend := q.pend ++ [⟨s.issSrc, .value, none, true, [.s d.toNat], [.s d x], 0, none⟩] }

/-- An element of w bits read as natural or signed (R273). -/
def elInt (w : Nat) (nat : Bool) (x : Nat) : Int := if nat then (x : Int) else (BitVec.ofNat w x).toInt

/-- The w bits of an integer. -/
def elBits (w : Nat) (x : Int) : Nat := (x % 2 ^ w).toNat

/-- An integer brought into the range of the reading (R273). -/
def elSat (w : Nat) (nat : Bool) (x : Int) : Int :=
  if nat then Max.max 0 (Min.min x (2 ^ w - 1)) else Max.max (-(2 ^ (w - 1))) (Min.min x (2 ^ (w - 1) - 1))

/-- An instruction of one rotation that raises the flags fl and consumes n chunks under the stochastic mode (R44, R48):
with one of the flags enabled it traps ARITH, with all of them raised; else it completes, `k` holds of the state after it,
FLAGS holds the flags beside its own, and nothing changes but FLAGS, SBCNT and the bytes of rs. -/
def State.finishes (s : State) (i : Instr) (fl : Flags) (md n : Nat) (rs : List (Nat × Nat)) (k : State → Prop) : Prop :=
  (s.src.enabled fl = 0 → ∃ t, exec i s = .next t ∧ k t ∧
    (∀ j, j < 7 → t.live.flags.getLsbD j = (s.live.flags.getLsbD j || fl.getLsbD j)) ∧
    (∀ j, 8 ≤ j → t.live.flags.getLsbD j = s.live.flags.getLsbD j) ∧
    (t.live.sbcnt = if md = 5 && !s.slotAWritesSbcnt then s.src.sbcnt + BitVec.ofNat 64 ((n + 3) / 4) else s.live.sbcnt) ∧
    s.onlyBytes t (flagBytes :: sbcntBytes :: rs)) ∧
  (s.src.enabled fl ≠ 0 → exec i s = .next ((s.upd fun w => w.orFlags fl).raise ⟨9, cArith, (s.src.enabled fl).toNat * 256, none⟩))

/-- The flags that the active elements of n raise together. -/
def raisedBy (n : Nat) (act : Nat → Bool) (f : Nat → Nat × Flags) (fl : Flags) : Prop :=
  ∀ j, fl.getLsbD j = true ↔ ∃ i < n, act i = true ∧ (f i).2.getLsbD j = true

/-- Vector register d carries the tag, the other tags and every other byte are as they were. -/
def State.onlyV (s t : State) (d : BitVec 4) (tag : BitVec 4) : Prop :=
  t.live.vtag d = tag ∧ (∀ q, q ≠ d → t.live.vtag q = s.live.vtag q) ∧ s.onlyBytes t [vBytes d, vtagByte d]

/-- The active elements of vd take f's values, the others keep their bits, and vd carries the tag (R23, R269, R270). -/
def State.elementsAre (s t : State) (d : BitVec 4) (g : BitVec 3) (e : Nat) (tag : BitVec 4) (f : Nat → Nat) : Prop :=
  t.live.vtag d = tag ∧ (∀ q, q ≠ d → t.live.vtag q = s.live.vtag q) ∧
    ∀ i < 64 / e, elemN (t.live.getV d) e i = if activeEl (s.rP g) e i then f i % 2 ^ (8 * e) else elemN (s.live.getV d) e i

/-- An element-wise instruction (R269, R270): the values and flags that f gives its active elements. -/
def State.elementWise (s : State) (i : Instr) (d : BitVec 4) (g : BitVec 3) (e : Nat) (tag : BitVec 4) (md : Nat) (f : Nat → Nat × Flags) : Prop :=
  ∀ fl, raisedBy (64 / e) (activeEl (s.rP g) e) f fl →
    s.finishes i fl md (64 / e) [vBytes d, vtagByte d] fun t => s.elementsAre t d g e tag fun j => (f j).1

/-- Predicate register d, if it is not p0, takes c's bit in each byte that m selects, and keeps the others; nothing else
changes (R269). -/
def State.onlyP (s t : State) (d : BitVec 3) (m c : Nat → Bool) : Prop :=
  s.onlyBytes t (if d = 0 then [] else [pBytes d]) ∧ (d ≠ 0 → ∀ j < 64, (t.live.getP d).getLsbD j = if m j then c j else (s.live.getP d).getLsbD j)

/-- The group of directional registers at d, and its norm, take z with the DQ tag; nothing else changes (R55). -/
def State.onlyGroup (s t : State) (d : BitVec 3) (g : BitVec 2) (z : Dir) : Prop :=
  t.live = s.live.applyAll (dirWrites d g z) ∧ (∀ th, th ≠ s.cur → t.getWs th = s.getWs th) ∧ t = { s with ws := t.ws }

/-- Part j of request rid, p, may be performed at its home, with memory ready for it, and passes the home's check (R78, R82,
R86, R127, R140, R144, R159). -/
def State.partDue (s : State) (rid j : Nat) (r : Req) (p : Part) : Prop :=
  s.isReq rid r ∧ r.parts[j]? = some p ∧ r.st = .inflight ∧ s.mayArrive r j = true ∧ s.homeReady p = true ∧ s.homeCheck r p = .ok

/-- A part's stored bytes stand in t's memory, as s kept them. -/
def State.holdsPart (s t : State) (p : Part) : Prop :=
  ∀ i < p.len, p.mask.getLsbD i = true → t.rdByte (p.key + i) = s.storedByte (p.key + i) (byteOf p.data i)

/-- A store to a window's page once it has been performed, before the filter acts on it (R323). -/
def State.windowStored (s : State) (r : Req) (j : Nat) (p : Part) : State :=
  ((s.touch p r.lcore r.ctx).homeStore (some r.th) p.key p.len p.mask p.data.toNat r.rel).partDone r j

/-- The run of the moving window, r, gives each lane i of register d the value f i, and nothing else changes. -/
def State.laneWise (s : State) (i : Instr) (d : BitVec 4) (f : LRun → Nat → Nat) : Prop :=
  ∀ b r, s.binding s.curWin = some b → b.run = some r → ∃ t, exec i s = .next t ∧ t = { s with bindings := t.bindings } ∧
    (∀ w, w ≠ s.curWin → t.binding w = s.binding w) ∧
    t.binding s.curWin = some { b with run := some { r with x := r.x.set d.toNat (Vector.ofFn fun k => BitVec.ofNat 32 (f r k.val)) d.isLt } }

/-- The number that the next request takes names none yet. -/
def State.freshRid (s : State) : Prop := (∀ q ∈ s.net, q.rid ≠ s.nextRid) ∧ ∀ x ∈ s.ports, ∀ y ∈ x.2.passed, y.1 ≠ s.nextRid

/-- The parts of an access are performed at once, by the issuing core: they lie in its own tile, port scratchpad or SRAM,
behind no earlier access to their blocks and no fence (R239), outside a speculation, in a tile that runs a task of the
launch (R159), and for a load without an uncorrectable error (R177). -/
def State.atOnce (s : State) (ps : List Part) (store : Bool) : Prop :=
  s.direct ps store = true ∧ s.me.spec = none ∧
    ∀ p ∈ ps, s.gone s.me.ctx s.me.lid p.key = false ∧ (store = false → s.bad p.key p.len = false)

/-- The parts of a read that lie in the own tile, in a tile that runs a task of the launch (R159). -/
def State.ownParts (s : State) (ps : List Part) : List Part := ps.filter fun p => isLocalKey s.lcore p.key && !s.gone s.me.ctx s.me.lid p.key

/-- What a read with these parts does, outside a speculation, where it is not made at once: behind an earlier access to a block of
its own tile the bundle keeps its place (R82); a part of the own tile with an uncorrectable error is logged and traps precisely
(R166, R177); else, with a slot free, one request leaves, all its parts in it (R147, R239), and register d is expected; an LDFE is a release beside. -/
def State.readsElse (s : State) (i : Instr) (kind : ReqKind) (ps : List Part) (d : Reg) : Prop :=
  (s.blockBusy s.cur s.issSrc (s.ownParts ps) = true → exec i s = .next s.stall) ∧
  (s.blockBusy s.cur s.issSrc (s.ownParts ps) = false →
    (∀ p, ((s.ownParts ps).find? fun p => s.bad p.key p.len) = some p →
      exec i s = .next ((s.logUnc p.key s.me.ctx.toNat).raise ⟨8, cEcc, eccInfo p.key, some p.va⟩)) ∧
    ((∀ p ∈ s.ownParts ps, s.bad p.key p.len = false) → (kind = .load → s.direct ps false = false) → s.noSlot ps = false →
      ∃ t, exec i s = .next t ∧ s.sends t kind ps (kind == .ldfe) ∧ s.expects t (if kind = .ldfe then t.me.fences else s.me.fences) [d] ∧
        (kind = .ldfe → s.releases t)))

/-- The parts of a store leave as one request: outside a speculation, not at once, with a slot free, to no OWNER register (R147,
R239). -/
def State.leaves (s : State) (ps : List Part) : Prop :=
  s.direct ps true = false ∧ s.me.spec = none ∧ s.noSlot ps = false ∧ ∀ p ∈ ps, ownerKey p.key = false

/-- Two keys name one byte: a workspace's byte is named by every key from which `wsOf` finds it. -/
def sameByte (k k' : Nat) : Bool := k == k' || (wsOf k != none && wsOf k == wsOf k')

/-- What parts, stored one after the other, leave in byte k: the last one's byte, none where none of them stores there. -/
def writtenTo (ps : List Part) (k : Nat) : Option Byte :=
  (ps.flatMap fun p => ((List.range p.len).filter fun j => p.mask.getLsbD j && sameByte (p.key + j) k).map fun j => byteOf p.data j).getLast?

/-- The parts stand in memory, stored one after the other: each byte that they store holds the last one's data, but for the bits
that no store changes, and every other byte of memory reads as before (registers are bytes of memory, R222). Each scratchpad word
counts in VER every part that touches it, and keeps its full bit (R88). Where no word on which an LDV waits has an uncorrectable
error, nothing else has changed but what a store to a scratchpad word does to its waiters, with the answers that leave for them
(R88, R91). -/
def State.stores (s t : State) (ps : List Part) : Prop :=
  (∀ k, t.rdByte k = match writtenTo ps k with | some b => s.storedByte k b | none => s.rdByte k) ∧
  (∀ w, (t.tag w).ver = (s.tag w).ver + BitVec.ofNat 6 (ps.countP fun p => isPad p.key && (wordsOf p.key p.len p.mask).contains w) ∧
    (t.tag w).full = (s.tag w).full) ∧
  ((∀ r ∈ s.net, r.isParked = true → ∀ v, r.kind = .ldv v → ∀ p ∈ r.parts, s.bad p.key 4 = false) →
    (∀ w, (t.tag w).watch = (s.tag w).watch) ∧
    t = { s with mem := t.mem, ws := t.ws, tags := t.tags, threads := t.threads, net := t.net, upsets := t.upsets, packets := t.packets, nextPkt := t.nextPkt })

/-! ## A turn (R102, R109, R190, R205) -/

/-- A turn of core l has come round at its next position: the barrel has moved on, the freezes and thaws of the position take
effect (R124, R230), and what has lost a conflict is sent again (R130). -/
def State.turnRound (s : State) (l : Nat) : State :=
  let p := (s.core l).barrel.toNat
  (({ s with agenda := s.agenda.drop 1 }.modCore l fun c => { c with barrel := c.barrel + 1, turns := c.turns + 1 }).freezeTurn l p).replayTurn l p

/-- Where core l's turn stands when it falls to thread th: the bundle at the thread's PC is to be fetched. -/
def State.atTurn (s : State) (l th : Nat) : State :=
  let s := s.turnRound l
  { s.modThr th fun t => { t with settle := false, park := .none } with cur := th, iss := { Issue.none with pc := (s.getWs th).pc } }

/-- Where the fetch of the bundle at thread th's PC has been performed, at a key of a page with entry pte (R140, R144). -/
def State.atFetch (s : State) (l th key : Nat) (pte : BitVec 64) : State :=
  let u := s.atTurn l th
  u.touch (fetchPart key ((s.getWs th).pc.setWidth 64) pte) u.lcore u.me.ctx

/-- Where the slots of the bundle m run: PC has moved past the bundle, and the thread counts it. -/
def State.atSlots (s : State) (l th m key : Nat) (pte : BitVec 64) : State :=
  let s := s.atFetch l th key pte
  ({ s with iss := { s.iss with bundle := BitVec.ofNat 64 m, word := BitVec.ofNat 64 m } }.modMe fun t => { t with seq := t.seq + 1 }).upd
    fun w => w.setPc (w.pc + 8)

/-- Core l's turn is next and falls to thread th: it is neither frozen, trapped nor waiting, no failure of it is held, no RTE
or REP is in force, its stored state is in its limits, and the 8 bytes at its PC, m, can be fetched, their line at hand (R109, R126,
R140, R168, R223, R238). -/
def State.turnOf (s : State) (l th m key : Nat) (pte : BitVec 64) : Prop :=
  namesCore l = true ∧ s.agenda.head? = some (.turn l) ∧ s.threadAt l (s.core l).barrel.toNat = some th ∧
    ((s.turnRound l).thr th).frozen = false ∧ (s.thr th).trapped = false ∧ (s.thr th).walking = false ∧
    ((s.thr th).park = .none ∨ (s.thr th).park = .over) ∧
    ((s.thr th).settle = true → (s.turnRound l).settled th = true) ∧ (s.thr th).held = [] ∧ (s.thr th).rte = none ∧
    (s.getWs th).repAct = false ∧ getF (s.getWs th).pc 0 3 = 0 ∧ (s.getWs th).storedBad = false ∧
    (s.atTurn l th).reach ((s.getWs th).pc.setWidth 64) 8 .fetch = .at_ key pte ∧
    (s.atTurn l th).homeReady (fetchPart key ((s.getWs th).pc.setWidth 64) pte) = true ∧ s.bad key 8 = false ∧ s.rdN key 8 = m

/-- The bundle b may issue there: the thread may run its instructions (R173), and no register of it was written too short a
time ago (R109). -/
def State.mayIssue (s : State) (l th key : Nat) (pte : BitVec 64) (b : Bundle) : Prop :=
  ((remoteNo b.a || remoteNo b.b) = true → (s.thr th).caller = none ∧ isStack (coreOfTh th) = false) ∧
    (s.atFetch l th key pte).spaced th b = true

/-- The end of a bundle that has completed: its thread's mode of an RTE ends, its settle mark and its written registers are
kept (R24, R109, R170). -/
def State.bundleDone (s : State) (th : Nat) (b : Bundle) : State :=
  let now := (s.core (coreOfTh th)).turns
  { s.modThr th fun x => { x with
      rte := none
      settle := settleOf b.a && !s.settled th
      lastWrites := (x.lastWrites.filter fun y => now < y.1 + 12) ++ [(now, writesA b.a ++ writesB b.b)] } with iss := Issue.none }

/-! ## Tile commands -/

/-- Command c heads queue q of tile t, is of the operation op and may start (R303, R304); u is the state once it has left
its queue. -/
def State.heads (s : State) (t q op : Nat) (c : Cmd) (u : State) : Prop :=
  (∃ l, (s.tile t).queues.toList.getD q [] = c :: l) ∧ c.q = q ∧ c.w.op = op ∧ s.mayStart t c = true ∧
    u = s.modTile t fun x => { x with queues := modAt x.queues q fun l => l.drop 1 }

/-- The command is done, with this STATUS, INFO, OVF and INV: its completion is to be posted (R175, R265). -/
def State.doneWith (u : State) (t : Nat) (c : Cmd) (st info : Nat) (ovf inv : Bool) : Prop :=
  (⟨c, BitVec.ofNat 8 st, BitVec.ofNat 32 (min info 0xFFFFFFFF), ovf, inv⟩ : Finished) ∈ (u.tile t).finished

/-- The command is done with this STATUS. -/
def State.doneAs (u : State) (t : Nat) (c : Cmd) (st : Nat) : Prop :=
  ∃ f ∈ (u.tile t).finished, f.cmd = c ∧ f.status = BitVec.ofNat 8 st

/-- The pages that a command's start looks at have been translated for it (R154). -/
def State.pagesKnown (s : State) (t : Nat) (c : Cmd) (l : List Nat) : Prop := ∀ v ∈ l, s.pageKnown t c v = true

/-- A command that may start asks for the first of the pages that its start looks at, where one is not translated (R154). -/
def State.asks (s : State) (i : Instr) (t : Nat) (c : Cmd) (l : List Nat) : Prop :=
  ∀ v, (l.find? fun v => !s.pageKnown t c v) = some v → exec i s = .next (s.askPage t c v)

/-- A copy that starts (R305), once the pages that its start looks at are translated: with an error it is done at once with its status
(R175); else its pieces are copied one after the other, and with the last of them it is done, with the first error met and the
number of bytes written. -/
def State.copies (s : State) (i : Instr) (u : State) (t : Nat) (c : Cmd) (pages : List Nat) (y : Stream) (st : Nat) (ps : List Piece)
    (hint : Option (BitVec 2 × BitVec 4)) (last : State → State) : Prop :=
  s.asks i t c pages ∧
    (s.pagesKnown t c pages →
      (st ≠ 0 → exec i s = .next (u.finishCmd t c st 0 false false)) ∧
      ∀ v z, st = 0 → u.movePieces t c hint y ps = (v, z, .fin) → exec i s = .next ((last v).finishCmd t c z.err.toNat z.bytes false false))

/-- Every byte of memory reads in u as in s, but for those of a descriptor's rows. -/
def State.rowsOnly (s u : State) (D : BitVec 256) : Prop :=
  ∀ k, (∀ r < dRows D, ∀ b < rowBytes D, k ≠ dBase D + r * dPitch D + b) → u.rdByte k = s.rdByte k

/-- The products that sector i of a contracting load carries for element (row, j) of its accumulator (R64), in units of
2^−300: those of the stream elements that end in the sector, but for the elements of a block without a value (R34). -/
def State.productsFor (s : State) (y : Stream) (i row j : Nat) : List Ctr :=
  ((y.elemsIn i).filter fun x => x.1 % dRows y.adx = row).filterMap fun x =>
    match y.elemVal x.1 x.2 (y.elemBits i x.1 x.2), s.residentAt y x.2 j with
    | some v, some w => some ((Ctr.ofVal v).mul w)
    | _, _ => none

/-- The exact sum of the finite ones (R65). -/
def finiteSum (ps : List Ctr) : Int := (ps.map fun c => match c with | .fin x => x | _ => 0).foldr (· + ·) 0

/-! ## The canonical form -/

/-- Every sparse part of the state is in its canonical form: keys rising, no default entry. -/
structure State.Canon (s : State) : Prop where
  mem : Memory.wf s.mem = true
  ws : Store.wf Workspace.zero s.ws = true
  tags : Store.wf WordTag.zero s.tags = true
  guard : Store.wf 0 s.guard = true
  threads : Store.wf Thread.none s.threads = true
  cores : Store.wf CoreSt.zero s.cores = true
  tiles : Store.wf Tile.zero s.tiles = true
  ports : Store.wf Port.zero s.ports = true
  dies : Store.wf Die.zero s.dies = true
  links : Store.wf Link.zero s.links = true
  wear : Store.wf WearSt.zero s.wear = true
  map : Store.wf none s.map = true
  bindings : Store.wf none s.bindings = true

end Sys2Proof.Machine

namespace Sys2Proof

/-! ## Words -/

/-- Where an instruction's word stands (R190, R201): in slot A, in slot B, in a logit program; nowhere for a tile command,
an operation or an event. -/
inductive Slot where
  | a | b | logit | none
  deriving DecidableEq, Repr

/-- The slot of an instruction. -/
def slotOf : Instr → Slot
  | .nop .. | .add .. | .sub .. | .and .. | .or .. | .xor .. | .shl .. | .shr .. | .sra .. | .slt .. | .sltn ..
  | .min .. | .max .. | .minn .. | .maxn .. | .sel .. | .clz .. | .popc .. | .mul .. | .mulh .. | .mulhn .. | .div ..
  | .divn .. | .rem .. | .remn .. | .addi .. | .andi .. | .ori .. | .xori .. | .slti .. | .shli .. | .shri ..
  | .srai .. | .bfx .. | .bfi .. | .limh .. | .lea .. | .leap .. | .bcc .. | .bccz .. | .jmp .. | .jal .. | .jr ..
  | .exit .. | .ldb .. | .ldbz .. | .ldh .. | .ldhz .. | .ldw .. | .ldwz .. | .ldd .. | .stb .. | .sth .. | .stw ..
  | .std .. | .vld .. | .vst .. | .vlds .. | .vgth .. | .vsct .. | .ldv .. | .stv .. | .ldfe .. | .stfe .. | .amo ..
  | .amoc .. | .red .. | .vrcl .. | .watch .. | .unwatch .. | .wait .. | .pfh .. | .tcls .. | .fence .. | .spawn ..
  | .rcall .. | .rret .. | .migr .. | .join .. | .leave .. | .gbar .. | .gbard .. | .gqry .. | .spec .. | .commit ..
  | .abort .. | .pmrg .. | .send .. | .recv .. | .push .. | .pop .. | .fstat .. | .semp .. | .semv .. | .evpop ..
  | .hget .. | .hclr .. | .csrr .. | .csrw .. | .trap .. | .brk .. | .rte .. | .idle .. | .frz .. | .thaw ..
  | .slotq .. | .vwid .. | .rdtk .. | .sbsr .. | .duskDrain .. | .duskRelease .. | .lcmw .. | .scan .. | .rep .. => .a
  | .nopv .. | .vadd .. | .vsub .. | .vmul .. | .vfma .. | .vfms .. | .vmin .. | .vmax .. | .vabs .. | .vneg ..
  | .vcmp .. | .vsel .. | .vand .. | .vor .. | .vxor .. | .vnot .. | .vshl .. | .vshr .. | .vsra .. | .vcvt ..
  | .vperm .. | .vbcast .. | .vextr .. | .vins .. | .vmov .. | .viota .. | .vord .. | .vdig .. | .vhadd ..
  | .pwhile .. | .pand .. | .por .. | .pxor .. | .pnot .. | .pcnt .. | .pfirst .. | .pset .. | .vtod .. | .dtov ..
  | .dadd .. | .dsub .. | .dscl .. | .dsetn .. | .dneg .. | .dmov .. | .dcos .. | .dnrm .. | .dren .. | .dlerp ..
  | .vdiv .. | .vsqrt .. | .vrcp .. | .vrsq .. | .vexp2 .. | .vlog2 .. | .vsin .. | .vcos .. | .vtanh .. | .vred ..
  | .imm32 .. => .b
  | .lnop .. | .lldk .. | .lcnt .. | .lhis .. | .lbia .. | .lban .. | .ladd .. | .lsub .. | .lmul .. | .lsel ..
  | .lcmp .. | .lmax .. | .lmin .. | .lscl .. | .lclp .. | .lpen .. | .ltopk .. | .lmov .. | .limmConst ..
  | .limmValue .. | .lhalt .. => .logit
  | .cld .. | .cldSectorReply .. | .wld .. | .ald .. | .ast .. | .czr .. | .crd .. | .cvt .. | .cpy .. | .gth ..
  | .sct .. | .xfr .. | .fill .. | .tdsc .. | .smx .. | .save .. | .rstr .. | .completionPost .. | .launch ..
  | .dispatch .. | .taskRetire .. | .preemptThaw .. | .requestArrival .. | .longLatencyResult .. | .refusal ..
  | .retryLimit .. | .drainedResend .. | .deferredTrap .. | .spawnArrival .. | .spawnAnswer ..
  | .spawnCountRefresh .. | .rcallArrival .. | .rcallReply .. | .faultRecord .. | .rcallTimeout .. | .migrArrival ..
  | .migrAnswer .. | .parkedArrivalStart .. | .sendArrival .. | .redArrival .. | .inboxWrite ..
  | .barrierHomeApply .. | .barrierPoll .. | .walkComplete .. | .streamFaultTimeout .. | .fltpop ..
  | .fltrspReplay .. | .fltrspFail .. | .tinvPage .. | .tinvAll .. | .invalidationDone .. | .ctxbaseWrite ..
  | .stkownWrite .. | .ownerWrite .. | .scrubDone .. | .errpop .. | .registerWrite .. | .treeld .. | .clgo ..
  | .collectiveDone .. | .budgetPeriod .. | .hotPagePeriod .. | .rfmpb .. | .starve .. | .packetReassembled ..
  | .bridgeForward .. | .linkFlitReceive .. | .linkReplay .. | .linkRetrain .. | .linkRetrainDone .. | .linkdown ..
  | .inboundRequest .. | .fabricGrant .. | .fabricRevoke .. | .bind .. | .unbind .. | .logitStore .. | .chunkRun ..
  | .samplerResend .. | .drainComplete .. | .scanBlockDone .. | .scanAbort .. | .scanClearDone .. | .wear ..
  | .dawn .. | .firmwareImage .. | .attestationQuote .. | .managementQuery .. | .refresh .. | .hopCycle ..
  | .linkAcknowledge .. | .collectiveValueReceived .. | .frameCopyDone .. | .allocation .. => .none

end Sys2Proof
end

