-- ==== Sys2Proof/Certificates/Slice0/Obligations.lean ====
section
/-! DEFINITION. The statements for the provers: what the L6's instructions, commands, operations and events do, said from
the numbered rules of its spec. -/

open Sys2Proof Sys2Proof.Machine

/-! ## Words (R190 to R204) -/

/-- The word of every well-formed instruction, with every operand at every value that its encoding admits, decodes to it:
no bit of an encoding is dropped (R190, R191, R193, R201). -/
def Obligations.WordsRoundTrip : Prop :=
  ∀ i, WellFormed i = true →
    (slotOf i = .a → decodeA (encode i) = .ok i) ∧ (slotOf i = .b → decodeB (encode i) = .ok i) ∧
      (slotOf i = .logit → decodeL (encode i) = .ok i)

/-- A word that decodes to an instruction is that instruction's encoding: no two words have one meaning, and a word with a
reserved bit set decodes to nothing (R190, R195, R196, R205). -/
def Obligations.WordsHaveOneMeaning : Prop :=
  ∀ w i, (decodeA w = .ok i ∨ decodeB w = .ok i ∨ decodeL w = .ok i) → encode i = w ∧ WellFormed i = true

/-- A pair of well-formed instructions, one for each slot, that passes the checks between the slots (R21, R192, R194,
R197) stands in one bundle, slot A in its upper half (R190), and the bundle's eight bytes decode to it. -/
def Obligations.BundlesRoundTrip : Prop :=
  ∀ a b x, WellFormed a = true → WellFormed b = true → slotOf a = .a → slotOf b = .b → checkPair a b = .ok x →
    decodeBundle (encodeBundle ⟨a, b⟩) = .ok ⟨a, b⟩ ∧ decodeBytes (leBytes 8 (encodeBundle ⟨a, b⟩)) = .ok ⟨a, b⟩

/-- R204 whole: NOP and NOPV are the all-zero words of their slots, and a NOP may carry SETTLE; a word of their major opcode
with any other bit set has a reserved field that is not zero. -/
def Obligations.NopWords : Prop :=
  (∀ w < 2 ^ 32, fld w 25 6 = 0 →
    decodeA w = (if w = 0 then .ok (.nop 0) else if w = 2 ^ 31 then .ok (.nop 1) else .error .reserved)) ∧
  (∀ w < 2 ^ 32, fld w 26 6 = 0 → decodeB w = (if w = 0 then .ok .nopv else .error .reserved))

/-- Words that the spec writes out decode to the instructions it gives them: R212's three bundles, R211's BFX, R216's
BCC, R220's REP, R228's TRAP and BRK, R232's VWID. -/
def Obligations.SpecWordsDecode : Prop :=
  (decodeBundle 0x0210840400000000).toOption = some ⟨.xor 0 1 1 1, .nopv⟩ ∧
  (decodeBundle 0x0A1082F0F826AF37).toOption = some ⟨.ori 0 1 1 0x2F0, .imm32 0x26AF37⟩ ∧
  (decodeBundle 0x16100278F8048D15).toOption = some ⟨.limh 0 1 0x278, .imm32 0x48D15⟩ ∧
  (decodeBundle 0x12208EA000000000).toOption = some ⟨.bfx 0 2 1 7 20, .nopv⟩ ∧
  (decodeBundle 0x20818BFB00000000).toOption = some ⟨.bcc 0 2 3 2 0x3FB, .nopv⟩ ∧
  (decodeBundle 0x7E05810000000000).toOption = some ⟨.rep 2 0x30 1, .nopv⟩ ∧
  (decodeA 0x7A00002A).toOption = some (.trap 0 0x2A) ∧ (decodeA 0x7A000405).toOption = some (.brk 0 5) ∧ (decodeA 0x7A401C04).toOption = some (.vwid 0 4 4)

/-! ## Scalar instructions (R206 to R215) -/

/-- ADD, SUB and MUL of R207 and R208 and ADDI of R209, with operands read before anything is written (R21): rd takes the
sum, difference or product modulo 2^64, for every register (rd among the sources too), and nothing else of the machine
changes. NOP changes nothing at all (R204). MULH, MULHN, DIV, DIVN, REM and REMN (R208): the high half of the exact 128-bit product, signed and natural; the
quotient truncated toward zero; the remainder with the sign of rs1; a divisor of 0; −2^63 by −1. They never trap, and
nothing but rd changes. -/
def Obligations.ScalarArithmetic : Prop :=
  ((∀ (s : State) z, exec (.nop z) s = .next s) ∧
  (∀ (s : State) z d a b, ∃ t, exec (.add z d a b) s = .next t ∧ s.onlyS t d (BitVec.ofNat 64 ((s.rS a).toNat + (s.rS b).toNat))) ∧
  (∀ (s : State) z d a b, ∃ t, exec (.sub z d a b) s = .next t ∧ s.onlyS t d (BitVec.ofInt 64 ((s.rS a).toInt - (s.rS b).toInt))) ∧
  (∀ (s : State) z d a b, ∃ t, exec (.mul z d a b) s = .next t ∧ s.onlyS t d (BitVec.ofInt 64 ((s.rS a).toInt * (s.rS b).toInt))) ∧
  (∀ (s : State) z d a i, s.iss.imm = none →
    ∃ t, exec (.addi z d a i) s = .next t ∧ s.onlyS t d (BitVec.ofInt 64 ((s.rS a).toInt + i.toInt))) ∧
  (∀ (s : State) z d a i m, s.iss.imm = some m →
    ∃ t, exec (.addi z d a i) s = .next t ∧
      s.onlyS t d (BitVec.ofInt 64 ((s.rS a).toInt + (BitVec.ofNat 32 (i.toNat + m.toNat * 1024)).toInt)))) ∧
  ((∀ (s : State) z d a b, ∃ t, exec (.mulh z d a b) s = .next t ∧
    s.onlyS t d (BitVec.ofInt 64 ((s.rS a).toInt * (s.rS b).toInt / 2 ^ 64))) ∧
  (∀ (s : State) z d a b, ∃ t, exec (.mulhn z d a b) s = .next t ∧
    s.onlyS t d (BitVec.ofNat 64 ((s.rS a).toNat * (s.rS b).toNat / 2 ^ 64))) ∧
  (∀ (s : State) z d a b, ∃ t, exec (.div z d a b) s = .next t ∧
    s.onlyS t d (if s.rS b = 0 then 0xFFFFFFFFFFFFFFFF else BitVec.ofInt 64 ((s.rS a).toInt.tdiv (s.rS b).toInt))) ∧
  (∀ (s : State) z d a b, ∃ t, exec (.divn z d a b) s = .next t ∧
    s.onlyS t d (if s.rS b = 0 then 0xFFFFFFFFFFFFFFFF else BitVec.ofNat 64 ((s.rS a).toNat / (s.rS b).toNat))) ∧
  (∀ (s : State) z d a b, ∃ t, exec (.rem z d a b) s = .next t ∧
    s.onlyS t d (if s.rS b = 0 then s.rS a else BitVec.ofInt 64 ((s.rS a).toInt.tmod (s.rS b).toInt))) ∧
  (∀ (s : State) z d a b, ∃ t, exec (.remn z d a b) s = .next t ∧
    s.onlyS t d (if s.rS b = 0 then s.rS a else BitVec.ofNat 64 ((s.rS a).toNat % (s.rS b).toNat))))

/-- AND, OR, XOR, SEL (R207), ANDI, ORI and XORI with the natural immediate (R209), bit by bit; nothing but rd changes. A
widened immediate is W = IMM26[21:0]·2^10 + IMM (R192), and without IMM32 the immediate is its field. SLT, SLTN, SLTI, MIN, MAX, MINN, MAXN (R207, R209): signed and natural order. Nothing but rd changes. -/
def Obligations.ScalarLogicAndOrder : Prop :=
  ((∀ (s : State) z d a b, ∃ t x, exec (.and z d a b) s = .next t ∧ s.onlyS t d x ∧
    ∀ j, x.getLsbD j = ((s.rS a).getLsbD j && (s.rS b).getLsbD j)) ∧
  (∀ (s : State) z d a b, ∃ t x, exec (.or z d a b) s = .next t ∧ s.onlyS t d x ∧
    ∀ j, x.getLsbD j = ((s.rS a).getLsbD j || (s.rS b).getLsbD j)) ∧
  (∀ (s : State) z d a b, ∃ t x, exec (.xor z d a b) s = .next t ∧ s.onlyS t d x ∧
    ∀ j, x.getLsbD j = ((s.rS a).getLsbD j != (s.rS b).getLsbD j)) ∧
  (∀ (s : State) z d a b, ∃ t, exec (.sel z d a b) s = .next t ∧ s.onlyS t d (if s.rS d = 0 then s.rS b else s.rS a)) ∧
  (∀ (s : State) (z : BitVec 1) (d a : BitVec 5) (i : BitVec 10) (w : Nat),
    (s.iss.imm = none → w = i.toNat) → (∀ m, s.iss.imm = some m → w = i.toNat + m.toNat % 2 ^ 22 * 1024) →
    (∃ t x, exec (.andi z d a i) s = .next t ∧ s.onlyS t d x ∧ ∀ j, x.getLsbD j = ((s.rS a).getLsbD j && w.testBit j)) ∧
    (∃ t x, exec (.ori z d a i) s = .next t ∧ s.onlyS t d x ∧ ∀ j < 64, x.getLsbD j = ((s.rS a).getLsbD j || w.testBit j)) ∧
    (∃ t x, exec (.xori z d a i) s = .next t ∧ s.onlyS t d x ∧ ∀ j < 64, x.getLsbD j = ((s.rS a).getLsbD j != w.testBit j)))) ∧
  ((∀ (s : State) z d a b, ∃ t, exec (.slt z d a b) s = .next t ∧ s.onlyS t d (if (s.rS a).toInt < (s.rS b).toInt then 1 else 0)) ∧
  (∀ (s : State) z d a b, ∃ t, exec (.sltn z d a b) s = .next t ∧ s.onlyS t d (if (s.rS a).toNat < (s.rS b).toNat then 1 else 0)) ∧
  (∀ (s : State) z d a i, s.iss.imm = none →
    ∃ t, exec (.slti z d a i) s = .next t ∧ s.onlyS t d (if (s.rS a).toInt < i.toInt then 1 else 0)) ∧
  (∀ (s : State) z d a i m, s.iss.imm = some m → ∃ t, exec (.slti z d a i) s = .next t ∧
    s.onlyS t d (if (s.rS a).toInt < (BitVec.ofNat 32 (i.toNat + m.toNat * 1024)).toInt then 1 else 0)) ∧
  (∀ (s : State) z d a b, ∃ t x, exec (.min z d a b) s = .next t ∧ s.onlyS t d x ∧
    x.toInt = Min.min (s.rS a).toInt (s.rS b).toInt) ∧
  (∀ (s : State) z d a b, ∃ t x, exec (.max z d a b) s = .next t ∧ s.onlyS t d x ∧
    x.toInt = Max.max (s.rS a).toInt (s.rS b).toInt) ∧
  (∀ (s : State) z d a b, ∃ t x, exec (.minn z d a b) s = .next t ∧ s.onlyS t d x ∧
    x.toNat = Min.min (s.rS a).toNat (s.rS b).toNat) ∧
  (∀ (s : State) z d a b, ∃ t x, exec (.maxn z d a b) s = .next t ∧ s.onlyS t d x ∧
    x.toNat = Max.max (s.rS a).toNat (s.rS b).toNat))

/-- SHL, SHR, SRA by rs2[5:0] (R207) and SHLI, SHRI, SRAI by SH (R210): zeros enter, or copies of bit 63. CLZ and POPC
(R207), BFX and BFI (R211), LIMH (R212), bit by bit: BFX and BFI take a field of len = l + 1 bits from bit pos on, for every
field that their encoding admits (pos + len ≤ 64); any other is refused with ILLEGAL reason 7. Nothing but rd changes. -/
def Obligations.ScalarShiftsAndBits : Prop :=
  (∀ (s : State) z d a b, ∃ t, exec (.shl z d a b) s = .next t ∧
    s.onlyS t d (BitVec.ofNat 64 ((s.rS a).toNat * 2 ^ ((s.rS b).toNat % 64)))) ∧
  (∀ (s : State) z d a b, ∃ t, exec (.shr z d a b) s = .next t ∧
    s.onlyS t d (BitVec.ofNat 64 ((s.rS a).toNat / 2 ^ ((s.rS b).toNat % 64)))) ∧
  (∀ (s : State) z d a b, ∃ t, exec (.sra z d a b) s = .next t ∧
    s.onlyS t d (BitVec.ofInt 64 ((s.rS a).toInt / 2 ^ ((s.rS b).toNat % 64)))) ∧
  (∀ (s : State) z d a (h : BitVec 6), ∃ t, exec (.shli z d a h) s = .next t ∧
    s.onlyS t d (BitVec.ofNat 64 ((s.rS a).toNat * 2 ^ h.toNat))) ∧
  (∀ (s : State) z d a (h : BitVec 6), ∃ t, exec (.shri z d a h) s = .next t ∧
    s.onlyS t d (BitVec.ofNat 64 ((s.rS a).toNat / 2 ^ h.toNat))) ∧
  (∀ (s : State) z d a (h : BitVec 6), ∃ t, exec (.srai z d a h) s = .next t ∧
    s.onlyS t d (BitVec.ofInt 64 ((s.rS a).toInt / 2 ^ h.toNat))) ∧
  (∀ (s : State) z d a, ∃ t n, exec (.clz z d a) s = .next t ∧ s.onlyS t d (BitVec.ofNat 64 n) ∧ n ≤ 64 ∧
    (∀ j, 64 - n ≤ j → (s.rS a).getLsbD j = false) ∧ (n < 64 → (s.rS a).getLsbD (63 - n) = true)) ∧
  (∀ (s : State) z d a, ∃ t, exec (.popc z d a) s = .next t ∧
    s.onlyS t d (BitVec.ofNat 64 ((List.range 64).countP fun j => (s.rS a).getLsbD j))) ∧
  (∀ (s : State) z d a l p, WellFormed (.bfx z d a l p) = true → ∃ t x, exec (.bfx z d a l p) s = .next t ∧ s.onlyS t d x ∧
    ∀ j, x.getLsbD j = (decide (j < l.toNat + 1) && (s.rS a).getLsbD (p.toNat + j))) ∧
  (∀ (s : State) z d a l p, WellFormed (.bfi z d a l p) = true → ∃ t x, exec (.bfi z d a l p) s = .next t ∧ s.onlyS t d x ∧
    ∀ j, x.getLsbD j = if p.toNat ≤ j ∧ j < p.toNat + (l.toNat + 1) then (s.rS a).getLsbD (j - p.toNat)
      else (s.rS d).getLsbD j) ∧
  (∀ (s : State) (z : BitVec 1) (d : BitVec 5) (i : BitVec 10) (w : Nat),
    (s.iss.imm = none → w = i.toNat) → (∀ m, s.iss.imm = some m → w = i.toNat + m.toNat % 2 ^ 22 * 1024) →
    ∃ t x, exec (.limh z d i) s = .next t ∧ s.onlyS t d x ∧
      (∀ j < 32, x.getLsbD j = (s.rS d).getLsbD j) ∧ ∀ j < 32, x.getLsbD (32 + j) = w.testBit j) ∧
  (∀ (z : BitVec 1) (d a : BitVec 5) (l p : BitVec 6), ∀ m ∈ [9, 10],
    let w := z.toNat * 2 ^ 31 + m * 2 ^ 25 + d.toNat * 2 ^ 20 + a.toNat * 2 ^ 15 + l.toNat * 2 ^ 9 + p.toNat * 2 ^ 3
    (p.toNat + (l.toNat + 1) ≤ 64 → decodeA w = .ok (if m = 9 then .bfx z d a l p else .bfi z d a l p)) ∧
    (64 < p.toNat + (l.toNat + 1) → ∃ e, decodeA w = .error e ∧ e.reason = 7)) ∧
  decodeA 0x12208EA0 = .ok (.bfx 0 2 1 7 20)

/-- LEA (R213, R214) and LEAP (R215). LEA with BASE 0 forms the own scratchpad's address, whose fields are REGION 0b11, the
core's DIE, SG, GRP, TILE and CORE, SPACE 0 and OFFSET W, where W is at most 65,535; on a stack core TILE 15 and OFFSET W
up to 262,143; above it traps ILLEGAL reason 7. BASE 1 is relative to the bundle. LEAP rewrites the five coordinate fields
of rs1 and keeps every other bit; on a stack core it traps ACCESS reason 16. An IMM32 in slot B gives the slot A form of its bundle the widened immediate W, with IMM26 above the field (R192): a
natural W of 32 bits, or its value as two's complement; and it changes nothing else. -/
def Obligations.AddressesAndWideImmediates : Prop :=
  ((∀ (s : State) z d (i : BitVec 10), (s.immN i).toNat ≤ leaMax s.lcore → ∃ t x, exec (.lea z d 0 i) s = .next t ∧ s.onlyS t d x ∧
    fld x.toNat 46 18 = 3 ∧ fld x.toNat 45 1 = 0 ∧
    (isStack s.lcore = false → s.lcore < 27648 → fld x.toNat 42 3 = dieOf s.lcore ∧ fld x.toNat 39 3 = sgOf s.lcore ∧
      fld x.toNat 35 4 = grpOf s.lcore ∧ fld x.toNat 31 4 = tileOf s.lcore ∧ fld x.toNat 29 2 = coreOf s.lcore ∧
      fld x.toNat 26 3 = 0 ∧ fld x.toNat 0 26 = (s.immN i).toNat) ∧
    (isStack s.lcore = true → fld x.toNat 35 11 = 0 ∧ fld x.toNat 31 4 = 15 ∧ fld x.toNat 26 5 = 0 ∧
      fld x.toNat 0 26 = (s.immN i).toNat)) ∧
  (∀ (s : State) z d (i : BitVec 10), leaMax s.lcore < (s.immN i).toNat →
    exec (.lea z d 0 i) s = .next (s.raise ⟨1, cIllegal, 7, none⟩)) ∧
  (∀ (s : State) z d (i : BitVec 10), s.iss.imm = none →
    ∃ t, exec (.lea z d 1 i) s = .next t ∧ s.onlyS t d (BitVec.ofInt 64 (s.iss.pc.toNat + i.toInt))) ∧
  (∀ (s : State) z d a i, isStack s.lcore = false → s.lcore < 27648 → ∃ t x, exec (.leap z d a i) s = .next t ∧ s.onlyS t d x ∧
    fld x.toNat 42 3 = dieOf s.lcore ∧ fld x.toNat 39 3 = sgOf s.lcore ∧ fld x.toNat 35 4 = grpOf s.lcore ∧
    fld x.toNat 31 4 = i.toNat / 4 ∧ fld x.toNat 29 2 = i.toNat % 4 ∧
    ∀ j, j < 29 ∨ 45 ≤ j → x.getLsbD j = (s.rS a).getLsbD j) ∧
  (∀ (s : State) z d a i, isStack s.lcore = true → exec (.leap z d a i) s = .next (s.raise ⟨8, cAccess, 16, none⟩))) ∧
  (∀ (s : State) (m : BitVec 26), ∃ t, exec (.imm32 m) s = .next t ∧ t = { s with iss := { s.iss with imm := some m } } ∧
    ∀ i : BitVec 10, m.toNat < 2 ^ 22 → (t.immN i).toNat = i.toNat + m.toNat * 1024 ∧
      (t.immS i).toInt = (BitVec.ofNat 32 (i.toNat + m.toNat * 1024)).toInt)

/-! ## Branches, jumps, ends and repetitions (R216 to R221) -/

/-- BCC and BCCZ (R216), JMP and JAL (R217): a taken branch or a jump sets the next PC to PC + 8·W, in the 48 bits of a PC
(the width is R223's; the model keeps the low 48 bits of a target, log 20); a branch not taken changes nothing; JAL writes
PC + 8. Nothing else changes. JR (R217): an aligned target becomes the next PC (its low 48 bits, log 20) and nothing else changes; a target whose
low three bits are not zero traps MISALIGNED at the JR, with INFO 3 and the target as VA (R166, R190). -/
def Obligations.BranchesAndJumps : Prop :=
  (∀ (s : State) z c a b (i : BitVec 10), WellFormed (.bcc z c a b i) = true → ∃ t, exec (.bcc z c a b i) s = .next t ∧
    (condOf c (s.rS a) (s.rS b) → t.live.pc = BitVec.ofInt 48 (s.iss.pc.toNat + 8 * (s.immS i).toInt) ∧ s.onlyBytes t [pcBytes]) ∧
    (¬ condOf c (s.rS a) (s.rS b) → t = s)) ∧
  (∀ (s : State) z c a (i : BitVec 10), WellFormed (.bccz z c a i) = true → ∃ t, exec (.bccz z c a i) s = .next t ∧
    (condOf c (s.rS a) 0 → t.live.pc = BitVec.ofInt 48 (s.iss.pc.toNat + 8 * (s.immS i).toInt) ∧ s.onlyBytes t [pcBytes]) ∧
    (¬ condOf c (s.rS a) 0 → t = s)) ∧
  (∀ (s : State) z (i : BitVec 10), ∃ t, exec (.jmp z i) s = .next t ∧
    t.live.pc = BitVec.ofInt 48 (s.iss.pc.toNat + 8 * (s.immS i).toInt) ∧ s.onlyBytes t [pcBytes]) ∧
  (∀ (s : State) z d (i : BitVec 10), ∃ t, exec (.jal z d i) s = .next t ∧
    t.live.pc = BitVec.ofInt 48 (s.iss.pc.toNat + 8 * (s.immS i).toInt) ∧
    t.live.getS d = BitVec.ofNat 64 (s.iss.pc.toNat + 8) ∧ s.onlyBytes t [pcBytes, sBytes d]) ∧
  (∀ (s : State) z a, (s.rS a).toNat % 8 = 0 → ∃ t, exec (.jr z a) s = .next t ∧
    t.live.pc = BitVec.ofNat 48 (s.rS a).toNat ∧ s.onlyBytes t [pcBytes]) ∧
  (∀ (s : State) z a, (s.rS a).toNat % 8 ≠ 0 → exec (.jr z a) s = .next (s.raise ⟨8, cMisaligned, 3, some (s.rS a)⟩))

/-- EXIT (R219): the thread waits, at the EXIT's address; the wait ends at a turn of its own once it is settled. A failure
that it holds then strikes (R168). With none held: with INL set it goes on at s31 with INL 0, and what a speculation has
logged is discarded (R260); a task's, child's or sampling thread without a caller ends, and its window holds no thread; a callee
ends too, and sends its caller a reply without registers (R93, R256), with the age of its call (R128); a supervisor's EXIT traps
ILLEGAL reason 7 at the EXIT. -/
def Obligations.ExitEnds : Prop :=
  (∀ (s : State) z, ∃ t, exec (.exit z) s = .next t ∧ s.parksHere t (.exit s.issSrc)) ∧
  (∀ (s : State) th src, (s.thr th).park = .exit src →
    (s.settled th = false → s.wake th = s) ∧
    (s.settled th = true → (s.thr th).held ≠ [] → s.wake th = s.strike th) ∧
    (s.settled th = true → (s.thr th).held = [] →
      ((s.getWs th).inl = true →
        ((s.wake th).getWs th).pc = ((s.getWs th).getS 31).setWidth 48 ∧ ((s.wake th).getWs th).inl = false ∧
          (s.wake th).thr th = { s.thr th with park := .none, spec := none }) ∧
      ((s.getWs th).inl = false → (s.thr th).caller = none → (s.thr th).pos ≠ 15 → (s.wake th).thr th = Thread.none) ∧
      ((s.getWs th).inl = false → ∀ c, (s.thr th).caller = some c → (s.wake th).thr th = Thread.none ∧
        ∃ r ∈ (s.wake th).net, r.rid = s.nextRid ∧ r.kind = .reply c.th c.rid [] [] ∧ r.parts = [] ∧ r.st = .inflight ∧ r.born = c.born) ∧
      ((s.getWs th).inl = false → (s.thr th).caller = none → (s.thr th).pos = 15 →
        s.wake th = s.takeTrap th ⟨cIllegal, 7, none, src⟩ false (s.getWs th).pc false)))

/-- REP (R194, R220): once the bundle at PC + 8 is fetched and may be repeated, REPN takes COUNT − 1, REPJ 0, MASK, STEP,
REPPC and REPACT their values, and nothing else changes; a bundle that may not be repeated, or whose selected position is
no register, traps ILLEGAL reason 7; the REP waits for the line of its fetch (R140), and an uncorrectable error there traps
ECC_UNCORRECTED (R177); a fetch that fails makes the REP itself trap, with VA PC + 8 and BUNDLE 0. At the end of repetition j REPJ counts up, and
after repetition REPN the thread goes on after the repeated bundle with REPACT 0. -/
def Obligations.Repeats : Prop :=
  (∀ (s : State) c m x key pte, let va := (s.iss.pc + 8).setWidth 64
    let p := fetchPart key va pte
    let u := s.touch p s.lcore s.me.ctx
    s.reach va 8 .fetch = .at_ key pte →
    (s.homeReady p = false → exec (.rep c m x) s = .next (s.askPart p false ⟨s.tick, s.tid s.cur⟩ none).stall) ∧
    (s.homeReady p = true →
      (s.bad key 8 = true → exec (.rep c m x) s =
        .next (({ u with iss := { u.iss with bundle := 0 } }.logUnc key s.me.ctx.toNat).raise ⟨8, cEcc, eccInfo key, some va⟩)) ∧
      (s.bad key 8 = false → repRefused m (s.rdN key 8) = false →
        ∃ t, exec (.rep c m x) s = .next t ∧ t.live.repN = c.toNat ∧ t.live.repJ = 0 ∧ t.live.repMask = m.toNat ∧
          t.live.repStep = x.toInt ∧ t.live.repPc = s.iss.pc + 8 ∧ t.live.repAct = true ∧ u.onlyBytes t [(340, 2), (344, 8)]) ∧
      (s.bad key 8 = false → repRefused m (s.rdN key 8) = true → exec (.rep c m x) s = .next (u.raise ⟨7, cIllegal, 7, none⟩)))) ∧
  (∀ (s : State) c m x tr, s.reach ((s.iss.pc + 8).setWidth 64) 8 .fetch = .trap tr →
    exec (.rep c m x) s =
      .next ({ s with iss := { s.iss with bundle := 0 } }.raise { tr with va := some ((s.iss.pc + 8).setWidth 64) })) ∧
  (∀ w : Workspace,
    (w.repJ ≠ w.repN → (w.nextBundle true).repJ = (w.repJ + 1) % 256 ∧ (w.nextBundle true).repAct = w.repAct ∧
      (w.nextBundle true).pc = w.pc) ∧
    (w.repJ = w.repN → (w.nextBundle true).repAct = false ∧ (w.nextBundle true).pc = w.repPc + 8))

/-! ## Loads and stores (R238 to R244) -/

/-- The scalar loads (R240) of an aligned address that passes its checks (R238), where the access is made at once (R239):
rd takes the addressed bytes, little-endian, extended by the sign or with zeros, and nothing else of the machine changes.
Elsewhere the load leaves as one request of its own thread and rd is expected: no byte of memory changes; it keeps its place behind
an earlier access to a block of its own tile (R82), and its own tile's bytes with an uncorrectable error trap precisely (R177), as
`readsElse` lists. The address traps as `trapsAt` lists. -/
def Obligations.ScalarLoads : Prop :=
  ∀ (s : State) (z : BitVec 1) (d a : BitVec 5) (i : BitVec 10),
    ∀ x ∈ [(Instr.ldb z d a i, 1, true), (.ldbz z d a i, 1, false), (.ldh z d a i, 2, true), (.ldhz z d a i, 2, false),
      (.ldw z d a i, 4, true), (.ldwz z d a i, 4, false), (.ldd z d a i, 8, false)],
    s.trapsAt x.1 (s.rS a + s.immS i) x.2.1 .load ∧ ∀ key pte, s.reach (s.rS a + s.immS i) x.2.1 .load = .at_ key pte →
      let ps := [onePart key (s.rS a + s.immS i) pte x.2.1 0 0]
      (s.atOnce ps false → ∃ t v, exec x.1 s = .next t ∧ s.onlyS t d v ∧
        (x.2.2 = false → v.toNat = s.loadN key x.2.1) ∧
        (x.2.2 = true → v = (BitVec.ofNat (8 * x.2.1) (s.loadN key x.2.1)).signExtend 64)) ∧
      (s.me.spec = none → s.readsElse x.1 .load ps (.s d.toNat))

/-- The scalar stores (R240) of an aligned address that passes its checks (R238), to memory: made at once (R239), the low
bytes of the source register stand at the address, little-endian, but for the bits of a workspace that no store changes (R5,
R222), and every other byte of memory is as it was; elsewhere the store leaves as one request and no byte of memory changes
yet; and the address traps as `trapsAt` lists, and for context 0's registers with ACCESS reason 19 (R150). -/
def Obligations.ScalarStores : Prop :=
  ∀ (s : State) (z : BitVec 1) (d a : BitVec 5) (i : BitVec 10),
    ∀ x ∈ [(Instr.stb z d a i, 1), (.sth z d a i, 2), (.stw z d a i, 4), (.std z d a i, 8)],
    s.trapsAt x.1 (s.rS a + s.immS i) x.2 .store ∧
    (∀ tr, s.ctx0Trap (s.rS a + s.immS i) x.2 .store = some tr → tr = ⟨4, cAccess, 19, some (s.rS a + s.immS i)⟩ ∧ exec x.1 s = .next (s.raise tr)) ∧
    ∀ key pte, s.reach (s.rS a + s.immS i) x.2 .store = .at_ key pte → ownerKey key = false → pageKey key = false →
      let ps := [onePart key (s.rS a + s.immS i) pte x.2 0 ((s.rS d).toNat % 256 ^ x.2)]
      (s.atOnce ps true → ∃ t, exec x.1 s = .next t ∧ s.stores t ps ∧
        ∀ j < x.2, t.rdByte (key + j) = s.storedByte (key + j) (byteOf (s.rS d) j)) ∧
      (s.leaves ps → ∃ t, exec x.1 s = .next t ∧ s.sends t .store ps false ∧ t.threads = s.threads)

/-- An 8-byte store to a register of a port core's page by context 0 (R142, R150) sends the value to the page and goes on; one
to a tile's OWNER, TREELD or CLGO holds its bundle at issue until the answer comes: with the answer, the second issue goes
on and changes nothing, or takes the trap that the answer brings, at its own address (R358). -/
def Obligations.RegisterStores : Prop :=
  ∀ (s : State) (z : BitVec 1) (d a : BitVec 5) (i : BitVec 10) key pte, s.me.spec = none →
    s.reach (s.rS a + s.immS i) 8 .store = .at_ key pte →
    let p := onePart key (s.rS a + s.immS i) pte 8 0 (s.rS d).toNat
    s.noSlot [p] = false →
      (pageKey key = true → treeKey key = false → ∃ t, exec (.std z d a i) s = .next t ∧
        s.sends t .store [p] false ∧ t.threads = s.threads) ∧
      (ownerKey key = true ∨ treeKey key = true → s.iss.answer = none → ∃ t r, exec (.std z d a i) s = .next t ∧
        t.net = s.net ++ [r] ∧ r.rid = s.nextRid ∧ r.parts = [p] ∧
        r.kind = (if ownerKey key = true then .owner else .page) ∧
        t.me = { s.me with park := .held s.nextRid s.iss.word s.src } ∧ t.iss.held = true ∧ s.bytesKept t) ∧
      (ownerKey key = true ∨ treeKey key = true → ∀ x, s.iss.answer = some x →
        (x.fail = none → exec (.std z d a i) s = .next s) ∧
        ∀ c n v, x.fail = some (c, n, v) → exec (.std z d a i) s = .next (s.raise ⟨10, c, n.toNat, v.map (·.setWidth 64)⟩))

/-- VLD (R242), made at once: each active byte of v takes its byte of memory, each other keeps its bits, v takes the tag
FMT; with every predicate bit clear only the tag changes. Nothing else does. Beyond the own tile it leaves as one request (R147,
R239), as `readsElse` lists. With an active byte the address traps as `trapsAt` lists, by the bytes that its active lanes span; with
none it takes the checks of R238 on the address itself. -/
def Obligations.VectorLoad : Prop :=
  ∀ (s : State) (z : BitVec 1) (v : BitVec 4) (a : BitVec 5) (g : BitVec 3) (f : BitVec 4) (i : BitVec 8),
    let va := s.rS a + s.immS i
    (s.rP g ≠ 0 → s.trapsAt (.vld z v a g f i) va 64 (laneKind false (s.rP g))) ∧
    (s.rP g = 0 → ∀ tr, s.addrTrap va 64 .load = some tr → exec (.vld z v a g f i) s = .next (s.raise tr)) ∧
    (∀ key pte, s.reach va 64 (laneKind false (s.rP g)) = .at_ key pte → s.rP g ≠ 0 →
      let ps := vecParts key va pte (s.rP g) 0
      (s.atOnce ps false →
        ∃ t, exec (.vld z v a g f i) s = .next t ∧ t.live.vtag v = f ∧ s.onlyBytes t [vBytes v, vtagByte v] ∧
          (∀ q, q ≠ v → t.live.vtag q = s.live.vtag q) ∧
          ∀ j < 64, byteOf (t.live.getV v) j = if (s.rP g).getLsbD j then s.loadByte (key + j) else byteOf (s.live.getV v) j) ∧
      (s.me.spec = none → s.readsElse (.vld z v a g f i) .load ps (.v v.toNat))) ∧
    (s.rP g = 0 → s.addrTrap va 64 .load = none →
      ∃ t, exec (.vld z v a g f i) s = .next t ∧ t.live.vtag v = f ∧ (∀ q, q ≠ v → t.live.vtag q = s.live.vtag q) ∧
        s.onlyBytes t [vtagByte v])

/-- VST (R242), made at once: each active byte of v stands in memory, but for the bits of a workspace that no store changes,
and no other byte of memory changes; with every predicate bit clear nothing changes. Beyond the own tile it leaves as one request
(R147, R239); to a tile's OWNER it holds its bundle at issue (R358). With an active byte the address traps as `trapsAt` lists, by
the bytes that its active lanes span, and, on a control page, with ACCESS reason 16 where an active byte lies past OWNER's eight
(R300). -/
def Obligations.VectorStore : Prop :=
  ∀ (s : State) (z : BitVec 1) (v : BitVec 4) (a : BitVec 5) (g : BitVec 3) (i : BitVec 8),
    let va := s.rS a + s.immS i
    (s.rP g ≠ 0 → s.trapsAt (.vst z v a g i) va 64 (laneKind true (s.rP g))) ∧
    (va.toNat % 64 = 0 → fld va.toNat 46 18 = 3 → s.me.ctx = 0 → ∀ key, onchip s.lcore va.toNat 64 = some key → key < stackBase →
      spaceOf key = 4 → offOf key = 0xFF00 → 256 ≤ (s.rP g).toNat → exec (.vst z v a g i) s = .next (s.raise (trapAccess 16 va))) ∧
    (∀ key pte, s.reach va 64 (laneKind true (s.rP g)) = .at_ key pte → s.rP g ≠ 0 →
      let ps := vecParts key va pte (s.rP g) (s.rV v)
      (ownerKey key = false → s.atOnce ps true →
        ∃ t, exec (.vst z v a g i) s = .next t ∧ s.stores t ps ∧
          ∀ j < 64, (s.rP g).getLsbD j = true → t.rdByte (key + j) = s.storedByte (key + j) (byteOf (s.rV v) j)) ∧
      (s.leaves ps → ∃ t, exec (.vst z v a g i) s = .next t ∧ s.sends t .store ps false ∧ t.threads = s.threads) ∧
      (ownerKey key = true → s.me.spec = none → s.iss.answer = none → s.noSlot ps = false →
        ∃ t, exec (.vst z v a g i) s = .next t ∧ s.holdsAt t .owner ps false)) ∧
    (s.rP g = 0 → ∀ tr, s.addrTrap va 64 .store = some tr → exec (.vst z v a g i) s = .next (s.raise tr)) ∧
    (s.rP g = 0 → s.addrTrap va 64 .store = none → exec (.vst z v a g i) s = .next s)

/-- VLDS (R243), VGTH and VSCT (R244): the active elements in lane order, each at its own address (rs1 + i·stride, or rs1 +
index·e). Where every address passes its checks and the accesses are made at once, VLDS and VGTH fill the active elements
of vd and set its tag, and VSCT stores the active elements of vs, in lane order, so that of elements that overlap the higher lane's
value remains and VER counts each; nothing else changes. Elsewhere each leaves as one request for all its elements (R147, R239); of
a VSCT the elements that name OWNER hold the bundle at issue, and with the answer the second issue stores the others (R358). The
first lane whose address fails traps as `trapsAt` lists, whatever lanes stand before it. -/
def Obligations.StridedAndIndexed : Prop :=
  (∀ (s : State) (z : BitVec 1) (v : BitVec 4) (a : BitVec 5) (g : BitVec 3) (f : BitVec 4) (x : BitVec 5) l n va m,
    activeVas (s.rP g) (Fmt.size f) (fun i => s.rS a + BitVec.ofNat 64 i * s.rS x) = l ++ (n, va) :: m →
    (∀ y ∈ l, ∃ key pte, s.reach y.2 (Fmt.size f) .load = .at_ key pte) →
    s.trapsAt (.vlds z v a g f x) va (Fmt.size f) .load) ∧
  (∀ (s : State) (z : BitVec 1) (v : BitVec 4) (a : BitVec 5) (g : BitVec 3) (f x : BitVec 4) l n va m,
    s.src.vtag x = intTag (Fmt.size f) → activeVas (s.rP g) (Fmt.size f) (s.idxVa a x (Fmt.size f)) = l ++ (n, va) :: m →
    ((∀ y ∈ l, ∃ key pte, s.reach y.2 (Fmt.size f) .load = .at_ key pte) → s.trapsAt (.vgth z v a g f x) va (Fmt.size f) .load) ∧
    ((∀ y ∈ l, ∃ key pte, s.reach y.2 (Fmt.size f) .store = .at_ key pte) → s.trapsAt (.vsct z v a g f x) va (Fmt.size f) .store)) ∧
  (∀ (s : State) (z : BitVec 1) (v : BitVec 4) (a : BitVec 5) (g : BitVec 3) (f x : BitVec 4),
    s.src.vtag x ≠ intTag (Fmt.size f) → ∀ i ∈ [Instr.vgth z v a g f x, .vsct z v a g f x],
      exec i s = .next (s.raise ⟨6, cFormat, x.toNat + (s.src.vtag x).toNat * 2 ^ 8 + (intTag (Fmt.size f)).toNat * 2 ^ 12, none⟩)) ∧
  (∀ (s : State) (z : BitVec 1) (v : BitVec 4) (a : BitVec 5) (g : BitVec 3) (f : BitVec 4) (x5 : BitVec 5) (x : BitVec 4),
    ∀ y ∈ [(Instr.vlds z v a g f x5, fun i => s.rS a + BitVec.ofNat 64 i * s.rS x5, true),
        (.vgth z v a g f x, s.idxVa a x (Fmt.size f), s.src.vtag x == intTag (Fmt.size f))],
      WellFormed y.1 = true → y.2.2 = true → ∀ ps,
        s.elemReach .load (Fmt.size f) 0 (activeVas (s.rP g) (Fmt.size f) y.2.1) = .ok ps →
        (s.atOnce ps false → ∃ t, exec y.1 s = .next t ∧ t.live.vtag v = f ∧ s.onlyBytes t [vBytes v, vtagByte v] ∧
          (∀ p ∈ ps, elemN (t.live.getV v) (Fmt.size f) (p.off / Fmt.size f) = s.loadN p.key (Fmt.size f)) ∧
          ∀ i < 64 / Fmt.size f, activeEl (s.rP g) (Fmt.size f) i = false →
            elemN (t.live.getV v) (Fmt.size f) i = elemN (s.live.getV v) (Fmt.size f) i) ∧
        (ps ≠ [] → s.me.spec = none → s.readsElse y.1 .load ps (.v v.toNat))) ∧
  (∀ (s : State) (z : BitVec 1) (v : BitVec 4) (a : BitVec 5) (g : BitVec 3) (f x : BitVec 4) ps,
    WellFormed (.vsct z v a g f x) = true → s.src.vtag x = intTag (Fmt.size f) →
    s.elemReach .store (Fmt.size f) (s.rV v) (activeVas (s.rP g) (Fmt.size f) (s.idxVa a x (Fmt.size f))) = .ok ps →
    ((∀ p ∈ ps, ownerKey p.key = false) → s.atOnce ps true → ∃ t, exec (.vsct z v a g f x) s = .next t ∧ s.stores t ps) ∧
    (ps ≠ [] → s.leaves ps → ∃ t, exec (.vsct z v a g f x) s = .next t ∧ s.sends t .store ps false ∧ t.threads = s.threads) ∧
    (∀ p ∈ ps, ownerKey p.key = true → s.me.spec = none → s.noSlot ps = false →
      (s.iss.answer = none → ∃ t, exec (.vsct z v a g f x) s = .next t ∧ s.holdsAt t .owner (ps.filter fun q => ownerKey q.key) false) ∧
      ∀ w, s.iss.answer = some w → w.fail = none → s.atOnce (ps.filter fun q => !ownerKey q.key) true →
        ∃ t, exec (.vsct z v a g f x) s = .next t ∧ s.stores t (ps.filter fun q => !ownerKey q.key)))
/-! ## Versions, full words, atomics, hints, fences, watches (R86 to R92, R245 to R252) -/

/-- LDV, STV, LDFE, STFE (R245, R246), AMO, AMOC (R250) and RED (R251), outside a speculation, of an aligned address that
passes its checks, with a slot free: the instruction leaves as one request to the word's home, STV, LDFE and STFE after
every earlier access, and after each of these three the thread's later writes wait for those accesses (R78, R81); rd is expected
where there is one (STFE's completion is tracked too); nothing else changes. LDV, LDFE, AMO and AMOC keep their place behind an
earlier access to a block of their own tile, and trap precisely on an own tile's word with an uncorrectable error (R82, R177), as
`readsElse` lists; each address traps as `trapsAt` lists. -/
def Obligations.WordAndAtomicRequests : Prop :=
  (∀ (s : State) (z : BitVec 1) (d a b : BitVec 5) (n : BitVec 6) (j : BitVec 9) (i : BitVec 10) (w : BitVec 1) (p : BitVec 4), s.me.spec = none →
    s.trapsAt (.ldv z d a n j) (s.rS a + s.immS j) 4 (.word false) ∧ s.trapsAt (.ldfe z d a i) (s.rS a + s.immS i) 4 (.word false) ∧
    s.trapsAt (.stv z d a i) (s.rS a + s.immS i) 4 (.word true) ∧ s.trapsAt (.stfe z d a i) (s.rS a + s.immS i) 4 (.word true) ∧
    s.trapsAt (.amo z d a b w p) (s.rS a) (atomicSize w) .atomic ∧ s.trapsAt (.amoc z d a b w) (s.rS a) (atomicSize w) .atomic ∧
    s.trapsAt (.red z a b w p) (s.rS a) (atomicSize w) .atomic) ∧
  (∀ (s : State) (z : BitVec 1) (d a : BitVec 5) (n : BitVec 6) (i : BitVec 9) key pte,
    s.reach (s.rS a + s.immS i) 4 (.word false) = .at_ key pte → s.me.spec = none →
    s.readsElse (.ldv z d a n i) (.ldv n) [onePart key (s.rS a + s.immS i) pte 4 0 0] (.s d.toNat)) ∧
  (∀ (s : State) (z : BitVec 1) (d a : BitVec 5) (i : BitVec 10) key pte,
    s.reach (s.rS a + s.immS i) 4 (.word false) = .at_ key pte → s.me.spec = none →
    s.readsElse (.ldfe z d a i) .ldfe [onePart key (s.rS a + s.immS i) pte 4 0 0] (.s d.toNat)) ∧
  (∀ (s : State) (z : BitVec 1) (d a : BitVec 5) (i : BitVec 10) key pte,
    s.reach (s.rS a + s.immS i) 4 (.word true) = .at_ key pte → s.me.spec = none →
    let ps := [onePart key (s.rS a + s.immS i) pte 4 0 ((s.rS d).toNat % 2 ^ 32)]
    s.noSlot ps = false →
      (∃ t, exec (.stv z d a i) s = .next t ∧ s.sends t .stv ps true ∧ t.me = { s.me with fences := t.me.fences } ∧ s.releases t) ∧
      ∃ t, exec (.stfe z d a i) s = .next t ∧ s.sends t .stfe ps true ∧ s.expects t t.me.fences [] ∧ s.releases t) ∧
  (∀ (s : State) (z : BitVec 1) (d a b : BitVec 5) (w : BitVec 1) (p : BitVec 4) key pte,
    s.reach (s.rS a) (atomicSize w) .atomic = .at_ key pte → s.me.spec = none →
    let ps := [onePart key (s.rS a) pte (atomicSize w) 0 0]
    s.readsElse (.amo z d a b w p) (.amo p (s.rS b)) ps (.s d.toNat) ∧
    s.readsElse (.amoc z d a b w) (.amoc (s.rS d) (s.rS b)) ps (.s d.toNat) ∧
    (s.noSlot ps = false → ∃ t, exec (.red z a b w p) s = .next t ∧ s.sends t (.red p (s.rS b)) ps false ∧ t.threads = s.threads))

/-- Versions and full words as state (R88 to R90, R241, R246). VRCL (R89, R247) holds its bundle at issue: a range of 4 to
65,536 bytes, a multiple of 4, within the scratchpad, sends one request, and the second issue, once the answer is there,
goes on, or takes the trap that the answer brings (R358); any other count traps ILLEGAL reason 7, and a range that leaves its
scratchpad ACCESS reason 16. At its home a VRCL resets
VER to 0 over its range and nothing else of the tags; with an LDV parked on a word of the range no tag changes, and its
answer is VERSION_WINDOW. An STV at its home writes its word and VER counts it. An STFE on an empty word on which none waits
writes it, VER counts it, and the word is full; an LDFE on a full word on which none waits returns it, and the word is
empty; on a word in the other state each parks there, in the order of arrival, and no tag changes. -/
def Obligations.VersionReclaim : Prop :=
  (∀ (s : State) (z : BitVec 1) (a b : BitVec 5) key pte, s.iss.answer = none → (s.rS b).toNat % 4 = 0 → 4 ≤ (s.rS b).toNat →
    (s.rS b).toNat ≤ 65536 → s.reach (s.rS a) 4 .reclaim = .at_ key pte → offOf key + (s.rS b).toNat ≤ 65536 →
    crosses s.me (offOf key) (s.rS b).toNat 0x8000 0xA000 = false →
    let ps := [onePart key (s.rS a) pte 4 0 0]
    s.noSlot ps = false → ∃ t r, exec (.vrcl z a b) s = .next t ∧ t.net = s.net ++ [r] ∧ r.rid = s.nextRid ∧ r.parts = ps ∧
      r.kind = .vrcl (s.rS b).toNat ∧ t.me = { s.me with park := .held s.nextRid s.iss.word s.src } ∧ t.iss.held = true ∧
      s.bytesKept t) ∧
  (∀ (s : State) (z : BitVec 1) (a b : BitVec 5) x, s.iss.answer = some x →
    (x.fail = none → exec (.vrcl z a b) s = .next s) ∧
    ∀ c n v, x.fail = some (c, n, v) → exec (.vrcl z a b) s = .next (s.raise ⟨10, c, n.toNat, v.map (·.setWidth 64)⟩)) ∧
  (∀ (s : State) rid r p n, s.partDue rid 0 r p → r.kind = .vrcl n → r.parts = [p] → isPad p.key = true → s.holds r = true →
    ((∃ q v, q ∈ s.net ∧ q.isParked = true ∧ q.kind = .ldv v ∧ p.key / 4 ≤ q.word ∧ q.word < p.key / 4 + n / 4) →
      ∃ t, exec (.requestArrival rid 0) s = .next t ∧ t.tags = s.tags ∧ s.bytesKept t ∧
        t.req rid = some { r with st := .answered (some (cVersion, 0, some (p.va.setWidth 48))) 0 }) ∧
    ((∀ q v, q ∈ s.net → q.isParked = true → q.kind = .ldv v → q.word < p.key / 4 ∨ p.key / 4 + n / 4 ≤ q.word) →
      ∃ t, exec (.requestArrival rid 0) s = .next t ∧ s.bytesKept t ∧ t.req rid = some { r with st := .answered none 0 } ∧
        ∀ w, (t.tag w).ver = (if p.key / 4 ≤ w ∧ w < p.key / 4 + n / 4 then 0 else (s.tag w).ver) ∧
          (t.tag w).full = (s.tag w).full ∧ (t.tag w).watch = (s.tag w).watch)) ∧
  (∀ (s : State) rid r p, s.partDue rid 0 r p → r.parts = [p] → isPad p.key = true → p.key % 4 = 0 → p.len = 4 → p.mask = BitVec.allOnes 64 →
    let w := p.key / 4
    (r.kind = .stv → p.pte = 0 → ∃ t, exec (.requestArrival rid 0) s = .next t ∧ s.holdsPart t p ∧
      t.tag w = { s.tag w with ver := (s.tag w).ver + 1 } ∧ ∀ k, k ≠ w → t.tag k = s.tag k) ∧
    ((∀ q ∈ s.net, q.isParked = true → q.word ≠ w) →
      (r.kind = .stfe → (s.tag w).full = false → ∃ t, exec (.requestArrival rid 0) s = .next t ∧ s.holdsPart t p ∧
        t.tag w = { s.tag w with ver := (s.tag w).ver + 1, full := true } ∧ ∀ k, k ≠ w → t.tag k = s.tag k) ∧
      (r.kind = .ldfe → (s.tag w).full = true → s.bad p.key 4 = false → ∃ t, exec (.requestArrival rid 0) s = .next t ∧ s.bytesKept t ∧
        t.tag w = { s.tag w with full := false } ∧ (∀ k, k ≠ w → t.tag k = s.tag k) ∧
        ∀ q ∈ (s.thr r.th).pend, q.rid = some rid → ∀ x v, q.writes = [.s x v] →
          { q with ready := true, writes := [.s x (BitVec.ofNat 64 (v.toNat + s.rdN p.key 4))] } ∈ (t.thr r.th).pend)) ∧
    ((r.kind = .stfe ∧ (s.tag w).full = true ∨ r.kind = .ldfe ∧ (s.tag w).full = false) → (∀ q ∈ s.net, q.isParked = true → q.word = w → feReady (s.tag w).full q.kind = false) →
      r.lcore = coreOfKey p.key ∨ s.parkedAt (coreOfKey p.key) < 32 → ∃ t, exec (.requestArrival rid 0) s = .next t ∧ t.tags = s.tags ∧ s.bytesKept t ∧
        t.req rid = some { r with st := .parked s.arrivals, refusals := 0 })) ∧
  (∀ (s : State) (z : BitVec 1) (a b : BitVec 5), s.iss.answer = none →
    (s.rS b).toNat % 4 ≠ 0 ∨ (s.rS b).toNat < 4 ∨ 65536 < (s.rS b).toNat →
    exec (.vrcl z a b) s = .next (s.raise ⟨7, cIllegal, 7, none⟩)) ∧
  (∀ (s : State) (z : BitVec 1) (a b : BitVec 5), s.iss.answer = none → (s.rS b).toNat % 4 = 0 → 4 ≤ (s.rS b).toNat → (s.rS b).toNat ≤ 65536 →
    s.vaTrap (s.rS a) 4 .reclaim = none → fld (s.rS a).toNat 46 2 = 3 → 65536 < fld (s.rS a).toNat 0 26 + (s.rS b).toNat →
    exec (.vrcl z a b) s = .next (s.raise (trapAccess 16 (s.rS a))))

/-- WATCH, UNWATCH and WAIT (R91, R248) on a word of the own scratchpad: WATCH of an unwatched word, with fewer than 64
entries in the core's table, enters the thread and sets W, and writes 1; on a word that it watches already it writes 1, and
on a full table, or a word that another thread watches, 0, and changes nothing else; UNWATCH by the watcher takes the entry out and clears W, by another thread
it changes nothing; WATCH and UNWATCH of an aligned word that stands in no scratchpad of the issuing core trap ACCESS reason
16, and the address traps as `trapsAt` lists; WAIT parks, or clears a ready bit that is set. -/
def Obligations.Watching : Prop :=
  (∀ (s : State) (z : BitVec 1) (d a : BitVec 5) key pte, s.reach (s.rS a) 4 (.word false) = .at_ key pte → coreOfKey key = s.lcore →
    s.me.spec = none → ((s.core s.lcore).watches.find? fun x => x.1 == key / 4) = none → (s.core s.lcore).watches.length < 64 →
    ∃ t, exec (.watch z d a) s = .next t ∧ t.live.getS d = 1 ∧ s.bytesKeptBut t s.cur [sBytes d] ∧
      t = { s with ws := t.ws, cores := t.cores, tags := t.tags } ∧ (t.tag (key / 4)).watch = true ∧
      (t.core s.lcore).watches = (s.core s.lcore).watches ++ [(key / 4, s.cur)]) ∧
  (∀ (s : State) (z : BitVec 1) (d a : BitVec 5) key pte, s.reach (s.rS a) 4 (.word false) = .at_ key pte → coreOfKey key = s.lcore →
    s.me.spec = none →
    (∀ x, ((s.core s.lcore).watches.find? fun x => x.1 == key / 4) = some x → x.2 ≠ s.cur) →
    (((s.core s.lcore).watches.find? fun x => x.1 == key / 4) ≠ none ∨ 64 ≤ (s.core s.lcore).watches.length) →
    ∃ t, exec (.watch z d a) s = .next t ∧ s.onlyS t d 0) ∧
  (∀ (s : State) (z : BitVec 1) (d a : BitVec 5) key pte, s.reach (s.rS a) 4 (.word false) = .at_ key pte → coreOfKey key = s.lcore →
    s.me.spec = none → ((s.core s.lcore).watches.find? fun x => x.1 == key / 4) = some (key / 4, s.cur) →
    ∃ t, exec (.watch z d a) s = .next t ∧ s.onlyS t d 1) ∧
  (∀ (s : State) (z : BitVec 1) (d a : BitVec 5), s.me.spec = none →
    s.trapsAt (.watch z d a) (s.rS a) 4 (.word false) ∧ s.trapsAt (.unwatch z a) (s.rS a) 4 (.word false) ∧
    (s.vaTrap (s.rS a) 4 (.word false) = none → fld (s.rS a).toNat 46 2 = 3 → s.notOwn (s.rS a) = true →
      exec (.watch z d a) s = .next (s.raise (trapAccess 16 (s.rS a))) ∧ exec (.unwatch z a) s = .next (s.raise (trapAccess 16 (s.rS a))))) ∧
  (∀ (s : State) (z : BitVec 1) (a : BitVec 5) key pte, s.reach (s.rS a) 4 (.word false) = .at_ key pte → coreOfKey key = s.lcore →
    ((key / 4, s.cur) ∈ (s.core s.lcore).watches → ∃ t, exec (.unwatch z a) s = .next t ∧ s.bytesKept t ∧
      (t.tag (key / 4)).watch = false ∧ (t.core s.lcore).watches = (s.core s.lcore).watches.erase (key / 4, s.cur) ∧
      t = { s with cores := t.cores, tags := t.tags }) ∧
    ((key / 4, s.cur) ∉ (s.core s.lcore).watches → exec (.unwatch z a) s = .next s)) ∧
  (∀ (s : State) z, ∃ t, exec (.wait z) s = .next t ∧
    s.onlyThread t fun x => if x.ready then { x with ready := false } else { x with park := .wait })

/-- FENCE (R86, R249) changes the issuing thread alone: REL and FULL hold its later stores until the accesses before them
in the scope are performed; ACQ and FULL park it until the reads before them, or every access, are performed. PFH and TCLS
(R140, R252) act on a global page that is not NEAR: of a line that stands in the slice of its home TCLS sets the class and
the count, and PFH changes nothing; an absent line becomes a miss of that slice, which TCLS's hint goes with, and where no
word anywhere has an uncorrectable error nothing but port cores changes. On any other address they do nothing: one that fails a check
or its translation is dropped silently (the note of the failed walk goes with it), and one whose translation is not at hand keeps the
bundle at its place until the walk has ended. -/
def Obligations.FencesAndHints : Prop :=
  (∀ (s : State) (z : BitVec 1) (sc : BitVec 3) (k : BitVec 2), k ≠ 0 → ∃ t, exec (.fence z sc k) s = .next t ∧
    t = { s with threads := t.threads } ∧ (∀ th, th ≠ s.cur → t.thr th = s.thr th) ∧
    (k ≠ 2 → ⟨s.me.seq, sc.toNat⟩ ∈ t.me.fences) ∧ (k = 2 → t.me.fences = s.me.fences) ∧
    t.me.park = (if k = 1 then s.me.park else .fence k.toNat sc.toNat s.me.seq)) ∧
  (∀ (s : State) (z : BitVec 1) (a : BitVec 5) (c : BitVec 2) (r : BitVec 4) key pte, s.reach (s.rS a) 1 .load = .at_ key pte →
    isHbm key = true → pte.getLsbD 9 = false →
    let port := portOfChan (chanOf (key / 65536))
    ((∃ x ∈ (s.port port).lines, x.line = key / 128) → exec (.pfh z a) s = .next s ∧
      ∃ t, exec (.tcls z a c r) s = .next t ∧ t = { s with ports := t.ports } ∧ (∀ q, q ≠ port → t.port q = s.port q) ∧
        (t.port port).lines = (s.port port).lines.map fun x => if x.line = key / 128 then { x with cls := c, count := r } else x) ∧
    ((∀ x ∈ (s.port port).lines, x.line ≠ key / 128) → (∀ m ∈ (s.port port).misses, m.line = key / 128 → m.near = true) →
      (∃ t, exec (.pfh z a) s = .next t ∧ (s.upsets = [] → t = { s with ports := t.ports }) ∧
        ∃ m ∈ (t.port port).misses, m.line = key / 128 ∧ m.near = false ∧ m.ahead = true ∧ m.hint = none) ∧
      ∃ t, exec (.tcls z a c r) s = .next t ∧ (s.upsets = [] → t = { s with ports := t.ports }) ∧
        ∃ m ∈ (t.port port).misses, m.line = key / 128 ∧ m.near = false ∧ m.ahead = true ∧ m.hint = some (c, r))) ∧
  (∀ (s : State) (z : BitVec 1) (a : BitVec 5) (c : BitVec 2) (r : BitVec 4) key pte, s.reach (s.rS a) 1 .load = .at_ key pte →
    isHbm key = false ∨ pte.getLsbD 9 = true → exec (.tcls z a c r) s = .next s ∧ exec (.pfh z a) s = .next s) ∧
  (∀ (s : State) (z : BitVec 1) (a : BitVec 5) (c : BitVec 2) (r : BitVec 4), ∀ i ∈ [Instr.tcls z a c r, .pfh z a],
    (∀ tr, s.reach (s.rS a) 1 .load = .trap tr → ∃ t, exec i s = .next t ∧ s.onlyThread t fun x => { x with walk := .none }) ∧
    ∀ vpn, s.reach (s.rS a) 1 .load = .walk vpn → exec i s = .next (s.stallWalk vpn))

/-! ## Spawned threads, calls and migration (R93, R116 to R118, R253 to R258) -/

/-- SPAWN (R116, R254) outside a speculation sends one request, held until every earlier access is performed, to the core
of rs2, with entry PC + 8·W, the argument registers and LEND; ANY names the core itself (R116), and the thread waits for
the answer. Beyond the own tile it needs a free request slot (R147), and without one the bundle stalls. A number that names
no core traps ACCESS reason 17; a core of another context, or no tile core, reason 18; one to which no route leads, 22. -/
def Obligations.SpawnSends : Prop :=
  (∀ (s : State) (z : BitVec 1) (sa a : BitVec 5) (n : BitVec 4) (l y : BitVec 1) (i : BitVec 9), s.me.spec = none →
    (y = 0 → isTileCore (s.rS a).toNat = true ∧ s.mayCall s.me.ctx (s.rS a).toNat = true ∧
      s.routable (dieOfCore s.lcore) (dieOfCore (s.rS a).toNat) = true) →
    (let l := if y = 1 then (s.pickAny s.lcore).getD noThread else (s.rS a).toNat
     noThread ≤ l ∨ sameTile s.lcore l = true ∨ s.slotsFull s.lcore = false) →
    ∃ t, exec (.spawn z sa a n l y i) s = .next t ∧ t.me = { s.me with park := .answer s.nextRid } ∧
      s.sends t (.spawn (if y = 1 then (s.pickAny s.lcore).getD noThread else (s.rS a).toNat)
        (BitVec.ofInt 48 (s.iss.pc.toNat + 8 * (s.immS i).toInt)) ((List.range n.toNat).map fun j => s.rS (sa + BitVec.ofNat 5 j))
        (l == 1)) [] true) ∧
  (∀ (s : State) (z : BitVec 1) (sa a : BitVec 5) (n : BitVec 4) (l : BitVec 1) (i : BitVec 9), s.me.spec = none →
    (namesCore (s.rS a).toNat = false → exec (.spawn z sa a n l 0 i) s = .next (s.raise ⟨8, cAccess, 17, none⟩)) ∧
    (namesCore (s.rS a).toNat = true → (isTileCore (s.rS a).toNat && s.mayCall s.me.ctx (s.rS a).toNat) = false →
      exec (.spawn z sa a n l 0 i) s = .next (s.raise ⟨8, cAccess, 18, none⟩)) ∧
    (isTileCore (s.rS a).toNat = true → s.mayCall s.me.ctx (s.rS a).toNat = true →
      (s.routable (dieOfCore s.lcore) (dieOfCore (s.rS a).toNat) = false → exec (.spawn z sa a n l 0 i) s = .next (s.raise ⟨8, cAccess, 22, none⟩)) ∧
      (s.routable (dieOfCore s.lcore) (dieOfCore (s.rS a).toNat) = true → (s.rS a).toNat < noThread → sameTile s.lcore (s.rS a).toNat = false →
        s.slotsFull s.lcore = true → exec (.spawn z sa a n l 0 i) s = .next s.stall)))

/-- RCALL (R93, R197, R255) outside a speculation, of a unit that the context may call and to which a route leads, with a
request slot free beyond the own tile: one request, held until every earlier access is performed, with entry PC + 8·OFF20
and the argument registers; its results are expected in the registers that IMM26 names, and the thread waits until the call
is sent. Without a slot the bundle keeps its place. A unit of another context traps ACCESS reason 18, one without a route 22. An
address without a unit takes its trap (R253): ACCESS reason 16 of one that no address form gives, of a fabric window and of a stack
core's own SRAM, and PAGE_FAULT of a global page whose walk has failed; a page not yet walked keeps the bundle at its place. -/
def Obligations.CallSends : Prop :=
  ∀ (s : State) (z : BitVec 1) (sa a n : BitVec 5) (v : BitVec 4) (c : BitVec 3), s.me.spec = none →
    (∀ l near, s.nearest (s.rS a) = .at_ l near →
      let routed := s.routable (dieOfCore s.lcore) (dieOfCore l)
      (s.mayCall s.me.ctx l = true → routed = true → sameTile s.lcore l = true ∨ s.slotsFull s.lcore = false → ∃ t p x, exec (.rcall z sa a n v c) s = .next t ∧
        s.sends t (.rcall l (s.rS a) (s.iss.pc + BitVec.ofInt 48 (8 * callOff s.callImm))
          ((List.range n.toNat).map fun j => s.rS (sa + BitVec.ofNat 5 j)) (s.src.getVs v c.toNat)) [] true ∧
        t.me = { s.me with pend := s.me.pend ++ [p], park := .answer s.nextRid, calls := s.me.calls ++ [x] } ∧
        p.rid = some s.nextRid ∧ p.ready = false ∧ p.fail = none ∧
        p.dests = (List.range (callDS s.callImm)).map (fun j => Reg.s (callSD s.callImm + j)) ++
          (List.range (callDV s.callImm)).map (fun j => Reg.v (v.toNat + j)) ∧
        x.rid = s.nextRid ∧ x.running = false ∧ x.timeout = s.src.rcTimeout * Config.cyclesPerUs) ∧
      (s.mayCall s.me.ctx l = true → routed = true → sameTile s.lcore l = false → s.slotsFull s.lcore = true → exec (.rcall z sa a n v c) s = .next s.stall) ∧
      (s.mayCall s.me.ctx l = false → exec (.rcall z sa a n v c) s = .next (s.raise ⟨8, cAccess, 18, some (s.rS a)⟩)) ∧
      (s.mayCall s.me.ctx l = true → routed = false → exec (.rcall z sa a n v c) s = .next (s.raise ⟨8, cAccess, 22, some (s.rS a)⟩))) ∧
    (let x := (s.rS a).toNat
     let traps := fun t => exec (.rcall z sa a n v c) s = .next (s.raise t)
     (fld x 48 16 ≠ 0 ∨ fld x 46 2 = 2 ∨ (fld x 46 2 = 3 ∧ onchip s.lcore x 1 = none) → traps (trapAccess 16 (s.rS a))) ∧
     (fld x 48 16 = 0 → fld x 46 2 = 1 → traps (trapAccess 16 (s.rS a))) ∧
     (∀ key, fld x 48 16 = 0 → fld x 46 2 = 3 → onchip s.lcore x 1 = some key → stackBase ≤ key → traps (trapAccess 16 (s.rS a))) ∧
     (fld x 46 18 = 0 → s.tlbFind s.lcore s.me.ctx (x / 65536) = none →
       (∀ r, s.me.walk = .failed (x / 65536) r → traps ⟨8, cPageFault, r, some (s.rS a)⟩) ∧
       ((∀ r, s.me.walk ≠ .failed (x / 65536) r) → exec (.rcall z sa a n v c) s = .next (s.stallWalk (x / 65536)))))

/-- RRET (R257) by a callee and MIGR (R258) by a thread that may migrate wait at their bundle, as a settle mark does. A
RRET of any other thread traps ILLEGAL reason 7, MIGR of a supervisor too, MIGR of a pre-empting thread ACCESS reason 20,
and MIGR at a NEAR page 16 (R253). At the end of its wait a callee's RRET sends its registers to the caller and ends the callee; MIGR,
whose unit is found again there, goes on after its bundle where the unit is the own core, and is sent to any other, for which it waits
while no request slot is free; a page that is NEAR by then traps ACCESS reason 16, a unit of another context 18, one without a route
22. -/
def Obligations.ReturnsAndMigrations : Prop :=
  (∀ (s : State) (z : BitVec 1) (sr : BitVec 5) (v n : BitVec 4) (c : BitVec 3),
    (s.me.caller.isSome = true → ∃ t, exec (.rret z sr v n c) s = .next t ∧ s.parksHere t (.rret sr.toNat v.toNat n.toNat c.toNat)) ∧
    (s.me.caller = none → exec (.rret z sr v n c) s = .next (s.raise ⟨8, cIllegal, 7, none⟩))) ∧
  (∀ (s : State) (z : BitVec 1) (a : BitVec 5) l, s.me.spec = none → s.nearest (s.rS a) = .at_ l 1 → s.me.pos ≠ 15 → s.me.part = false →
    exec (.migr z a) s = .next (s.raise (trapAccess 16 (s.rS a)))) ∧
  (∀ (s : State) (z : BitVec 1) (a : BitVec 5) l, s.me.spec = none → s.nearest (s.rS a) = .at_ l 0 → s.mayCall s.me.ctx l = true →
    s.routable (dieOfCore s.lcore) (dieOfCore l) = true → s.me.pos ≠ 15 → s.me.part = false → ∃ t, exec (.migr z a) s = .next t ∧ s.parksHere t (.migrWait (s.rS a) s.issSrc)) ∧
  (∀ (s : State) (z : BitVec 1) (a : BitVec 5), (s.me.pos = 15 → exec (.migr z a) s = .next (s.raise ⟨8, cIllegal, 7, none⟩)) ∧
    (s.me.pos ≠ 15 → s.me.part = true → exec (.migr z a) s = .next (s.raise ⟨8, cAccess, 20, none⟩))) ∧
  (∀ (s : State) th sr vr sn vn c, (s.thr th).park = .rret sr vr sn vn → s.settled th = true → (s.thr th).held = [] →
    (s.thr th).caller = some c → (s.wake th).thr th = Thread.none ∧
      ∃ r ∈ (s.wake th).net, r.rid = s.nextRid ∧ r.parts = [] ∧ r.st = .inflight ∧ r.born = c.born ∧
        r.kind = .reply c.th c.rid ((List.range sn).map fun i => (s.getWs th).getS (BitVec.ofNat 5 (sr + i)))
          ((s.getWs th).getVs (BitVec.ofNat 4 vr) vn)) ∧
  (∀ (s : State) th va src l near, (s.thr th).park = .migrWait va src → s.settled th = true → (s.thr th).held = [] →
    { s with cur := th }.nearest va = .at_ l near →
      let may := s.mayCall (s.thr th).ctx l
      let routed := s.routable (dieOfCore (coreOfTh th)) (dieOfCore l)
      let traps := fun n => s.wake th =
        { s with cur := th, iss := { Issue.none with pc := src.pc, bundle := src.bundle, word := src.bundle } }.raise (trapAccess n va)
      (near = 1 → traps 16) ∧ (near ≠ 1 → may = false → traps 18) ∧ (near ≠ 1 → may = true → routed = false → traps 22) ∧
      (near ≠ 1 → may = true → routed = true →
        (l = coreOfTh th → ((s.wake th).getWs th).pc = src.pc + 8 ∧ (s.wake th).net = s.net ∧ (s.wake th).thr th = { s.thr th with park := .none }) ∧
        (l ≠ coreOfTh th → sameTile (coreOfTh th) l = false → s.slotsFull (coreOfTh th) = true →
          (s.wake th).net = s.net ∧ (s.wake th).thr th = s.thr th ∧ (s.wake th).getWs th = s.getWs th) ∧
        (l ≠ coreOfTh th → sameTile (coreOfTh th) l = true ∨ s.slotsFull (coreOfTh th) = false →
          ((s.wake th).getWs th).pc = src.pc + 8 ∧ (s.wake th).thr th = { s.thr th with park := .answer s.nextRid } ∧
          ∃ r, (s.wake th).net = s.net ++ [r] ∧ r.rid = s.nextRid ∧ r.th = th ∧ r.kind = .migr l ∧ r.parts = [] ∧ r.hold = true)))

/-- A SPAWN at its core (R116, R149, R254): an ordinary thread's child takes the lowest free ordinary position that is not
held for a RED (R119), with the identity of its parent, the entry, LEND and the arguments, and the answer is 1; without one
it is 0 and nothing else changes but that the answer leaves. Once the answer has come to a parent that no freeze holds
(R124), 1 frees its wait; 0 runs the child inline in a parent with INL 0 (R117): the
arguments from s0 on, s31 the bundle after the SPAWN, INL 1, the entry as PC; a parent with INL 1 sends it again. -/
def Obligations.SpawnedThreads : Prop :=
  (∀ (s : State) rid r l entry args lend p ps, s.isDue rid r → r.kind = .spawn l entry args lend → l ≠ noThread → s.unitTakes r l →
    r.part = false → args.length ≤ 31 → s.openPositions l = p :: ps → ∃ t, exec (.spawnArrival rid) s = .next t ∧
      t = { s with ws := t.ws, threads := t.threads, net := answeredIn s.net rid 1, packets := t.packets, nextPkt := t.nextPkt } ∧
      t.thr (l * 20 + p) = { Thread.none with occ := true, pos := p, kind := .child, ctx := r.ctx, lid := r.lid, seed := r.seed, cls := r.cls, root := r.root } ∧
      (∀ k, k ≠ l * 20 + p → t.thr k = s.thr k ∧ t.getWs k = s.getWs k) ∧ (t.getWs (l * 20 + p)).pc = entry ∧
      (t.getWs (l * 20 + p)).lend = lend ∧ (t.getWs (l * 20 + p)).inl = false ∧
      ∀ j (h : j < args.length), (t.getWs (l * 20 + p)).getS (BitVec.ofNat 5 j) = args[j]) ∧
  (∀ (s : State) rid r l entry args lend, s.isDue rid r → r.kind = .spawn l entry args lend →
    l = noThread ∨ (s.unitTakes r l ∧ r.part = false ∧ s.openPositions l = []) →
    ∃ t, exec (.spawnArrival rid) s = .next t ∧ t = { s with net := answeredIn s.net rid 0, packets := t.packets, nextPkt := t.nextPkt }) ∧
  (∀ (s : State) rid r l entry args lend v, s.isReq rid r → r.kind = .spawn l entry args lend → r.st = .answered none v →
    args.length ≤ 31 → (s.thr r.th).park = .answer rid → s.answerOut rid = false → (s.thr r.th).frozen = false → ∃ t, exec (.spawnAnswer rid) s = .next t ∧
      (v = 1 → t.net = s.net.filter (fun q => q.rid != rid) ∧ (t.thr r.th).park = .over ∧ t.ws = s.ws) ∧
      (v ≠ 1 → (s.getWs r.th).inl = false → t.net = s.net.filter (fun q => q.rid != rid) ∧ (t.thr r.th).park = .over ∧
        (t.getWs r.th).pc = entry ∧ (t.getWs r.th).inl = true ∧ (t.getWs r.th).getS 31 = (r.src.pc + 8).setWidth 64 ∧
        ∀ j (h : j < args.length), (t.getWs r.th).getS (BitVec.ofNat 5 j) = args[j]) ∧
      (v ≠ 1 → (s.getWs r.th).inl = true → t = { s with net := t.net } ∧
        ∃ q, t.req rid = some q ∧ q.st = .refused ∧ q.refusals = r.refusals + 1)) ∧
  (∀ (s : State) d, ∃ t, exec (.spawnCountRefresh d) s = .next t ∧ t = { s with dies := t.dies } ∧ (∀ k, k ≠ d → t.die k = s.die k) ∧
    ∀ x ∈ (t.die d).counts, x.2.1 = (s.freePositions x.1).length)

/-- An RCALL at its unit (R93, R149, R256): a callee takes the lowest free ordinary position that is not held for a RED, with
the caller's identity and the arguments, scalar ones from s0 on and vector ones with their tags from v0 on; it is no pre-empting thread, whoever calls, but one that a pre-empting thread calls
keeps to that thread's column (log 31, DEDUCED). Its reply writes as many registers as were sent and are named, and a fault record fails the call with
REMOTE_FAULT, INFO the cause and the callee's LCORE; either ends the call, and an answer to a call that is no longer
outstanding is dropped (R174). A call outstanding longer than RCTIMEOUT fails with RCALL_TIMEOUT (R120). -/
def Obligations.RemoteCalls : Prop :=
  (∀ (s : State) rid r u va entry args vecs p ps, s.isDue rid r → r.kind = .rcall u va entry args vecs → s.callRuns r = true → s.unitTakes r u →
    args.length ≤ 31 → vecs.length ≤ 16 → s.openPositions u = p :: ps → ∃ t, exec (.rcallArrival rid) s = .next t ∧
      t = { s with ws := t.ws, threads := t.threads, net := s.net.filter fun q => q.rid != rid } ∧
      t.thr (u * 20 + p) = { Thread.none with occ := true, pos := p, kind := .callee, ctx := r.ctx, lid := r.lid, seed := r.seed, cls := r.cls, col := r.part, root := r.root, caller := some ⟨r.th, rid, r.born⟩ } ∧
      (∀ k, k ≠ u * 20 + p → t.thr k = s.thr k ∧ t.getWs k = s.getWs k) ∧ (t.getWs (u * 20 + p)).pc = entry ∧
      (∀ j (h : j < args.length), (t.getWs (u * 20 + p)).getS (BitVec.ofNat 5 j) = args[j]) ∧
      ∀ j (h : j < vecs.length), (t.getWs (u * 20 + p)).getV (BitVec.ofNat 4 j) = vecs[j].1 ∧
        (t.getWs (u * 20 + p)).vtag (BitVec.ofNat 4 j) = vecs[j].2) ∧
  (∀ (s : State) rid r th call c ss vs, s.isDue rid r → r.kind = .reply th call ss vs →
    s.refuses (padKey (coreOfTh th) 0) = false → s.liveCall th call = some c → ∃ t, exec (.rcallReply rid) s = .next t ∧
      t = { s with threads := t.threads, net := s.net.filter fun q => q.rid != rid } ∧ s.onlyTh t th fun x => { x with
        calls := x.calls.filter fun c => c.rid != call
        pend := x.pend.map fun p => if p.rid = some call then { p with ready := true, rid := none, writes := c.writes ss vs, fail := none } else p }) ∧
  (∀ (s : State) rid r th call c cause l va, s.isDue rid r → r.kind = .faultRec th call cause l va →
    s.refuses (padKey (coreOfTh th) 0) = false → s.liveCall th call = some c → ∃ t, exec (.faultRecord rid) s = .next t ∧
      t = { s with threads := t.threads, net := s.net.filter fun q => q.rid != rid } ∧ s.onlyTh t th fun x => { x with
        calls := x.calls.filter fun c => c.rid != call
        pend := x.pend.map fun p => if p.rid = some call then
          { p with ready := true, rid := none, writes := [], fail := some ⟨0x09, BitVec.ofNat 26 (cause.toNat + l * 2 ^ 8), va, c.src⟩ } else p }) ∧
  (∀ (s : State) rid r th call ss vs cause l va, s.isDue rid r →
    s.refuses (padKey (coreOfTh th) 0) = false → s.liveCall th call = none →
    (r.kind = .reply th call ss vs → exec (.rcallReply rid) s = .next { s with net := s.net.filter fun q => q.rid != rid }) ∧
    (r.kind = .faultRec th call cause l va → exec (.faultRecord rid) s = .next { s with net := s.net.filter fun q => q.rid != rid })) ∧
  (∀ (s : State) th call c, ((s.thr th).calls.find? fun x => x.rid == call) = some c → c.running = true → c.sentAt + c.timeout < s.tick →
    ∃ t, exec (.rcallTimeout th call) s = .next t ∧ t = { s with threads := t.threads, net := t.net } ∧ s.onlyTh t th fun x => { x with
      calls := x.calls.filter fun c => c.rid != call
      pend := x.pend.map fun p => if p.rid = some call then
        { p with ready := true, rid := none, writes := [], fail := some ⟨0x0A, 0, none, c.src⟩ } else p })

/-- A MIGR at its unit (R258): the thread stands, with its workspace, at the lowest free ordinary position that is not held
for a RED, and its old position frees when the answer has come; while the thread is frozen and no drain of its tile goes on, it waits
(log 30, the model's reading of R124 and R183). The oldest parked arrival starts when a position frees (R111), where its unit still
takes it (R159); where the unit is another context's by then it ends with ACCESS reason 18, and where its tile runs no task of its
launch with PEER_GONE. -/
def Obligations.Migrations : Prop :=
  (∀ (s : State) rid r u p ps, s.isDue rid r → r.kind = .migr u → s.unitTakes r u → s.migrWaits r = false → s.openPositions u = p :: ps →
    ∃ t, exec (.migrArrival rid) s = .next t ∧
      t = { s with ws := t.ws, threads := t.threads, net := answeredIn s.net rid 1, packets := t.packets, nextPkt := t.nextPkt } ∧
      t.getWs (u * 20 + p) = s.getWs r.th ∧ (t.thr (u * 20 + p)).pos = p ∧ (t.thr (u * 20 + p)).park = .over ∧
      (t.thr (u * 20 + p)).ctx = (s.thr r.th).ctx ∧ (t.thr (u * 20 + p)).lid = (s.thr r.th).lid ∧
      ∀ k, k ≠ u * 20 + p → t.thr k = s.thr k ∧ t.getWs k = s.getWs k) ∧
  (∀ (s : State) rid r u, s.isReq rid r → r.kind = .migr u → s.migrWaits r = true → exec (.migrArrival rid) s = .next s) ∧
  (∀ (s : State) rid r u v, s.isReq rid r → r.kind = .migr u → r.st = .answered none v → s.answerOut rid = false →
    ∃ t, exec (.migrAnswer rid) s = .next t ∧ t.thr r.th = Thread.none ∧ (∀ k, k ≠ r.th → t.thr k = s.thr k) ∧ t.ws = s.ws ∧
      ∀ q ∈ t.net, q.rid ≠ rid) ∧
  (∀ (s : State) l r u va entry args vecs p ps, s.oldestArrival l = some r → r.kind = .rcall u va entry args vecs → s.openPositions l = p :: ps →
    (s.unitTakes r u → ∃ t, exec (.parkedArrivalStart l) s = .next t ∧ (∀ q ∈ t.net, q.rid ≠ r.rid) ∧ (t.thr (u * 20 + p)).occ = true ∧
      (t.thr (u * 20 + p)).pos = p ∧ (t.thr (u * 20 + p)).caller = some ⟨r.th, r.rid, r.born⟩ ∧ (t.getWs (u * 20 + p)).pc = entry) ∧
    (s.refuses (padKey u 0) = false →
      (s.mayCall r.ctx u = false → exec (.parkedArrivalStart l) s = .next (s.failSend r cAccess 18)) ∧
      (s.mayCall r.ctx u = true → isTileCore u = true → s.gone r.ctx r.lid (padKey u 0) = true →
        exec (.parkedArrivalStart l) s = .next (s.failSend r cPeerGone 0))))
/-! ## Barriers, speculation, messages, queues, semaphores (R69, R113 to R115, R121, R122, R259 to R268) -/

/-- JOIN, LEAVE, GBAR and GBARD (R114, R259, R358) of a barrier object that passes its checks, outside a speculation, hold
their bundle at issue and send one request, GBAR's and GBARD's after every earlier access; once it is answered they go on,
GBAR waiting for a phase other than the one its arrival saw (R115), and a failure traps. GQRY holds its bundle too, and
asks for PHASE and ARRIVED as one read of eight bytes, which rd takes. An object's address traps as `trapsAt` lists. -/
def Obligations.BarrierForms : Prop :=
  (∀ (s : State) (z : BitVec 1) (d a : BitVec 5), s.iss.answer = none →
    s.trapsAt (.gqry z d a) (s.rS a) 16 .atomic ∧
    (s.me.spec = none → ∀ i ∈ [Instr.join z a, .leave z a, .gbar z d a, .gbard z a], s.trapsAt i (s.rS a) 16 .atomic)) ∧
  (∀ (s : State) (z : BitVec 1) (d a : BitVec 5) key pte, s.iss.answer = none → s.me.spec = none → s.reach (s.rS a) 16 .atomic = .at_ key pte →
    s.noSlot [onePart key (s.rS a) pte 16 0 0] = false →
    ∀ x ∈ [(Instr.join z a, 0, false), (.leave z a, 1, false), (.gbar z d a, 2, true), (.gbard z a, 3, true)],
      ∃ t, exec x.1 s = .next t ∧ s.holdsAt t (.barrier x.2.1) [onePart key (s.rS a) pte 16 0 0] x.2.2) ∧
  (∀ (s : State) (z : BitVec 1) (d a : BitVec 5) x, s.iss.answer = some x → x.fail = none →
    exec (.join z a) s = .next s ∧ exec (.leave z a) s = .next s ∧ exec (.gbard z a) s = .next s ∧
    ∃ t, exec (.gbar z d a) s = .next t ∧ s.onlyThread t fun q => { q with park := .phase x.key (s.rS a) (x.value.setWidth 32) d s.issSrc }) ∧
  (∀ (s : State) (z : BitVec 1) (d a : BitVec 5) x c n v, s.iss.answer = some x → x.fail = some (c, n, v) →
    ∀ i ∈ [Instr.join z a, .leave z a, .gbar z d a, .gbard z a, .gqry z d a],
      exec i s = .next (s.raise ⟨10, c, n.toNat, v.map (·.setWidth 64)⟩)) ∧
  (∀ (s : State) (z : BitVec 1) (d a : BitVec 5) key pte, s.iss.answer = none → s.reach (s.rS a) 16 .atomic = .at_ key pte →
    s.noSlot [onePart (key + 4) (s.rS a) pte 8 0 0] = false → ∃ t, exec (.gqry z d a) s = .next t ∧
      s.holdsAt t .gqry [onePart (key + 4) (s.rS a) pte 8 0 0] false) ∧
  (∀ (s : State) (z : BitVec 1) (d a : BitVec 5) x, s.iss.answer = some x → x.fail = none →
    ∃ t, exec (.gqry z d a) s = .next t ∧ s.answersSoon t d x.value)

/-- Barrier operations at their home (R113, R114). One operation: JOIN adds a member; LEAVE and GBARD take one away and GBAR
adds an arrival, and where every member has then arrived the phase advances, the arrivals go to 0 and STATUS shifts to
LAST; the request is answered with the phase it saw, and no byte outside the object changes. An operation on no members, or
a JOIN of 0xFFFFFFFF, traps BARRIER_MEMBERSHIP and changes no byte. All operations that reach the object in one cycle: the
drops, the arrivals, at most one flip, the joins, each group in ascending thread id, each operation on the object as those
before it have left it. A GBAR that waits for a phase ends when it reads another: it writes LAST, and where the page of its object has no translation in the core's cache it waits for a walk (R154). (The object is one of
whose bytes no bit is a workspace's reserved one, R222.) -/
def Obligations.BarrierHome : Prop :=
  (∀ (s : State) rid r op p ps, s.isDue rid r → s.holds r = true → r.kind = .barrier op → r.parts = p :: ps → s.homeReady p = true → s.homeCheck r p = .ok →
    s.bad p.key 16 = false → s.mergeBad p.key 16 (BitVec.allOnes 64) p.pte = false → p.key < fabricBase → p.key % 16 = 0 →
    (∀ j < 16, fixedBits (p.key + j) = 0) →
    let b := s.barrierAt p.key
    (b.members ≠ 0 → b.arrived ≠ b.members) →
    (∀ b', (op = 0 ∧ b.members ≠ 0xFFFFFFFF ∧ b' = { b with members := b.members + 1 }) ∨
        (b.members ≠ 0 ∧ (op = 1 ∨ op = 3) ∧ b' = BarrierObj.flip { b with members := b.members - 1 }) ∨
        (b.members ≠ 0 ∧ op = 2 ∧ b' = BarrierObj.flip { b with arrived := b.arrived + 1 }) →
      ∃ t, exec (.barrierHomeApply [rid]) s = .next t ∧ t.barrierAt p.key = b' ∧
        (∀ k, outside k p.key 16 → t.rdByte k = s.rdByte k) ∧
        ∃ q, t.req rid = some q ∧ q.st = .answered none (b.phase.setWidth 64)) ∧
    ((op = 0 ∧ b.members = 0xFFFFFFFF) ∨ (op ∈ [1, 2, 3] ∧ b.members = 0) →
      ∃ t, exec (.barrierHomeApply [rid]) s = .next t ∧ s.bytesKept t ∧
        ∃ q, t.req rid = some q ∧ q.st = .answered (some (0x0E, 0, some (p.va.setWidth 48))) 0)) ∧
  (∀ (s : State) (op : Req → Nat) (part : Req → Part) (L D A J : List Req) key, (L.map (·.rid)).Nodup →
    (∀ r ∈ L, s.isDue r.rid r ∧ s.holds r = true ∧ r.kind = .barrier (op r) ∧ r.parts = [part r] ∧ (part r).key = key ∧
      s.homeReady (part r) = true ∧ s.homeCheck r (part r) = .ok ∧ s.mergeBad key 16 (BitVec.allOnes 64) (part r).pte = false) →
    L ≠ [] → s.bad key 16 = false → key < fabricBase → key % 16 = 0 → (∀ j < 16, fixedBits (key + j) = 0) →
    (D ++ A ++ J).Perm L → (∀ r ∈ D, op r = 1 ∨ op r = 3) → (∀ r ∈ A, op r = 2) → (∀ r ∈ J, op r = 0) →
    (∀ g ∈ [D, A, J], g.Pairwise fun r q => s.tid r.th < s.tid q.th) →
    let group := fun (l : List Req) => l.map fun r => (r, op r)
    let d := applyOps (s.barrierAt key) (group D)
    let a := applyOps d.1 (group A)
    let j := applyOps a.1.flip (group J)
    ∃ t, exec (.barrierHomeApply (L.map (·.rid))) s = .next t ∧
      ((∃ x ∈ d.2 ++ a.2 ++ j.2, x.2.isSome = true) → t.barrierAt key = j.1) ∧
      ((∀ x ∈ d.2 ++ a.2 ++ j.2, x.2 = none) → s.bytesKept t) ∧ (∀ k, outside k key 16 → t.rdByte k = s.rdByte k) ∧
      ∀ r o, (r, o) ∈ d.2 ++ a.2 ++ j.2 → ∃ q, t.req r.rid = some q ∧ q.st = (match o with
        | some ph => .answered none (ph.setWidth 64)
        | none => .answered (some (0x0E, 0, some ((part r).va.setWidth 48))) 0)) ∧
  (∀ b r op l, applyOps b ((r, op) :: l) = match b.apply op with
    | some b' => ((applyOps b' l).1, (r, some b.phase) :: (applyOps b' l).2)
    | none => ((applyOps b l).1, (r, none) :: (applyOps b l).2)) ∧
  (∀ b : BarrierObj, b.apply 0 = (if b.members = 0xFFFFFFFF then none else some { b with members := b.members + 1 }) ∧
    b.apply 2 = (if b.members = 0 then none else some { b with arrived := b.arrived + 1 }) ∧
    ∀ op, op = 1 ∨ op = 3 → b.apply op = if b.members = 0 then none else some { b with members := b.members - 1 }) ∧
  (∀ b : BarrierObj, b.flip = if b.members ≠ 0 ∧ b.arrived = b.members then ⟨b.members, 0, b.phase + 1, b.status <<< 16⟩ else b) ∧
  (∀ (s : State) th k va ph d src key pte, (s.thr th).park = .phase k va ph d src → (s.thr th).frozen = false → (s.thr th).walking = false → s.pollReach th k va = .at_ key pte →
    (let p := onePart key va pte 16 0 0; s.homeReady p = true ∧ s.homeCheck (s.newReq th src .load [p] false) p = .ok) →
    s.bad key 16 = false → ∃ t, exec (.barrierPoll th) s = .next t ∧
      ((s.barrierAt key).phase = ph → t.threads = s.threads ∧ s.bytesKept t) ∧
      ((s.barrierAt key).phase ≠ ph → s.onlyTh t th (fun x => { x with park := .over }) ∧ s.bytesKeptBut t th [sBytes d] ∧
        (t.getWs th).getS d = BitVec.ofNat 64 (s.rdN (key + 12) 4 / 65536))) ∧
  (∀ (s : State) th k va ph d src vpn, (s.thr th).park = .phase k va ph d src → (s.thr th).frozen = false → (s.thr th).walking = false →
    s.pollReach th k va = .walk vpn → exec (.barrierPoll th) s = .next (s.threadWalk th vpn))

/-- SPEC opens a speculation, ABORT discards its log and COMMIT parks until the thread's earlier accesses are performed
(R121, R122, R260); a store within one, scalar, vector or scattered, reaches no byte of memory. COMMIT's result is 3 after
ABORT, 2 after an overflow, 0 where a recorded version has moved, which all leave memory as it was, else 1, which alone writes the
log; the speculation then ends. A logged word of the own tile is written at once, one beyond it leaves as a request of its home, for
which COMMIT waits while no slot is free (R147), and its result is written once every such request is performed (R100); a home
performs all that it is sent in one step. Until ABORT or an overflow ends it, a speculation allows no versioned, full-word, atomic,
watching or barrier access, no SEND, SPAWN, RCALL, MIGR, PUSH or nested SPEC: each traps SPEC_LOG with the major opcode of its slot A
as INFO, before its address checks but for the context-0 check (log 35, DEDUCED from R205's stages). -/
def Obligations.Speculations : Prop :=
  (∀ (s : State) (z : BitVec 1) (d : BitVec 5),
    (s.me.speculates = false → ∃ t, exec (.spec z) s = .next t ∧ s.onlyThread t fun x => { x with spec := some ⟨[], [], [], false, false⟩ }) ∧
    (s.me.speculates = true → exec (.spec z) s = .next (s.raise ⟨8, cSpecLog, 0x35, none⟩)) ∧
    (s.me.spec.isSome = true →
      (∃ t, exec (.commit z d) s = .next t ∧ s.onlyThread t fun x => { x with park := .commit d s.issSrc }) ∧
      ∃ t, exec (.abort z) s = .next t ∧ s.onlyThread t fun x =>
        { x with spec := x.spec.map fun sp => { sp with log := [], reads := [], pages := [], aborted := true } }) ∧
    (s.me.spec = none → exec (.commit z d) s = .next (s.raise ⟨8, cIllegal, 7, none⟩) ∧
      exec (.abort z) s = .next (s.raise ⟨8, cIllegal, 7, none⟩))) ∧
  (∀ (s : State) (z : BitVec 1) (d a : BitVec 5) (i : BitVec 10) (v x : BitVec 4) (g : BitVec 3) (j : BitVec 8) (f : BitVec 4), s.me.spec.isSome = true →
    let logs := fun (i : Instr) => ∃ t, exec i s = .next t ∧ t = { s with threads := t.threads } ∧ ∀ th, th ≠ s.cur → t.thr th = s.thr th
    (∀ y ∈ [(Instr.stb z d a i, 1), (.sth z d a i, 2), (.stw z d a i, 4), (.std z d a i, 8)],
      ∀ key pte, s.reach (s.rS a + s.immS i) y.2 .store = .at_ key pte → logs y.1) ∧
    (∀ key pte, s.rP g ≠ 0 → s.reach (s.rS a + s.immS j) 64 (laneKind true (s.rP g)) = .at_ key pte → logs (.vst z v a g j)) ∧
    ∀ ps, s.src.vtag x = intTag (Fmt.size f) →
      s.elemReach .store (Fmt.size f) (s.rV v) (activeVas (s.rP g) (Fmt.size f) (s.idxVa a x (Fmt.size f))) = .ok ps → logs (.vsct z v a g f x)) ∧
  (∀ (s : State) th d src sp, (s.thr th).spec = some sp →
    let t := s.commitNow th d src
    let ends := fun (n : BitVec 64) => (t.thr th).park = .over ∧ (t.getWs th).getS d = n
    let held := ∀ x ∈ sp.reads, (s.tag x.1).ver = x.2
    (t.thr th).spec = none ∧ (sp.aborted = true → ends 3) ∧ (sp.aborted = false → sp.overflow = true → ends 2) ∧
    (sp.aborted = false → sp.overflow = false → ¬ held → ends 0) ∧
    (sp.aborted = true ∨ sp.overflow = true ∨ ¬ held → t = { s with threads := t.threads, ws := t.ws } ∧ s.bytesKeptBut t th [sBytes d]) ∧
    (sp.aborted = false → sp.overflow = false → held → s.earlier th (src.seq + 1) = [] → s.freshRid →
      (sp.log = [] → ends 1 ∧ s.bytesKeptBut t th [sBytes d]) ∧
      ∀ x, sp.log = [x] → let p := specPart sp.pages x
        p.alone = false → p.pte.getLsbD 10 = false → pageKey p.key = false →
        (isLocalKey (coreOfTh th) p.key = true → wsOf p.key = none → s.blockBusy th src [p] = false →
          s.homeCheck (s.newReq th src .commit [p] false) p = .ok →
          ends 1 ∧ ∀ j < 8, x.2.2.getLsbD j = true → t.rdByte (x.1 * 8 + j) = byteOf x.2.1 j) ∧
        (isLocalKey (coreOfTh th) p.key = false → s.slotsFull (coreOfTh th) = false → s.bytesKept t ∧ (t.thr th).park = .applied d src [] ∧
          ∃ r, t.net = s.net ++ [r] ∧ r.rid = s.nextRid ∧ r.th = th ∧ r.kind = .commit ∧ r.parts = [p] ∧ r.st = .inflight) ∧
        (isLocalKey (coreOfTh th) p.key = false → s.slotsFull (coreOfTh th) = true → s.bytesKept t ∧ t.net = s.net ∧
          (t.thr th).park = .applied d src [p]))) ∧
  (∀ (s : State) th d src, (s.thr th).park = .applied d src [] →
    (s.earlier th (src.seq + 1) = [] → ((s.wake th).thr th).park = .over ∧ ((s.wake th).getWs th).getS d = 1 ∧ s.bytesKeptBut (s.wake th) th [sBytes d]) ∧
    (s.earlier th (src.seq + 1) ≠ [] → ((s.wake th).thr th).park = .applied d src [] ∧ s.bytesKept (s.wake th))) ∧
  (∀ (s : State) rid r p ps, s.isDue rid r → r.kind = .commit → r.parts = p :: ps → s.homeCheck r p = .ok →
    (∀ q ∈ r.parts, s.homeReady q = true ∧ q.key < fabricBase ∧ pageKey q.key = false ∧ q.pte.getLsbD 10 = false ∧ s.mergeBad q.key q.len q.mask q.pte = false) →
    ∃ t, exec (.requestArrival rid 0) s = .next t ∧ (∀ q ∈ t.net, q.rid ≠ rid) ∧
      ∀ k, t.rdByte k = match writtenTo r.parts k with | some b => s.storedByte k b | none => s.rdByte k) ∧
  (∀ (s : State) (z : BitVec 1) (d a b e : BitVec 5) (n : BitVec 6) (i : BitVec 9) (j : BitVec 10) (w l y : BitVec 1) (p c v : BitVec 4) (m : BitVec 3),
    s.me.speculates = true → let traps := fun (i : Instr) (major : Nat) => exec i s = .next (s.raise ⟨8, cSpecLog, major, none⟩)
    (∀ x ∈ [(Instr.watch z d a, 0x2E), (.send z a b, 0x37), (.spawn z b a c l y i, 0x30), (.rcall z b a e v m, 0x31)], traps x.1 x.2) ∧
    (s.ctx0Trap (s.rS a + s.immS i) 4 (.word false) = none → traps (.ldv z d a n i) 0x28) ∧
    (s.ctx0Trap (s.rS a + s.immS j) 4 (.word false) = none → traps (.ldfe z d a j) 0x2A) ∧
    (∀ x ∈ [(Instr.stv z d a j, 0x29), (.stfe z d a j, 0x2B)], s.ctx0Trap (s.rS a + s.immS j) 4 (.word true) = none → traps x.1 x.2) ∧
    (s.ctx0Trap (s.rS a) (atomicSize w) .atomic = none →
      ∀ x ∈ [(Instr.amo z d a b w p, 0x2C), (.amoc z d a b w, 0x2C), (.red z a b w p, 0x2D)], traps x.1 x.2) ∧
    (s.ctx0Trap (s.rS a) 16 .atomic = none → s.iss.answer = none →
      ∀ x ∈ [Instr.gbar z d a, .gbard z a, .join z a, .leave z a], traps x 0x34) ∧
    (s.me.pos ≠ 15 → s.me.part = false → traps (.migr z a) 0x33) ∧
    ∀ q : BitVec 2, s.drives q.toNat = true → tcwAssigned (s.tcwAt a).op = true → tcwResOk (s.tcwAt a) = true →
      (tcwRounds (s.tcwAt a).op = true → (s.tcwAt a).rnd ≠ 7) → (tcwQueues (s.tcwAt a).op).contains q.toNat = true → tcwLimOk (s.tcwAt a) = true →
      traps (.push z a q) 0x38)

/-- SEND (R263) outside a speculation, to a position that its context may send to, is one request with the two registers,
held until every earlier access is performed, for which the thread's later writes wait too (R78, R81); it takes a request slot, and
without a free one its bundle stalls (R147); a number that names no core traps ACCESS reason 17, a core of another context 18, one without a route 22. RECV parks until its three registers have been written. At the receiver's
core a message joins the queue of a position that runs a thread of the sender's launch; a full queue refuses it, and
another launch's position fails it with PEER_GONE. -/
def Obligations.Messages : Prop :=
  (∀ (s : State) (z : BitVec 1) (a sa : BitVec 5), s.me.spec = none → namesCore ((s.rS a).toNat / 16) = true →
    s.me.ctx = 0 ∨ s.ownerOf ((s.rS a).toNat / 16) = some s.me.ctx.toNat →
    s.routable (dieOfCore s.lcore) (dieOfCore ((s.rS a).toNat / 16)) = true →
    (s.slotsFull s.lcore = true → exec (.send z a sa) s = .next s.stall) ∧ (s.slotsFull s.lcore = false → ∃ t, exec (.send z a sa) s = .next t ∧
      s.sends t (.send (s.rS a).toNat (s.tid s.cur) (s.rS sa) (s.rS (sa + 1))) [⟨padKey ((s.rS a).toNat / 16) 0, 0, 0, 0, 0, 0, 0, false⟩] true ∧
      t.me = { s.me with fences := t.me.fences } ∧ s.releases t)) ∧
  (∀ (s : State) (z : BitVec 1) (a sa : BitVec 5), s.me.spec = none → let l := (s.rS a).toNat / 16
    let traps := fun reason => exec (.send z a sa) s = .next (s.raise ⟨8, cAccess, reason, none⟩)
    (namesCore l = false → traps 17) ∧ (namesCore l = true → s.me.ctx ≠ 0 → s.ownerOf l ≠ some s.me.ctx.toNat → traps 18) ∧
    (namesCore l = true → s.me.ctx = 0 ∨ s.ownerOf l = some s.me.ctx.toNat → s.routable (dieOfCore s.lcore) (dieOfCore l) = false → traps 22)) ∧
  (∀ (s : State) (z : BitVec 1) (d : BitVec 5), ∃ t p, exec (.recv z d) s = .next t ∧
    s.onlyThread t (fun x => { x with pend := x.pend ++ [p], park := .recv }) ∧ p.kind = .recv ∧ p.ready = false ∧
      p.dests = [.s d.toNat, .s (d.toNat + 1), .s (d.toNat + 2)]) ∧
  (∀ (s : State) rid r tid sender x y p ps, s.isDue rid r → r.kind = .send tid sender x y → r.parts = p :: ps →
    (∀ q ∈ s.net, q.rid < rid → ∀ a b, q.kind ≠ .send tid sender a b) → s.homeCheck r p = .ok →
    ((∃ k ∈ s.threadsOn (tid / 16), (s.thr k).pos = tid % 16 ∧ (s.thr k).lid = r.lid) →
      (((s.core (tid / 16)).msgs.filter fun m => m.pos == tid % 16).length < 4 → ∃ t, exec (.sendArrival rid) s = .next t ∧
        t = { s with cores := t.cores, threads := t.threads, net := s.net.filter (fun q => q.rid != rid), packets := t.packets, nextPkt := t.nextPkt } ∧
        (∀ k, k ≠ r.th ∨ (∀ q ∈ (s.thr r.th).pend, q.rid ≠ some rid) → t.thr k = s.thr k) ∧ (∀ l, l ≠ tid / 16 → t.core l = s.core l) ∧
        t.core (tid / 16) = { s.core (tid / 16) with msgs := (s.core (tid / 16)).msgs ++ [⟨tid % 16, x, y, sender⟩] }) ∧
      (4 ≤ ((s.core (tid / 16)).msgs.filter fun m => m.pos == tid % 16).length → ∃ t q, exec (.sendArrival rid) s = .next t ∧
        t = { s with net := t.net, packets := t.packets, nextPkt := t.nextPkt } ∧ t.req rid = some q ∧ q.st = .refused ∧ q.refusals = r.refusals + 1)) ∧
    ((∀ k ∈ s.threadsOn (tid / 16), (s.thr k).pos = tid % 16 → (s.thr k).lid ≠ r.lid) →
      exec (.sendArrival rid) s = .next (s.failReq r 0x0C 0 none)))

/-- PMRG (R69, R261, R262) of a record in the core's own scratchpad that passes its checks, behind no earlier access to its
record and no fence that holds its write: FIRST at the end of its line answers with its own partial; FIRST with a next core
that its context may merge with sends its partial as a record to that core's in-box, after every earlier access, and rd
lands once it has been written; any other takes its own record as it stands and asks for its in-box, and once that is full the own
record takes the merge of the two, with VEC its vector O too, and the in-box is empty: at the end of the line its result is ready,
and with a next core the merged record leaves for that core's in-box. A record that reaches an empty in-box fills it, 128 bytes with
VEC. The merge is `combine`'s, which for m = +∞ takes the pseudocode of R69 and not its sentence (log 54, DESIGN CHOICE). An rs1 that is not a multiple of 128 traps
MISALIGNED with size code 7, any other that is refused as `recordKey` says, and an rs2 that names no core ACCESS reason 17. -/
def Obligations.MergesAlongLines : Prop :=
  (∀ (s : State) (z : BitVec 1) (d a b : BitVec 5) (v f : BitVec 1),
    (∀ tr, s.recordKey (s.rS a) = .error tr → exec (.pmrg z d a b v f) s = .next (s.raise tr)) ∧
    ((s.rS a).toNat % 128 ≠ 0 → s.recordKey (s.rS a) = .error ⟨8, cMisaligned, 7, some (s.rS a)⟩) ∧
    ∀ key, s.recordKey (s.rS a) = .ok key → s.rS b ≠ BitVec.allOnes 64 → namesCore (s.rS b).toNat = false →
      exec (.pmrg z d a b v f) s = .next (s.raise ⟨8, cAccess, 17, none⟩)) ∧
  (∀ (s : State) (z : BitVec 1) (d a b : BitVec 5) (v : BitVec 1) key, s.recordKey (s.rS a) = .ok key → s.rS b ≠ BitVec.allOnes 64 →
    let l := (s.rS b).toNat
    namesCore l = true → (isPort l = true → s.me.ctx = 0) → (s.me.ctx = 0 ∨ ∀ c, s.ownerOf l = some c → c = s.me.ctx.toNat) →
    s.routable (dieOfCore s.lcore) (dieOfCore l) = true → sameTile s.lcore l = true ∨ s.slotsFull s.lcore = false →
    s.blockBusy s.cur s.issSrc [onePart key (s.rS a) 0 256 0 0] = false → s.relHolds s.cur s.me.seq = false → s.bad key 128 = false →
    (∀ q ∈ s.net, q.isParked = false) → s.me.pend.all (fun p => p.rid != some s.nextRid) = true →
    (∃ t p r, exec (.pmrg z d a b v 1) s = .next t ∧ t.net = s.net ++ [r] ∧ r.rid = s.nextRid + 1 ∧ r.th = s.cur ∧ r.hold = true ∧ r.st = .inflight ∧
      r.kind = .inbox l (offOf key + 128) (leBytes (if v = 1 then 128 else 64) (recBytes (s.record key) (v == 1))) (v == 1) ∧
      (∃ q, r.parts = [q] ∧ q.key = padKey l (offOf key + 128)) ∧
      t.me.pend = s.me.pend ++ [p] ∧ p.rid = some (s.nextRid + 1) ∧ p.ready = false ∧ p.dests = [.s d.toNat] ∧
      p.writes = [.s d (BitVec.ofNat 64 (s.rdN key 4 + 2 ^ 32 * s.rdN (key + 4) 4))]) ∧
    ∃ t, exec (.pmrg z d a b v 0) s = .next t ∧
      s.sends t (.pmrg (s.rS b) (v == 1) (s.record key).toList) [onePart (key + 128) (s.rS a + 128) 0 4 0 0, onePart key (s.rS a) 0 128 0 0] false ∧
        s.expects t t.me.fences [.s d.toNat] ∧ s.releases t) ∧
  (∀ (s : State) (z : BitVec 1) (d a b : BitVec 5) (v : BitVec 1) key, s.recordKey (s.rS a) = .ok key → s.rS b = BitVec.allOnes 64 →
    s.blockBusy s.cur s.issSrc [onePart key (s.rS a) 0 256 0 0] = false → s.relHolds s.cur s.me.seq = false →
    s.bad key 128 = false → (∀ q ∈ s.net, q.isParked = false) → s.me.pend.all (fun p => p.rid != some s.nextRid) = true →
    (∃ t p, exec (.pmrg z d a b v 1) s = .next t ∧ t.me.pend = s.me.pend ++ [p] ∧ p.ready = true ∧ p.dests = [.s d.toNat] ∧
      p.writes = [.s d (BitVec.ofNat 64 (s.rdN key 4 + 2 ^ 32 * s.rdN (key + 4) 4))]) ∧
    ∃ t, exec (.pmrg z d a b v 0) s = .next t ∧
      s.sends t (.pmrg (s.rS b) (v == 1) (s.record key).toList) [onePart (key + 128) (s.rS a + 128) 0 4 0 0, onePart key (s.rS a) 0 128 0 0] false ∧
        s.expects t s.me.fences [.s d.toNat]) ∧
  (∀ (s : State) r p ps next vec own, r.kind = .pmrg next vec own → r.parts = p :: ps → 128 ≤ p.key → p.key < fabricBase → p.key % 128 = 0 →
    isPad p.key = true → wsOf p.key = none → wsOf (p.key - 128) = none → s.bad p.key 128 = false →
    own.length = 18 → (∀ x ∈ own, x < 2 ^ 32) → r.rid < s.nextRid →
    let q := combine (s.record p.key) (.ofList own)
    let t := s.serveFe r
    (t.tag (p.key / 4)).full = false ∧ t.rdN (p.key - 128) 4 = q.m % 2 ^ 32 ∧ t.rdN (p.key - 124) 4 = q.s % 2 ^ 32 ∧
      (vec = true → ∀ i < 16, t.rdN (p.key - 64 + 4 * i) 4 = q.o.getD i 0 % 2 ^ 32) ∧ (∀ x ∈ t.net, x.rid ≠ r.rid) ∧
      (next ≠ BitVec.allOnes 64 → ∃ x ∈ t.net, x.th = r.th ∧ x.hold = true ∧ x.st = .inflight ∧
        x.kind = .inbox next.toNat (offOf (p.key - 128) + 128) (leBytes (if vec = true then 128 else 64) (recBytes q vec)) vec ∧
        ∃ y, x.parts = [y] ∧ y.key = padKey next.toNat (offOf (p.key - 128) + 128))) ∧
  (∀ (s : State) rid r l off bytes vec p ps, s.isDue rid r → r.kind = .inbox l off bytes vec → r.parts = p :: ps → s.homeCheck r p = .ok →
    isHbm p.key = false → p.key < fabricBase → p.key % 128 = 0 → isPad p.key = true → p.pte = 0 → (s.tag (p.key / 4)).full = false →
    (∀ j < 128, fixedBits (p.key + j) = 0) → (∀ q ∈ s.net, q.isParked = false) → bytes.length = (if vec = true then 128 else 64) →
    ∃ t, exec (.inboxWrite rid) s = .next t ∧ (t.tag (p.key / 4)).full = true ∧ t.rdN p.key (if vec = true then 128 else 64) = leNat bytes)

/-- PUSH (R200, R264, R303) outside a speculation, of a command that passes its checks, to a queue with room: the command
joins the end of its queue, with its pusher's identity, and no other queue changes (PUSH is a release, R92); a full queue lets the bundle keep its
place; a failed check traps: a core that does not drive the queue with ILLEGAL reason 7 at the stage of roles, then an
operation that is not assigned with ILLEGAL reason 1. POP and EVPOP (R266, R268) wait for
an element; FSTAT writes the counts of queued, running and completed commands, and changes nothing else. A queue of the other column
(R161) traps ACCESS reason 20, and a core that does not drive a queue, or for EVPOP is no control core, ILLEGAL reason 7. -/
def Obligations.CommandQueues : Prop :=
  (∀ (s : State) (z : BitVec 1) (r : BitVec 5) (q : BitVec 2) (c : Cmd), s.me.spec = none → s.pushTrap (s.tcwAt r) q.toNat = none →
    c.w = s.tcwAt r → c.part = s.me.part →
    ((s.tile s.myT).pushFull q.toNat c.toEvq = true → exec (.push z r q) s = .next s.stall) ∧
    ((s.tile s.myT).pushFull q.toNat c.toEvq = false → ∃ t x, exec (.push z r q) s = .next t ∧
      t = { s with tiles := t.tiles, nextRid := s.nextRid + 1, ws := t.ws, threads := t.threads } ∧ t.me = { s.me with fences := t.me.fences } ∧
      (∀ k, k ≠ s.cur → t.thr k = s.thr k) ∧ s.releases t ∧ s.bytesKeptBut t s.cur [sbcntBytes] ∧
      (∀ k, k ≠ s.myT → t.tile k = s.tile k) ∧
      (t.tile s.myT).queues.toList.getD q.toNat [] = (s.tile s.myT).queues.toList.getD q.toNat [] ++ [x] ∧
      (∀ k, k ≠ q.toNat → (t.tile s.myT).queues.toList.getD k [] = (s.tile s.myT).queues.toList.getD k []) ∧
      x.w = s.tcwAt r ∧ x.th = s.cur ∧ x.ctx = s.me.ctx ∧ x.lid = s.me.lid ∧ x.seed = s.me.seed ∧ x.lcore = s.lcore ∧
      x.sbcnt = s.src.sbcnt ∧ x.cid = s.nextRid ∧ x.after = s.me.seq)) ∧
  (∀ (s : State) (z : BitVec 1) (r : BitVec 5) (q : BitVec 2),
    (s.drives q.toNat = false → exec (.push z r q) s = .next (s.raise ⟨3, cIllegal, 7, none⟩)) ∧
    (s.drives q.toNat = true → tcwAssigned (s.tcwAt r).op = false → exec (.push z r q) s = .next (s.raise ⟨7, cIllegal, 1, none⟩)) ∧
    ∀ tr, s.pushTrap (s.tcwAt r) q.toNat = some tr → exec (.push z r q) s = .next (s.raise tr)) ∧
  (∀ (s : State) (z : BitVec 1) (d : BitVec 5) (q : BitVec 2), s.drives q.toNat = true → s.me.barredQueue q.toNat = false →
    (∃ t p, exec (.pop z d q) s = .next t ∧ t = { s with nextRid := s.nextRid + 1, threads := t.threads } ∧
      s.onlyTh t s.cur (fun x => { x with pend := x.pend ++ [p] }) ∧ p.kind = .pop q.toNat ∧ p.ready = false ∧ p.dests = [.s d.toNat]) ∧
    ∃ t, exec (.fstat z d q) s = .next t ∧ s.onlyS t d (BitVec.ofNat 64
      (((s.tile s.myT).queues.toList.getD q.toNat []).length
        + (((s.tile s.myT).streams.countP fun x => x.cmd.q == q.toNat) + (s.tile s.myT).finished.countP fun x => x.cmd.q == q.toNat) * 2 ^ 8
        + ((s.tile s.myT).comp.toList.getD q.toNat []).length * 2 ^ 16))) ∧
  (∀ (s : State) (z : BitVec 1) (d : BitVec 5), isTileCore s.lcore = true → coreOf s.lcore = 0 →
    ∃ t p, exec (.evpop z d) s = .next t ∧ t = { s with nextRid := s.nextRid + 1, threads := t.threads } ∧
      s.onlyTh t s.cur (fun x => { x with pend := x.pend ++ [p] }) ∧ p.kind = .evpop ∧ p.ready = false ∧ p.dests = [.s d.toNat]) ∧
  (∀ (s : State) (z : BitVec 1) (d : BitVec 5) (q : BitVec 2), s.drives q.toNat = false →
    exec (.pop z d q) s = .next (s.raise ⟨3, cIllegal, 7, none⟩) ∧ exec (.fstat z d q) s = .next (s.raise ⟨3, cIllegal, 7, none⟩)) ∧
  (∀ (s : State) (z : BitVec 1) (d : BitVec 5) (q : BitVec 2), s.drives q.toNat = true → s.me.barredQueue q.toNat = true →
    ∀ i ∈ [Instr.pop z d q, .fstat z d q], exec i s = .next (s.raise ⟨8, cAccess, 20, none⟩)) ∧
  (∀ (s : State) (z : BitVec 1) (d : BitVec 5), isTileCore s.lcore = false ∨ coreOf s.lcore ≠ 0 →
    exec (.evpop z d) s = .next (s.raise ⟨3, cIllegal, 7, none⟩))

/-- SEMP (R267) on a count above 0 that nobody waits for takes 1 from it, and else waits behind those that wait; SEMV holds
its bundle at issue, and at the tile's page the first waiter goes on, or the count rises by 1; 0xFFFFFFFF fails the SEMV.
HGET (R268) reads a bin of the histogram, ZCNT or SPCNT, HCLR sets all of them to 0, on the conversion core alone: on any other, as
SEMP and SEMV on a core that no tile holds, they trap ILLEGAL reason 7. A semaphore, or the histogram, of the other column (R161)
traps ACCESS reason 20. -/
def Obligations.SemaphoresAndCounts : Prop :=
  (∀ (s : State) (z : BitVec 1) (n : BitVec 4), isTileCore s.lcore = true → s.me.barredIndex n.toNat = false →
    ((s.tile s.myT).sem[n.toNat]'n.isLt ≠ 0 → (∀ x ∈ (s.tile s.myT).semq, x.2 ≠ n.toNat) → ∃ t, exec (.semp z n) s = .next t ∧
      t = { s with tiles := t.tiles } ∧ (∀ k, k ≠ s.myT → t.tile k = s.tile k) ∧
      t.tile s.myT = { s.tile s.myT with sem := (s.tile s.myT).sem.set n.toNat ((s.tile s.myT).sem[n.toNat]'n.isLt - 1) n.isLt }) ∧
    ((s.tile s.myT).sem[n.toNat]'n.isLt = 0 ∨ (∃ x ∈ (s.tile s.myT).semq, x.2 = n.toNat) → ∃ t, exec (.semp z n) s = .next t ∧ t = { s with tiles := t.tiles, threads := t.threads } ∧
      t.tile s.myT = { s.tile s.myT with semq := (s.tile s.myT).semq ++ [(s.cur, n.toNat)] } ∧
      s.onlyTh t s.cur fun x => { x with park := .semp n.toNat }) ∧
    (s.iss.answer = none →
      let ps := [onePart (spaceKey s.myT 4 (0x200 + 4 * n.toNat)) 0 0 4 0 0]
      s.noSlot ps = false → ∃ t, exec (.semv z n) s = .next t ∧ s.holdsAt t (.semv n.toNat) ps true)) ∧
  (∀ (s : State) (z : BitVec 1) (n : BitVec 4) x, s.iss.answer = some x → x.fail = none → exec (.semv z n) s = .next s) ∧
  (∀ (s : State) (z : BitVec 1) (n : BitVec 4) (d a : BitVec 5), s.iss.answer = none →
    let role := fun i => exec i s = .next (s.raise ⟨3, cIllegal, 7, none⟩)
    let column := fun i => exec i s = .next (s.raise ⟨8, cAccess, 20, none⟩)
    (isTileCore s.lcore = false → role (.semp z n) ∧ role (.semv z n)) ∧
    (isTileCore s.lcore = true → s.me.barredIndex n.toNat = true → column (.semp z n) ∧ column (.semv z n)) ∧
    (isTileCore s.lcore = false ∨ coreOf s.lcore ≠ 2 → role (.hget z d a) ∧ role (.hclr z)) ∧
    (isTileCore s.lcore = true → coreOf s.lcore = 2 → s.me.part = true → ((s.rS a).toNat ≤ 65 → column (.hget z d a)) ∧ column (.hclr z))) ∧
  (∀ (s : State) rid r (n : BitVec 4) p, s.isDue rid r → s.holds r = true → r.kind = .semv n.toNat → r.parts = [p] → isHbm p.key = false → p.key < fabricBase →
    s.homeCheck r p = .ok →
    let u := s.tile (tOf r.lcore)
    (u.sem[n.toNat]'n.isLt = 0xFFFFFFFF → exec (.requestArrival rid 0) s = .next (s.failReq r cIllegal 7 none)) ∧
    (u.sem[n.toNat]'n.isLt ≠ 0xFFFFFFFF → (∀ x ∈ u.semq, x.2 ≠ n.toNat) → ∃ t, exec (.requestArrival rid 0) s = .next t ∧
      (t.tile (tOf r.lcore)).sem[n.toNat]'n.isLt = u.sem[n.toNat]'n.isLt + 1 ∧ t.threads = s.threads) ∧
    (∀ w ws, u.sem[n.toNat]'n.isLt ≠ 0xFFFFFFFF → u.semq = (w, n.toNat) :: ws → w ≠ r.th → ∃ t, exec (.requestArrival rid 0) s = .next t ∧
      (t.tile (tOf r.lcore)).sem = u.sem ∧ (t.tile (tOf r.lcore)).semq = ws ∧ s.onlyTh t w fun x => { x with park := .over })) ∧
  (∀ (s : State) (z : BitVec 1) (d a : BitVec 5), isTileCore s.lcore = true → coreOf s.lcore = 2 → s.me.part = false →
    ((s.rS a).toNat ≤ 65 → ∃ t, exec (.hget z d a) s = .next t ∧ s.onlyS t d
      (if h : (s.rS a).toNat < 64 then ((s.tile s.myT).hist[(s.rS a).toNat]).setWidth 64
       else if (s.rS a).toNat = 64 then (s.tile s.myT).zcnt.setWidth 64 else (s.tile s.myT).spcnt.setWidth 64)) ∧
    (65 < (s.rS a).toNat → exec (.hget z d a) s = .next (s.raise ⟨7, cIllegal, 7, none⟩)) ∧
    ∃ t, exec (.hclr z) s = .next t ∧ t = { s with tiles := t.tiles } ∧ (∀ k, k ≠ s.myT → t.tile k = s.tile k) ∧
      t.tile s.myT = { s.tile s.myT with hist := Vector.replicate 64 0, zcnt := 0, spcnt := 0 })

/-! ## Control registers, traps, the supervisor, drain and scan (R166 to R173, R182 to R187, R224 to R237) -/

/-- CSRR (R224) writes into rd the value of each control register, FLAGS without its reserved bit (R5, R47) and TICK from step 5
of DAWN on (`State.tickCount`), and changes nothing else; CSRW writes the register and
no other byte, FLAGS without its reserved bit (R47), and traps ILLEGAL reason 6 for a MODE of 6 or 7 (R41); SBSR (R233)
exchanges rs1 with SBCNT. -/
def Obligations.ControlRegisters : Prop :=
  (∀ (s : State) (z : BitVec 1) (d : BitVec 5),
    ∀ x ∈ [(0, BitVec.ofNat 64 (2048 * winOfTh s.cur)), (1, (s.src.trap.extractLsb' 96 48).setWidth 64),
      (2, (s.src.trap.extractLsb' 8 8).setWidth 64), (3, (s.src.trap.extractLsb' 22 16 ++ s.src.trap.extractLsb' 48 48)),
      (4, ((s.src.getT 1).setWidth 15 &&& (0x7F7F : BitVec 15)).setWidth 64), (5, BitVec.ofNat 64 (fld (s.src.getT 1).toNat 16 3)), (6, s.me.seed),
      (7, s.src.getT 6), (8, BitVec.ofNat 64 s.lcore), (9, s.me.ctx.setWidth 64),
      (10, BitVec.ofNat 64 (s.me.cls.toNat + if s.me.part then 4 else 0)), (11, 512), (12, BitVec.ofNat 64 s.tickCount),
      (13, BitVec.ofNat 64 (fld (s.src.getT 1).toNat 32 16)), (14, BitVec.ofNat 64 (fld (s.src.getT 2).toNat 0 32)),
      (15, BitVec.ofNat 64 (fld (s.src.getT 7).toNat 0 16))],
      ∃ t, exec (.csrr z d x.1) s = .next t ∧ s.onlyS t d x.2) ∧
  (∀ (s : State) (z : BitVec 1) (a : BitVec 5),
    (∃ t, exec (.csrw z a 4) s = .next t ∧ t.live.flags = (s.rS a).setWidth 15 &&& 0x7F7F ∧ s.onlyBytes t [flagBytes]) ∧
    ((s.rS a).toNat % 8 < 6 → ∃ t, exec (.csrw z a 5) s = .next t ∧ t.live.mode = (s.rS a).toNat % 8 ∧ s.onlyBytes t [(330, 1)]) ∧
    (6 ≤ (s.rS a).toNat % 8 → exec (.csrw z a 5) s = .next (s.raise ⟨7, cIllegal, 6, none⟩)) ∧
    (∃ t, exec (.csrw z a 7) s = .next t ∧ t.live.sbcnt = s.rS a ∧ s.onlyBytes t [sbcntBytes]) ∧
    (∃ t, exec (.csrw z a 13) s = .next t ∧ t.live.retryLim = max 1 ((s.rS a).toNat % 2 ^ 16) ∧ s.onlyBytes t [(332, 2)]) ∧
    (∃ t, exec (.csrw z a 14) s = .next t ∧ t.live.rcTimeout = max 1 ((s.rS a).toNat % 2 ^ 32) ∧ s.onlyBytes t [(336, 4)]) ∧
    (∃ t, exec (.csrw z a 15) s = .next t ∧ t.live.exst = (s.rS a).setWidth 16 ∧ s.onlyBytes t [(376, 2)]) ∧
    ∀ d, ∃ t, exec (.sbsr z d a) s = .next t ∧ t.live.getS d = s.src.sbcnt ∧ t.live.sbcnt = s.rS a ∧ s.onlyBytes t [sBytes d, sbcntBytes])

/-- R232 whole: VWID writes the lanes of a size of 1, 2 or 4 bytes, 64, 32 and 16 of them, and for 0 the width of 64 bytes;
any other ARG is refused as ILLEGAL reason 7 when its word is decoded; the word of `VWID s4, 4`; RDTK writes TICK. -/
def Obligations.LanesAndTicks : Prop :=
  (∀ (s : State) (z : BitVec 1) (d : BitVec 5), ∀ x ∈ [((0 : BitVec 10), 64), (1, 64), (2, 32), (4, 16)],
    ∃ t, exec (.vwid z d x.1) s = .next t ∧ s.onlyS t d (BitVec.ofNat 64 x.2)) ∧
  (∀ (d : BitVec 5) (c : BitVec 10), c ∉ [0, 1, 2, 4] →
    ∃ e, decodeA (0x7A001C00 + d.toNat * 2 ^ 20 + c.toNat) = .error e ∧ e.reason = 7) ∧
  decodeA 0x7A401C04 = .ok (.vwid 0 4 4) ∧
  (∀ (s : State) (z : BitVec 1) (d : BitVec 5), ∃ t, exec (.rdtk z d) s = .next t ∧ s.onlyS t d (BitVec.ofNat 64 s.tickCount))

/-- A thread that is no callee takes a trap (R167, R169, R172): the record of 32 bytes, PC at the resume address, the
thread parked trapped and no other byte of memory changed; an ordinary thread's trap joins its core's queue, and a
supervisor's puts the core's ordinary threads under the system freeze and is logged as SUPERVISOR. A callee ends, and its
caller is sent a fault record (R173); so does a callee that issues a form outside the remote subset, with REMOTE_SUBSET; any other thread of a stack core that
issues one ends (R8; that it takes no record is the model's reading, log 31). -/
def Obligations.TrapsTaken : Prop :=
  (∀ (s : State) th (f : Failure) (defer : Bool) (pc : BitVec 48) (inRep : Bool), (s.thr th).caller = none →
    let t := s.takeTrap th f defer pc inRep
    let r := (t.getWs th).trap
    (r.extractLsb' 192 64 = f.src.bundle ∧ r.extractLsb' 144 48 = f.va.getD 0 ∧ r.extractLsb' 96 48 = pc ∧
      r.extractLsb' 48 48 = f.src.pc ∧ r.extractLsb' 22 26 = f.info ∧ r.extractLsb' 16 6 = (s.thr th).ctx ∧
      r.extractLsb' 8 8 = f.cause ∧ r.extractLsb' 4 4 = BitVec.ofNat 4 (s.thr th).pos ∧ r.getLsbD 3 = defer ∧
      r.getLsbD 2 = f.src.slotB ∧ r.getLsbD 1 = f.va.isSome ∧ r.getLsbD 0 = inRep) ∧
    (t.getWs th).pc = pc ∧ s.bytesKeptBut t th [pcBytes, (1952, 32)] ∧
    t.thr th = { s.thr th with trapped := true, rte := none, park := .none, settle := false, walk := .none } ∧
    ((s.thr th).pos ≠ 15 → (∀ k, k ≠ th → t.thr k = s.thr k) ∧ (t.core (coreOfTh th)).trapq = (s.core (coreOfTh th)).trapq ++
      [BitVec.ofNat 64 (2048 * winOfTh th + (s.thr th).pos % 16 * 2 ^ 16 + f.cause.toNat * 2 ^ 20)]) ∧
    ((s.thr th).pos = 15 → (∀ k ∈ s.threadsOn (coreOfTh th), (s.thr k).pos ≠ 15 → (t.thr k).sfrz = true) ∧
      (coreOfTh th < 2 ^ 16 → (s.port (portOf (coreOfTh th))).errlog.length < 64 → (t.port (portOf (coreOfTh th))).errlog =
        (s.port (portOf (coreOfTh th))).errlog ++
          [BitVec.ofNat 64 (2 ^ 63 + 0x08 * 2 ^ 56 + (s.thr th).ctx.toNat * 2 ^ 50 + coreOfTh th * 2 ^ 32 + f.cause.toNat)]))) ∧
  (∀ (s : State) th (f : Failure) (defer : Bool) (pc : BitVec 48) (inRep : Bool) c, (s.thr th).caller = some c →
    let t := s.takeTrap th f defer pc inRep
    t.thr th = Thread.none ∧ ∃ r ∈ t.net, r.rid = s.nextRid ∧ r.parts = [] ∧ r.st = .inflight ∧
      r.kind = .faultRec c.th c.rid f.cause (coreOfTh th) f.va) ∧
  (∀ (s : State) (b : Bundle) c, s.me.caller = some c → (remoteNo b.a || remoteNo b.b) = true →
    let t := (s.issueDecoded b).1
    t.thr s.cur = Thread.none ∧ ∃ r ∈ t.net, r.rid = s.nextRid ∧ r.kind = .faultRec c.th c.rid 0x0B s.lcore none) ∧
  (∀ (s : State) (b : Bundle), s.me.caller = none → isStack s.lcore = true → (remoteNo b.a || remoteNo b.b) = true →
    (s.issueDecoded b).1.thr s.cur = Thread.none ∧ (s.issueDecoded b).1.ws = s.ws)

/-- TRAP and BRK (R228) of a thread that is no callee trap at their own bundle, SOFTWARE and BREAK, with the code as INFO
and PC and SRCPC at the bundle. RTE's modes (R170): a resumed thread stands at its record's PC; mode 3 skips its bundle;
mode 1 empties slot A and mode 2 slot B, where that is not IMM32. -/
def Obligations.TrapsAndReturns : Prop :=
  (∀ (s : State) (z : BitVec 1) (c : BitVec 10), s.me.caller = none → ∀ x ∈ [(Instr.trap z c, (0x14 : BitVec 8)), (.brk z c, 0x13)],
    ∃ t, exec x.1 s = .next t ∧ t.me.trapped = true ∧ t.live.pc = s.iss.pc ∧ s.bytesKeptBut t s.cur [pcBytes, (1952, 32)] ∧
      t.live.trap.extractLsb' 8 8 = x.2 ∧ t.live.trap.extractLsb' 22 26 = c.setWidth 26 ∧ t.live.trap.extractLsb' 96 48 = s.iss.pc ∧
      t.live.trap.extractLsb' 48 48 = s.iss.pc ∧ t.live.trap.extractLsb' 192 64 = s.iss.bundle ∧ t.live.trap.getLsbD 3 = false) ∧
  (∀ (s : State) th, ((s.leaveTrap th).thr th) = { s.thr th with trapped := false } ∧ s.bytesKeptBut (s.leaveTrap th) th [pcBytes] ∧
    ((s.leaveTrap th).getWs th).pc = if (s.getWs th).trap.getLsbD 0 && (s.getWs th).repAct then (s.getWs th).repPc
      else (s.getWs th).trap.extractLsb' 96 48) ∧
  (∀ (s : State) th, (s.thr th).trapped = true → (s.thr th).rte = some 3 → (s.thr th).held = [] → (s.getWs th).repAct = false →
    let t := (s.ownTurn th).1
    (t.getWs th).pc = (s.getWs th).trap.extractLsb' 96 48 + 8 ∧ t.thr th = { s.thr th with trapped := false, rte := none } ∧
      s.bytesKeptBut t th [pcBytes]) ∧
  (∀ m < 2 ^ 64, modeWord 0 m = m ∧ fld (modeWord 1 m) 32 31 = 0 ∧ fld (modeWord 1 m) 0 32 = fld m 0 32 ∧
    (fld m 26 6 ≠ 0x3E → fld (modeWord 2 m) 32 32 = fld m 32 32 ∧ fld (modeWord 2 m) 0 32 = 0) ∧
    (fld m 26 6 = 0x3E → modeWord 2 m = m))

/-- RTE, FRZ and THAW (R171, R227, R230) by context 0 on another ordinary position: 1, with the effect at the position's next
turn, on a trapped thread, on one that FRZ has not frozen, on one that it has; else 0 and nothing; a FRZ or THAW acts as the
position's turn comes round. Another context traps ACCESS reason 19,
and any other position ILLEGAL reason 7. IDLE (R169, R229) takes the oldest entry of the core's trap queue, or parks.
SLOTQ (R231) writes the state of the thread in a position, 0 for an empty one, and OCC alone of another context's. -/
def Obligations.SupervisorForms : Prop :=
  (∀ (s : State) (z : BitVec 1) (d a : BitVec 5) (m : BitVec 2), s.me.ctx = 0 → (s.rS a).toNat < 15 → (s.rS a).toNat ≠ s.me.pos →
    (∀ th, s.threadAt s.lcore (s.rS a).toNat = some th →
      ((s.thr th).trapped = true → (recPc (s.getWs th).trap).toNat % 8 = 0 → ∃ t, exec (.rte z d a m) s = .next t ∧
        t = { s with ws := t.ws, threads := t.threads } ∧ t.live.getS d = 1 ∧ s.bytesKeptBut t s.cur [sBytes d] ∧
        s.onlyTh t th fun x => { x with rte := some m }) ∧
      ((s.thr th).trapped = true → (recPc (s.getWs th).trap).toNat % 8 ≠ 0 → exec (.rte z d a m) s =
        .next (s.raise ⟨8, cMisaligned, 3, some ((recPc (s.getWs th).trap).setWidth 64)⟩)) ∧
      ((s.thr th).trapped = false → ∃ t, exec (.rte z d a m) s = .next t ∧ s.onlyS t d 0) ∧
      ((s.thr th).frzNext = false → (∃ t, exec (.frz z d a) s = .next t ∧ t = { s with ws := t.ws, threads := t.threads } ∧
        t.live.getS d = 1 ∧ s.bytesKeptBut t s.cur [sBytes d] ∧ s.onlyTh t th fun x => { x with frzTo := some true }) ∧
        ∃ t, exec (.thaw z d a) s = .next t ∧ s.onlyS t d 0) ∧
      ((s.thr th).frzNext = true → (∃ t, exec (.thaw z d a) s = .next t ∧ t = { s with ws := t.ws, threads := t.threads } ∧
        t.live.getS d = 1 ∧ s.bytesKeptBut t s.cur [sBytes d] ∧ s.onlyTh t th fun x => { x with frzTo := some false }) ∧
        ∃ t, exec (.frz z d a) s = .next t ∧ s.onlyS t d 0)) ∧
    (s.threadAt s.lcore (s.rS a).toNat = none →
      ∀ i ∈ [Instr.rte z d a m, .frz z d a, .thaw z d a], ∃ t, exec i s = .next t ∧ s.onlyS t d 0)) ∧
  (∀ (s : State) l p, (∀ th ∈ s.threadsOn l, (s.thr th).pos = p → ((s.freezeTurn l p).thr th).frz = (s.thr th).frzNext ∧
      ((s.freezeTurn l p).thr th).frzNext = (s.thr th).frzNext ∧
      (((s.freezeTurn l p).thr th).stopped = true ↔ (s.thr th).frzNext = true ∨ (s.thr th).pfrz = true ∨ (s.thr th).sfrz = true)) ∧
    (∀ th, th ∉ s.threadsOn l ∨ (s.thr th).pos ≠ p → (s.freezeTurn l p).thr th = s.thr th) ∧
    s.freezeTurn l p = { s with threads := (s.freezeTurn l p).threads }) ∧
  (∀ (s : State) (z : BitVec 1) (d a : BitVec 5) (m : BitVec 2),
    (s.me.ctx ≠ 0 → ∀ i ∈ [Instr.rte z d a m, .frz z d a, .thaw z d a, .idle z d], exec i s = .next (s.raise ⟨4, cAccess, 19, none⟩)) ∧
    (s.me.ctx = 0 → 15 ≤ (s.rS a).toNat ∨ (s.rS a).toNat = s.me.pos →
      ∀ i ∈ [Instr.rte z d a m, .frz z d a, .thaw z d a], exec i s = .next (s.raise ⟨7, cIllegal, 7, none⟩)) ∧
    (s.me.ctx = 0 → s.me.pos ≠ 15 → exec (.idle z d) s = .next (s.raise ⟨7, cIllegal, 7, none⟩)) ∧
    (s.me.ctx = 0 → s.me.pos = 15 →
      (∀ e es, (s.core s.lcore).trapq = e :: es → ∃ t, exec (.idle z d) s = .next t ∧ t.live.getS d = e ∧
        t.core s.lcore = { s.core s.lcore with trapq := es } ∧ s.bytesKeptBut t s.cur [sBytes d] ∧
        t = { s with ws := t.ws, threads := t.threads, cores := t.cores } ∧ s.onlyTh t s.cur fun x => { x with park := .none }) ∧
      ((s.core s.lcore).trapq = [] → ∃ t, exec (.idle z d) s = .next t ∧ s.onlyThread t fun x => { x with park := .idle d }))) ∧
  (∀ (s : State) (z : BitVec 1) (d a : BitVec 5),
    (15 < (s.rS a).toNat → exec (.slotq z d a) s = .next (s.raise ⟨7, cIllegal, 7, none⟩)) ∧
    ((s.rS a).toNat ≤ 15 → s.threadAt s.lcore (s.rS a).toNat = none → ∃ t, exec (.slotq z d a) s = .next t ∧ s.onlyS t d 0) ∧
    ∀ th, (s.rS a).toNat ≤ 15 → s.threadAt s.lcore (s.rS a).toNat = some th →
      (s.me.ctx ≠ 0 → (s.thr th).ctx ≠ s.me.ctx → ∃ t, exec (.slotq z d a) s = .next t ∧ s.onlyS t d 1) ∧
      (s.me.ctx = 0 ∨ (s.thr th).ctx = s.me.ctx → ∃ t x, exec (.slotq z d a) s = .next t ∧ s.onlyS t d x ∧
        x.extractLsb' 48 16 = 0 ∧ x.extractLsb' 32 16 = BitVec.ofNat 16 (2048 * winOfTh th) ∧
        x.extractLsb' 24 6 = BitVec.ofNat 6 (s.slotsOf th) ∧ x.extractLsb' 16 6 = (s.thr th).ctx ∧ x.extractLsb' 11 5 = 0 ∧
        x.getLsbD 10 = (s.thr th).sfrz ∧ x.getLsbD 9 = ((s.thr th).held != []) ∧ x.getLsbD 8 = (s.getWs th).lend ∧
        x.getLsbD 7 = (s.getWs th).inl ∧ x.getLsbD 6 = ((s.thr th).pend != []) ∧ x.getLsbD 5 = (s.thr th).speculates ∧
        x.getLsbD 4 = (s.thr th).pfrz ∧ x.getLsbD 3 = (s.thr th).frz ∧ x.getLsbD 2 = (s.thr th).trapped ∧
        x.getLsbD 1 = (((s.thr th).park != .none && (s.thr th).park != .over) || ((s.thr th).settle && !s.settled th)) ∧ x.getLsbD 0 = true))

/-- DUSK, LCMW and SCAN by context 0 (R182, R184, R186, R234 to R237). DUSK with mode 1 on a tile that is not drained, and
not the own one, starts a drain: its ordinary threads freeze, and the result comes with the drain's end; on a tile that is draining it waits for that end
too, and a drained one answers 1. DUSK with mode 0 releases a drained tile with 0, and answers 2 under scan and 1 in any other state.
SCAN of a drained tile's core starts a scan, and answers 2 otherwise. LCMW holds its bundle at issue for one request to the
map, and its second issue answers the former slot. Each of them traps ACCESS reason 19 in another context. That the tile drains, and
its threads are under the freeze, in the step of the DUSK itself is the model's choice (log 38). -/
def Obligations.DrainAndScanForms : Prop :=
  (∀ (s : State) (z : BitVec 1) (d a : BitVec 5), s.me.ctx = 0 → (s.rS a).toNat ≤ 6143 → (isTileCore s.lcore = true → (s.rS a).toNat ≠ s.myT) →
    let x := (s.rS a).toNat
    ((s.tile x).drain = .no → ∃ t p, exec (.duskDrain z d a) s = .next t ∧ (t.tile x).drain = .draining [(s.cur, s.me.seq)] ∧
      (∀ k ∈ s.tileThreads x, (s.thr k).pos ≠ 15 → (t.thr k).sfrz = true) ∧ t.me.pend = s.me.pend ++ [p] ∧ p.ready = false ∧
      p.dests = [.s d.toNat] ∧ t = { s with threads := t.threads, tiles := t.tiles, net := t.net }) ∧
    (∀ l, (s.tile x).drain = .draining l → ∃ t p, exec (.duskDrain z d a) s = .next t ∧
      t.tile x = { s.tile x with drain := .draining (l ++ [(s.cur, s.me.seq)]) } ∧ p.ready = false ∧ p.dests = [.s d.toNat] ∧
      s.onlyTh t s.cur (fun q => { q with pend := q.pend ++ [p] }) ∧ t = { s with threads := t.threads, tiles := t.tiles }) ∧
    ((s.tile x).drain = .drained → ∃ t, exec (.duskDrain z d a) s = .next t ∧ s.answersSoon t d 1) ∧
    ((s.tile x).scan.isSome = true → ∃ t, exec (.duskRelease z d a) s = .next t ∧ s.answersSoon t d 2) ∧
    ((s.tile x).scan = none → (s.tile x).drain = .drained → ∃ t, exec (.duskRelease z d a) s = .next t ∧
      t.tile x = { s.tile x with drain := .no } ∧ (∀ k ∈ s.tileThreads x, (t.thr k).sfrz = false) ∧
      t.me.pend = s.me.pend ++ [⟨s.issSrc, .value, none, true, [.s d.toNat], [.s d 0], 0, none⟩] ∧
      t = { s with threads := t.threads, tiles := t.tiles, net := t.net }) ∧
    ((s.tile x).scan = none → (s.tile x).drain ≠ .drained → ∃ t, exec (.duskRelease z d a) s = .next t ∧ s.answersSoon t d 1)) ∧
  (∀ (s : State) (z : BitVec 1) (d a b : BitVec 5), s.me.ctx = 0 → (s.rS a).toNat ≤ 6143 → s.iss.answer = none →
    let home := padKey (portOfGroup ((s.rS a).toNat / 128 * 16)) 0 + 5 * 2 ^ 26
    let ps := [onePart home (BitVec.ofNat 64 home) 0 2 0 0]
    s.noSlot ps = false → ∃ t, exec (.lcmw z d a b) s = .next t ∧ s.holdsAt t (.lcmw (s.rS a).toNat (s.rS b).toNat) ps false) ∧
  (∀ (s : State) (z : BitVec 1) (d a b : BitVec 5) x, s.iss.answer = some x → x.fail = none →
    ∃ t, exec (.lcmw z d a b) s = .next t ∧ s.answersSoon t d x.value) ∧
  (∀ (s : State) (z : BitVec 1) (d a : BitVec 5), s.me.ctx = 0 → isTileCore (s.rS a).toNat = true →
    let x := tOf (s.rS a).toNat
    ((s.tile x).drain = .drained → (s.tile x).scan = none → ∃ t p c, exec (.scan z d a) s = .next t ∧ (t.tile x).scan = some c ∧
      c.core = (s.rS a).toNat ∧ c.slot = s.slotOf x ∧ c.block = 0 ∧ c.startedAt = s.tick ∧ s.onlyTh t s.cur (fun q => { q with pend := q.pend ++ [p] }) ∧
      p.ready = false ∧ p.dests = [.s d.toNat] ∧ t = { s with threads := t.threads, tiles := t.tiles }) ∧
    ((s.tile x).drain ≠ .drained ∨ (s.tile x).scan.isSome = true → ∃ t, exec (.scan z d a) s = .next t ∧ s.answersSoon t d 2)) ∧
  (∀ (s : State) (z : BitVec 1) (d a b : BitVec 5), s.me.ctx ≠ 0 →
    (∀ i ∈ [Instr.duskDrain z d a, .duskRelease z d a, .scan z d a], exec i s = .next (s.raise ⟨4, cAccess, 19, none⟩)) ∧
    (s.iss.answer = none → exec (.lcmw z d a b) s = .next (s.raise ⟨4, cAccess, 19, none⟩)))

/-! ## Vectors, predicates, special functions, directions (R23, R37 to R63, R269 to R299) -/

/-- VADD, VSUB, VMUL, VFMA, VFMS, VMIN, VMAX, VABS and VNEG (R272 to R274), of sources that carry FMT: integers exactly,
modulo 2^w or saturated, natural or signed by OPT; floats by the format's operation with one rounding (R40, R51), its
chunks (R44) and its flags (R48). A source with another tag traps FORMAT_MISMATCH (R38); that the record names the first such source,
vs1 before the others, is the model's choice (log 54, R38). -/
def Obligations.VectorArithmetic : Prop :=
  (∀ (s : State) (d a b : BitVec 4) (g : BitVec 3) (f : BitVec 4) (r : BitVec 3) (p : BitVec 4), s.src.vtag a = f → s.src.vtag b = f →
    let e := Fmt.size f
    let w := 8 * e
    let md := if r = 6 then s.src.mode else r.toNat
    let x := fun i => elemN (s.rV a) e i
    let y := fun i => elemN (s.rV b) e i
    (Fmt.isFloat f = false →
      ∀ q ∈ [(Instr.vadd d a b g f r p, fun (u v : Int) => u + v), (.vsub d a b g f r p, fun u v => u - v), (.vmul d a b g f r p, fun u v => u * v)],
        s.elementWise q.1 d g e f md fun i =>
          let n := q.2 (elInt w (p.getLsbD 1) (x i)) (elInt w (p.getLsbD 1) (y i))
          (elBits w (if p.getLsbD 0 then elSat w (p.getLsbD 1) n else n), 0)) ∧
    (Fmt.isFloat f = true →
      (∀ q ∈ [(Instr.vadd d a b g f r p, FF.add), (.vsub d a b g f r p, FF.sub), (.vmul d a b g f r p, FF.mul)],
        s.elementWise q.1 d g e f md fun i => q.2 (ffOf f) md (s.chunkIf md i) (x i) (y i)) ∧
      (s.src.vtag d = f → ∀ q ∈ [(Instr.vfma d a b g f r p, FF.fma), (.vfms d a b g f r p, FF.fms)],
        s.elementWise q.1 d g e f md fun i => q.2 (ffOf f) md (s.chunkIf md i) (x i) (y i) (elemN (s.rV d) e i)))) ∧
  (∀ (s : State) (d a b : BitVec 4) (g : BitVec 3) (f : BitVec 4) (p : BitVec 7), s.src.vtag a = f →
    let e := Fmt.size f
    let w := 8 * e
    let x := fun i => elemN (s.rV a) e i
    let y := fun i => elemN (s.rV b) e i
    let u := fun i => elInt w (p.getLsbD 1) (x i)
    let v := fun i => elInt w (p.getLsbD 1) (y i)
    (Fmt.isFloat f = false →
      (s.src.vtag b = f → s.elementWise (.vmin d a b g f p) d g e f 0 (fun i => (elBits w (Min.min (u i) (v i)), 0)) ∧
        s.elementWise (.vmax d a b g f p) d g e f 0 fun i => (elBits w (Max.max (u i) (v i)), 0)) ∧
      s.elementWise (.vabs d a g f p) d g e f 0 (fun i =>
        (elBits w (if p.getLsbD 0 then elSat w false (elInt w false (x i)).natAbs else (elInt w false (x i)).natAbs), 0)) ∧
      s.elementWise (.vneg d a g f p) d g e f 0 fun i =>
        (elBits w (if p.getLsbD 0 then elSat w false (-elInt w false (x i)) else -elInt w false (x i)), 0)) ∧
    (Fmt.isFloat f = true →
      (s.src.vtag b = f → s.elementWise (.vmin d a b g f p) d g e f 0 (fun i => (ffOf f).minMax false (x i) (y i)) ∧
        s.elementWise (.vmax d a b g f p) d g e f 0 fun i => (ffOf f).minMax true (x i) (y i)) ∧
      s.elementWise (.vabs d a g f p) d g e f 0 (fun i => (x i % (ffOf f).signBit, 0)) ∧
      s.elementWise (.vneg d a g f p) d g e f 0 fun i => (Nat.xor (x i) (ffOf f).signBit, 0))) ∧
  (∀ (s : State) (d a b : BitVec 4) (g : BitVec 3) (f : BitVec 4) (r : BitVec 3) (p : BitVec 4) (o : BitVec 7), s.src.vtag a ≠ f →
    ∀ i ∈ [Instr.vadd d a b g f r p, .vsub d a b g f r p, .vmul d a b g f r p, .vfma d a b g f r p, .vfms d a b g f r p,
      .vmin d a b g f o, .vmax d a b g f o, .vabs d a g f o, .vneg d a g f o],
      exec i s = .next (s.raise ⟨6, cFormat, a.toNat + (s.src.vtag a).toNat * 2 ^ 8 + f.toNat * 2 ^ 12, none⟩))

/-- VAND, VOR, VXOR, VNOT and VMOV of any tag, byte by byte (R277, R283); VSEL (R276), where pg selects; VBCAST, VEXTR
and VINS (R282), VPERM (R281) and VIOTA (R283): the elements, the tag and nothing else. NOPV changes nothing (R204). -/
def Obligations.VectorMoves : Prop :=
  (∀ s : State, exec .nopv s = .next s) ∧
  (∀ (s : State) (d a b : BitVec 4) (g : BitVec 3),
    (∀ x ∈ [(Instr.vand d a b g, fun (u v : Byte) => u &&& v), (.vor d a b g, fun u v => u ||| v), (.vxor d a b g, fun u v => u ^^^ v),
        (.vnot d a g, fun u _ => ~~~u), (.vmov d a g, fun u _ => u)],
      ∃ t, exec x.1 s = .next t ∧ s.onlyV t d (s.src.vtag a) ∧ ∀ j < 64, byteOf (t.live.getV d) j =
        if (s.rP g).getLsbD j then x.2 (byteOf (s.rV a) j) (byteOf (s.rV b) j) else byteOf (s.live.getV d) j) ∧
    (s.src.vtag b = s.src.vtag a → ∃ t, exec (.vsel d a b g) s = .next t ∧ s.onlyV t d (s.src.vtag a) ∧
      ∀ j < 64, byteOf (t.live.getV d) j = if (s.rP g).getLsbD j then byteOf (s.rV a) j else byteOf (s.rV b) j)) ∧
  (∀ (s : State) (d v : BitVec 4) (a b : BitVec 5) (g : BitVec 3) (f : BitVec 4) (x : BitVec 1),
    let e := Fmt.size f
    s.elementWise (.vbcast d a g f) d g e f 0 (fun _ => ((s.rS a).toNat, 0)) ∧
    (∃ t, exec (.vextr v a b f x) s = .next t ∧ s.onlyS t a (if x = 1 then BitVec.ofInt 64 (elInt (8 * e) false (elemN (s.rV v) e ((s.rS b).toNat % (64 / e))))
      else BitVec.ofNat 64 (elemN (s.rV v) e ((s.rS b).toNat % (64 / e))))) ∧
    ∃ t, exec (.vins v a b f) s = .next t ∧ s.onlyBytes t [vBytes v] ∧ ∀ i < 64 / e, elemN (t.live.getV v) e i =
      if i = (s.rS b).toNat % (64 / e) then (s.rS a).toNat % 2 ^ (8 * e) else elemN (s.live.getV v) e i) ∧
  (∀ (s : State) (d a b : BitVec 4) (g : BitVec 3) (f : BitVec 4), s.src.vtag b = intTag (Fmt.size f) →
    s.elementWise (.vperm d a b g f) d g (Fmt.size f) (s.src.vtag a) 0 fun i =>
      (elemN (s.rV a) (Fmt.size f) (elemN (s.rV b) (Fmt.size f) i % (64 / Fmt.size f)), 0)) ∧
  (∀ (s : State) (d : BitVec 4) (g : BitVec 3) (f : BitVec 4) (x : BitVec 1),
    s.elementWise (.viota d g f x) d g (Fmt.size f) f 0 fun i =>
      (if x = 1 then (List.range i).countP (activeEl (s.rP g) (Fmt.size f)) else i, 0))

/-- VSHL, VSHR and VSRA (R278), VCMP (R275), VCVT (R279), VORD (R284), VDIG (R285), of sources that carry their tags: the
elements, the tag, the flags and nothing else. -/
def Obligations.VectorElements : Prop :=
  (∀ (s : State) (d a b : BitVec 4) (g : BitVec 3) (f : BitVec 4) (p : BitVec 7), WellFormed (.vshl d a b g f p) = true → s.src.vtag a = f →
    (p.getLsbD 6 = false → s.src.vtag b = f) →
    let e := Fmt.size f
    let x := fun i => elemN (s.rV a) e i
    let n := fun i => if p.getLsbD 6 then p.toNat % 32 else elemN (s.rV b) e i
    s.elementWise (.vshl d a b g f p) d g e f 0 (fun i => (x i * 2 ^ n i % 2 ^ (8 * e), 0)) ∧
    s.elementWise (.vshr d a b g f p) d g e f 0 (fun i => (x i / 2 ^ n i, 0)) ∧
    s.elementWise (.vsra d a b g f p) d g e f 0 fun i => (elBits (8 * e) (elInt (8 * e) false (x i) / 2 ^ n i), 0)) ∧
  (∀ (s : State) (d : BitVec 3) (a b : BitVec 4) (g : BitVec 3) (f : BitVec 4) (c : BitVec 7) fl, WellFormed (.vcmp d a b g f c) = true →
    s.src.vtag a = f → s.src.vtag b = f →
    let e := Fmt.size f
    let u := fun i => elInt (8 * e) (c.getLsbD 3) (elemN (s.rV a) e i)
    let v := fun i => elInt (8 * e) (c.getLsbD 3) (elemN (s.rV b) e i)
    let r : Nat → Bool × Flags := fun i =>
      if Fmt.isFloat f then (ffOf f).compare (c.toNat % 8) (elemN (s.rV a) e i) (elemN (s.rV b) e i)
      else (match c.toNat % 8 with
        | 0 => decide (u i = v i) | 1 => decide (u i ≠ v i) | 2 => decide (u i < v i) | 3 => decide (v i ≤ u i) | 4 => decide (u i ≤ v i)
        | _ => decide (v i < u i), 0)
    raisedBy (64 / e) (activeEl (s.rP g) e) (fun i => ((r i).1.toNat, (r i).2)) fl →
    s.finishes (.vcmp d a b g f c) fl 0 0 (if d = 0 then [] else [pBytes d]) fun t => d ≠ 0 → ∀ j < 64, (t.live.getP d).getLsbD j =
      if activeEl (s.rP g) e (j / e) then (r (j / e)).1 else (s.live.getP d).getLsbD j) ∧
  (∀ (s : State) (d a h : BitVec 4) (g : BitVec 3) (f : BitVec 4) (r : BitVec 3) (sf : BitVec 4) fl, WellFormed (.vcvt d a h g f r sf) = true →
    s.src.vtag a = sf →
    let es := Fmt.size sf
    let ed := Fmt.size f
    let n := Min.min (64 / es) (64 / ed)
    let md := if r = 6 then s.src.mode else r.toNat
    let at_ := fun j => if ed < es then h.toNat * n + j else j
    let res := fun j => convElem sf.toNat f.toNat md (s.chunkIf md j) (elemN (s.rV a) es (if ed < es then j else h.toNat * n + j))
    raisedBy n (fun j => activeEl (s.rP g) ed (at_ j)) res fl →
    s.finishes (.vcvt d a h g f r sf) fl md n [vBytes d, vtagByte d] fun t => t.live.vtag d = f ∧ (∀ q, q ≠ d → t.live.vtag q = s.live.vtag q) ∧
      (∀ j < n, elemN (t.live.getV d) ed (at_ j) =
        if activeEl (s.rP g) ed (at_ j) then (res j).1 % 2 ^ (8 * ed) else elemN (s.live.getV d) ed (at_ j)) ∧
      ∀ i < 64 / ed, (∀ j < n, i ≠ at_ j) → elemN (t.live.getV d) ed i = elemN (s.live.getV d) ed i) ∧
  (∀ (s : State) (d a : BitVec 4) (g : BitVec 3) (f : BitVec 4) (x : BitVec 1), s.src.vtag a = f →
    s.elementWise (.vord d a g f x) d g (Fmt.size f) (intTag (Fmt.size f)) 0 fun i =>
      let w := 8 * Fmt.size f
      let k := if Fmt.isFloat f then (ffOf f).orderKey (elemN (s.rV a) (Fmt.size f) i) else Nat.xor (elemN (s.rV a) (Fmt.size f) i) (2 ^ (w - 1))
      (if x = 1 then 2 ^ w - 1 - k else k, 0)) ∧
  (∀ (s : State) (d a : BitVec 4) (g : BitVec 3) (f : BitVec 4) (w : BitVec 2) (sh : BitVec 5), s.src.vtag a = f →
    s.elementWise (.vdig d a g f w sh) d g (Fmt.size f) f 0 fun i =>
      (elemN (s.rV a) (Fmt.size f) i / 2 ^ sh.toNat % 2 ^ 2 ^ w.toNat, 0))

/-- VHADD (R286, R287), of sources that carry their tags, outside a speculation and behind no earlier access: each bin, a
word of the own scratchpad at base + 4·index, gains the increments of the active elements that name it, modulo 2^32 (bits
of a workspace that ignore a store excepted, R5), and no other byte of memory changes; a base that is no multiple of 4 traps MISALIGNED, and a bin beyond the scratchpad ACCESS
reason 16, and then no bin changes. The model's choices are that the ACCESS record names no VA (log 35) and that the bins change in one
step (log 54, R286). -/
def Obligations.HistogramAdds : Prop :=
  ∀ (s : State) (v a b : BitVec 4) (g : BitVec 3) (f : BitVec 4) (x : BitVec 1), s.src.vtag a = f → (x = 1 → s.src.vtag b = f) → s.src.vtag v = 7 →
    let e := Fmt.size f
    let base := elemN (s.rV v) 4 0
    let act := (List.range (64 / e)).filter fun i => activeEl (s.rP g) e i
    let bin := fun i => base + 4 * elemN (s.rV a) e i
    let inc := fun i => if x = 1 then elBits 32 (elInt (8 * e) false (elemN (s.rV b) e i)) else 1
    (base % 4 = 0 → (∀ i ∈ act, bin i + 4 ≤ 65536) → (isTileCore s.lcore = true → ∀ i ∈ act, crosses s.me (bin i) 4 0x8000 0xA000 = false) →
      s.me.spec = none → s.relHolds s.cur s.me.seq = false →
      (∀ i ∈ act, s.gone s.me.ctx s.me.lid (padKey s.lcore (bin i)) = false ∧ s.bad (padKey s.lcore (bin i)) 4 = false) →
      (∀ r ∈ s.net, r.th ≠ s.cur) → namesCore s.lcore = true →
      (∀ r ∈ s.net, r.isParked = true → ∀ v, r.kind = .ldv v → ∀ p ∈ r.parts, s.bad p.key 4 = false) →
      ∃ t, exec (.vhadd v a b g f x) s = .next t ∧
        t = { s with mem := t.mem, ws := t.ws, tags := t.tags, threads := t.threads, net := t.net, upsets := t.upsets, packets := t.packets, nextPkt := t.nextPkt } ∧
        (∀ o, o % 4 = 0 → o + 4 ≤ 65536 → (∀ j < 4, fixedBits (padKey s.lcore o + j) = 0) → t.rdN (padKey s.lcore o) 4 =
          (s.rdN (padKey s.lcore o) 4 + ((act.filter fun i => bin i == o).map inc).sum) % 2 ^ 32) ∧
        ∀ k, (∀ i ∈ act, outside k (padKey s.lcore (bin i)) 4) → t.rdByte k = s.rdByte k) ∧
    (base % 4 ≠ 0 → ∃ va, exec (.vhadd v a b g f x) s = .next (s.raise ⟨8, cMisaligned, 10, some va⟩)) ∧
    (base % 4 = 0 → (∃ i ∈ act, 65536 < bin i + 4) → exec (.vhadd v a b g f x) s = .next (s.raise ⟨8, cAccess, 16, none⟩))

/-- PAND, POR, PXOR and PNOT (R290), PWHILE (R289), PFIRST and PSET (R292), PCNT (R291): bit by bit, p0 ignoring what is
written to it (R223), and nothing else changes. -/
def Obligations.Predicates : Prop :=
  (∀ (s : State) (d a b g : BitVec 3), ∀ x ∈ [(Instr.pand d a b g, fun (u v : Bool) => u && v), (.por d a b g, fun u v => u || v),
      (.pxor d a b g, fun u v => u != v), (.pnot d a g, fun u _ => !u)],
    ∃ t, exec x.1 s = .next t ∧ s.onlyP t d (fun j => (s.rP g).getLsbD j) fun j => x.2 ((s.rP a).getLsbD j) ((s.rP b).getLsbD j)) ∧
  (∀ (s : State) (d : BitVec 3) (a b : BitVec 5) (g : BitVec 3) (f : BitVec 4) (n : BitVec 1),
    let e := Fmt.size f
    let r := fun (y : BitVec 64) => if n = 1 then (y.toNat : Int) else y.toInt
    ∃ t, exec (.pwhile d a b g f n) s = .next t ∧ s.onlyP t d (fun j => activeEl (s.rP g) e (j / e))
      fun j => decide (r (s.rS a) + (j / e : Nat) < r (s.rS b))) ∧
  (∀ (s : State) (p : BitVec 3) (d : BitVec 5) (g : BitVec 3) (f : BitVec 4), ∃ t, exec (.pcnt p d g f) s = .next t ∧
    s.onlyS t d (BitVec.ofNat 64 ((List.range (64 / fmtSize f)).countP fun i =>
      activeEl (s.rP p) (fmtSize f) i && activeEl (s.rP g) (fmtSize f) i))) ∧
  (∀ (s : State) (d a g : BitVec 3) (f : BitVec 4) (k : BitVec 7),
    let e := fmtSize f
    (∃ t, exec (.pfirst d a g f) s = .next t ∧ s.onlyP t d (fun j => activeEl (s.rP g) e (j / e)) fun j =>
      activeEl (s.rP a) e (j / e) && (List.range (j / e)).all fun i => !(activeEl (s.rP a) e i && activeEl (s.rP g) e i)) ∧
    ∃ t, exec (.pset d g f k) s = .next t ∧ s.onlyP t d (fun j => activeEl (s.rP g) e (j / e)) fun j => decide (j / e < k.toNat))

/-- The special functions VDIV, VSQRT, VRCP, VRSQ, VEXP2, VLOG2, VSIN, VCOS and VTANH (R49, R50, R288), of sources that
carry FMT, are long-latency: chunks are consumed at issue (R44), and the exact value of each active element, delivered in
the format, will land with its flags (R48); how closely the exact values of the transcendental ones are enclosed, `exactExp2` and
those beside it, is the model's choice (log 7). VRED (R52, R280) leaves the root of the tree of R52 in element 0, an integer sum
modulo 2^w for ADD. Nothing else changes. -/
def Obligations.SpecialFunctions : Prop :=
  (∀ (s : State) (d a b : BitVec 4) (g : BitVec 3) (f : BitVec 4) (r : BitVec 3), s.src.vtag a = f → s.src.vtag b = f →
    let e := Fmt.size f
    let md := if r = 6 then s.src.mode else r.toNat
    let x := fun i => (ffOf f).val (elemN (s.rV a) e i)
    let y := fun i => (ffOf f).val (elemN (s.rV b) e i)
    ∀ q ∈ [(Instr.vdiv d a b g f r, fun i => exactDiv (x i) (y i)), (.vsqrt d a g f r, fun i => exactSqrt (x i)),
      (.vrcp d a g f r, fun i => exactRcp (x i)), (.vrsq d a g f r, fun i => exactRsq (x i)), (.vexp2 d a g f r, fun i => exactExp2 (x i)),
      (.vlog2 d a g f r, fun i => exactLog2 (x i)), (.vsin d a g f r, fun i => exactTrig false (x i)),
      (.vcos d a g f r, fun i => exactTrig true (x i)), (.vtanh d a g f r, fun i => exactTanh (x i))],
    ∃ t z m fl, exec q.1 s = .next t ∧ t = { s with ws := t.ws, threads := t.threads } ∧ s.bytesKeptBut t s.cur [sbcntBytes] ∧
      s.onlyTh t s.cur (fun k => { k with pend := k.pend ++ [⟨s.issSrc, .value, none, true, [.v d.toNat], [.v d z m (some f)], fl, none⟩] }) ∧
      (t.live.sbcnt = if md = 5 && !s.slotAWritesSbcnt then s.src.sbcnt + BitVec.ofNat 64 ((64 / e + 3) / 4) else s.live.sbcnt) ∧
      (∀ j < 64, m.getLsbD j = activeEl (s.rP g) e (j / e)) ∧
      (∀ i < 64 / e, activeEl (s.rP g) e i = true → elemN z e i = ((q.2 i).deliver (ffOf f) md (s.chunkIf md i)).1 % 2 ^ (8 * e)) ∧
      raisedBy (64 / e) (activeEl (s.rP g) e) (fun i => (q.2 i).deliver (ffOf f) md (s.chunkIf md i)) fl) ∧
  (∀ (s : State) (d a : BitVec 4) (g : BitVec 3) (f : BitVec 4) (r : BitVec 3) (p : BitVec 4), s.src.vtag a = f →
    let e := Fmt.size f
    let n := 64 / e
    let md := if r = 6 then s.src.mode else r.toNat
    let lane := fun i => if activeEl (s.rP g) e i then elemN (s.rV a) e i else redIdentity f p.toNat
    let root := redTree (fun j u v => redNode f p.toNat md (s.chunkIf md j) u v) (Nat.log2 n) 0 ((List.range n).map lane)
    let k := fun (t : State) (v : Nat) => t.live.vtag d = f ∧ (∀ q, q ≠ d → t.live.vtag q = s.live.vtag q) ∧
      elemN (t.live.getV d) e 0 = v % 2 ^ (8 * e) ∧ ∀ i < n, i ≠ 0 → elemN (t.live.getV d) e i = elemN (s.live.getV d) e i
    s.finishes (.vred d a g f r p) root.2 md (n - 1) [vBytes d, vtagByte d] (fun t => k t root.1) ∧
    (Fmt.isFloat f = false → p = 0 → s.finishes (.vred d a g f r p) 0 md (n - 1) [vBytes d, vtagByte d] fun t =>
      k t (((List.range n).filter fun i => activeEl (s.rP g) e i).map fun i => elemN (s.rV a) e i).sum))

/-- The directional forms (R54 to R63, R293 to R299), of groups that carry DQ: DADD, DSUB, DLERP, DREN and VTOD, and DTOV
with its chunks, are long-latency and will land as one write of every component and the norm; DSCL and DSETN write the
norm, DNEG and DMOV a group, the zero vector in its canonical form; DCOS and DNRM a scalar register. Nothing else changes. The model's
choices are DSCL by a scalar of 0x80000000, taken as −1,024 (log 54, R59), and the rounding of a renormalised component (log 7). -/
def Obligations.Directions : Prop :=
  (∀ (s : State) (d a b : BitVec 3) (v : BitVec 4) (g : BitVec 2) (f : BitVec 4) (r : BitVec 3) (o : BitVec 4),
    let x := s.rDir a g
    let y := s.rDir b g
    let vals := ((List.range (dirVecCount f g)).map fun j => v + BitVec.ofNat 4 j).flatMap fun q => (elems (s.rV q) (Fmt.size f)).map (ffOf f).val
    let lands := fun (i : Instr) (z : Dir × Flags) => ∃ t, exec i s = .next t ∧ s.onlyThread t fun k => { k with pend := k.pend ++
      [⟨s.issSrc, .value, none, true, (List.range (2 ^ g.toNat)).map (fun j => Reg.d (d + BitVec.ofNat 3 j).toNat) ++ [.n d.toNat],
        dirWrites d g z.1, z.2, none⟩] }
    (s.dirTag a g = none → s.dirTag b g = none → lands (.dadd d a b g r) (addDir x y 16 16 g) ∧ lands (.dsub d a b g r) (addDir x y 16 (-16) g) ∧
      lands (.dlerp d a b g r o) (addDir x y (15 - o.toNat) (o.toNat + 1) g) ∧
      lands (.dren d a g r) (if x.isZero then (Dir.zero g, 0) else renorm (x.c.map (· * 2 ^ 16)) x.n g)) ∧
    (s.vtagTrap ((List.range (dirVecCount f g)).map fun j => (v + BitVec.ofNat 4 j, f)) = none → lands (.vtod d v g f r) (vecToDir vals g))) ∧
  (∀ (s : State) (v : BitVec 4) (a : BitVec 3) (g : BitVec 2) (f : BitVec 4) (r : BitVec 3), s.dirTag a g = none →
    let md := if r = 6 then s.src.mode else r.toNat
    ∃ t p, exec (.dtov v a g f r) s = .next t ∧ t = { s with ws := t.ws, threads := t.threads } ∧ s.bytesKeptBut t s.cur [sbcntBytes] ∧
      s.onlyTh t s.cur (fun k => { k with pend := k.pend ++ [p] }) ∧ p.ready = true ∧ p.fail = none ∧
      p.dests = ((List.range (dirVecCount f g)).map fun j => Reg.v (v.toNat + j)) ∧
      (t.live.sbcnt = if md = 5 && !s.slotAWritesSbcnt then s.src.sbcnt + BitVec.ofNat 64 ((32 * 2 ^ g.toNat + 3) / 4) else s.live.sbcnt) ∧
      ((s.rDir a g).isZero = true → p.flags = 0 ∧ ∀ w ∈ p.writes, ∃ q, w = .v q 0 (BitVec.allOnes 64) (some f))) ∧
  (∀ (s : State) (d : BitVec 3) (sa : BitVec 5) (g : BitVec 2), s.dirTag d g = none →
    let x := s.rDir d g
    let v : BitVec 32 := (s.rS sa).setWidth 32
    let n := x.n + v.toInt
    (x.isZero = true → exec (.dscl d sa g) s = .next s) ∧
    (x.isZero = false → -(2 ^ 31) < n → n < 2 ^ 31 → ∃ t, exec (.dscl d sa g) s = .next t ∧ (t.live.getN d).toInt = n ∧ s.onlyBytes t [nBytes d]) ∧
    (x.isZero = false → 2 ^ 31 ≤ n → s.finishes (.dscl d sa g) flOF 0 0 [nBytes d] fun t => t.live.getN d = 0x7FFFFFFF) ∧
    (x.isZero = false → n ≤ -(2 ^ 31) → s.finishes (.dscl d sa g) flUF 0 0
      (nBytes d :: (List.range (2 ^ g.toNat)).flatMap fun j => [dBytes (d + BitVec.ofNat 3 j), dtagByte (d + BitVec.ofNat 3 j)])
      fun t => t.live.getN d = 0x80000000 ∧ ∀ j < 2 ^ g.toNat, t.live.getD (d + BitVec.ofNat 3 j) = 0) ∧
    (v = 0x80000000 → ∃ t, exec (.dsetn d sa g) s = .next t ∧ s.onlyGroup t d g (Dir.zero g)) ∧
    (v ≠ 0x80000000 → x.isZero = true → exec (.dsetn d sa g) s = .next s) ∧
    (v ≠ 0x80000000 → x.isZero = false → ∃ t, exec (.dsetn d sa g) s = .next t ∧ t.live.getN d = v ∧ s.onlyBytes t [nBytes d])) ∧
  (∀ (s : State) (d a : BitVec 3) (g : BitVec 2), s.dirTag a g = none →
    let y := s.rDir a g
    (∃ t, exec (.dmov d a g) s = .next t ∧ s.onlyGroup t d g (if y.isZero then Dir.zero g else y)) ∧
    ∃ t z, exec (.dneg d a g) s = .next t ∧ s.onlyGroup t d g z ∧ (y.isZero = true → z = Dir.zero g) ∧
      (y.isZero = false → z.isZero = false ∧ z.n = y.n ∧ z.c.length = y.c.length ∧ ∀ (i : Nat) c, y.c[i]? = some c → c ≠ -32768 → z.c[i]? = some (-c))) ∧
  (∀ (s : State) (sd : BitVec 5) (a b : BitVec 3) (g : BitVec 2) (r : BitVec 3), s.dirTag a g = none → s.dirTag b g = none →
    let x := s.rDir a g
    let y := s.rDir b g
    let md := if r = 6 then s.src.mode else r.toNat
    let p : Int := ((x.c.zip y.c).map fun z => z.1 * z.2).sum
    let q := if x.isZero || y.isZero then (0, flZD) else FF.f32.round md (s.chunkIf md 0) (p < 0) p.natAbs (-28) false
    s.finishes (.dcos sd a b g r) q.2 md 1 [sBytes sd] (fun t => t.live.getS sd = BitVec.ofNat 64 q.1) ∧
    ∃ t, exec (.dnrm sd a g r) s = .next t ∧ s.onlyS t sd (if x.isZero then BitVec.ofInt 64 (-(2 ^ 31)) else (s.src.getN a).signExtend 64))

/-! ## The Vesper filter (R72 to R74, R320 to R329) -/

/-- Every instruction of a logit program (R324 to R327) on the run of its window: the value of each of the 32 lanes of xd,
by the F32 operations with RNE; LTOPK offers its lanes if none is offered yet; LNOP changes nothing; LHALT ends the run of
a chunk: what it offered is taken in ascending token order (R73), and the chunk counts as run. Nothing else changes. -/
def Obligations.LogitInstructions : Prop :=
  (∀ s : State, exec .lnop s = .next s) ∧
  (∀ (s : State) (d a b c : BitVec 4) (k : BitVec 3) (n : BitVec 9) (v : BitVec 13) (cond : BitVec 3),
    s.laneWise (.lldk d) d (fun r i => (r.logits.toList.getD i 0).toNat) ∧
    s.laneWise (.lcnt d) d (fun r i => ((Exact.ofInt (r.counts.toList.getD i 0).toNat 0 false).deliver .f32 0 0).1) ∧
    s.laneWise (.lhis d) d (fun r i => if r.hist.getLsbD i then 0x3F800000 else 0) ∧
    s.laneWise (.lbia d) d (fun r i => (convFF .bf16 .f32 0 0 (r.bias.toList.getD i 0).toNat).1) ∧
    s.laneWise (.lban d a) d (fun r i => if r.ban.getLsbD i then 0xFF800000 else r.lane a i) ∧
    s.laneWise (.ladd d a b) d (fun r i => (FF.f32.add 0 0 (r.lane a i) (r.lane b i)).1) ∧
    s.laneWise (.lsub d a b) d (fun r i => (FF.f32.sub 0 0 (r.lane a i) (r.lane b i)).1) ∧
    s.laneWise (.lmul d a b) d (fun r i => (FF.f32.mul 0 0 (r.lane a i) (r.lane b i)).1) ∧
    s.laneWise (.lsel d a b c) d (fun r i => if r.lane c i % 2 ^ 31 = 0 then r.lane b i else r.lane a i) ∧
    s.laneWise (.lcmp d a b cond) d (fun r i => if (FF.f32.compare cond.toNat (r.lane a i) (r.lane b i)).1 then 0x3F800000 else 0) ∧
    s.laneWise (.lmax d a b) d (fun r i => (FF.f32.minMax true (r.lane a i) (r.lane b i)).1) ∧
    s.laneWise (.lmin d a b) d (fun r i => (FF.f32.minMax false (r.lane a i) (r.lane b i)).1) ∧
    s.laneWise (.lscl d a n) d (fun r i => f32Scale (r.lane a i) n.toInt) ∧
    s.laneWise (.lclp d a b) d (fun r i => (FF.f32.minMax false (FF.f32.minMax true (r.lane a i) (r.lane b i % 2 ^ 31 + 2 ^ 31)).1 (r.lane b i % 2 ^ 31)).1) ∧
    s.laneWise (.lpen d a b k) d (fun r i => penalty (r.lane a i) (r.lane b i) (r.consts[k.toNat]'k.isLt).toNat) ∧
    s.laneWise (.lmov d a) d (fun r i => r.lane a i) ∧
    s.laneWise (.limmConst d k) d (fun r _ => (r.consts[k.toNat]'k.isLt).toNat) ∧
    s.laneWise (.limmValue d v) d (fun _ _ => v.toNat * 2 ^ 19)) ∧
  (∀ (s : State) (a : BitVec 4) b r, s.binding s.curWin = some b → b.run = some r → ∃ t, exec (.ltopk a) s = .next t ∧
    t = { s with bindings := t.bindings } ∧ t.binding s.curWin =
      some { b with run := some { r with offer := some (match r.offer with | some v => v | none => r.get a) } }) ∧
  (∀ (s : State) b r, s.binding s.curWin = some b → b.run = some r → (b.ran.length + 1) * 32 < b.vocab → ∃ t, exec .lhalt s = .next t ∧
    t = { s with bindings := t.bindings } ∧
    (r.failed = true → t.binding s.curWin = some { b with run := none, ran := r.chunk :: b.ran, flt := b.flt + 1 }) ∧
    (r.failed = false → r.offer = none → t.binding s.curWin = some { b with run := none, ran := r.chunk :: b.ran }) ∧
    ∀ v, r.failed = false → r.offer = some v → t.binding s.curWin =
      some (((List.range 32).zip v.toList).foldl (fun b x => b.take (32 * r.chunk + x.1) x.2.toNat) { b with run := none, ran := r.chunk :: b.ran }))

/-- The filter's operations (R320 to R323, R328, R329). LOGIT_STORE completes: a store to a bound window's page is performed, and
marks the words of the logits that it wrote, for the step, or for the next one where the chunk has run; on an unbound window it
is a plain write; one whose merge into a COMPRESS block fails writes and marks nothing (R178). BIND completes: a store of 1 binds a window whose header, program, tables and entry pass, afresh and with CODE
0x01; a header field beyond its limit leaves it unbound with CODE 0x11. UNBIND completes: a store of 0 leaves it unbound with
CODE 0x00. CHUNK_RUN completes: a chunk whose CUR mask is full is run to its end, with no byte of memory changed while chunks
remain; after the last one, of a window whose SAMPLER is no tile core, the report is discarded and the next step begins.
SAMPLER_RESEND completes: every 64 rotations the sampler is started, with the window, SEQID, POS and the counts in s0 to s4, and
the window goes on to its next step; without a free position it waits on. -/
def Obligations.LogitWindows : Prop :=
  (∀ (s : State) rid j r p, s.partDue rid j r p → (r.kind = .store ∨ r.kind = .stv) → p.pte.getLsbD 10 = true → isHbm p.key = true → p.key + p.len ≤ 2 ^ 47 →
    s.bindValue p ≠ some 0 → s.bindValue p ≠ some 1 →
    (s.mergeBad p.key p.len p.mask p.pte = true → ∃ t, exec (.logitStore rid j) s = .next t ∧ s.bytesKept t ∧ t.bindings = s.bindings) ∧
    (s.mergeBad p.key p.len p.mask p.pte = false →
    (∀ b, s.binding (windowOf p).1 = some b → ∃ t b', exec (.logitStore rid j) s = .next t ∧ s.holdsPart t p ∧ t.binding (windowOf p).1 = some b' ∧
      b' = { b with cur := b'.cur, next := b'.next } ∧ ∀ i < p.len, p.mask.getLsbD i = true → ∀ n,
        p.key - (windowOf p).1 + i = 0x1000 + n → n < 4 * b.vocab →
          (Store.get 0 (if b.ran.contains (n / 128) then b'.next else b'.cur) (n / 128)).getLsbD (n / 4 % 32) = true) ∧
    (s.binding (windowOf p).1 = none → ∃ t, exec (.logitStore rid j) s = .next t ∧ s.holdsPart t p ∧ t.bindings = s.bindings))) ∧
  (∀ (s : State) rid j r p, s.partDue rid j r p → (r.kind = .store ∨ r.kind = .stv) → p.pte.getLsbD 10 = true → isHbm p.key = true → p.key + p.len ≤ 2 ^ 47 →
    s.bindValue p = some 1 → s.upsets = [] →
    let win := (windowOf p).1
    let len := (windowOf p).2
    let u := (s.windowStored r j p).setBinding win none
    let h := fun (o n : Nat) => u.rdN (win + o) n
    let stack := fun (a : Nat) => chanOf (a / 65536) / 64
    (∀ bytes, h 0 4 % 32 = 0 → 32 ≤ h 0 4 → h 0 4 ≤ (len - 0x1000) / 4 → 1 ≤ h 4 4 % 256 → h 4 4 % 256 ≤ 64 → 1 ≤ h 4 4 / 256 % 256 →
      h 4 4 / 256 % 256 ≤ 64 → h 8 8 % 4 = 0 → h 0x10 8 % 8 = 0 → h 0x18 8 % 8 = 0 → stack (win + len - 1) = stack win → u.bindingsOn (stack win) < 1024 →
      u.filterBytes r.ctx (h 8 8) .load (4 * (h 4 4 / 256 % 256)) = some bytes → (∀ w ∈ words32 bytes, ∃ i, decodeL w.toNat = .ok i) →
      (u.filterBytes r.ctx (h 0x18 8) .fetch 8).isSome = true → u.nearPages r.ctx (h 0x10 8) (tableBytes (h 0 4)) = true →
      ∃ t b, exec (.bind rid j) s = .next t ∧ t.binding win = some b ∧ b.ctx = r.ctx ∧ b.lid = r.lid ∧ b.seed = r.seed ∧ b.cls = r.cls ∧
        b.part = r.part ∧ b.pageLen = len ∧ b.compress = p.pte.getLsbD 11 ∧ b.vocab = h 0 4 ∧ b.k = h 4 4 % 256 ∧ b.prog = words32 bytes ∧ b.tbase.toNat = h 0x10 8 ∧
        b.entry.toNat = h 0x18 8 ∧ b.sampler = h 0x20 4 ∧ b.seqid.toNat = h 0x24 4 ∧ b.pos.toNat = h 0x28 4 ∧ b.win.toNat = h 0x38 8 ∧
        b.mx = 0xFF800000 ∧ b.sum = 0 ∧ b.n = 0 ∧ b.nancnt = 0 ∧ b.shorts = [] ∧ b.cur = [] ∧ b.next = [] ∧ b.ran = [] ∧ b.waiting = none ∧
        b.run = none ∧ t.rdN (win + 0x2C) 4 = 0x01000000) ∧
    ∀ i, headerBad (h 0 4) (h 4 4) (h 8 8) (h 0x10 8) (h 0x18 8) len = some i → ∃ t, exec (.bind rid j) s = .next t ∧
      t.binding win = none ∧ t.rdN (win + 0x2C) 4 = 0x11000000 + i * 2 ^ 16) ∧
  (∀ (s : State) rid j r p b, s.partDue rid j r p → (r.kind = .store ∨ r.kind = .stv) → p.pte.getLsbD 10 = true → isHbm p.key = true → p.key + p.len ≤ 2 ^ 47 →
    s.bindValue p = some 0 → s.upsets = [] → s.binding (windowOf p).1 = some b →
    ∃ t, exec (.unbind rid j) s = .next t ∧ t.binding (windowOf p).1 = none ∧ t.rdN ((windowOf p).1 + 0x2C) 4 = 0) ∧
  (∀ (s : State) win chunk b, s.binding win = some b → b.run = none → b.waiting = none → b.prog.length ≤ 64 → 32 * chunk < b.vocab → chunk ∉ b.ran →
    Store.get 0 b.cur chunk = BitVec.allOnes 32 →
    ((b.ran.length + 1) * 32 < b.vocab → ∃ t b', exec (.chunkRun win chunk) s = .next t ∧ t.binding win = some b' ∧ b'.run = none ∧
      b'.ran = chunk :: b.ran ∧ b'.cur = b.cur ∧ b'.next = b.next ∧ s.bytesKept t) ∧
    (b.vocab ≤ (b.ran.length + 1) * 32 → isTileCore b.sampler = false → s.upsets = [] → isHbm (win + 0x2F) = true → ∃ t b', exec (.chunkRun win chunk) s = .next t ∧
      t.binding win = some b' ∧ b'.run = none ∧ b'.ran = [] ∧ b'.pos = b.pos + 1 ∧ b'.cur = b.next ∧ b'.next = [] ∧
      t.rdN (win + 0x2C) 4 = 0x01000000)) ∧
  (∀ (s : State) win b at_, s.binding win = some b → b.waiting = some at_ → at_ + 1024 ≤ s.tick → s.upsets = [] → isTileCore b.sampler = true →
    s.ownerOf b.sampler = some b.ctx.toNat → s.refuses (padKey b.sampler 0) = false → b.part = false →
    (∀ p ps, s.openPositions b.sampler = p :: ps → isHbm (win + 0x2F) = true → ∃ t b', exec (.samplerResend win) s = .next t ∧
      (let k := b.sampler * 20 + p
       (t.thr k).kind = .sampler ∧ (t.thr k).pos = p ∧ (t.thr k).ctx = b.ctx ∧ (t.thr k).lid = b.lid ∧ (t.getWs k).pc = b.entry.setWidth 48 ∧
       (t.getWs k).getS 0 = b.win ∧ (t.getWs k).getS 1 = b.seqid.setWidth 64 ∧ (t.getWs k).getS 2 = b.pos.setWidth 64 ∧
       (t.getWs k).getS 3 = BitVec.ofNat 64 b.shorts.length ∧ (t.getWs k).getS 4 = BitVec.ofNat 64 b.flt) ∧
      t.binding win = some b' ∧ b'.pos = b.pos + 1 ∧ b'.cur = b.next ∧ b'.next = [] ∧ b'.n = 0 ∧ b'.shorts = [] ∧ b'.ran = [] ∧
      t.rdN (win + 0x2C) 4 = 0x01000000) ∧
    (s.openPositions b.sampler = [] → ∃ t, exec (.samplerResend win) s = .next t ∧ t = { s with bindings := t.bindings } ∧
      t.binding win = some { b with waiting := some s.tick }))

/-! ## Requests, translation, registers, ownership (R25, R90, R112, R119, R150 to R159, R168, R179, R182) -/

/-- Requests on their way. At its home a load fills its result, which is then ready (R25); a store's masked bytes stand in
memory and no other byte changes; AMO, AMOC and RED put the new value at the address, the old one in AMO's and AMOC's
result (R250, R251); an LDV whose condition fails waits (R88); an LDFE of a full word empties it (R90). A result lands when
its answer has come and no earlier one of its thread names its registers (R25), with its flags (R48); one that failed is held (R168), and the
oldest held failure strikes at the thread's next issue. A refused request is sent again below RETRYLIM and given up at it
(R112), and one that met a drained tile after 64 rotations (R182), but for what waits for its thread's thaw (R124, R183). -/
def Obligations.RequestsAtHomes : Prop :=
  (∀ (s : State) rid r p, s.partDue rid 0 r p → r.parts = [p] → p.key < fabricBase →
    let filled := fun (v : Nat) (x : Thread) => { x with pend := x.pend.map fun q => if q.rid = some rid then
      { q with writes := q.writes.map (fillWrite r.sext p v), ready := true } else q }
    let gone := s.net.filter fun q => q.rid != rid
    (r.kind = .load → s.bad p.key p.len = false → (s.thr r.th).spec = none → isHbm p.key = true ∨ spaceOf p.key ≠ 5 →
      ∃ t, exec (.requestArrival rid 0) s = .next t ∧ t.net = gone ∧ s.bytesKept t ∧
        s.onlyTh t r.th (filled (maskedN p.mask (s.loadN p.key p.len) p.len))) ∧
    (r.kind = .store → isHbm p.key = true → p.key + p.len ≤ 2 ^ 47 → p.pte.getLsbD 10 = false → s.mergeBad p.key p.len p.mask p.pte = false →
      ∃ t, exec (.requestArrival rid 0) s = .next t ∧ t.net = gone ∧ s.holdsPart t p ∧
        ∀ k, (∀ i < p.len, p.mask.getLsbD i = true → k ≠ p.key + i) → t.rdByte k = s.rdByte k) ∧
    (∀ op b c, isHbm p.key = true → p.key + p.len ≤ 2 ^ 47 → p.len ∈ [4, 8] → s.bad p.key p.len = false → s.mergeBad p.key p.len (BitVec.allOnes 64) p.pte = false →
      let old := s.rdN p.key p.len
      let kept := fun (t : State) => ∀ k, (∀ i < p.len, k ≠ p.key + i) → t.rdByte k = s.rdByte k
      (r.kind = .amo op b → ∃ t, exec (.requestArrival rid 0) s = .next t ∧ t.net = gone ∧ kept t ∧
        t.rdN p.key p.len = amoNew op.toNat (8 * p.len) old (b.toNat % 2 ^ (8 * p.len)) % 2 ^ (8 * p.len) ∧ s.onlyTh t r.th (filled old)) ∧
      (r.kind = .amoc c b → ∃ t, exec (.requestArrival rid 0) s = .next t ∧ t.net = gone ∧ kept t ∧
        t.rdN p.key p.len = (if old = c.toNat % 2 ^ (8 * p.len) then b.toNat % 2 ^ (8 * p.len) else old) ∧ s.onlyTh t r.th (filled old)) ∧
      (r.kind = .red op b → s.dueAtUnit r = true → s.freePositions (redHome p.key) ≠ [] → (s.port (redHome p.key)).reds = [] →
        ∃ t, exec (.redArrival rid) s = .next t ∧ t.net = gone ∧ kept t ∧
          t.rdN p.key p.len = amoNew op.toNat (8 * p.len) old (b.toNat % 2 ^ (8 * p.len)) % 2 ^ (8 * p.len)) ∧
      (r.kind = .red op b → s.dueAtUnit r = true → s.freePositions (redHome p.key) = [] → ∃ t q, exec (.redArrival rid) s = .next t ∧
        s.bytesKept t ∧ t.req rid = some q ∧ q.st = .refused ∧ q.refusals = r.refusals + 1)) ∧
    (∀ ver, r.kind = .ldv ver → isPad p.key = true → s.bad p.key 4 = false →
      (((s.tag (p.key / 4)).ver - ver).toNat < 32 → ∃ t, exec (.requestArrival rid 0) s = .next t ∧ t.net = gone ∧ s.bytesKept t ∧
        s.onlyTh t r.th (filled (s.rdN p.key 4))) ∧
      (32 ≤ ((s.tag (p.key / 4)).ver - ver).toNat → r.lcore = coreOfKey p.key → ∃ t q, exec (.requestArrival rid 0) s = .next t ∧
        s.bytesKept t ∧ t.req rid = some q ∧ q.st = .parked s.arrivals ∧ q.refusals = 0)) ∧
    (r.kind = .ldfe → isPad p.key = true → s.bad p.key 4 = false → (s.tag (p.key / 4)).full = true → (∀ q ∈ s.net, q.isParked = false) →
      ∃ t, exec (.requestArrival rid 0) s = .next t ∧ t.net = gone ∧ s.bytesKept t ∧ (t.tag (p.key / 4)).full = false ∧
        s.onlyTh t r.th (filled (s.rdN p.key 4)))) ∧
  (∀ (s : State) th k p, (s.thr th).pend[k]? = some p → landsNext (s.thr th).pend p = true → (p.kind = .value ∨ ∃ ks, p.kind = .access ks) → p.ready = true →
    p.rid.any s.answerOut = false →
    let rest := fun (x : Thread) => { x with pend := x.pend.filter fun q => q != p }
    (p.fail = none → (s.getWs th).enabled p.flags = 0 → ∃ t, exec (.longLatencyResult th k) s = .next t ∧ s.onlyTh t th rest ∧
      t.getWs th = (if p.flags = 0 then s.getWs th else (s.getWs th).orFlags p.flags).applyAll p.writes ∧ t = { s with ws := t.ws, threads := t.threads }) ∧
    (∀ f, p.fail = some f → f.cause ≠ 0x02 → (s.thr th).occ = true → (s.thr th).caller = none → ∃ t, exec (.longLatencyResult th k) s = .next t ∧
      s.onlyTh t th (fun x => { rest x with held := insertHeld f x.held }) ∧ t = { s with threads := t.threads })) ∧
  (∀ (s : State) th f fs, s.dueToIssue th = true → (s.thr th).held = f :: fs → (s.thr th).trapped = false → (s.thr th).caller = none →
    ∃ t, exec (.deferredTrap th) s = .next t ∧ (t.thr th).trapped = true ∧ (t.thr th).held = fs ∧
      (t.getWs th).trap.extractLsb' 8 8 = f.cause ∧ (t.getWs th).trap.extractLsb' 48 48 = f.src.pc ∧
      (t.getWs th).trap.extractLsb' 96 48 = (s.getWs th).pc ∧ (t.getWs th).trap.getLsbD 3 = true) ∧
  (∀ (s : State) rid r c, s.isReq rid r → r.isRefused = true → r.kind.retryCode = some c → s.waitsFrozen r = false → s.answerOut rid = false → (∀ l v e a w, r.kind ≠ .rcall l v e a w) →
    (r.refusals < s.retryLimOf r → ∃ t q, exec (.refusal rid) s = .next t ∧ t = { s with net := t.net } ∧ t.req rid = some q ∧
      q = { r with st := .inflight, sent := false, legs := [] }) ∧
    (s.retryLimOf r ≤ r.refusals → (s.thr r.th).pend.any (fun q => q.rid = some rid) = true → ∃ t, exec (.retryLimit rid) s = .next t ∧
      (∀ q ∈ t.net, q.rid ≠ rid) ∧ ∃ q ∈ (t.thr r.th).pend, q.ready = true ∧ q.fail = some ⟨0x08, BitVec.ofNat 26 c, none, r.src⟩)) ∧
  (∀ (s : State) rid r n, s.isReq rid r → r.st = .drained n → n + 1024 ≤ s.tick → s.answerOut rid = false → s.waitsFrozen r = false → (∀ l v e a w, r.kind ≠ .rcall l v e a w) →
    ∃ t q, exec (.drainedResend rid) s = .next t ∧ t = { s with net := t.net } ∧ t.req rid = some q ∧ q = { r with st := .inflight, sent := false, legs := [] })

/-- Translation, registers and ownership. A walk that succeeds is installed and its waiter goes on; one that fails
leaves its reason with its thread (R154, R155), once the lines of its entries stand in their slices (R140); before that it asks for the
first that does not. A fault of a stream that nobody answers for 1 ms, or that FLTRSP fails,
ends it with status 5, and FLTRSP replay walks again (R155, R156); reads of FLTQ and ERRPOP take the oldest entry (R156,
R179). TINV drops every cached translation that it covers, and BUSY clears once no access made with one is left (R157).
CTXBASE, STKOWN, CPRIO, MCRFM and HPCTL take what is stored to them (R138, R142, R145, R151, R158). OWNER of a free tile
takes a new context and clears the tile, and of a busy one fails with ACCESS reason 21 (R158). -/
def Obligations.TranslationAndOwnership : Prop :=
  (∀ (s : State) port slot w th, slot < 64 → s.walkAt port slot = some w → w.waiters = [.thread th] → (s.thr th).walk = .waiting w.vpn →
    (∀ x, (s.walkReads w.ctx w.vpn).find? (fun x => !s.memReady x.1 x.2 0) = some x →
      exec (.walkComplete port slot) s = .next (s.askMem x.1 x.2 0 false none ⟨s.tick, 0⟩)) ∧
    ((∀ x ∈ s.walkReads w.ctx w.vpn, s.memReady x.1 x.2 0 = true) →
    (∀ pte frame at_, s.walkPage w.ctx w.vpn = .ok (pte, frame, at_) → w.drop = false → ∃ t, exec (.walkComplete port slot) s = .next t ∧
      s.bytesKept t ∧ (⟨w.ctx, w.vpn, BitVec.ofNat 64 pte, frame⟩ : TlbEntry) ∈ (t.port port).l2 ∧ s.onlyTh t th fun x => { x with walk := .none }) ∧
    (∀ n, s.walkPage w.ctx w.vpn = .error n → ∃ t, exec (.walkComplete port slot) s = .next t ∧ s.bytesKept t ∧
      s.onlyTh t th fun x => { x with walk := .failed w.vpn n }))) ∧
  (∀ (s : State) port slot w n at_ t cid y v p, s.faultAt port slot = some w → w.fault = some (n, at_) → w.waiters = [.stream t cid] →
    ((s.tile t).streams.find? fun y => y.cmd.cid == cid) = some y → y.stall = some (v, p) → y.cmd.w.op ≠ 1 → y.err = 0 →
    let ended := fun (u : State) => (∃ z ∈ (u.tile t).finished, z.cmd = y.cmd ∧ z.status = 5) ∧ ∀ x ∈ (u.tile t).streams, x.cmd.cid ≠ cid
    (at_ + 1000 * Config.cyclesPerUs ≤ s.tick → ∃ u, exec (.streamFaultTimeout port slot) s = .next u ∧ ended u) ∧
    ∀ r j q x, isPort port = true → (s.pageStore port 0x30 fun x => getF x 0 2 == 2 && getF x 8 6 == slot) = some (r, j, q, x) →
      s.homeCheck r q = .ok → ∃ u, exec (.fltrspFail port slot) s = .next u ∧ ended u) ∧
  (∀ (s : State) port slot w r j q x, isPort port = true → s.faultAt port slot = some w →
    (s.pageStore port 0x30 fun x => getF x 0 2 == 1 && getF x 8 6 == slot) = some (r, j, q, x) → s.homeCheck r q = .ok →
    ∃ t, exec (.fltrspReplay port slot) s = .next t ∧ s.bytesKept t ∧ t.faultAt port slot = none ∧ slot ∉ (t.port port).fltq) ∧
  (∀ (s : State) port rid r p e l, isPort port = true → s.partDue rid 0 r p → r.kind = .load → r.parts = [p] → p.len = 8 → (s.thr r.th).spec = none →
    s.bad p.key 8 = false →
    (p.key = pageBase port + 0x48 → s.pageLoadDue port 0x48 = some (rid, 0) → (s.port port).errlog = e :: l → (s.port port).dropped = 0 →
      ∃ t, exec (.errpop port) s = .next t ∧ (t.port port).errlog = l ∧ s.bytesKept t ∧ ∀ q ∈ t.net, q.rid ≠ rid) ∧
    ∀ n ns, p.key = pageBase port + 0x28 → s.pageLoadDue port 0x28 = some (rid, 0) → (s.port port).fltq = n :: ns →
      ∃ t, exec (.fltpop port) s = .next t ∧ (t.port port).fltq = ns ∧ s.bytesKept t ∧ ∀ q ∈ t.net, q.rid ≠ rid) ∧
  (∀ (s : State) port ctx vpn r j q x, isPort port = true → (s.port port).tinv = none → s.homeCheck r q = .ok →
    let dropped := fun (t : State) (all : Bool) (v : Nat) => (t.port port).tinv = some (ctx, all, v) ∧ s.bytesKept t ∧
      (∀ k, ∀ e ∈ (t.tile k).tlb, covers ctx all v e.ctx e.vpn (getF e.pte 4 2) = false) ∧
      ∀ k, ∀ e ∈ (t.port k).l2, covers ctx all v e.ctx e.vpn (getF e.pte 4 2) = false
    ((s.pageStore port 0x38 fun x => getF x 62 1 == 0 && getF x 56 6 == ctx && getF x 16 32 == vpn) = some (r, j, q, x) →
      getF x 62 1 = 0 → getF x 56 6 = ctx → getF x 16 32 = vpn → ∃ t, exec (.tinvPage port ctx vpn) s = .next t ∧ dropped t false vpn) ∧
    ((s.pageStore port 0x38 fun x => getF x 62 1 == 1 && getF x 56 6 == ctx) = some (r, j, q, x) → getF x 62 1 = 1 → getF x 56 6 = ctx →
      ∃ t, exec (.tinvAll port ctx) s = .next t ∧ dropped t true (getF x 16 32))) ∧
  (∀ (s : State) port x, (s.port port).tinv = some x → s.tinvOpen x.1 x.2.1 x.2.2 = false → (∀ k ∈ s.tiles, k.2.streams = []) →
    ∃ t, exec (.invalidationDone port) s = .next t ∧ (t.port port).tinv = none ∧ s.bytesKept t ∧ t.threads = s.threads ∧ t.net = s.net) ∧
  (∀ (s : State) port (v : BitVec 64) r j q, s.homeCheck r q = .ok → isPort port = true →
    (∀ x, (s.pageStore (portOfGroup 0) 0x20 (· == v)) = some (r, j, q, x) → ∃ t, exec (.ctxbaseWrite v) s = .next t ∧ t.ctxbase = x ∧ s.bytesKept t) ∧
    (∀ x l, stackOfPort port = some l → s.ordinaryOn l = [] → (s.pageStore port 0x40 (· == v)) = some (r, j, q, x) →
      ∃ t, exec (.stkownWrite port v) s = .next t ∧ (t.port port).stkown = x &&& 0x3F) ∧
    (∀ x, (s.pageStore port 0x00 (· == v)) = some (r, j, q, x) → ∃ t, exec (.registerWrite port 0x00 v) s = .next t ∧
      (t.port port).cprio = x &&& 0xFF ∧ s.bytesKept t) ∧
    (∀ x, (s.pageStore port 0x08 (· == v)) = some (r, j, q, x) → ∃ t, exec (.registerWrite port 0x08 v) s = .next t ∧
      (t.port port).mcrfm = x &&& 0xFFFFFFFFFFFF ∧ s.bytesKept t) ∧
    ∀ x, (s.pageStore port 0x10 (· == v)) = some (r, j, q, x) → ∃ t, exec (.registerWrite port 0x10 v) s = .next t ∧
      (t.port port).hpctl = x &&& 0x8000FFFFFFFFFFFF ∧ s.bytesKept t) ∧
  (∀ (s : State) tl (v : BitVec 64) r j p, Memory.wf s.mem = true → s.ownerStore tl v = some (r, j, p) → s.homeCheck r p = .ok →
    (s.tileFree tl = false → exec (.ownerWrite tl v) s = .next (s.failReq r cAccess 21 (some p.va))) ∧
    (s.tileFree tl = true → offOf p.key = 0xFF00 → p.mask.getLsbD 0 = true → v.setWidth 6 ≠ (s.tile tl).ctx →
      ∃ t, exec (.ownerWrite tl v) s = .next t ∧ (t.tile tl).ctx = v.setWidth 6 ∧ (t.tile tl).scrub = true ∧
        (∀ k, inTile tl k = true → t.rdByte k = 0) ∧ ∀ k, inTile tl k = false → (wsOf k = none) → t.rdByte k = s.rdByte k)) ∧
  (∀ (s : State) tl, ∃ t, exec (.scrubDone tl) s = .next t ∧ t = { s with tiles := t.tiles } ∧ t.tile tl = { s.tile tl with scrub := false } ∧
    ∀ k, k ≠ tl → t.tile k = s.tile k)

/-! ## Tile commands (R64 to R66, R175, R176, R265, R302 to R319) -/

/-- Tile commands at their start. One whose checks give a status ends with it and has no effect (R175). TDSC writes its
descriptor and clears its TOGGLE (R318); CZR clears its range and its guard store (R310); a copy moves its rows or bytes,
and counts them (R305, R314 to R316); FILL writes its pattern and CPY copies its bytes, within the tile (R315); XFR copies
rows into a peer's buffer (R317), and GTH and SCT leave out the rows of an index with an error (R177); CRD rounds each element into the activation buffer (R312);
SMX and CVT write their rows, and CVT's status is that of its first element in error (R175, R311, R313); a CVT first waits for the lines of its exponent planes (R140); a CLD becomes a stream (R307). SAVE keeps a drained tile's state, RSTR puts a valid save back (R319). A
command that is done posts its element, with its QUEUE, TAG, STATUS, OVF, INV and INFO, and its STATUS bits to its barrier
object (R176, R265). A command, or a completion, whose page is in no cache asks for its translation first (R154). -/
def Obligations.TileCommands : Prop :=
  (∀ (s : State) t q c u, s.heads t q 0x0D c u → ∃ v, exec (.tdsc t q) s = .next v ∧ v = { s with tiles := v.tiles } ∧ (∀ k, k ≠ t → v.tile k = s.tile k) ∧
    let i := c.w.f 73 70
    (c.barred i = true → v.doneWith t c 6 0 false false ∧ (v.tile t).desc = (s.tile t).desc) ∧
    (c.barred i = false → v.doneWith t c 0 0 false false ∧ (∀ j, j ≠ i → (v.tile t).getDesc j = (s.tile t).getDesc j) ∧
      let d := (v.tile t).getDesc i
      getF d 74 118 = c.w.f 191 74 ∧ dExpb d = c.w.f 63 20 ∧ getF d 192 16 = 0)) ∧
  (∀ (s : State) t q c u, t < 6144 → s.heads t q 5 c u → ∃ v, exec (.czr t q) s = .next v ∧
    let key := spaceKey t 3 (c.w.f 79 64)
    let n := c.w.f 144 128
    v = { s with mem := v.mem, guard := v.guard, upsets := v.upsets, tiles := v.tiles } ∧
    (c.crosses (c.w.f 79 64) n 0xE000 0x10000 = true → v.doneWith t c 6 0 false false ∧ s.bytesKept v ∧ v.guard = s.guard) ∧
    (c.crosses (c.w.f 79 64) n 0xE000 0x10000 = false → n % 16 = 0 → v.doneWith t c 0 0 false false ∧ (∀ k < n, v.rdByte (key + k) = 0) ∧
      (∀ k < n / 16, v.getX (key + 16 * k) = 0) ∧ ∀ k, k < key ∨ key + n ≤ k → v.rdByte k = s.rdByte k)) ∧
  (∀ (s : State) t q c u,
    (s.heads t q 2 c u → let d := (u.tile t).getDesc (c.w.f 119 116)
      s.copies (.wld t q) u t c (s.shapedPages t c) (.start c d 0 0) (u.shapedStatus t c d) (shapedPieces c.w d) (hintOf c.w 115) fun v => v.setToggle t (c.w.f 119 116) d) ∧
    (s.heads t q 3 c u → let d := (u.tile t).getDesc (c.w.f 119 116)
      s.copies (.ald t q) u t c (s.shapedPages t c) (.start c d 0 0) (u.shapedStatus t c d) (shapedPieces c.w d) (hintOf c.w 115) id) ∧
    (s.heads t q 4 c u → let d := (u.tile t).getDesc (c.w.f 119 116)
      s.copies (.ast t q) u t c (s.shapedPages t c) (.start c d 0 0) (u.shapedStatus t c d) (shapedPieces c.w d) (hintOf c.w 115) id) ∧
    (s.heads t q 9 c u → let d := (u.tile t).getDesc (c.w.f 119 116)
      let ix := (u.tile t).getDesc (c.w.f 115 112)
      ((∀ k ∈ rowsOf d, u.indexBad ix k = false) →
        s.copies (.gth t q) u t c (s.rowPages t c) (.start c d ix 0) (u.tableStatus t c d ix) (u.tablePieces c.w d ix) none id) ∧
      (s.pagesKnown t c (s.rowPages t c) → (∃ k ∈ rowsOf d, u.indexBad ix k = true) → let v := u.logUnc (dBase ix) c.ctx.toNat
        (u.tableStatus t c d ix ≠ 0 → exec (.gth t q) s = .next (u.finishCmd t c (u.tableStatus t c d ix) 0 false false)) ∧
        ∀ w z, u.tableStatus t c d ix = 0 → v.movePieces t c none { Stream.start c d ix 0 with err := 0x10 } (v.tablePieces c.w d ix) = (w, z, .fin) →
          exec (.gth t q) s = .next (w.finishCmd t c 0x10 z.bytes false false))) ∧
    (s.heads t q 0x0A c u → let d := (u.tile t).getDesc (c.w.f 119 116)
      let ix := (u.tile t).getDesc (c.w.f 115 112)
      ((∀ k ∈ rowsOf d, u.indexBad ix k = false) →
        s.copies (.sct t q) u t c (s.rowPages t c) (.start c d ix 0) (u.tableStatus t c d ix) (u.tablePieces c.w d ix) none id) ∧
      (s.pagesKnown t c (s.rowPages t c) → (∃ k ∈ rowsOf d, u.indexBad ix k = true) → let v := u.logUnc (dBase ix) c.ctx.toNat
        (u.tableStatus t c d ix ≠ 0 → exec (.sct t q) s = .next (u.finishCmd t c (u.tableStatus t c d ix) 0 false false)) ∧
        ∀ w z, u.tableStatus t c d ix = 0 → v.movePieces t c none { Stream.start c d ix 0 with err := 0x10 } (v.tablePieces c.w d ix) = (w, z, .fin) →
          exec (.sct t q) s = .next (w.finishCmd t c 0x10 z.bytes false false))) ∧
    (s.heads t q 8 c u → s.copies (.cpy t q) u t c (cpyPages c) (.start c 0 0 0) (u.cpyStatus t c) (cpyPieces c.w) (hintOf c.w 79) id) ∧
    (s.heads t q 0x0C c u → s.copies (.fill t q) u t c (fillPages c) (.start c 0 0 0) (u.fillStatus t c) (fillPieces c.w) none id) ∧
    let dst := c.w.f 127 80
    let n := c.w.f 44 20
    (t < 6144 → s.heads t q 0x0C c u → u.fillStatus t c = 0 → inTile t dst = true → dst % 8 = 0 → ∃ v, exec (.fill t q) s = .next v ∧
      v.doneWith t c 0 n false false ∧ (∀ k < n, v.rdByte (dst + k) = s.storedByte (dst + k) (byteOf (BitVec.ofNat 64 (c.w.f 191 128)) (k % 8))) ∧
      ∀ k, outside k dst n → v.rdByte k = s.rdByte k) ∧
    (t < 6144 → s.heads t q 8 c u → u.cpyStatus t c = 0 → inTile t dst = true → inTile t (c.w.f 191 144) = true → s.upsets = [] →
      ∃ v, exec (.cpy t q) s = .next v ∧ v.doneWith t c 0 n false false ∧
      (∀ k < n, v.rdByte (dst + k) = s.storedByte (dst + k) (s.rdByte (c.w.f 191 144 + k))) ∧ ∀ k, outside k dst n → v.rdByte k = s.rdByte k)) ∧
  (∀ (s : State) t q c u, s.heads t q 0x0B c u → let d := (u.tile t).getDesc (c.w.f 119 116)
    let at_ := fun r => c.w.f 191 144 + r * c.w.f 143 120
    (u.xfrStatus t c d ≠ 0 → exec (.xfr t q) s = .next (u.finishCmd t c (u.xfrStatus t c d) 0 false false)) ∧
    (t < 6144 → u.xfrStatus t c d = 0 → s.upsets = [] → (dRows d ≤ 1 ∨ rowBytes d ≤ c.w.f 143 120) →
      (∀ r < dRows d, u.peerStatus t c (at_ r) (rowBytes d) = none ∧ u.refuses (at_ r) = false) →
      ∃ v, exec (.xfr t q) s = .next v ∧ v.doneWith t c 0 (dRows d * rowBytes d) false false ∧
        (∀ r < dRows d, ∀ b < rowBytes d, v.rdByte (at_ r + b) = s.rdByte (dBase d + r * dPitch d + b)) ∧
        ∀ k, (∀ r < dRows d, ∀ b < rowBytes d, k ≠ at_ r + b) → v.rdByte k = s.rdByte k)) ∧
  (∀ (s : State) t q c u, t < 6144 → s.heads t q 6 c u → let A := (u.tile t).getDesc (c.w.f 127 124)
    let D := (u.tile t).getDesc (c.w.f 123 120)
    let e := fmtBits (dFmt D) / 8
    (State.crdStatus t c A D ≠ 0 → exec (.crd t q) s = .next (u.finishCmd t c (State.crdStatus t c A D) 0 false false)) ∧
    (State.crdStatus t c A D = 0 → ∃ v, exec (.crd t q) s = .next v ∧ s.rowsOnly v D ∧
      (s.upsets = [] → v.doneAs t c 0 ∧ ∀ i < dRows A, ∀ j < dCols A, v.rdN (elemKey D e i j) e = (u.crdElem c A D i j).1 % 2 ^ (8 * e)))) ∧
  (∀ (s : State) t q c u, t < 6144 → s.heads t q 0x0E c u → let A := (u.tile t).getDesc (c.w.f 127 124)
    let D := (u.tile t).getDesc (c.w.f 123 120)
    (State.smxStatus t c A D ≠ 0 → exec (.smx t q) s = .next (u.finishCmd t c (State.smxStatus t c A D) 0 false false)) ∧
    (State.smxStatus t c A D = 0 → ∃ v, exec (.smx t q) s = .next v ∧ s.rowsOnly v D ∧
      (s.upsets = [] → v.doneAs t c 0 ∧ (dRows A = 1 → ∀ m x, smxRow ((List.range (dCols A)).map fun j => s.rdN (dBase A + 4 * j) 4) (c.w.f 191 160) = (m, x) →
        v.rdN (dBase D) 8 = (m + 2 ^ 32 * x) % 2 ^ 64)))) ∧
  (∀ (s : State) t q c u, t < 6144 → s.heads t q 7 c u → let S := (u.tile t).getDesc (c.w.f 127 124)
    let D := (u.tile t).getDesc (c.w.f 123 120)
    s.asks (.cvt t q) t c (s.cvtPages t c) ∧ (s.pagesKnown t c (s.cvtPages t c) →
    (u.cvtStatus t c S D ≠ 0 → exec (.cvt t q) s = .next (u.finishCmd t c (u.cvtStatus t c S D) 0 false false)) ∧
    (u.cvtStatus t c S D = 0 → (u.planeWaits t c false (expAddrs S) ≠ [] ∨ u.planeWaits t c true (expAddrs D) ≠ []) → exec (.cvt t q) s =
      .next (((u.askPlane c false (u.planeWaits t c false (expAddrs S))).askPlane c true (u.planeWaits t c true (expAddrs D))).putStream t (.start c S D 0))) ∧
    (u.cvtStatus t c S D = 0 → u.planeWaits t c false (expAddrs S) = [] → u.planeWaits t c true (expAddrs D) = [] →
      ∀ v xs, u.readExps t c (expAddrs S) = (v, xs, .fin) → v.expsWritable t c (expAddrs D) = .fin →
      let errs := (List.range (dRows S)).flatMap fun i => (List.range (dCols S)).flatMap fun j =>
        [v.srcErr S xs i j, if j % 32 = 31 ∧ v.expLost t c D i (j / 32) = true then 0x10 else 0]
      ∃ w, exec (.cvt t q) s = .next w ∧ w.doneAs t c ((errs.find? (· != 0)).getD 0) ∧ (isBfp (dFmt D) = false → s.rowsOnly w D)))) ∧
  (∀ (s : State) t q c u, s.heads t q 1 c u → let x := u.tile t
    let (S, R, A) := (x.getDesc (c.w.f 127 124), x.getDesc (c.w.f 123 120), x.getDesc (c.w.f 119 116))
    (State.cldStatus t c S R A ≠ 0 → exec (.cld t q) s = .next (u.finishCmd t c (State.cldStatus t c S R A) 0 false false)) ∧
    (State.cldStatus t c S R A = 0 → ∃ v, exec (.cld t q) s = .next v ∧ v = { s with tiles := v.tiles } ∧
      ∃ y ∈ (v.tile t).streams, y.cmd = c ∧ y.sdx = S ∧ y.rdx = R ∧ y.adx = A ∧ y.counted = [] ∧ y.done = 0)) ∧
  (∀ (s : State) t q c u,
    (s.heads t q 0x10 c u → (u.saveStart t c .store = none → exec (.save t q) s = .next (u.finishCmd t c 6 0 false false)) ∧
      ∀ n fs, u.saveStart t c .store = some (n, fs) → ∃ v, exec (.save t q) s = .next v ∧
        (s.tileBad n = true → v.doneAs t c 0x10) ∧ (s.tileBad n = false → v.doneAs t c 0 ∧ u.snapshot n fs ∈ v.saves)) ∧
    (s.heads t q 0x11 c u → (u.saveStart t c .load = none → exec (.rstr t q) s = .next (u.finishCmd t c 6 0 false false)) ∧
      ∀ n fs, u.saveStart t c .load = some (n, fs) →
        (u.validSave n fs = none → exec (.rstr t q) s = .next (u.finishCmd t c 6 0 false false)) ∧
        ∀ x, u.validSave n fs = some x → ∃ v, exec (.rstr t q) s = .next v ∧ (s.areaBad fs = true → v.doneAs t c 0x10 ∧ s.bytesKept v) ∧
          (s.areaBad fs = false → v.doneAs t c 0 ∧ (v.tile n).ctx = x.tile.ctx ∧ (v.tile n).desc = x.tile.desc ∧ (v.tile n).drain = .drained ∧
            (Memory.wf x.mem = true → ∀ k, inTile n k = true → v.mem.read k = x.mem.read k) ∧
            (Store.wf Thread.none x.threads = true → ∀ y ∈ x.threads, v.thr y.1 = y.2)))) ∧
  (∀ (s : State) t q k f, q < 4 → ((s.tile t).finished.filter fun f => f.cmd.q == q)[k]? = some f → (s.tile t).purge = false → (s.tile t).purgeQ3 = false →
    let e := f.element
    let posted := fun (v : State) => (v.tile t).finished = (s.tile t).finished.filter (fun g => g.cmd.cid != f.cmd.cid) ∧
      (f.cmd.toEvq = true → (v.tile t).evq = (s.tile t).evq ++ [e] ∧ (v.tile t).comp = (s.tile t).comp) ∧
      (f.cmd.toEvq = false → (v.tile t).evq = (s.tile t).evq ∧ (v.tile t).comp.toList.getD q [] = (s.tile t).comp.toList.getD q [] ++ [e])
    (getF e 0 16 = f.cmd.w.tag ∧ getF e 16 8 = f.status.toNat ∧ getF e 24 1 = f.ovf.toNat ∧ getF e 25 1 = f.inv.toNat ∧ getF e 26 2 = q ∧
      getF e 28 4 = 0 ∧ getF e 32 32 = f.info.toNat) ∧
    (f.cmd.w.bar = 0 ∨ barrierBits f.status.toNat f.ovf f.inv = 0 → ∃ v, exec (.completionPost t q k) s = .next v ∧ posted v ∧ v = { s with tiles := v.tiles }) ∧
    (f.cmd.w.bar ≠ 0 → barrierBits f.status.toNat f.ovf f.inv ≠ 0 → f.cmd.w.bar < 2 ^ 47 → s.pageKnown t f.cmd (f.cmd.w.bar / 65536) = false →
      exec (.completionPost t q k) s = .next (s.askPage t f.cmd (f.cmd.w.bar / 65536))) ∧
    ∀ key pte, f.cmd.w.bar ≠ 0 → (f.cmd.w.bar < 2 ^ 47 → s.pageKnown t f.cmd (f.cmd.w.bar / 65536) = true) → barrierBits f.status.toNat f.ovf f.inv ≠ 0 → s.engTarget t f.cmd f.cmd.w.bar 16 true = .at_ key pte →
      ((isHbm key = true ∧ key + 16 ≤ 2 ^ 47) ∨ (isPad key = true ∧ key < fabricBase)) → key % 16 = 0 → pte.getLsbD 10 = false → s.bad (key + 12) 4 = false →
      s.mergeBad (key + 12) 4 0xF pte = false → s.frameHeld key = false → s.memReady key 16 pte = true →
      (∀ j < 4, fixedBits (key + 12 + j) = 0) → s.homeCheck (f.cmd.req ⟨key, BitVec.ofNat 64 f.cmd.w.bar, 16, 0, 0xFFFF, pte, 0, false⟩) ⟨key, BitVec.ofNat 64 f.cmd.w.bar, 16, 0, 0xFFFF, pte, 0, false⟩ = .ok →
      ∃ v, exec (.completionPost t q k) s = .next v ∧ posted v ∧ v.rdN (key + 12) 4 = Nat.lor (s.rdN (key + 12) 4) (barrierBits f.status.toNat f.ovf f.inv) ∧
        ∀ a, outside a (key + 12) 4 → v.rdByte a = s.rdByte a)

/-- A contracting load's sector (R64 to R66). Its reply is read once its page is translated, and what it carries for an
element enters the accumulator: in ANCHORED mode the sum of the finite products, truncated toward −∞ and limited, is added
modulo 2^144; in FAST mode the rounded sum is added with one rounding. No other byte changes. The last sector ends the
load, with its count of sectors and of those that carried row data (R305). That a contribution of exactly zero in FAST mode is +0 is the
model's choice (log 54, R66). -/
def Obligations.ContractingLoads : Prop :=
  (∀ (s : State) t k sec y, (s.tile t).streams[k]? = some y → y.cmd.w.op = 1 → y.stall = none → sec < y.live → (∀ x ∈ y.got, x.1 ≠ sec + 1) →
    ∀ u z, s.issueTo t sec (sec + 1) y = (u, z, .fin) → exec (.cldSectorReply t k sec) s = .next (u.readSector t z sec)) ∧
  (∀ (s : State) t k sec y v x, t < 6144 → (s.tile t).streams[k]? = some y → y.cmd.w.op = 1 → y.stall = none → y.stop = none → y.err = 0 → sec < y.len → sec < y.done →
    sec ∉ y.counted → (∀ g ∈ y.got, g.1 ≠ sec + 1 ∧ g.1 ≠ sec + 2 ∧ g.2.2 = 0) → (y.straddles sec = true → sec ≠ 0 ∧ ∃ g ∈ y.got, g.1 = sec) →
    s.upsets = [] → State.cldStatus t y.cmd y.sdx y.rdx y.adx = 0 → s.streamRead t y (y.at_ sec) 32 (hintOf y.cmd.w 110) = (v, .data x 0) →
    let z := { y with got := (sec + 1, BitVec.ofNat 256 x, 0) :: y.got }
    ∃ u, exec (.cldSectorReply t k sec) s = .next u ∧ s.rowsOnly u y.adx ∧
      (dAnch y.adx = true → ∀ row < dRows y.adx, ∀ j < dCols y.adx, let key := elemKey y.adx 16 row j
        u.getX key = bitsOf 144 (s.getX key + clampInt anchMin anchMax (floorShift (finiteSum (s.productsFor z sec row j)) (-204 - dAnchor y.adx)))) ∧
      (dAnch y.adx = false → ∀ row < dRows y.adx, ∀ j < dCols y.adx, let key := elemKey y.adx 4 row j
        let ps := s.productsFor z sec row j
        u.rdN key 4 = if ps = [] then s.rdN key 4 else (FF.f32.add 0 0 (s.rdN key 4) (ps.foldl Ctr.add (.fin 0)).toF32.1).1 % 2 ^ 32) ∧
      ((∀ e ∈ y.elemsIn sec, z.elemVal e.1 e.2 (z.elemBits sec e.1 e.2) ≠ none) → (∀ i < y.len, i = sec ∨ i ∈ y.counted) →
        ∃ f ∈ (u.tile t).finished, f.cmd = y.cmd ∧ f.status = 0 ∧
          f.info = BitVec.ofNat 32 (min (((List.range y.len).filter y.carries).length * 65536 + y.len) 0xFFFFFFFF)))
/-! ## Dispatch, recovery and boot (R97, R98, R103 to R107, R123, R125, R162 to R164, R182 to R186, R189, R352, R354, R355) -/

/-- Launches, drains, scans, wear, boot and the management port. A launch message that has come is queued and accepted, or
rejected with the first check that fails (R104, R105). A decision takes the head of the first class whose tiles are free and
starts one task on each tile, with its index, the count and LAUNCHID in s0 to s2 (R106, R107); class 3 waits for a waiting
class 0, and a class-0 launch without .data pre-empts (R106, R123). A task retires once its threads have ended, and no request
waits on for its launch in the tile; the last one sends the completion record (R97, R98, R107). Victims thaw once no
pre-empting thread is left (R125). A drain that has settled freezes the supervisors and gives DUSK 0, and a DUSK that came
meanwhile 1 (R182, R183, R235); LCMW at the map moves a drained tile and clears it (R186, R236). A scan's block counts on, or
its failure fences the scanned slot; its clear starts fresh supervisors (R184, R185, R354, R355). WEAR is updated with the
powered time and logged (R189); DAWN steps on or holds (R163); a quote and the management port's items hold what the spec
lists (R164, R352). The model's choices are which failure of a firmware image has which code of DAWN-HOLD (log 25) and the layouts of
the management port's answers (log 26). -/
def Obligations.DispatchAndRecovery : Prop :=
  (∀ (s : State) die sg g ep (hdr : BitVec 512) list, (∀ n < 4, (s.link (40 + 4 * die + n)).inbox.head? ≠ some (.launch sg g ep hdr list)) →
    exec (.launch die sg g ep hdr list) s = .next s) ∧
  (∀ (s : State) u die sg g ep (hdr : BitVec 512) list, die < 6 → sg < 8 → g < 16 → s.dawn.stage = 5 → s.dawn.hold = 0 → s.brings die (.launch sg g ep hdr list) u →
    let lid := BitVec.ofNat 32 (getF hdr 128 32)
    let sends := fun (t : State) (a : BitVec 128) => t.answers = s.answers ++ [⟨ep, a⟩] ∧ ∃ p, t.packets = s.packets ++ [p] ∧ p.load = .out ∧ p.dst = 64 + ep
    let rejects := fun (k d : Nat) => ∃ t a, exec (.launch die sg g ep hdr list) s = .next t ∧
      t = { u with answers := t.answers, packets := t.packets, nextPkt := t.nextPkt, ports := t.ports } ∧ (k ≠ 9 → k ≠ 10 → t.ports = u.ports) ∧ sends t a ∧
      getF a 0 32 = lid.toNat ∧ getF a 32 8 = 2 ∧ getF a 40 8 = k ∧ getF a 64 16 = d
    (getF hdr 384 128 ≠ 0 → rejects 1 0) ∧
    (∀ k d, u.launchOf die ep hdr list = .error (k, d) → k < 256 → d < 65536 → rejects k d) ∧
    (getF hdr 384 128 = 0 → getF hdr 317 3 = 0 → getF hdr 297 7 = 0 → (getF hdr 296 1 = 1 → getF hdr 320 64 = 0) →
      (lid = 0 → rejects 2 0) ∧ (lid ≠ 0 → (∃ x ∈ s.launches, x.lid = lid) → rejects 3 0) ∧
      (lid ≠ 0 → (∀ x ∈ s.launches, x.lid ≠ lid) → getF hdr 296 1 = 1 → ∀ i w, i < getF hdr 304 13 → list[i]? = some w → 6143 < w.toNat →
        (∀ j v, j < i → list[j]? = some v → v.toNat ≤ 6143) → i < 65536 → rejects 4 i)) ∧
    ∀ x, u.launchOf die ep hdr list = .ok x → ∃ t a, exec (.launch die sg g ep hdr list) s = .next t ∧ sends t a ∧
      t = { u with launches := s.launches ++ [x], dies := t.dies, answers := t.answers, packets := t.packets, nextPkt := t.nextPkt, ports := t.ports } ∧
      (t.die die).queue = (s.die die).queue ++ [x.lid] ∧ getF a 0 32 = x.lid.toNat ∧ getF a 32 8 = 1) ∧
  (∀ (s : State) die (c : BitVec 2) x, (∀ b, b < c → s.classHead die b = none) → s.classHead die c = some x → (∀ t ∈ x.tiles, s.tileFree t = true) →
    x.dataLen = 0 → x.tiles.Nodup → ∃ u, exec (.dispatch die) s = .next u ∧ (x.die = die → x.lid ∉ (u.die die).queue) ∧
      (∀ y ∈ u.launches, y.lid = x.lid → y.phase = .running) ∧
      ∀ t i, x.tiles[i]? = some t → let th := lcoreOfT t 0 * 20
        (u.thr th).occ = true ∧ (u.thr th).pos = 0 ∧ (u.thr th).kind = .task ∧ (u.thr th).ctx = x.ctx ∧ (u.thr th).lid = x.lid ∧ (u.thr th).cls = x.cls ∧
        (u.thr th).part = false ∧ (u.getWs th).pc = x.entry ∧ (u.getWs th).getS 0 = BitVec.ofNat 64 i ∧
        (u.getWs th).getS 1 = BitVec.ofNat 64 x.tiles.length ∧ (u.getWs th).getS 2 = x.lid.setWidth 64 ∧
        (∀ r, 3 ≤ r.toNat → (u.getWs th).getS r = 0) ∧ x.lid ∈ (u.tile t).tasks) ∧
  (∀ (s : State) die x y, s.classHead die 0 = some x → (∃ t ∈ x.tiles, s.tileFree t = false) → (x.dataLen ≠ 0 ∨ ∃ t ∈ x.tiles, s.mayPreempt x.lid t = false) →
    s.classHead die 1 = none → s.classHead die 2 = none → s.classHead die 3 = some y → exec (.dispatch die) s = .next s) ∧
  (∀ (s : State) die x, s.classHead die 0 = some x → (∃ t ∈ x.tiles, s.tileFree t = false) → x.dataLen = 0 → (∀ t ∈ x.tiles, s.mayPreempt x.lid t = true) →
    x.tiles.Nodup → ∃ u, exec (.dispatch die) s = .next u ∧ ∀ t ∈ x.tiles, (s.tile t).live 3 = [] ∧ ∀ w pos, s.partPlace (lcoreOfT t 0) x.lid = some (w, pos) →
      let th := lcoreOfT t 0 * 20 + w
      w = 16 ∧ (u.thr th).occ = true ∧ (u.thr th).part = true ∧ (u.thr th).pos = pos ∧ (u.thr th).lid = x.lid ∧ (u.getWs th).pc = x.entry ∧
        ∀ k ∈ s.threadsOn (lcoreOfT t 0), (s.thr k).pos = pos → u.thr k = { s.thr k with pfrz := true }) ∧
  (∀ (s : State) lid t x, (s.launches.find? fun x => x.lid == BitVec.ofNat 32 lid && x.phase == .running && x.left.contains t) = some x →
    s.mayRetire (BitVec.ofNat 32 lid) t = true → ∃ u, exec (.taskRetire lid t) s = .next u ∧
      (u.tile t).tasks = (s.tile t).tasks.filter (fun l => l != BitVec.ofNat 32 lid) ∧
      (∀ r ∈ u.net, r.isParked = true → ∀ p l, r.parts = p :: l → inTile t p.key = true → u.gone r.ctx r.lid p.key = false) ∧
      (∀ r ∈ u.net, r.isParked = true → r.parts = [] → ofTile t r.homeCore = true → u.gone r.ctx r.lid (padKey r.homeCore 0) = false) ∧
      ((∀ k ∈ x.left, k = t) → u.answers = s.answers ++ [⟨x.ep, answerPayload x.lid 3 0 x.exit.toNat⟩] ∧ ∀ y ∈ u.launches, y.lid ≠ x.lid) ∧
      ((∃ k ∈ x.left, k ≠ t) → u.answers = s.answers ∧ { x with left := x.left.filter fun k => k != t } ∈ u.launches)) ∧
  (∀ (s : State) core, ((∃ k ∈ s.threadsOn core, (s.thr k).part = true) → exec (.preemptThaw core) s = .next s) ∧
    ((∀ k ∈ s.threadsOn core, (s.thr k).part = false) → ∃ u, exec (.preemptThaw core) s = .next u ∧ u = { s with threads := u.threads } ∧
      (∀ k ∈ s.threadsOn core, u.thr k = { s.thr k with pfrz := false }) ∧ ∀ k, k ∉ s.threadsOn core → u.thr k = s.thr k)) ∧
  (∀ (s : State) t th seq l, (s.tile t).drain = .draining ((th, seq) :: l) → (s.tile t).streams = [] → (s.tile t).finished = [] → s.net.any (s.onItsWay t) = false →
    s.answersOut t = false → s.supersDone t = true → s.allStopped t = true → ∃ u, exec (.drainComplete t) s = .next u ∧ (u.tile t).drain = .drained ∧ s.bytesKept u ∧
      (∀ k ∈ s.tileThreads t, (u.thr k).sfrz = true ∧ (u.thr k).stopped = true) ∧
      (∀ x ∈ (th, seq) :: l, ∀ p ∈ (s.thr x.1).pend, p.src.seq = x.2 → p.kind = .value → p.ready = false → p.rid = none → ∀ r v, p.writes = [.s r v] →
        { p with ready := true, writes := [.s r (if x = (th, seq) then 0 else 1)] } ∈ (u.thr x.1).pend) ∧
      ∀ r, s.isReq r.rid r → r.isParked = true →
        (ofTile t r.lcore = true → ofTile t r.homeCore = false → r.parts ≠ [] → { r with st := .withdrawn } ∈ u.net) ∧
        (ofTile t r.lcore = false → ofTile t r.homeCore = true → { r with st := .drained s.tick } ∈ u.net)) ∧
  (∀ (s : State) rid r p t slot, s.partDue rid 0 r p → r.kind = .lcmw t slot → s.holds r = true → r.parts = [p] → p.key < fabricBase → ofTile t r.lcore = false →
    coreOfTh r.th = r.lcore →
    ((129 < slot ∨ (s.tile t).drain ≠ .drained ∨ s.fenced.contains (sgKeyOfT t * 256 + slot) = true ∨ s.slotTaken t slot = true) →
      ∃ u, exec (.requestArrival rid 0) s = .next u ∧ u.slotOf t = s.slotOf t ∧ ∃ q, u.req rid = some q ∧ q.st = .answered (some (cAccess, 23, none)) 0) ∧
    (slot ≤ 129 → (s.tile t).drain = .drained → s.fenced.contains (sgKeyOfT t * 256 + slot) = false → s.slotTaken t slot = false →
      ∃ u, exec (.requestArrival rid 0) s = .next u ∧ u.slotOf t = slot ∧ (∀ k, k ≠ t → u.slotOf k = s.slotOf k) ∧
        (∃ q, u.req rid = some q ∧ q.st = .answered none (BitVec.ofNat 64 (s.slotOf t))) ∧
        (s.slotOf t ≠ slot → (∀ k, inTile t k = true → wsOf k = none → u.rdByte k = 0) ∧ (∀ k ∈ s.tileThreads t, (u.thr k).occ = false) ∧
          (u.tile t).queues = Tile.zero.queues ∧ (u.tile t).comp = Tile.zero.comp ∧ (u.tile t).tasks = []))) ∧
  (∀ (s : State) t x, (s.tile t).scan = some x → x.result = none → s.tick ≥ x.startedAt + (x.block + 1) * 6250 →
    (x.block ≠ 63 → ∃ u, exec (.scanBlockDone t true) s = .next u ∧ u = { s with tiles := u.tiles } ∧ (u.tile t).scan = some { x with block := x.block + 1 }) ∧
    (x.block = 63 → ∃ u, exec (.scanBlockDone t true) s = .next u ∧ u = { s with tiles := u.tiles } ∧ (u.tile t).scan = some { x with result := some 0 }) ∧
    ∃ u, exec (.scanBlockDone t false) s = .next u ∧ s.bytesKept u ∧ (sgKeyOfT t * 256 + x.slot) ∈ u.fenced ∧
      (u.tile t).scan = some { x with result := some (BitVec.ofNat 64 (1 + x.block * 2 ^ 16)) } ∧
      let l := portOf (lcoreOfT t 0)
      ((s.port l).errlog.length < 64 → ∃ e, (u.port l).errlog = (s.port l).errlog ++ [e] ∧ getF e 56 7 = 9)) ∧
  (∀ (s : State) t x, (s.tile t).scan = some x → x.result = none → s.urgent t = true → ∃ u, exec (.scanAbort t) s = .next u ∧ u = { s with tiles := u.tiles } ∧
    (u.tile t).scan = some { x with result := some 0x16, aborted := true }) ∧
  (∀ (s : State) t x v, (s.tile t).scan = some x → x.result = some v → ∃ u, exec (.scanClearDone t) s = .next u ∧ (u.tile t).scan = none ∧
    (u.tile t).drain = (if x.aborted then .no else (s.tile t).drain) ∧ (∀ k, inTile t k = true → wsOf k = none → u.rdByte k = 0) ∧
    (∀ i < 4, let k := lcoreOfT t i * 20 + 15
      k ≠ x.th → u.thr k = { Thread.none with occ := true, pos := 15, kind := .super, sfrz := !x.aborted } ∧ (u.getWs k).pc = s.dawn.entry) ∧
    (ofTile t (coreOfTh x.th) = false → ∀ p ∈ (s.thr x.th).pend, p.src.seq = x.seq → p.kind = .value → p.ready = false → p.rid = none → ∀ r w, p.writes = [.s r w] →
      { p with ready := true, writes := [.s r v] } ∈ (u.thr x.th).pend)) ∧
  (∀ (s : State) sg drift hours pred, sg < 48 → drift < 65536 → pred < 65536 → let w := Store.get WearSt.zero s.wear sg
    (hours ≠ min (s.tick / (16 * hourCycles)) 0xFFFF → exec (.wear sg drift hours pred) s = .next s) ∧
    (hours = min (s.tick / (16 * hourCycles)) 0xFFFF → s.tick ≥ w.at_ + 24 * hourCycles →
      ∃ u, exec (.wear sg drift hours pred) s = .next u ∧ u = { s with wear := u.wear, ports := u.ports } ∧
      let x := u.pageRead (portOfGroup (sg * 16)) 0x58
      getF x 32 16 = drift ∧ getF x 16 16 = hours ∧ getF x 0 16 = pred ∧ getF x 48 16 = 0 ∧
      let log := fun (z : State) => (z.port (portOfGroup (sg * 16))).errlog
      (pred < 6 → 6 ≤ w.pred.toNat → (log s).length < 64 → ∃ e, log u = log s ++ [e] ∧ getF e 56 7 = 10) ∧
      (6 ≤ pred → log u = log s))) ∧
  (∀ s : State, s.dawn.hold = 0 →
    let holds := fun (ok : Bool) (n : Nat) => ∃ u, exec (.dawn ok) s = .next u ∧ u = { s with dawn := { s.dawn with hold := n, reported := s.dawn.reported ++ [n] } }
    (s.dawn.stage = 1 → (∃ u, exec (.dawn true) s = .next u ∧ u = { s with dawn := { s.dawn with stage := 2 }, fenced := [] }) ∧ holds false 1) ∧
    (s.dawn.stage = 4 → holds false 5 ∧
      ∃ u, exec (.dawn true) s = .next u ∧ u.dawn.stage = 5 ∧ u.dawn.hold = 0 ∧ u.ctxbase = Config.fwCtxbase s.dawn.image ∧ u.dawn.readyAt = s.tick ∧
        ∀ l, namesCore l = true → u.thr (l * 20 + 15) = { Thread.none with occ := true, pos := 15, kind := .super } ∧ (u.getWs (l * 20 + 15)).pc = s.dawn.entry)) ∧
  (∀ (s : State) v image sigR sigS keyR keyS secVer (entry : BitVec 48), s.dawn.stage = 2 ∨ s.dawn.hold ≠ 0 →
    s.brings 0 (.firmware image sigR sigS keyR keyS secVer entry) v →
    let d := Config.sha384 image
    let keyOk := Config.sha384 keyR = Config.fusedKeyR
    let keyOk' := Config.sha384 keyS = Config.fusedKeyS
    let holds := fun (n : Nat) => ∃ u, exec (.firmwareImage image sigR sigS keyR keyS secVer entry) s = .next u ∧
      u = { v with dawn := { s.dawn with stage := 3, hold := n, reported := s.dawn.reported ++ [n] } }
    (¬(keyOk ∧ Config.rsaVerify keyR d.toList sigR = true) → holds 2) ∧
    (keyOk ∧ Config.rsaVerify keyR d.toList sigR = true → ¬(keyOk' ∧ Config.slhVerify keyS d.toList sigS = true) → holds 3) ∧
    (keyOk ∧ Config.rsaVerify keyR d.toList sigR = true → keyOk' ∧ Config.slhVerify keyS d.toList sigS = true →
      (secVer < Config.fusedMinVersion → holds 4) ∧
      (Config.fusedMinVersion ≤ secVer → ∃ u, exec (.firmwareImage image sigR sigS keyR keyS secVer entry) s = .next u ∧
        u = { v with dawn := { s.dawn with stage := 4, hold := 0, image := image, digest := d.toList, version := secVer, entry := entry } }))) ∧
  (∀ (s : State) (nonce : List (BitVec 8)), nonce.length = 32 → 4 ≤ s.dawn.stage → ∃ u q, exec (.attestationQuote nonce) s = .next u ∧ u = { s with dawn := { s.dawn with quote := u.dawn.quote } } ∧
    q = nonce ++ s.dawn.digest ++ Config.fusedIdentity.toList ++ leBytes 4 s.dawn.version ∧ u.dawn.quote = q ++ (Config.rsaSign q).toList ++ (Config.slhSign q).toList ∧
    (s.dawn.digest.length = 48 → q.length = 100 ∧ u.dawn.quote.length = 100 + 384 + 16224)) ∧
  (∀ s : State, (∀ i, ∃ u, exec (.managementQuery i) s = .next u ∧ u = { s with mgmt := u.mgmt }) ∧
    (∃ u, exec (.managementQuery 0) s = .next u ∧ u.mgmt = [BitVec.ofNat 64 (s.dawn.stage + s.dawn.hold * 256)]) ∧
    (∃ u, exec (.managementQuery 1) s = .next u ∧ u.mgmt = [BitVec.ofNat 64 (s.thermal.toNat + s.inlet * 256)]) ∧
    (∃ u, exec (.managementQuery 2) s = .next u ∧ u.mgmt = [BitVec.ofNat 64 (((List.range 6).map fun d => (s.die d).power).foldl (· + ·) 0)]) ∧
    (∃ u, exec (.managementQuery 3) s = .next u ∧ u.mgmt = (List.range 48).map fun sg => s.pageRead (portOfGroup (sg * 16)) 0x58) ∧
    ∃ u, exec (.managementQuery 4) s = .next u ∧ ∀ e, e ∈ u.mgmt ↔ ∃ p ∈ s.ports, e ∈ p.2.errlog ∧ (getF e 56 7 = 7 ∨ getF e 56 7 = 8 ∨ getF e 56 7 = 9))

/-! ## Collectives, memory controllers, the fabric and the links (R128 to R137, R139, R143 to R146, R180, R309, R343 to R351) -/

/-- Trees, collectives, controllers and links. TREELD loads a checked table into its slot, CLGO starts a checked command
block, or both fail in the storing thread (R350, R351); values are combined in the children's order, the complete partial goes
to the parent, and the end writes the result and DONE and goes on to the children (R351). A budget period grants what has
waited 8 periods and what the units cover (R146, R343); a hot page starts to move to a free frame, a PIN page is counted, and
at the end the frame's bytes stand in the new one, which the leaf entry names (R144). Of the requests that meet at a bank or a
butterfly the oldest goes on and the others are sent again (R130). A controller serves what row hits have passed 64 times, else
the oldest row hit, else the oldest (R136); an activation that passes a level makes its bank due for a refresh-management
command, which blocks it, as a refresh does (R136, R137); a block's code is the first whose condition holds (R139); an
allocation takes frames of its die's next channels (R143). A mesh flit moves towards its node and leaves there, starving
routers alone inject, a complete packet is taken or refused (R131 to R134). A whole packet goes onto a link that has room for
it, and on from its far end (R135); a link takes flits in sequence, replays, retrains, and goes down after three failures, and
its packets take another (R180, R181, R346). An inbound request that has come is denied, held, or performed (R347); a revoked
window answers gone, and a granted one does not (R348). The model's choices are a die's sixth of the module budget (log 51), the
deficit of a budget that is negative before any grant (log 54, R146), and a value of another length as a participant that has failed
(log 24). -/
def Obligations.ControllersAndNetwork : Prop :=
  (∀ n i e, treeBad n i e = true ↔ (e / 2 ^ 28 % 16 ≠ 0 ∨ (i = 0 ∧ e % 65536 ≠ 65535) ∨ (0 < i ∧ (e % 65536 = i ∨ n ≤ e % 65536 ∨ i < e % 65536)))) ∧
  (∀ (s : State) die (v : BitVec 64) r j q x, die < 6 → s.pageStore (unitPort die) 0x60 (· == v) = some (r, j, q, x) → s.homeCheck r q = .ok → r.kind = .page → s.holds r = true →
    (∀ c ∈ (s.die die).colls, c.slot ≠ getF v 48 4) →
    (∀ e, s.readTree (unitPort die) (getF v 3 45 * 8) = .error e → exec (.treeld die v) s = .next (s.unitFail (unitPort die) r e)) ∧
    ∀ t, s.readTree (unitPort die) (getF v 3 45 * 8) = .ok t → ∃ u, exec (.treeld die v) s = .next u ∧ s.bytesKept u ∧
      ((u.die die).trees.find? fun x => x.1 == getF v 48 4) = some (getF v 48 4, t) ∧
      (∃ a, u.req r.rid = some a ∧ a.st = .answered none 0) ∧
      ∀ k, k ≠ getF v 48 4 → ((u.die die).trees.find? fun x => x.1 == k) = (s.die die).trees.find? fun x => x.1 == k) ∧
  (∀ (s : State) die (v : BitVec 64) r j q x, die < 6 → s.pageStore (unitPort die) 0x68 (· == v) = some (r, j, q, x) → s.homeCheck r q = .ok → r.kind = .page → s.holds r = true →
    (8 ≤ (s.die die).colls.length → ∃ u, exec (.clgo die v) s = .next u ∧ ∃ a, u.req r.rid = some a ∧ a.st = .refused) ∧
    ((s.die die).colls.length < 8 →
    (v.toNat % 32 ≠ 0 → exec (.clgo die v) s = .next (s.failReq r cAccess 24 none)) ∧
    ∀ w, v.toNat % 32 = 0 → s.unitRead (unitPort die) v.toNat 8 4 = .ok w →
      ((blockBad w = true ∨ ∀ t ∈ (s.die die).trees, t.1 ≠ fld (w.getD 2 0) 32 4) → exec (.clgo die v) s = .next (s.failReq r cAccess 24 none)) ∧
      ∀ t, ((s.die die).trees.find? fun x => x.1 == fld (w.getD 2 0) 32 4) = some t → blockBad w = false → ∃ u c, exec (.clgo die v) s = .next u ∧ s.bytesKept u ∧
        (u.die die).colls = (s.die die).colls ++ [c] ∧ c.slot = t.1 ∧ c.op = fld (w.getD 2 0) 40 2 ∧ c.len = fld (w.getD 2 0) 0 32 ∧
        c.src = BitVec.ofNat 64 (w.getD 0 0) ∧ c.dst = BitVec.ofNat 64 (w.getD 1 0) ∧ c.done = BitVec.ofNat 64 (w.getD 3 0) ∧ c.waiting = treeChildren t.2 ∧
        (treeChildren t.2 = [] → treeSelf t.2 ≠ 0 → c.failed = false → let parent := treeParent t.2 (treeSelf t.2)
          u.collOut = s.collOut ++ [⟨die, t.1, treeEp t.2 parent, treeSelf t.2, .part c.acc⟩]))) ∧
  (∀ (s : State) v die k c data, (s.die die).colls[k]? = some c → ∀ t, ((s.die die).trees.find? fun x => x.1 == c.slot) = some t →
    let after := fun (d : Coll) (child : Nat) (out : List CollMsg) => s.brings die (.value k child data) v →
      ∃ u, exec (.collectiveValueReceived die k child data) s = .next u ∧
        u = { v with dies := u.dies, collOut := s.collOut ++ out, packets := u.packets, nextPkt := u.nextPkt } ∧ (u.die die).colls = (s.die die).colls.set k d
    let parent := treeParent t.2 (treeSelf t.2)
    (∀ child i l, c.waiting = child :: i :: l → data.length = c.len → c.early = [] →
      after { c with acc := collBytes c.op c.acc data, waiting := i :: l } child []) ∧
    (∀ child, c.waiting = [child] → data.length = c.len → c.early = [] → c.failed = false → let acc := collBytes c.op c.acc data
      after { c with acc := acc, waiting := [] } child (if treeSelf t.2 = 0 then [] else [⟨die, c.slot, treeEp t.2 parent, treeSelf t.2, .part acc⟩])) ∧
    (∀ child i l, c.waiting = i :: l → child ∈ l → child ≠ i → data.length = c.len → c.early = [] → after { c with early := [(child, data)] } child []) ∧
    (∀ child, child ∈ c.waiting → data.length ≠ c.len → after { c with failed := true } child []) ∧
    (treeSelf t.2 ≠ 0 → c.waiting = [] → data.length = c.len → after { c with result := some data } parent [])) ∧
  (∀ (s : State) die k c bs, (s.die die).colls[k]? = some c → let l := unitPort die
    let left := fun (u : State) => (u.die die).colls = (s.die die).colls.eraseIdx k
    (s.collEnd die c = none → exec (.collectiveDone die k) s = .next s) ∧
    (s.collEnd die c = some none → onchip l c.done.toNat 8 = some c.done.toNat → spaceOf c.done.toNat = 0 → c.done.toNat < 2 ^ 48 → fld c.done.toNat 46 2 = 3 →
      ∃ u, exec (.collectiveDone die k) s = .next u ∧ left u ∧ (∀ i < 8, u.rdByte (c.done.toNat + i) = s.storedByte (c.done.toNat + i) (if i = 0 then 0xC else 0)) ∧
        (∀ t, ((s.die die).trees.find? fun x => x.1 == c.slot) = some t → u.collOut = s.collOut ++
          ((if treeSelf t.2 = 0 then [] else [treeParent t.2 (treeSelf t.2)]) ++ treeChildren t.2).map fun i => ⟨die, c.slot, treeEp t.2 i, treeSelf t.2, .gone⟩) ∧
        ∀ a, outside a c.done.toNat 8 → u.rdByte a = s.rdByte a) ∧
    (s.collEnd die c = some (some bs) → ∃ u, exec (.collectiveDone die k) s = .next u ∧ left u ∧
      (∀ t, ((s.die die).trees.find? fun x => x.1 == c.slot) = some t →
        u.collOut = s.collOut ++ (treeChildren t.2).map fun i => ⟨die, c.slot, treeEp t.2 i, treeSelf t.2, .result bs⟩) ∧
      (bs.length = c.len → c.len % 64 = 0 → onchip l c.dst.toNat c.len = some c.dst.toNat → onchip l c.done.toNat 8 = some c.done.toNat →
        spaceOf c.dst.toNat = 0 → spaceOf c.done.toNat = 0 → c.dst.toNat < 2 ^ 48 → c.done.toNat < 2 ^ 48 → fld c.dst.toNat 46 2 = 3 → fld c.done.toNat 46 2 = 3 →
        (c.done.toNat + 8 ≤ c.dst.toNat ∨ c.dst.toNat + c.len ≤ c.done.toNat) →
        (∀ i b, bs[i]? = some b → u.rdByte (c.dst.toNat + i) = s.storedByte (c.dst.toNat + i) b) ∧
        (∀ i < 8, u.rdByte (c.done.toNat + i) = s.storedByte (c.done.toNat + i) (if i = 0 then 1 else 0)) ∧
          ∀ a, outside a c.dst.toNat c.len → outside a c.done.toNat 8 → u.rdByte a = s.rdByte a))) ∧
  (∀ (s : State) die measured inlet junction, die < 6 →
    (s.tick < (s.die die).nextAt → exec (.budgetPeriod die measured inlet junction) s = .next s) ∧
    ((s.die die).nextAt ≤ s.tick → let next := (s.tick / Config.cyclesPerUs + 1) * Config.cyclesPerUs
      let s' := (s.readInlet inlet).modDie die fun d => { d with nextAt := next, hot := hotNext d.hot 105 junction, power := measured }
      ∃ u, exec (.budgetPeriod die measured inlet junction) s = .next u ∧ s.bytesKept u ∧
        ((∀ d < 6, (s.die d).nextAt ≤ s.tick) → u.inlet = inlet ∧ u.inletHot = hotNext s.inletHot 45 inlet) ∧
        (∀ d < 6, s.tick < (s.die d).nextAt → u.inlet = s.inlet ∧ u.inletHot = s.inletHot) ∧
        (u.die die).nextAt = next ∧ (u.die die).hot = hotNext (s.die die).hot 105 junction ∧ (∀ d, d ≠ die → u.die d = s.die d) ∧
        (u.thermal = true → u.tiles = s.tiles ∧ (u.die die).power = measured) ∧
        (u.thermal = false → Store.wf Tile.zero s.tiles = true →
          (∀ x ∈ s'.waitingCmds die, 8 ≤ x.2.1.waited → ∃ q ∈ (u.tile x.1).queues.toList, { x.2.1 with granted := true } ∈ q) ∧
          ∀ t (c : Cmd) (e : Nat), s'.waitingCmds die = [(t, c, e)] → c.waited < 8 → let budget := moduleBudget u.inlet / 6 - measured - (s.die die).deficit
            ∃ q ∈ (u.tile t).queues.toList, if (e : Int) ≤ budget
              then { c with granted := true } ∈ q ∧ (u.die die).power = measured + e ∧ (u.die die).deficit = 0
              else { c with waited := c.waited + 1 } ∈ q ∧ (u.die die).power = measured ∧ (u.die die).deficit = max 0 (-budget)))) ∧
  (∀ s : State, s.thermal = true ↔ s.inletHot = true ∨ ∃ d < 6, (s.die d).hot = true) ∧
  (∀ now limit reading, (limit < reading → hotNext now limit reading = true) ∧ (reading ≤ limit - 5 → hotNext now limit reading = false) ∧
    (limit - 5 < reading → reading ≤ limit → hotNext now limit reading = now)) ∧
  (∀ (s : State) port, isPort port = true → let since := (s.port port).periodAt + max 1 (getF (s.port port).hpctl 16 16) * Config.cyclesPerUs
    (s.tick < since → exec (.hotPagePeriod port) s = .next s) ∧
    (since ≤ s.tick →
    let ok := (s.port port).hot.filter fun x => x.2.1 < 768 && !((s.port port).cool.any fun c => c.1 == x.1)
    let begun := fun (u : State) => (u.port port).hot = [] ∧ (u.port port).periodAt = s.tick ∧
      (u.port port).cool = ((s.port port).cool.map fun c => (c.1, c.2 - 1)).filter fun c => c.2 != 0
    (getF (s.port port).hpctl 63 1 = 0 → ∃ u, exec (.hotPagePeriod port) s = .next u ∧ u = { s with ports := u.ports } ∧ begun u ∧
      (u.port port).copy = (s.port port).copy) ∧
    ∀ page grp n pte frame at_, getF (s.port port).hpctl 63 1 = 1 → (s.port port).copy = none → hotBest (port / 36) ok = some (page, grp, n) →
      getF (s.port port).hpctl 32 16 ≤ n → s.walkPage (hotCtx page) (hotVpn page) = .ok (pte, frame, at_) → fld pte 4 2 = 0 → portOfChan (chanOf frame) = port →
      (∀ y ∈ ok, y.2.1 ≠ port / 36 → y.2.2 ≤ n) ∧
      (fld pte 8 1 = 1 → ∃ u, exec (.hotPagePeriod port) s = .next u ∧ begun u ∧ (u.port port).copy = none ∧
        getF (u.port port).hpstat 0 32 = min (getF (s.port port).hpstat 0 32 + 1) 0xFFFFFFFF) ∧
      (fld pte 8 1 ≠ 1 → ∀ f, s.freeFrame grp = some f → ∃ u, exec (.hotPagePeriod port) s = .next u ∧ begun u ∧ s.bytesKept u ∧ f ∈ u.allocated ∧
        (u.port port).copy = some ⟨hotCtx page, hotVpn page, frame, f, at_, []⟩))) ∧
  (∀ (s : State) port c, (s.port port).copy = some c → let pte := s.rdN c.pteAt 8
    let home := portOfChan (chanOf c.toFrame)
    (fld pte 0 1 ≠ 1 ∨ fld pte 16 32 ≠ c.fromFrame ∨ fld pte 8 1 = 1 → ∃ u, exec (.frameCopyDone port) s = .next u ∧ s.bytesKept u ∧ (u.port port).copy = none) ∧
    (fld pte 0 1 = 1 → fld pte 16 32 = c.fromFrame → fld pte 8 1 = 0 → Memory.wf s.mem = true → Store.wf Port.zero s.ports = true → c.fromFrame < 2 ^ 31 → c.toFrame < 2 ^ 31 → c.fromFrame ≠ c.toFrame →
      (∀ x ∈ s.mem, x.1 / 65536 ≠ c.toFrame) → c.pteAt % 8 = 0 → c.pteAt < 2 ^ 47 → c.pteAt / 65536 ≠ c.toFrame → c.pteAt / 65536 ≠ c.fromFrame →
      ∃ u, exec (.frameCopyDone port) s = .next u ∧ (∀ i < 65536, u.rdByte (c.toFrame * 65536 + i) = s.rdByte (c.fromFrame * 65536 + i)) ∧
        (u.port port).copy = none ∧
        fld (u.rdN c.pteAt 8) 16 32 = c.toFrame ∧ fld (u.rdN c.pteAt 8) 0 16 = fld pte 0 16 ∧
        (∀ k, (∀ i < 8, k ≠ c.pteAt + i) → (∀ i < 65536, k ≠ c.toFrame * 65536 + i) → u.rdByte k = s.rdByte k) ∧
        (∀ k, ∀ e ∈ (u.tile k).tlb, covers c.ctx.toNat false c.vpn e.ctx e.vpn (getF e.pte 4 2) = false) ∧
        (∀ r ∈ s.net, ∃ q ∈ u.net, q.rid = r.rid ∧ q.st = r.st ∧ q.parts = r.parts.map fun p => { p with key := movedKey c.fromFrame c.toFrame p.key }) ∧
        (∀ x ∈ (u.port port).lines, inFrame c.fromFrame x.line = false) ∧ (∃ l, (u.port home).passed = l ++ c.held) ∧
        (getF (s.port home).hpctl 0 16 ≠ 0 → (c.vpn * 64 + c.ctx.toNat, getF (s.port home).hpctl 0 16) ∈ (u.port home).cool) ∧
        getF (u.port port).hpstat 32 32 = min (getF (s.port port).hpstat 32 32 + 1) 0xFFFFFFFF)) ∧
  (∀ (s : State) bank l r j p rest, s.claims bank l = (r, j, p) :: rest →
    let all := (r, j, p) :: rest.filter fun x => x.1.rid != r.rid && (if bank then bankOf x.2.2.key == bankOf p.key else outputOf x.2.2.key == outputOf p.key)
    ∃ u, s.makeMove (.contend bank l) = .next u ∧ ∃ w ∈ all, (∀ x ∈ all, s.older x.1.claim w.1.claim = false) ∧ let v := s.servePart w.1 w.2.1
      (v.claims bank [(w.1.rid, w.2.1)] ≠ [] → u = s) ∧
      (v.claims bank [(w.1.rid, w.2.1)] = [] → u = { v with net := u.net } ∧ (∀ q, q ∈ v.net → (∀ x ∈ all, x.1.rid ≠ w.1.rid → x.1.rid ≠ q.rid) → q ∈ u.net) ∧
        ∀ x ∈ all, x.1.rid ≠ w.1.rid → ∀ q, v.req x.1.rid = some q → q.st = .inflight → u.req x.1.rid = some { q with st := .replay })) ∧
  (∀ (s : State) (p : Port) r, s.pickMem p = some r →
    let ready := fun (y : MemReq) => p.bankFree s.tick (Config.dramBank y.line) = true ∧ ∃ i, p.queue[i]? = some y ∧ ∀ z ∈ p.queue.take i, z.line ≠ y.line
    ready r ∧ ∀ y, ready y → (64 ≤ y.passed → 64 ≤ r.passed) ∧ (r.passed < 64 → p.rowHit y = true → p.rowHit r = true) ∧
      ((64 ≤ y.passed ↔ 64 ≤ r.passed) → (r.passed < 64 → p.rowHit y = p.rowHit r) → s.older y.claim r.claim = false)) ∧
  (∀ (s : State) port r, isPort port = true → s.pickMem (s.port port) = some r → ∃ u, s.makeMove (.serve port) = .next u ∧
    (u.port port).xfer = some (r.line, r.write, s.bursts r.line r.compress) ∧ (Config.dramBank r.line, Config.dramRow r.line) ∈ (u.port port).rows) ∧
  (∀ (p : Port) tick bank row, let old := (p.acts.find? fun x => x.bank == bank).getD ⟨bank, subWindow tick, []⟩
    let n := (slideWindow (subWindow tick - old.window) old.counts).foldl (· + ·) 0
    (∀ i (h : i < (levels p.mcrfm).length), (levels p.mcrfm)[i] = n + 1 → (∀ j (g : j < (levels p.mcrfm).length), j < i → (levels p.mcrfm)[j] ≠ n + 1) →
      (p.activate tick bank row).rfm = p.rfm ++ [(bank, i + 1)]) ∧
    (n + 1 ∉ levels p.mcrfm → (p.activate tick bank row).rfm = p.rfm) ∧ (bank, row) ∈ (p.activate tick bank row).rows) ∧
  (∀ (s : State) port bank level, isPort port = true →
    let blocks := fun (u : State) (n : Nat) => u = { s with ports := u.ports } ∧ (u.port port).bankFree s.tick bank = decide (n = 0) ∧ (bank, s.tick + n) ∈ (u.port port).blocked ∧
      ∀ b, b ≠ bank → (u.port port).bankFree s.tick b = (s.port port).bankFree s.tick b
    ((s.port port).rfm = [(bank, level)] → ∃ u, exec (.rfmpb port bank level) s = .next u ∧ blocks u Config.tRfm ∧ (u.port port).rfm = []) ∧
    ((bank, level) ∉ (s.port port).rfm → exec (.rfmpb port bank level) s = .next s) ∧
    ((s.port port).rfm = [] → ∃ u, exec (.refresh port bank) s = .next u ∧ blocks u Config.tRfc ∧ ∀ x ∈ (u.port port).rows, x.1 ≠ bank)) ∧
  (∀ b : BitVec 1024, let words := ∀ i < 32, getF b (32 * i) 32 = getF b 0 32
    let highs := ∀ i < 64, getF b (16 * i + 8) 8 = getF b 8 8
    let smooth := fun (j : Nat) => ∀ i < 31, (getF b (32 * (i + 1) + 8 * j) 8 : Int) - getF b (32 * i + 8 * j) 8 ∈ [-8, -7, -6, -5, -4, -3, -2, -1, 0, 1, 2, 3, 4, 5, 6, 7]
    ((encodeBlock b).code = 3 ↔ words) ∧ ((encodeBlock b).code = 2 ↔ ¬words ∧ highs) ∧ ((encodeBlock b).code = 1 ↔ ¬words ∧ ¬highs ∧ smooth 3 ∧ smooth 2) ∧
    (encodeBlock b).code ≤ 3 ∧ ∀ (s : State) line, s.bursts line true = 4 - (encodeBlock (BitVec.ofNat 1024 (s.rdN (line * 128) 128))).code) ∧
  (∀ (s : State) die n, die < 6 → (s.die die).cursor < 128 → ∃ u, exec (.allocation die n) s = .next u ∧ s.bytesKept u ∧ (u.die die).cursor = ((s.die die).cursor + n) % 128 ∧
    (∀ d, d ≠ die → u.die d = s.die d) ∧ (∀ f ∈ (u.die die).lastAlloc, f < Config.frames ∧ 128 * die ≤ f % 768 ∧ f % 768 < 128 * die + 128 ∧ f ∉ s.allocated) ∧
    (n = 1 → ∀ f, s.frameFree f = true → f % 768 = 128 * die + (s.die die).cursor → ∃ g, (u.die die).lastAlloc = [g] ∧ g % 768 = f % 768)) ∧
  (∀ (s : State) die, die < 6 →
    (∀ f, (s.die die).flits = [f] → (s.die die).inject = [] → (s.die die).refusals = [] → (∀ r ∈ s.net, dieOfCore r.lcore = die → s.maySend r = false) →
      (∀ p ∈ s.packets, p.entered = false → p.src < 48 → p.src / 8 ≠ die) → f.at_ < 8 → f.dst < 8 →
      (f.at_ ≠ f.dst → ∃ u o, exec (.hopCycle die) s = .next u ∧ (u.die die).flits = [{ f with at_ := o }] ∧ meshDist o f.dst + 1 = meshDist f.at_ f.dst) ∧
      (f.at_ = f.dst → (s.die die).assemblies = [] → ∃ u, exec (.hopCycle die) s = .next u ∧ (u.die die).flits = [] ∧
        (u.die die).assemblies = [⟨f.dst, f.tag, f.len, [f.index]⟩])) ∧
    (∃ u, exec (.hopCycle die) s = .next u ∧ s.bytesKept u ∧ (u.die die).refusals = [] ∧
      ((s.die die).starve ≠ [] → ∀ f ∈ (s.die die).inject, f.at_ ∉ (s.die die).starve → f ∈ (u.die die).inject)) ∧
    (∀ node f t, (node, f, t) ∈ (s.die die).heads → t + 64 ≤ s.tick → ∃ u, exec (.starve die node) s = .next u ∧ u = { s with dies := u.dies } ∧ node ∈ (u.die die).starve) ∧
    (∀ node, (∀ h ∈ (s.die die).heads, h.1 = node → s.tick < h.2.2 + 64) → exec (.starve die node) s = .next s) ∧
    ∀ node tag a p rid r, ((s.die die).assemblies.find? fun a => a.dst == node && a.dst < 8 && a.tag == tag && a.have_.length == a.len) = some a →
      (s.packets.find? fun p => p.id == tag) = some p → p.load = .req rid → s.req rid = some r → r.st = .inflight →
      let freed := fun (u : State) => (u.die die).assemblies = (s.die die).assemblies.erase a ∧ ∀ x ∈ u.packets, x.id ≠ tag
      (∃ u, exec (.packetReassembled die node tag true) s = .next u ∧ freed u ∧ u.req rid = some { r with legs := r.legs ++ [p.dst] }) ∧
      ((match r.kind with | .ldv _ | .ldfe | .stfe | .inbox .. | .migr _ | .rcall .. | .red .. | .send .. => true | _ => false) = true →
        ∃ u, exec (.packetReassembled die node tag false) s = .next u ∧ freed u ∧ (u.die die).refusals = (s.die die).refusals ++ [(node, p)] ∧
          u.req rid = some { r with st := .refused, refusals := r.refusals + 1 })) ∧
  (∀ (s : State) k, let x := s.link k
    (isLink k = true → (∀ p l, x.farBuf = p :: l → (s.bridgeWaits k p = true → ∃ u, exec (.bridgeForward k) s = .next u ∧ (u.link k).farBuf = x.farBuf) ∧
        (s.bridgeWaits k p = false → ∃ u, exec (.bridgeForward k) s = .next u ∧ (u.link k).farBuf = l ∧
        ∀ b e, k < 14 → farDie k = some b → s.hopOf b p.dst = some e → (∀ m, p.load ≠ .msg m) →
          (u.die b).inject = (s.die b).inject ++ packetFlits p e (8 + k) (routerOf (8 + k)))) ∧
      ∀ p l, k < 40 → x.farBuf = [] → x.nearBuf = p :: l → x.up = true → x.retraining = false → let m := if k < 14 then 2 * p.len else p.len
        let room := x.unacked.length + m ≤ 2048 ∧ s.farBytes k + 64 * p.len ≤ 65536
        (room → ∃ u fs q, exec (.bridgeForward k) s = .next u ∧ (u.link k).nearBuf = l ∧ (u.link k).wire = x.wire ++ fs ∧
          (u.link k).unacked = x.unacked ++ fs ∧ (u.link k).coming = x.coming ++ [q] ∧ q.id = p.id ∧ fs.length = m ∧ (u.link k).next = (x.next + m) % 4096 ∧
          ∀ i (h : i < fs.length), fs[i].1 = (x.next + i) % 4096 ∧ fs[i].2.1 = p.id) ∧
        (¬room → ∃ u, exec (.bridgeForward k) s = .next u ∧ (u.link k).nearBuf = x.nearBuf ∧ (u.link k).wire = x.wire)) ∧
    (∀ q p last rest, x.wire = (q, p, last) :: rest →
      (∃ u, exec (.linkFlitReceive k false) s = .next u ∧ (u.link k).nak = true ∧ (u.link k).wire = rest ∧ (u.link k).expect = x.expect ∧ (u.link k).farBuf = x.farBuf ∧
        s.tick ∈ (u.link k).errors ∧ (u.link k).replays = if x.replaying && q == x.expect then x.replays + 1 else x.replays) ∧
      (q = x.expect → ∃ u, exec (.linkFlitReceive k true) s = .next u ∧ (u.link k).wire = rest ∧ (u.link k).expect = (q + 1) % 4096 ∧ (u.link k).replays = 0 ∧
        (last = false → (u.link k).farBuf = x.farBuf) ∧
        ∀ z, last = true → (x.coming.find? fun y => y.id == p) = some z → (u.link k).coming = x.coming.erase z ∧
          (u.link k).farBuf = if k < 14 ∨ s.pairLast Die.got z < z.pair then x.farBuf ++ [z] else x.farBuf) ∧
      (q ≠ x.expect → ∃ u, exec (.linkFlitReceive k true) s = .next u ∧ (u.link k) = { x with wire := rest })) ∧
    (x.nak = true → x.retraining = false → ∃ u, exec (.linkReplay k x.expect) s = .next u ∧
      (u.link k) = { x with wire := x.wire ++ fromSeq x.expect x.unacked, nak := false, replaying := true }) ∧
    (∀ f l, x.unacked = f :: l → f.1 ≠ x.expect → ∃ u, exec (.linkAcknowledge k f.1) s = .next u ∧ (u.link k) = { x with unacked := l }) ∧
    (isLink k = true → x.up = true → x.retraining = false → (8 ≤ x.replays ∨ 16 ≤ (x.errors.filter fun t => s.tick < t + 1000 * Config.cyclesPerUs).length) →
      ∃ u, exec (.linkRetrain k) s = .next u ∧ (u.link k) = { x with retraining := true, wire := [] }) ∧
    (x.retraining = true → (∃ u, exec (.linkRetrainDone k true) s = .next u ∧ (u.link k).retraining = false ∧ (u.link k).retrains = 0 ∧ (u.link k).replays = 0 ∧
        (u.link k).wire = fromSeq x.expect x.unacked ∧ (u.link k).unacked = x.unacked) ∧
      ∃ u, exec (.linkRetrainDone k false) s = .next u ∧ (u.link k).retrains = x.retrains + 1 ∧
        (u.link k).up = (x.up && decide (x.retrains + 1 < 3)) ∧ (3 ≤ x.retrains + 1 → (u.link (otherWay k)).up = false)) ∧
    (isLink k = true → x.up = false → (s.link (otherWay k)).up = false → ∃ u, exec (.linkdown k) s = .next u ∧ (u.link k).unacked = [] ∧ (u.link k).nearBuf = [] ∧
      ∀ p ∈ s.pendingPackets k, k < 40 → (∀ e, s.hopOf (linkDie k) p.dst = some e → 8 ≤ e → p ∈ (u.link (e - 8)).nearBuf) ∧
        (s.hopOf (linkDie k) p.dst = none → ∀ y ∈ u.packets, y.id ≠ p.id))) ∧
  (∀ (s : State) v die ep ctx va size write ord rel data, die < 6 → s.inbound = [] → s.brings die (.request ep ctx va size write ord rel data) v →
    let x : Inbound := ⟨die, ep, BitVec.ofNat 6 ctx, va, size, write, ord, rel, data⟩
    let go := exec (.inboundRequest die ep ctx va size write ord rel data) s
    let answers := fun (u : State) (code : Nat) (w : BitVec 512) => u.inAnswers = s.inAnswers ++ [⟨ep, code, w⟩] ∧ ∃ p, u.packets = s.packets ++ [p] ∧ p.load = .out ∧ p.dst = 64 + ep
    (v.inTarget x = .denied → ∃ u, go = .next u ∧ answers u 1 0 ∧ u = { v with inAnswers := u.inAnswers, packets := u.packets, nextPkt := u.nextPkt }) ∧
    (v.inTarget x = .drained → ∃ u, go = .next u ∧ u = { v with inbound := [x] }) ∧
    ∀ key pte, v.inTarget x = .at_ key pte → (isHbm key = true ∧ key + size ≤ 2 ^ 47) ∨ isPad key = true ∧ key < fabricBase →
      (v.frameHeld key = true → ∃ u, go = .next u ∧ u = { v with inbound := [x] }) ∧
      (v.frameHeld key = false → v.memReady key size pte = true →
        (write = false → v.bad key size = false → ∃ u, go = .next u ∧ answers u 0 (BitVec.ofNat 512 (s.rdN key size)) ∧
          u = { v with inAnswers := u.inAnswers, packets := u.packets, nextPkt := u.nextPkt, ports := u.ports }) ∧
        (write = true → v.mergeBad key size (BitVec.ofNat 64 (2 ^ size - 1)) pte = false → pte.getLsbD 10 = false → size ≤ 64 → ∃ u, go = .next u ∧ answers u 0 0 ∧
          (∀ i < size, u.rdByte (key + i) = byteOf data i) ∧ ∀ a, outside a key size → u.rdByte a = s.rdByte a))) ∧
  (∀ (s : State) v die lo hi, die < 6 →
    let first := fun (m : PeerMsg) => s.brings die m v ∧ ∀ d < die, ∀ n < 4, (s.link (40 + 4 * d + n)).inbox.head? ≠ some m
    (first (.revoke lo hi) → ∃ u, exec (.fabricRevoke lo hi) s = .next u ∧ u = { v with granted := u.granted, revoked := u.revoked } ∧
      (∀ a, lo * 2 ^ 36 ≤ a → a < (hi + 1) * 2 ^ 36 → u.revokedAt (fabricBase + a) = true) ∧
      ∀ a, a < lo * 2 ^ 36 ∨ (hi + 1) * 2 ^ 36 ≤ a → s.revokedAt (fabricBase + a) = false → u.revokedAt (fabricBase + a) = false) ∧
    (first (.grant lo hi) → ∃ u, exec (.fabricGrant lo hi) s = .next u ∧ u = { v with granted := u.granted, revoked := u.revoked } ∧ windowAddrs lo hi ∈ u.granted ∧
      (∀ a, lo * 2 ^ 36 ≤ a → a < (hi + 1) * 2 ^ 36 → u.revokedAt (fabricBase + a) = false) ∧
      ∀ a, a < lo * 2 ^ 36 ∨ (hi + 1) * 2 ^ 36 ≤ a → u.revokedAt (fabricBase + a) = s.revokedAt (fabricBase + a)))
/-! ## The machine as a whole -/

/-- A step runs the decoded bundle (R190, R205, R225). Where the bytes at a thread's PC decode to a bundle and its core's
turn falls to it, the step is slot A's instruction and then slot B's, which reads its operands as they stood before (R21),
with PC moved past the bundle; a trap of one slot keeps the other from acting, the earlier stage first, slot A among equals
(R205); a bundle held at issue keeps its PC (R358); IMM32 widens slot A's immediate (R192). Bytes that are no bundle trap
ILLEGAL with the decoder's reason. A logit run's next instruction, and an event, are run by exec; with nothing determined a
free value names the move (log 1). -/
def Obligations.StepRunsTheBundle : Prop :=
  (∀ (s : State) l th m key pte b, s.turnOf l th m key pte → decodeBundle m = .ok b → s.mayIssue l th key pte b → s.upsets = [] →
    let s1 := s.atSlots l th m key pte
    let ends := fun (u : State) => step s = .next { u with iss := Issue.none }
    (∀ ta tb, isImm b.b = false → exec b.a s1 = .next ta → exec b.b { s1 with iss := { s1.iss with slotB := true } } = .next tb →
      (ta.iss.stage ≠ 0 → tb.iss.stage = 0 ∨ ta.iss.stage ≤ tb.iss.stage → ends ta) ∧
      (tb.iss.stage ≠ 0 → ta.iss.stage = 0 ∨ tb.iss.stage < ta.iss.stage → ta.iss.stalled = false → ends tb) ∧
      (ta.iss.stage = 0 → tb.iss.stage = 0 → ta.iss.stalled = false →
        (ta.iss.held = true → (ta.thr th).occ = true → ends (ta.setWs th (s.getWs th))) ∧
        (ta.iss.held = false → (ta.thr th).occ = false → ends ta) ∧
        (ta.iss.held = false → (ta.thr th).occ = true →
          ∀ u, exec b.b { ta with iss := { ta.iss with slotB := true, ops := some s1.src } } = .next u → u.iss.stage = 0 → u.iss.stalled = false →
            u.iss.held = false → (u.thr th).occ = true → step s = .next (u.bundleDone th b)))) ∧
    (∀ sb ta, isImm b.b = true → exec b.b s1 = .next sb → exec b.a sb = .next ta → ta.iss.stalled = false → ta.iss.held = false →
      (ta.iss.stage ≠ 0 ∨ (ta.thr th).occ = false → ends ta) ∧ (ta.iss.stage = 0 → (ta.thr th).occ = true → step s = .next (ta.bundleDone th b)))) ∧
  (∀ (s : State) l th m key pte e, s.turnOf l th m key pte → decodeBundle m = .error e → let s1 := s.atFetch l th key pte
    step s = .next { ({ s1 with iss := { s1.iss with bundle := BitVec.ofNat 64 m, word := BitVec.ofNat 64 m, slotB := e.slotB } }.raise
      ⟨1, cIllegal, e.cause.reason, none⟩) with iss := Issue.none }) ∧
  (∀ (s : State) i l, s.agenda = .event i :: l → isEvent i = true → step s = exec i { s with agenda := l }) ∧
  (∀ (s : State) w i l, s.agenda = .logit w :: l → { s with agenda := l }.logitFetch w = some i → step s = exec i ({ s with agenda := l }.logitAdvance w)) ∧
  (∀ s : State, s.agenda = [] → step s = step { s with moves := s.moves + 1, agenda := [Config.nextMove s.moves] })

/-- No step stops: the spec gives every instruction, command, operation and event an effect, so that none ends in a fault
or a refusal, whatever the state. -/
def Obligations.NoStepStops : Prop := (∀ s : State, s.safeStep) ∧ ∀ i s, ∃ t, exec i s = .next t

/-- Every step keeps the canonical form: equal memories, workspaces, tags and units are equal data, whatever happened. -/
def Obligations.StepsKeepCanon : Prop := ∀ (s t : State), s.Canon → step s = .next t → t.Canon

/-- The machine after reset (R163): in its canonical form; DAWN's first step, no thread, no request, no launch; every byte
0 (log 2); the registers of a port core's page as their tables give them (R138, R142, R145, R189); every other register and
unit 0 (log 3). A fresh thread has RETRYLIM 1,024 and RCTIMEOUT 100 (R112, R120). -/
def Obligations.ResetState : Prop :=
  State.reset.Canon ∧ State.reset.dawn.stage = 1 ∧ State.reset.dawn.hold = 0 ∧ State.reset.net = [] ∧ State.reset.launches = [] ∧ State.reset.tick = 0 ∧
  (∀ th, (State.reset.thr th).occ = false ∧ State.reset.getWs th = Workspace.zero) ∧ (∀ k, State.reset.rdByte k = 0) ∧
  (∀ l, State.reset.pageRead l 0x00 = 0x4B ∧ State.reset.pageRead l 0x08 = 0x0000003800280018 ∧ State.reset.pageRead l 0x10 = 0x8000100000640010 ∧
    State.reset.pageRead l 0x18 = 0 ∧ State.reset.pageRead l 0x20 = 0 ∧ State.reset.pageRead l 0x40 = 0 ∧ (State.reset.port l).errlog = []) ∧
  (∀ sg, sg < 48 → State.reset.pageRead (portOfGroup (sg * 16)) 0x58 = 0xFFFF) ∧
  (∀ t, (State.reset.tile t).drain = .no ∧ (State.reset.tile t).ctx = 0 ∧ (∀ i, (State.reset.tile t).getDesc i = 0) ∧ State.reset.slotOf t = t % 128) ∧
  ∀ (e : BitVec 48), (Workspace.fresh e false).pc = e ∧ (Workspace.fresh e false).retryLim = 1024 ∧ (Workspace.fresh e false).rcTimeout = 100 ∧
    (∀ r, (Workspace.fresh e false).getS r = 0)
end

