-- ==== Sys2Proof/Laws/State.lean ====
section
/-! SUPPORT. One lemma per field per update of the state: what an update leaves as it was. -/

namespace Sys2Proof.Machine

/-! ## State.setWs -/

@[simp] theorem State.setWs_agenda (s : State) (th : Nat) (w : Workspace) : (s.setWs th w).agenda = s.agenda := rfl
@[simp] theorem State.setWs_moves (s : State) (th : Nat) (w : Workspace) : (s.setWs th w).moves = s.moves := rfl
@[simp] theorem State.setWs_fresh (s : State) (th : Nat) (w : Workspace) : (s.setWs th w).fresh = s.fresh := rfl
@[simp] theorem State.setWs_cur (s : State) (th : Nat) (w : Workspace) : (s.setWs th w).cur = s.cur := rfl
@[simp] theorem State.setWs_iss (s : State) (th : Nat) (w : Workspace) : (s.setWs th w).iss = s.iss := rfl
@[simp] theorem State.setWs_curWin (s : State) (th : Nat) (w : Workspace) : (s.setWs th w).curWin = s.curWin := rfl
@[simp] theorem State.setWs_tick (s : State) (th : Nat) (w : Workspace) : (s.setWs th w).tick = s.tick := rfl
@[simp] theorem State.setWs_mem (s : State) (th : Nat) (w : Workspace) : (s.setWs th w).mem = s.mem := rfl
@[simp] theorem State.setWs_tags (s : State) (th : Nat) (w : Workspace) : (s.setWs th w).tags = s.tags := rfl
@[simp] theorem State.setWs_guard (s : State) (th : Nat) (w : Workspace) : (s.setWs th w).guard = s.guard := rfl
@[simp] theorem State.setWs_upsets (s : State) (th : Nat) (w : Workspace) : (s.setWs th w).upsets = s.upsets := rfl
@[simp] theorem State.setWs_threads (s : State) (th : Nat) (w : Workspace) : (s.setWs th w).threads = s.threads := rfl
@[simp] theorem State.setWs_cores (s : State) (th : Nat) (w : Workspace) : (s.setWs th w).cores = s.cores := rfl
@[simp] theorem State.setWs_tiles (s : State) (th : Nat) (w : Workspace) : (s.setWs th w).tiles = s.tiles := rfl
@[simp] theorem State.setWs_ports (s : State) (th : Nat) (w : Workspace) : (s.setWs th w).ports = s.ports := rfl
@[simp] theorem State.setWs_dies (s : State) (th : Nat) (w : Workspace) : (s.setWs th w).dies = s.dies := rfl
@[simp] theorem State.setWs_links (s : State) (th : Nat) (w : Workspace) : (s.setWs th w).links = s.links := rfl
@[simp] theorem State.setWs_wear (s : State) (th : Nat) (w : Workspace) : (s.setWs th w).wear = s.wear := rfl
@[simp] theorem State.setWs_map (s : State) (th : Nat) (w : Workspace) : (s.setWs th w).map = s.map := rfl
@[simp] theorem State.setWs_fenced (s : State) (th : Nat) (w : Workspace) : (s.setWs th w).fenced = s.fenced := rfl
@[simp] theorem State.setWs_ctxbase (s : State) (th : Nat) (w : Workspace) : (s.setWs th w).ctxbase = s.ctxbase := rfl
@[simp] theorem State.setWs_allocated (s : State) (th : Nat) (w : Workspace) : (s.setWs th w).allocated = s.allocated := rfl
@[simp] theorem State.setWs_net (s : State) (th : Nat) (w : Workspace) : (s.setWs th w).net = s.net := rfl
@[simp] theorem State.setWs_nextRid (s : State) (th : Nat) (w : Workspace) : (s.setWs th w).nextRid = s.nextRid := rfl
@[simp] theorem State.setWs_packets (s : State) (th : Nat) (w : Workspace) : (s.setWs th w).packets = s.packets := rfl
@[simp] theorem State.setWs_nextPkt (s : State) (th : Nat) (w : Workspace) : (s.setWs th w).nextPkt = s.nextPkt := rfl
@[simp] theorem State.setWs_arrivals (s : State) (th : Nat) (w : Workspace) : (s.setWs th w).arrivals = s.arrivals := rfl
@[simp] theorem State.setWs_launches (s : State) (th : Nat) (w : Workspace) : (s.setWs th w).launches = s.launches := rfl
@[simp] theorem State.setWs_answers (s : State) (th : Nat) (w : Workspace) : (s.setWs th w).answers = s.answers := rfl
@[simp] theorem State.setWs_bindings (s : State) (th : Nat) (w : Workspace) : (s.setWs th w).bindings = s.bindings := rfl
@[simp] theorem State.setWs_saves (s : State) (th : Nat) (w : Workspace) : (s.setWs th w).saves = s.saves := rfl
@[simp] theorem State.setWs_granted (s : State) (th : Nat) (w : Workspace) : (s.setWs th w).granted = s.granted := rfl
@[simp] theorem State.setWs_revoked (s : State) (th : Nat) (w : Workspace) : (s.setWs th w).revoked = s.revoked := rfl
@[simp] theorem State.setWs_inbound (s : State) (th : Nat) (w : Workspace) : (s.setWs th w).inbound = s.inbound := rfl
@[simp] theorem State.setWs_inAnswers (s : State) (th : Nat) (w : Workspace) : (s.setWs th w).inAnswers = s.inAnswers := rfl
@[simp] theorem State.setWs_outbound (s : State) (th : Nat) (w : Workspace) : (s.setWs th w).outbound = s.outbound := rfl
@[simp] theorem State.setWs_collOut (s : State) (th : Nat) (w : Workspace) : (s.setWs th w).collOut = s.collOut := rfl
@[simp] theorem State.setWs_dawn (s : State) (th : Nat) (w : Workspace) : (s.setWs th w).dawn = s.dawn := rfl
@[simp] theorem State.setWs_inletHot (s : State) (th : Nat) (w : Workspace) : (s.setWs th w).inletHot = s.inletHot := rfl
@[simp] theorem State.setWs_inlet (s : State) (th : Nat) (w : Workspace) : (s.setWs th w).inlet = s.inlet := rfl
@[simp] theorem State.setWs_mgmt (s : State) (th : Nat) (w : Workspace) : (s.setWs th w).mgmt = s.mgmt := rfl

/-! ## State.upd -/

@[simp] theorem State.upd_agenda (s : State) (f : Workspace → Workspace) : (s.upd f).agenda = s.agenda := rfl
@[simp] theorem State.upd_moves (s : State) (f : Workspace → Workspace) : (s.upd f).moves = s.moves := rfl
@[simp] theorem State.upd_fresh (s : State) (f : Workspace → Workspace) : (s.upd f).fresh = s.fresh := rfl
@[simp] theorem State.upd_cur (s : State) (f : Workspace → Workspace) : (s.upd f).cur = s.cur := rfl
@[simp] theorem State.upd_iss (s : State) (f : Workspace → Workspace) : (s.upd f).iss = s.iss := rfl
@[simp] theorem State.upd_curWin (s : State) (f : Workspace → Workspace) : (s.upd f).curWin = s.curWin := rfl
@[simp] theorem State.upd_tick (s : State) (f : Workspace → Workspace) : (s.upd f).tick = s.tick := rfl
@[simp] theorem State.upd_mem (s : State) (f : Workspace → Workspace) : (s.upd f).mem = s.mem := rfl
@[simp] theorem State.upd_tags (s : State) (f : Workspace → Workspace) : (s.upd f).tags = s.tags := rfl
@[simp] theorem State.upd_guard (s : State) (f : Workspace → Workspace) : (s.upd f).guard = s.guard := rfl
@[simp] theorem State.upd_upsets (s : State) (f : Workspace → Workspace) : (s.upd f).upsets = s.upsets := rfl
@[simp] theorem State.upd_threads (s : State) (f : Workspace → Workspace) : (s.upd f).threads = s.threads := rfl
@[simp] theorem State.upd_cores (s : State) (f : Workspace → Workspace) : (s.upd f).cores = s.cores := rfl
@[simp] theorem State.upd_tiles (s : State) (f : Workspace → Workspace) : (s.upd f).tiles = s.tiles := rfl
@[simp] theorem State.upd_ports (s : State) (f : Workspace → Workspace) : (s.upd f).ports = s.ports := rfl
@[simp] theorem State.upd_dies (s : State) (f : Workspace → Workspace) : (s.upd f).dies = s.dies := rfl
@[simp] theorem State.upd_links (s : State) (f : Workspace → Workspace) : (s.upd f).links = s.links := rfl
@[simp] theorem State.upd_wear (s : State) (f : Workspace → Workspace) : (s.upd f).wear = s.wear := rfl
@[simp] theorem State.upd_map (s : State) (f : Workspace → Workspace) : (s.upd f).map = s.map := rfl
@[simp] theorem State.upd_fenced (s : State) (f : Workspace → Workspace) : (s.upd f).fenced = s.fenced := rfl
@[simp] theorem State.upd_ctxbase (s : State) (f : Workspace → Workspace) : (s.upd f).ctxbase = s.ctxbase := rfl
@[simp] theorem State.upd_allocated (s : State) (f : Workspace → Workspace) : (s.upd f).allocated = s.allocated := rfl
@[simp] theorem State.upd_net (s : State) (f : Workspace → Workspace) : (s.upd f).net = s.net := rfl
@[simp] theorem State.upd_nextRid (s : State) (f : Workspace → Workspace) : (s.upd f).nextRid = s.nextRid := rfl
@[simp] theorem State.upd_packets (s : State) (f : Workspace → Workspace) : (s.upd f).packets = s.packets := rfl
@[simp] theorem State.upd_nextPkt (s : State) (f : Workspace → Workspace) : (s.upd f).nextPkt = s.nextPkt := rfl
@[simp] theorem State.upd_arrivals (s : State) (f : Workspace → Workspace) : (s.upd f).arrivals = s.arrivals := rfl
@[simp] theorem State.upd_launches (s : State) (f : Workspace → Workspace) : (s.upd f).launches = s.launches := rfl
@[simp] theorem State.upd_answers (s : State) (f : Workspace → Workspace) : (s.upd f).answers = s.answers := rfl
@[simp] theorem State.upd_bindings (s : State) (f : Workspace → Workspace) : (s.upd f).bindings = s.bindings := rfl
@[simp] theorem State.upd_saves (s : State) (f : Workspace → Workspace) : (s.upd f).saves = s.saves := rfl
@[simp] theorem State.upd_granted (s : State) (f : Workspace → Workspace) : (s.upd f).granted = s.granted := rfl
@[simp] theorem State.upd_revoked (s : State) (f : Workspace → Workspace) : (s.upd f).revoked = s.revoked := rfl
@[simp] theorem State.upd_inbound (s : State) (f : Workspace → Workspace) : (s.upd f).inbound = s.inbound := rfl
@[simp] theorem State.upd_inAnswers (s : State) (f : Workspace → Workspace) : (s.upd f).inAnswers = s.inAnswers := rfl
@[simp] theorem State.upd_outbound (s : State) (f : Workspace → Workspace) : (s.upd f).outbound = s.outbound := rfl
@[simp] theorem State.upd_collOut (s : State) (f : Workspace → Workspace) : (s.upd f).collOut = s.collOut := rfl
@[simp] theorem State.upd_dawn (s : State) (f : Workspace → Workspace) : (s.upd f).dawn = s.dawn := rfl
@[simp] theorem State.upd_inletHot (s : State) (f : Workspace → Workspace) : (s.upd f).inletHot = s.inletHot := rfl
@[simp] theorem State.upd_inlet (s : State) (f : Workspace → Workspace) : (s.upd f).inlet = s.inlet := rfl
@[simp] theorem State.upd_mgmt (s : State) (f : Workspace → Workspace) : (s.upd f).mgmt = s.mgmt := rfl

/-! ## State.wS -/

@[simp] theorem State.wS_agenda (s : State) (r : BitVec 5) (x : BitVec 64) : (s.wS r x).agenda = s.agenda := rfl
@[simp] theorem State.wS_moves (s : State) (r : BitVec 5) (x : BitVec 64) : (s.wS r x).moves = s.moves := rfl
@[simp] theorem State.wS_fresh (s : State) (r : BitVec 5) (x : BitVec 64) : (s.wS r x).fresh = s.fresh := rfl
@[simp] theorem State.wS_cur (s : State) (r : BitVec 5) (x : BitVec 64) : (s.wS r x).cur = s.cur := rfl
@[simp] theorem State.wS_iss (s : State) (r : BitVec 5) (x : BitVec 64) : (s.wS r x).iss = s.iss := rfl
@[simp] theorem State.wS_curWin (s : State) (r : BitVec 5) (x : BitVec 64) : (s.wS r x).curWin = s.curWin := rfl
@[simp] theorem State.wS_tick (s : State) (r : BitVec 5) (x : BitVec 64) : (s.wS r x).tick = s.tick := rfl
@[simp] theorem State.wS_mem (s : State) (r : BitVec 5) (x : BitVec 64) : (s.wS r x).mem = s.mem := rfl
@[simp] theorem State.wS_tags (s : State) (r : BitVec 5) (x : BitVec 64) : (s.wS r x).tags = s.tags := rfl
@[simp] theorem State.wS_guard (s : State) (r : BitVec 5) (x : BitVec 64) : (s.wS r x).guard = s.guard := rfl
@[simp] theorem State.wS_upsets (s : State) (r : BitVec 5) (x : BitVec 64) : (s.wS r x).upsets = s.upsets := rfl
@[simp] theorem State.wS_threads (s : State) (r : BitVec 5) (x : BitVec 64) : (s.wS r x).threads = s.threads := rfl
@[simp] theorem State.wS_cores (s : State) (r : BitVec 5) (x : BitVec 64) : (s.wS r x).cores = s.cores := rfl
@[simp] theorem State.wS_tiles (s : State) (r : BitVec 5) (x : BitVec 64) : (s.wS r x).tiles = s.tiles := rfl
@[simp] theorem State.wS_ports (s : State) (r : BitVec 5) (x : BitVec 64) : (s.wS r x).ports = s.ports := rfl
@[simp] theorem State.wS_dies (s : State) (r : BitVec 5) (x : BitVec 64) : (s.wS r x).dies = s.dies := rfl
@[simp] theorem State.wS_links (s : State) (r : BitVec 5) (x : BitVec 64) : (s.wS r x).links = s.links := rfl
@[simp] theorem State.wS_wear (s : State) (r : BitVec 5) (x : BitVec 64) : (s.wS r x).wear = s.wear := rfl
@[simp] theorem State.wS_map (s : State) (r : BitVec 5) (x : BitVec 64) : (s.wS r x).map = s.map := rfl
@[simp] theorem State.wS_fenced (s : State) (r : BitVec 5) (x : BitVec 64) : (s.wS r x).fenced = s.fenced := rfl
@[simp] theorem State.wS_ctxbase (s : State) (r : BitVec 5) (x : BitVec 64) : (s.wS r x).ctxbase = s.ctxbase := rfl
@[simp] theorem State.wS_allocated (s : State) (r : BitVec 5) (x : BitVec 64) : (s.wS r x).allocated = s.allocated := rfl
@[simp] theorem State.wS_net (s : State) (r : BitVec 5) (x : BitVec 64) : (s.wS r x).net = s.net := rfl
@[simp] theorem State.wS_nextRid (s : State) (r : BitVec 5) (x : BitVec 64) : (s.wS r x).nextRid = s.nextRid := rfl
@[simp] theorem State.wS_packets (s : State) (r : BitVec 5) (x : BitVec 64) : (s.wS r x).packets = s.packets := rfl
@[simp] theorem State.wS_nextPkt (s : State) (r : BitVec 5) (x : BitVec 64) : (s.wS r x).nextPkt = s.nextPkt := rfl
@[simp] theorem State.wS_arrivals (s : State) (r : BitVec 5) (x : BitVec 64) : (s.wS r x).arrivals = s.arrivals := rfl
@[simp] theorem State.wS_launches (s : State) (r : BitVec 5) (x : BitVec 64) : (s.wS r x).launches = s.launches := rfl
@[simp] theorem State.wS_answers (s : State) (r : BitVec 5) (x : BitVec 64) : (s.wS r x).answers = s.answers := rfl
@[simp] theorem State.wS_bindings (s : State) (r : BitVec 5) (x : BitVec 64) : (s.wS r x).bindings = s.bindings := rfl
@[simp] theorem State.wS_saves (s : State) (r : BitVec 5) (x : BitVec 64) : (s.wS r x).saves = s.saves := rfl
@[simp] theorem State.wS_granted (s : State) (r : BitVec 5) (x : BitVec 64) : (s.wS r x).granted = s.granted := rfl
@[simp] theorem State.wS_revoked (s : State) (r : BitVec 5) (x : BitVec 64) : (s.wS r x).revoked = s.revoked := rfl
@[simp] theorem State.wS_inbound (s : State) (r : BitVec 5) (x : BitVec 64) : (s.wS r x).inbound = s.inbound := rfl
@[simp] theorem State.wS_inAnswers (s : State) (r : BitVec 5) (x : BitVec 64) : (s.wS r x).inAnswers = s.inAnswers := rfl
@[simp] theorem State.wS_outbound (s : State) (r : BitVec 5) (x : BitVec 64) : (s.wS r x).outbound = s.outbound := rfl
@[simp] theorem State.wS_collOut (s : State) (r : BitVec 5) (x : BitVec 64) : (s.wS r x).collOut = s.collOut := rfl
@[simp] theorem State.wS_dawn (s : State) (r : BitVec 5) (x : BitVec 64) : (s.wS r x).dawn = s.dawn := rfl
@[simp] theorem State.wS_inletHot (s : State) (r : BitVec 5) (x : BitVec 64) : (s.wS r x).inletHot = s.inletHot := rfl
@[simp] theorem State.wS_inlet (s : State) (r : BitVec 5) (x : BitVec 64) : (s.wS r x).inlet = s.inlet := rfl
@[simp] theorem State.wS_mgmt (s : State) (r : BitVec 5) (x : BitVec 64) : (s.wS r x).mgmt = s.mgmt := rfl

/-! ## State.wP -/

@[simp] theorem State.wP_agenda (s : State) (r : BitVec 3) (x : BitVec 64) : (s.wP r x).agenda = s.agenda := rfl
@[simp] theorem State.wP_moves (s : State) (r : BitVec 3) (x : BitVec 64) : (s.wP r x).moves = s.moves := rfl
@[simp] theorem State.wP_fresh (s : State) (r : BitVec 3) (x : BitVec 64) : (s.wP r x).fresh = s.fresh := rfl
@[simp] theorem State.wP_cur (s : State) (r : BitVec 3) (x : BitVec 64) : (s.wP r x).cur = s.cur := rfl
@[simp] theorem State.wP_iss (s : State) (r : BitVec 3) (x : BitVec 64) : (s.wP r x).iss = s.iss := rfl
@[simp] theorem State.wP_curWin (s : State) (r : BitVec 3) (x : BitVec 64) : (s.wP r x).curWin = s.curWin := rfl
@[simp] theorem State.wP_tick (s : State) (r : BitVec 3) (x : BitVec 64) : (s.wP r x).tick = s.tick := rfl
@[simp] theorem State.wP_mem (s : State) (r : BitVec 3) (x : BitVec 64) : (s.wP r x).mem = s.mem := rfl
@[simp] theorem State.wP_tags (s : State) (r : BitVec 3) (x : BitVec 64) : (s.wP r x).tags = s.tags := rfl
@[simp] theorem State.wP_guard (s : State) (r : BitVec 3) (x : BitVec 64) : (s.wP r x).guard = s.guard := rfl
@[simp] theorem State.wP_upsets (s : State) (r : BitVec 3) (x : BitVec 64) : (s.wP r x).upsets = s.upsets := rfl
@[simp] theorem State.wP_threads (s : State) (r : BitVec 3) (x : BitVec 64) : (s.wP r x).threads = s.threads := rfl
@[simp] theorem State.wP_cores (s : State) (r : BitVec 3) (x : BitVec 64) : (s.wP r x).cores = s.cores := rfl
@[simp] theorem State.wP_tiles (s : State) (r : BitVec 3) (x : BitVec 64) : (s.wP r x).tiles = s.tiles := rfl
@[simp] theorem State.wP_ports (s : State) (r : BitVec 3) (x : BitVec 64) : (s.wP r x).ports = s.ports := rfl
@[simp] theorem State.wP_dies (s : State) (r : BitVec 3) (x : BitVec 64) : (s.wP r x).dies = s.dies := rfl
@[simp] theorem State.wP_links (s : State) (r : BitVec 3) (x : BitVec 64) : (s.wP r x).links = s.links := rfl
@[simp] theorem State.wP_wear (s : State) (r : BitVec 3) (x : BitVec 64) : (s.wP r x).wear = s.wear := rfl
@[simp] theorem State.wP_map (s : State) (r : BitVec 3) (x : BitVec 64) : (s.wP r x).map = s.map := rfl
@[simp] theorem State.wP_fenced (s : State) (r : BitVec 3) (x : BitVec 64) : (s.wP r x).fenced = s.fenced := rfl
@[simp] theorem State.wP_ctxbase (s : State) (r : BitVec 3) (x : BitVec 64) : (s.wP r x).ctxbase = s.ctxbase := rfl
@[simp] theorem State.wP_allocated (s : State) (r : BitVec 3) (x : BitVec 64) : (s.wP r x).allocated = s.allocated := rfl
@[simp] theorem State.wP_net (s : State) (r : BitVec 3) (x : BitVec 64) : (s.wP r x).net = s.net := rfl
@[simp] theorem State.wP_nextRid (s : State) (r : BitVec 3) (x : BitVec 64) : (s.wP r x).nextRid = s.nextRid := rfl
@[simp] theorem State.wP_packets (s : State) (r : BitVec 3) (x : BitVec 64) : (s.wP r x).packets = s.packets := rfl
@[simp] theorem State.wP_nextPkt (s : State) (r : BitVec 3) (x : BitVec 64) : (s.wP r x).nextPkt = s.nextPkt := rfl
@[simp] theorem State.wP_arrivals (s : State) (r : BitVec 3) (x : BitVec 64) : (s.wP r x).arrivals = s.arrivals := rfl
@[simp] theorem State.wP_launches (s : State) (r : BitVec 3) (x : BitVec 64) : (s.wP r x).launches = s.launches := rfl
@[simp] theorem State.wP_answers (s : State) (r : BitVec 3) (x : BitVec 64) : (s.wP r x).answers = s.answers := rfl
@[simp] theorem State.wP_bindings (s : State) (r : BitVec 3) (x : BitVec 64) : (s.wP r x).bindings = s.bindings := rfl
@[simp] theorem State.wP_saves (s : State) (r : BitVec 3) (x : BitVec 64) : (s.wP r x).saves = s.saves := rfl
@[simp] theorem State.wP_granted (s : State) (r : BitVec 3) (x : BitVec 64) : (s.wP r x).granted = s.granted := rfl
@[simp] theorem State.wP_revoked (s : State) (r : BitVec 3) (x : BitVec 64) : (s.wP r x).revoked = s.revoked := rfl
@[simp] theorem State.wP_inbound (s : State) (r : BitVec 3) (x : BitVec 64) : (s.wP r x).inbound = s.inbound := rfl
@[simp] theorem State.wP_inAnswers (s : State) (r : BitVec 3) (x : BitVec 64) : (s.wP r x).inAnswers = s.inAnswers := rfl
@[simp] theorem State.wP_outbound (s : State) (r : BitVec 3) (x : BitVec 64) : (s.wP r x).outbound = s.outbound := rfl
@[simp] theorem State.wP_collOut (s : State) (r : BitVec 3) (x : BitVec 64) : (s.wP r x).collOut = s.collOut := rfl
@[simp] theorem State.wP_dawn (s : State) (r : BitVec 3) (x : BitVec 64) : (s.wP r x).dawn = s.dawn := rfl
@[simp] theorem State.wP_inletHot (s : State) (r : BitVec 3) (x : BitVec 64) : (s.wP r x).inletHot = s.inletHot := rfl
@[simp] theorem State.wP_inlet (s : State) (r : BitVec 3) (x : BitVec 64) : (s.wP r x).inlet = s.inlet := rfl
@[simp] theorem State.wP_mgmt (s : State) (r : BitVec 3) (x : BitVec 64) : (s.wP r x).mgmt = s.mgmt := rfl

/-! ## State.wV -/

@[simp] theorem State.wV_agenda (s : State) (r : BitVec 4) (x : Vec) (g : BitVec 4) : (s.wV r x g).agenda = s.agenda := rfl
@[simp] theorem State.wV_moves (s : State) (r : BitVec 4) (x : Vec) (g : BitVec 4) : (s.wV r x g).moves = s.moves := rfl
@[simp] theorem State.wV_fresh (s : State) (r : BitVec 4) (x : Vec) (g : BitVec 4) : (s.wV r x g).fresh = s.fresh := rfl
@[simp] theorem State.wV_cur (s : State) (r : BitVec 4) (x : Vec) (g : BitVec 4) : (s.wV r x g).cur = s.cur := rfl
@[simp] theorem State.wV_iss (s : State) (r : BitVec 4) (x : Vec) (g : BitVec 4) : (s.wV r x g).iss = s.iss := rfl
@[simp] theorem State.wV_curWin (s : State) (r : BitVec 4) (x : Vec) (g : BitVec 4) : (s.wV r x g).curWin = s.curWin := rfl
@[simp] theorem State.wV_tick (s : State) (r : BitVec 4) (x : Vec) (g : BitVec 4) : (s.wV r x g).tick = s.tick := rfl
@[simp] theorem State.wV_mem (s : State) (r : BitVec 4) (x : Vec) (g : BitVec 4) : (s.wV r x g).mem = s.mem := rfl
@[simp] theorem State.wV_tags (s : State) (r : BitVec 4) (x : Vec) (g : BitVec 4) : (s.wV r x g).tags = s.tags := rfl
@[simp] theorem State.wV_guard (s : State) (r : BitVec 4) (x : Vec) (g : BitVec 4) : (s.wV r x g).guard = s.guard := rfl
@[simp] theorem State.wV_upsets (s : State) (r : BitVec 4) (x : Vec) (g : BitVec 4) : (s.wV r x g).upsets = s.upsets := rfl
@[simp] theorem State.wV_threads (s : State) (r : BitVec 4) (x : Vec) (g : BitVec 4) : (s.wV r x g).threads = s.threads := rfl
@[simp] theorem State.wV_cores (s : State) (r : BitVec 4) (x : Vec) (g : BitVec 4) : (s.wV r x g).cores = s.cores := rfl
@[simp] theorem State.wV_tiles (s : State) (r : BitVec 4) (x : Vec) (g : BitVec 4) : (s.wV r x g).tiles = s.tiles := rfl
@[simp] theorem State.wV_ports (s : State) (r : BitVec 4) (x : Vec) (g : BitVec 4) : (s.wV r x g).ports = s.ports := rfl
@[simp] theorem State.wV_dies (s : State) (r : BitVec 4) (x : Vec) (g : BitVec 4) : (s.wV r x g).dies = s.dies := rfl
@[simp] theorem State.wV_links (s : State) (r : BitVec 4) (x : Vec) (g : BitVec 4) : (s.wV r x g).links = s.links := rfl
@[simp] theorem State.wV_wear (s : State) (r : BitVec 4) (x : Vec) (g : BitVec 4) : (s.wV r x g).wear = s.wear := rfl
@[simp] theorem State.wV_map (s : State) (r : BitVec 4) (x : Vec) (g : BitVec 4) : (s.wV r x g).map = s.map := rfl
@[simp] theorem State.wV_fenced (s : State) (r : BitVec 4) (x : Vec) (g : BitVec 4) : (s.wV r x g).fenced = s.fenced := rfl
@[simp] theorem State.wV_ctxbase (s : State) (r : BitVec 4) (x : Vec) (g : BitVec 4) : (s.wV r x g).ctxbase = s.ctxbase := rfl
@[simp] theorem State.wV_allocated (s : State) (r : BitVec 4) (x : Vec) (g : BitVec 4) : (s.wV r x g).allocated = s.allocated := rfl
@[simp] theorem State.wV_net (s : State) (r : BitVec 4) (x : Vec) (g : BitVec 4) : (s.wV r x g).net = s.net := rfl
@[simp] theorem State.wV_nextRid (s : State) (r : BitVec 4) (x : Vec) (g : BitVec 4) : (s.wV r x g).nextRid = s.nextRid := rfl
@[simp] theorem State.wV_packets (s : State) (r : BitVec 4) (x : Vec) (g : BitVec 4) : (s.wV r x g).packets = s.packets := rfl
@[simp] theorem State.wV_nextPkt (s : State) (r : BitVec 4) (x : Vec) (g : BitVec 4) : (s.wV r x g).nextPkt = s.nextPkt := rfl
@[simp] theorem State.wV_arrivals (s : State) (r : BitVec 4) (x : Vec) (g : BitVec 4) : (s.wV r x g).arrivals = s.arrivals := rfl
@[simp] theorem State.wV_launches (s : State) (r : BitVec 4) (x : Vec) (g : BitVec 4) : (s.wV r x g).launches = s.launches := rfl
@[simp] theorem State.wV_answers (s : State) (r : BitVec 4) (x : Vec) (g : BitVec 4) : (s.wV r x g).answers = s.answers := rfl
@[simp] theorem State.wV_bindings (s : State) (r : BitVec 4) (x : Vec) (g : BitVec 4) : (s.wV r x g).bindings = s.bindings := rfl
@[simp] theorem State.wV_saves (s : State) (r : BitVec 4) (x : Vec) (g : BitVec 4) : (s.wV r x g).saves = s.saves := rfl
@[simp] theorem State.wV_granted (s : State) (r : BitVec 4) (x : Vec) (g : BitVec 4) : (s.wV r x g).granted = s.granted := rfl
@[simp] theorem State.wV_revoked (s : State) (r : BitVec 4) (x : Vec) (g : BitVec 4) : (s.wV r x g).revoked = s.revoked := rfl
@[simp] theorem State.wV_inbound (s : State) (r : BitVec 4) (x : Vec) (g : BitVec 4) : (s.wV r x g).inbound = s.inbound := rfl
@[simp] theorem State.wV_inAnswers (s : State) (r : BitVec 4) (x : Vec) (g : BitVec 4) : (s.wV r x g).inAnswers = s.inAnswers := rfl
@[simp] theorem State.wV_outbound (s : State) (r : BitVec 4) (x : Vec) (g : BitVec 4) : (s.wV r x g).outbound = s.outbound := rfl
@[simp] theorem State.wV_collOut (s : State) (r : BitVec 4) (x : Vec) (g : BitVec 4) : (s.wV r x g).collOut = s.collOut := rfl
@[simp] theorem State.wV_dawn (s : State) (r : BitVec 4) (x : Vec) (g : BitVec 4) : (s.wV r x g).dawn = s.dawn := rfl
@[simp] theorem State.wV_inletHot (s : State) (r : BitVec 4) (x : Vec) (g : BitVec 4) : (s.wV r x g).inletHot = s.inletHot := rfl
@[simp] theorem State.wV_inlet (s : State) (r : BitVec 4) (x : Vec) (g : BitVec 4) : (s.wV r x g).inlet = s.inlet := rfl
@[simp] theorem State.wV_mgmt (s : State) (r : BitVec 4) (x : Vec) (g : BitVec 4) : (s.wV r x g).mgmt = s.mgmt := rfl

/-! ## State.setThr -/

@[simp] theorem State.setThr_agenda (s : State) (th : Nat) (x : Thread) : (s.setThr th x).agenda = s.agenda := rfl
@[simp] theorem State.setThr_moves (s : State) (th : Nat) (x : Thread) : (s.setThr th x).moves = s.moves := rfl
@[simp] theorem State.setThr_fresh (s : State) (th : Nat) (x : Thread) : (s.setThr th x).fresh = s.fresh := rfl
@[simp] theorem State.setThr_cur (s : State) (th : Nat) (x : Thread) : (s.setThr th x).cur = s.cur := rfl
@[simp] theorem State.setThr_iss (s : State) (th : Nat) (x : Thread) : (s.setThr th x).iss = s.iss := rfl
@[simp] theorem State.setThr_curWin (s : State) (th : Nat) (x : Thread) : (s.setThr th x).curWin = s.curWin := rfl
@[simp] theorem State.setThr_tick (s : State) (th : Nat) (x : Thread) : (s.setThr th x).tick = s.tick := rfl
@[simp] theorem State.setThr_mem (s : State) (th : Nat) (x : Thread) : (s.setThr th x).mem = s.mem := rfl
@[simp] theorem State.setThr_ws (s : State) (th : Nat) (x : Thread) : (s.setThr th x).ws = s.ws := rfl
@[simp] theorem State.setThr_tags (s : State) (th : Nat) (x : Thread) : (s.setThr th x).tags = s.tags := rfl
@[simp] theorem State.setThr_guard (s : State) (th : Nat) (x : Thread) : (s.setThr th x).guard = s.guard := rfl
@[simp] theorem State.setThr_upsets (s : State) (th : Nat) (x : Thread) : (s.setThr th x).upsets = s.upsets := rfl
@[simp] theorem State.setThr_cores (s : State) (th : Nat) (x : Thread) : (s.setThr th x).cores = s.cores := rfl
@[simp] theorem State.setThr_tiles (s : State) (th : Nat) (x : Thread) : (s.setThr th x).tiles = s.tiles := rfl
@[simp] theorem State.setThr_ports (s : State) (th : Nat) (x : Thread) : (s.setThr th x).ports = s.ports := rfl
@[simp] theorem State.setThr_dies (s : State) (th : Nat) (x : Thread) : (s.setThr th x).dies = s.dies := rfl
@[simp] theorem State.setThr_links (s : State) (th : Nat) (x : Thread) : (s.setThr th x).links = s.links := rfl
@[simp] theorem State.setThr_wear (s : State) (th : Nat) (x : Thread) : (s.setThr th x).wear = s.wear := rfl
@[simp] theorem State.setThr_map (s : State) (th : Nat) (x : Thread) : (s.setThr th x).map = s.map := rfl
@[simp] theorem State.setThr_fenced (s : State) (th : Nat) (x : Thread) : (s.setThr th x).fenced = s.fenced := rfl
@[simp] theorem State.setThr_ctxbase (s : State) (th : Nat) (x : Thread) : (s.setThr th x).ctxbase = s.ctxbase := rfl
@[simp] theorem State.setThr_allocated (s : State) (th : Nat) (x : Thread) : (s.setThr th x).allocated = s.allocated := rfl
@[simp] theorem State.setThr_net (s : State) (th : Nat) (x : Thread) : (s.setThr th x).net = s.net := rfl
@[simp] theorem State.setThr_nextRid (s : State) (th : Nat) (x : Thread) : (s.setThr th x).nextRid = s.nextRid := rfl
@[simp] theorem State.setThr_packets (s : State) (th : Nat) (x : Thread) : (s.setThr th x).packets = s.packets := rfl
@[simp] theorem State.setThr_nextPkt (s : State) (th : Nat) (x : Thread) : (s.setThr th x).nextPkt = s.nextPkt := rfl
@[simp] theorem State.setThr_arrivals (s : State) (th : Nat) (x : Thread) : (s.setThr th x).arrivals = s.arrivals := rfl
@[simp] theorem State.setThr_launches (s : State) (th : Nat) (x : Thread) : (s.setThr th x).launches = s.launches := rfl
@[simp] theorem State.setThr_answers (s : State) (th : Nat) (x : Thread) : (s.setThr th x).answers = s.answers := rfl
@[simp] theorem State.setThr_bindings (s : State) (th : Nat) (x : Thread) : (s.setThr th x).bindings = s.bindings := rfl
@[simp] theorem State.setThr_saves (s : State) (th : Nat) (x : Thread) : (s.setThr th x).saves = s.saves := rfl
@[simp] theorem State.setThr_granted (s : State) (th : Nat) (x : Thread) : (s.setThr th x).granted = s.granted := rfl
@[simp] theorem State.setThr_revoked (s : State) (th : Nat) (x : Thread) : (s.setThr th x).revoked = s.revoked := rfl
@[simp] theorem State.setThr_inbound (s : State) (th : Nat) (x : Thread) : (s.setThr th x).inbound = s.inbound := rfl
@[simp] theorem State.setThr_inAnswers (s : State) (th : Nat) (x : Thread) : (s.setThr th x).inAnswers = s.inAnswers := rfl
@[simp] theorem State.setThr_outbound (s : State) (th : Nat) (x : Thread) : (s.setThr th x).outbound = s.outbound := rfl
@[simp] theorem State.setThr_collOut (s : State) (th : Nat) (x : Thread) : (s.setThr th x).collOut = s.collOut := rfl
@[simp] theorem State.setThr_dawn (s : State) (th : Nat) (x : Thread) : (s.setThr th x).dawn = s.dawn := rfl
@[simp] theorem State.setThr_inletHot (s : State) (th : Nat) (x : Thread) : (s.setThr th x).inletHot = s.inletHot := rfl
@[simp] theorem State.setThr_inlet (s : State) (th : Nat) (x : Thread) : (s.setThr th x).inlet = s.inlet := rfl
@[simp] theorem State.setThr_mgmt (s : State) (th : Nat) (x : Thread) : (s.setThr th x).mgmt = s.mgmt := rfl

/-! ## State.modThr -/

@[simp] theorem State.modThr_agenda (s : State) (th : Nat) (f : Thread → Thread) : (s.modThr th f).agenda = s.agenda := rfl
@[simp] theorem State.modThr_moves (s : State) (th : Nat) (f : Thread → Thread) : (s.modThr th f).moves = s.moves := rfl
@[simp] theorem State.modThr_fresh (s : State) (th : Nat) (f : Thread → Thread) : (s.modThr th f).fresh = s.fresh := rfl
@[simp] theorem State.modThr_cur (s : State) (th : Nat) (f : Thread → Thread) : (s.modThr th f).cur = s.cur := rfl
@[simp] theorem State.modThr_iss (s : State) (th : Nat) (f : Thread → Thread) : (s.modThr th f).iss = s.iss := rfl
@[simp] theorem State.modThr_curWin (s : State) (th : Nat) (f : Thread → Thread) : (s.modThr th f).curWin = s.curWin := rfl
@[simp] theorem State.modThr_tick (s : State) (th : Nat) (f : Thread → Thread) : (s.modThr th f).tick = s.tick := rfl
@[simp] theorem State.modThr_mem (s : State) (th : Nat) (f : Thread → Thread) : (s.modThr th f).mem = s.mem := rfl
@[simp] theorem State.modThr_ws (s : State) (th : Nat) (f : Thread → Thread) : (s.modThr th f).ws = s.ws := rfl
@[simp] theorem State.modThr_tags (s : State) (th : Nat) (f : Thread → Thread) : (s.modThr th f).tags = s.tags := rfl
@[simp] theorem State.modThr_guard (s : State) (th : Nat) (f : Thread → Thread) : (s.modThr th f).guard = s.guard := rfl
@[simp] theorem State.modThr_upsets (s : State) (th : Nat) (f : Thread → Thread) : (s.modThr th f).upsets = s.upsets := rfl
@[simp] theorem State.modThr_cores (s : State) (th : Nat) (f : Thread → Thread) : (s.modThr th f).cores = s.cores := rfl
@[simp] theorem State.modThr_tiles (s : State) (th : Nat) (f : Thread → Thread) : (s.modThr th f).tiles = s.tiles := rfl
@[simp] theorem State.modThr_ports (s : State) (th : Nat) (f : Thread → Thread) : (s.modThr th f).ports = s.ports := rfl
@[simp] theorem State.modThr_dies (s : State) (th : Nat) (f : Thread → Thread) : (s.modThr th f).dies = s.dies := rfl
@[simp] theorem State.modThr_links (s : State) (th : Nat) (f : Thread → Thread) : (s.modThr th f).links = s.links := rfl
@[simp] theorem State.modThr_wear (s : State) (th : Nat) (f : Thread → Thread) : (s.modThr th f).wear = s.wear := rfl
@[simp] theorem State.modThr_map (s : State) (th : Nat) (f : Thread → Thread) : (s.modThr th f).map = s.map := rfl
@[simp] theorem State.modThr_fenced (s : State) (th : Nat) (f : Thread → Thread) : (s.modThr th f).fenced = s.fenced := rfl
@[simp] theorem State.modThr_ctxbase (s : State) (th : Nat) (f : Thread → Thread) : (s.modThr th f).ctxbase = s.ctxbase := rfl
@[simp] theorem State.modThr_allocated (s : State) (th : Nat) (f : Thread → Thread) : (s.modThr th f).allocated = s.allocated := rfl
@[simp] theorem State.modThr_net (s : State) (th : Nat) (f : Thread → Thread) : (s.modThr th f).net = s.net := rfl
@[simp] theorem State.modThr_nextRid (s : State) (th : Nat) (f : Thread → Thread) : (s.modThr th f).nextRid = s.nextRid := rfl
@[simp] theorem State.modThr_packets (s : State) (th : Nat) (f : Thread → Thread) : (s.modThr th f).packets = s.packets := rfl
@[simp] theorem State.modThr_nextPkt (s : State) (th : Nat) (f : Thread → Thread) : (s.modThr th f).nextPkt = s.nextPkt := rfl
@[simp] theorem State.modThr_arrivals (s : State) (th : Nat) (f : Thread → Thread) : (s.modThr th f).arrivals = s.arrivals := rfl
@[simp] theorem State.modThr_launches (s : State) (th : Nat) (f : Thread → Thread) : (s.modThr th f).launches = s.launches := rfl
@[simp] theorem State.modThr_answers (s : State) (th : Nat) (f : Thread → Thread) : (s.modThr th f).answers = s.answers := rfl
@[simp] theorem State.modThr_bindings (s : State) (th : Nat) (f : Thread → Thread) : (s.modThr th f).bindings = s.bindings := rfl
@[simp] theorem State.modThr_saves (s : State) (th : Nat) (f : Thread → Thread) : (s.modThr th f).saves = s.saves := rfl
@[simp] theorem State.modThr_granted (s : State) (th : Nat) (f : Thread → Thread) : (s.modThr th f).granted = s.granted := rfl
@[simp] theorem State.modThr_revoked (s : State) (th : Nat) (f : Thread → Thread) : (s.modThr th f).revoked = s.revoked := rfl
@[simp] theorem State.modThr_inbound (s : State) (th : Nat) (f : Thread → Thread) : (s.modThr th f).inbound = s.inbound := rfl
@[simp] theorem State.modThr_inAnswers (s : State) (th : Nat) (f : Thread → Thread) : (s.modThr th f).inAnswers = s.inAnswers := rfl
@[simp] theorem State.modThr_outbound (s : State) (th : Nat) (f : Thread → Thread) : (s.modThr th f).outbound = s.outbound := rfl
@[simp] theorem State.modThr_collOut (s : State) (th : Nat) (f : Thread → Thread) : (s.modThr th f).collOut = s.collOut := rfl
@[simp] theorem State.modThr_dawn (s : State) (th : Nat) (f : Thread → Thread) : (s.modThr th f).dawn = s.dawn := rfl
@[simp] theorem State.modThr_inletHot (s : State) (th : Nat) (f : Thread → Thread) : (s.modThr th f).inletHot = s.inletHot := rfl
@[simp] theorem State.modThr_inlet (s : State) (th : Nat) (f : Thread → Thread) : (s.modThr th f).inlet = s.inlet := rfl
@[simp] theorem State.modThr_mgmt (s : State) (th : Nat) (f : Thread → Thread) : (s.modThr th f).mgmt = s.mgmt := rfl

/-! ## State.modMe -/

@[simp] theorem State.modMe_agenda (s : State) (f : Thread → Thread) : (s.modMe f).agenda = s.agenda := rfl
@[simp] theorem State.modMe_moves (s : State) (f : Thread → Thread) : (s.modMe f).moves = s.moves := rfl
@[simp] theorem State.modMe_fresh (s : State) (f : Thread → Thread) : (s.modMe f).fresh = s.fresh := rfl
@[simp] theorem State.modMe_cur (s : State) (f : Thread → Thread) : (s.modMe f).cur = s.cur := rfl
@[simp] theorem State.modMe_iss (s : State) (f : Thread → Thread) : (s.modMe f).iss = s.iss := rfl
@[simp] theorem State.modMe_curWin (s : State) (f : Thread → Thread) : (s.modMe f).curWin = s.curWin := rfl
@[simp] theorem State.modMe_tick (s : State) (f : Thread → Thread) : (s.modMe f).tick = s.tick := rfl
@[simp] theorem State.modMe_mem (s : State) (f : Thread → Thread) : (s.modMe f).mem = s.mem := rfl
@[simp] theorem State.modMe_ws (s : State) (f : Thread → Thread) : (s.modMe f).ws = s.ws := rfl
@[simp] theorem State.modMe_tags (s : State) (f : Thread → Thread) : (s.modMe f).tags = s.tags := rfl
@[simp] theorem State.modMe_guard (s : State) (f : Thread → Thread) : (s.modMe f).guard = s.guard := rfl
@[simp] theorem State.modMe_upsets (s : State) (f : Thread → Thread) : (s.modMe f).upsets = s.upsets := rfl
@[simp] theorem State.modMe_cores (s : State) (f : Thread → Thread) : (s.modMe f).cores = s.cores := rfl
@[simp] theorem State.modMe_tiles (s : State) (f : Thread → Thread) : (s.modMe f).tiles = s.tiles := rfl
@[simp] theorem State.modMe_ports (s : State) (f : Thread → Thread) : (s.modMe f).ports = s.ports := rfl
@[simp] theorem State.modMe_dies (s : State) (f : Thread → Thread) : (s.modMe f).dies = s.dies := rfl
@[simp] theorem State.modMe_links (s : State) (f : Thread → Thread) : (s.modMe f).links = s.links := rfl
@[simp] theorem State.modMe_wear (s : State) (f : Thread → Thread) : (s.modMe f).wear = s.wear := rfl
@[simp] theorem State.modMe_map (s : State) (f : Thread → Thread) : (s.modMe f).map = s.map := rfl
@[simp] theorem State.modMe_fenced (s : State) (f : Thread → Thread) : (s.modMe f).fenced = s.fenced := rfl
@[simp] theorem State.modMe_ctxbase (s : State) (f : Thread → Thread) : (s.modMe f).ctxbase = s.ctxbase := rfl
@[simp] theorem State.modMe_allocated (s : State) (f : Thread → Thread) : (s.modMe f).allocated = s.allocated := rfl
@[simp] theorem State.modMe_net (s : State) (f : Thread → Thread) : (s.modMe f).net = s.net := rfl
@[simp] theorem State.modMe_nextRid (s : State) (f : Thread → Thread) : (s.modMe f).nextRid = s.nextRid := rfl
@[simp] theorem State.modMe_packets (s : State) (f : Thread → Thread) : (s.modMe f).packets = s.packets := rfl
@[simp] theorem State.modMe_nextPkt (s : State) (f : Thread → Thread) : (s.modMe f).nextPkt = s.nextPkt := rfl
@[simp] theorem State.modMe_arrivals (s : State) (f : Thread → Thread) : (s.modMe f).arrivals = s.arrivals := rfl
@[simp] theorem State.modMe_launches (s : State) (f : Thread → Thread) : (s.modMe f).launches = s.launches := rfl
@[simp] theorem State.modMe_answers (s : State) (f : Thread → Thread) : (s.modMe f).answers = s.answers := rfl
@[simp] theorem State.modMe_bindings (s : State) (f : Thread → Thread) : (s.modMe f).bindings = s.bindings := rfl
@[simp] theorem State.modMe_saves (s : State) (f : Thread → Thread) : (s.modMe f).saves = s.saves := rfl
@[simp] theorem State.modMe_granted (s : State) (f : Thread → Thread) : (s.modMe f).granted = s.granted := rfl
@[simp] theorem State.modMe_revoked (s : State) (f : Thread → Thread) : (s.modMe f).revoked = s.revoked := rfl
@[simp] theorem State.modMe_inbound (s : State) (f : Thread → Thread) : (s.modMe f).inbound = s.inbound := rfl
@[simp] theorem State.modMe_inAnswers (s : State) (f : Thread → Thread) : (s.modMe f).inAnswers = s.inAnswers := rfl
@[simp] theorem State.modMe_outbound (s : State) (f : Thread → Thread) : (s.modMe f).outbound = s.outbound := rfl
@[simp] theorem State.modMe_collOut (s : State) (f : Thread → Thread) : (s.modMe f).collOut = s.collOut := rfl
@[simp] theorem State.modMe_dawn (s : State) (f : Thread → Thread) : (s.modMe f).dawn = s.dawn := rfl
@[simp] theorem State.modMe_inletHot (s : State) (f : Thread → Thread) : (s.modMe f).inletHot = s.inletHot := rfl
@[simp] theorem State.modMe_inlet (s : State) (f : Thread → Thread) : (s.modMe f).inlet = s.inlet := rfl
@[simp] theorem State.modMe_mgmt (s : State) (f : Thread → Thread) : (s.modMe f).mgmt = s.mgmt := rfl

/-! ## State.modCore -/

@[simp] theorem State.modCore_agenda (s : State) (l : Nat) (f : CoreSt → CoreSt) : (s.modCore l f).agenda = s.agenda := rfl
@[simp] theorem State.modCore_moves (s : State) (l : Nat) (f : CoreSt → CoreSt) : (s.modCore l f).moves = s.moves := rfl
@[simp] theorem State.modCore_fresh (s : State) (l : Nat) (f : CoreSt → CoreSt) : (s.modCore l f).fresh = s.fresh := rfl
@[simp] theorem State.modCore_cur (s : State) (l : Nat) (f : CoreSt → CoreSt) : (s.modCore l f).cur = s.cur := rfl
@[simp] theorem State.modCore_iss (s : State) (l : Nat) (f : CoreSt → CoreSt) : (s.modCore l f).iss = s.iss := rfl
@[simp] theorem State.modCore_curWin (s : State) (l : Nat) (f : CoreSt → CoreSt) : (s.modCore l f).curWin = s.curWin := rfl
@[simp] theorem State.modCore_tick (s : State) (l : Nat) (f : CoreSt → CoreSt) : (s.modCore l f).tick = s.tick := rfl
@[simp] theorem State.modCore_mem (s : State) (l : Nat) (f : CoreSt → CoreSt) : (s.modCore l f).mem = s.mem := rfl
@[simp] theorem State.modCore_ws (s : State) (l : Nat) (f : CoreSt → CoreSt) : (s.modCore l f).ws = s.ws := rfl
@[simp] theorem State.modCore_tags (s : State) (l : Nat) (f : CoreSt → CoreSt) : (s.modCore l f).tags = s.tags := rfl
@[simp] theorem State.modCore_guard (s : State) (l : Nat) (f : CoreSt → CoreSt) : (s.modCore l f).guard = s.guard := rfl
@[simp] theorem State.modCore_upsets (s : State) (l : Nat) (f : CoreSt → CoreSt) : (s.modCore l f).upsets = s.upsets := rfl
@[simp] theorem State.modCore_threads (s : State) (l : Nat) (f : CoreSt → CoreSt) : (s.modCore l f).threads = s.threads := rfl
@[simp] theorem State.modCore_tiles (s : State) (l : Nat) (f : CoreSt → CoreSt) : (s.modCore l f).tiles = s.tiles := rfl
@[simp] theorem State.modCore_ports (s : State) (l : Nat) (f : CoreSt → CoreSt) : (s.modCore l f).ports = s.ports := rfl
@[simp] theorem State.modCore_dies (s : State) (l : Nat) (f : CoreSt → CoreSt) : (s.modCore l f).dies = s.dies := rfl
@[simp] theorem State.modCore_links (s : State) (l : Nat) (f : CoreSt → CoreSt) : (s.modCore l f).links = s.links := rfl
@[simp] theorem State.modCore_wear (s : State) (l : Nat) (f : CoreSt → CoreSt) : (s.modCore l f).wear = s.wear := rfl
@[simp] theorem State.modCore_map (s : State) (l : Nat) (f : CoreSt → CoreSt) : (s.modCore l f).map = s.map := rfl
@[simp] theorem State.modCore_fenced (s : State) (l : Nat) (f : CoreSt → CoreSt) : (s.modCore l f).fenced = s.fenced := rfl
@[simp] theorem State.modCore_ctxbase (s : State) (l : Nat) (f : CoreSt → CoreSt) : (s.modCore l f).ctxbase = s.ctxbase := rfl
@[simp] theorem State.modCore_allocated (s : State) (l : Nat) (f : CoreSt → CoreSt) : (s.modCore l f).allocated = s.allocated := rfl
@[simp] theorem State.modCore_net (s : State) (l : Nat) (f : CoreSt → CoreSt) : (s.modCore l f).net = s.net := rfl
@[simp] theorem State.modCore_nextRid (s : State) (l : Nat) (f : CoreSt → CoreSt) : (s.modCore l f).nextRid = s.nextRid := rfl
@[simp] theorem State.modCore_packets (s : State) (l : Nat) (f : CoreSt → CoreSt) : (s.modCore l f).packets = s.packets := rfl
@[simp] theorem State.modCore_nextPkt (s : State) (l : Nat) (f : CoreSt → CoreSt) : (s.modCore l f).nextPkt = s.nextPkt := rfl
@[simp] theorem State.modCore_arrivals (s : State) (l : Nat) (f : CoreSt → CoreSt) : (s.modCore l f).arrivals = s.arrivals := rfl
@[simp] theorem State.modCore_launches (s : State) (l : Nat) (f : CoreSt → CoreSt) : (s.modCore l f).launches = s.launches := rfl
@[simp] theorem State.modCore_answers (s : State) (l : Nat) (f : CoreSt → CoreSt) : (s.modCore l f).answers = s.answers := rfl
@[simp] theorem State.modCore_bindings (s : State) (l : Nat) (f : CoreSt → CoreSt) : (s.modCore l f).bindings = s.bindings := rfl
@[simp] theorem State.modCore_saves (s : State) (l : Nat) (f : CoreSt → CoreSt) : (s.modCore l f).saves = s.saves := rfl
@[simp] theorem State.modCore_granted (s : State) (l : Nat) (f : CoreSt → CoreSt) : (s.modCore l f).granted = s.granted := rfl
@[simp] theorem State.modCore_revoked (s : State) (l : Nat) (f : CoreSt → CoreSt) : (s.modCore l f).revoked = s.revoked := rfl
@[simp] theorem State.modCore_inbound (s : State) (l : Nat) (f : CoreSt → CoreSt) : (s.modCore l f).inbound = s.inbound := rfl
@[simp] theorem State.modCore_inAnswers (s : State) (l : Nat) (f : CoreSt → CoreSt) : (s.modCore l f).inAnswers = s.inAnswers := rfl
@[simp] theorem State.modCore_outbound (s : State) (l : Nat) (f : CoreSt → CoreSt) : (s.modCore l f).outbound = s.outbound := rfl
@[simp] theorem State.modCore_collOut (s : State) (l : Nat) (f : CoreSt → CoreSt) : (s.modCore l f).collOut = s.collOut := rfl
@[simp] theorem State.modCore_dawn (s : State) (l : Nat) (f : CoreSt → CoreSt) : (s.modCore l f).dawn = s.dawn := rfl
@[simp] theorem State.modCore_inletHot (s : State) (l : Nat) (f : CoreSt → CoreSt) : (s.modCore l f).inletHot = s.inletHot := rfl
@[simp] theorem State.modCore_inlet (s : State) (l : Nat) (f : CoreSt → CoreSt) : (s.modCore l f).inlet = s.inlet := rfl
@[simp] theorem State.modCore_mgmt (s : State) (l : Nat) (f : CoreSt → CoreSt) : (s.modCore l f).mgmt = s.mgmt := rfl

/-! ## State.modTile -/

@[simp] theorem State.modTile_agenda (s : State) (n : Nat) (f : Tile → Tile) : (s.modTile n f).agenda = s.agenda := rfl
@[simp] theorem State.modTile_moves (s : State) (n : Nat) (f : Tile → Tile) : (s.modTile n f).moves = s.moves := rfl
@[simp] theorem State.modTile_fresh (s : State) (n : Nat) (f : Tile → Tile) : (s.modTile n f).fresh = s.fresh := rfl
@[simp] theorem State.modTile_cur (s : State) (n : Nat) (f : Tile → Tile) : (s.modTile n f).cur = s.cur := rfl
@[simp] theorem State.modTile_iss (s : State) (n : Nat) (f : Tile → Tile) : (s.modTile n f).iss = s.iss := rfl
@[simp] theorem State.modTile_curWin (s : State) (n : Nat) (f : Tile → Tile) : (s.modTile n f).curWin = s.curWin := rfl
@[simp] theorem State.modTile_tick (s : State) (n : Nat) (f : Tile → Tile) : (s.modTile n f).tick = s.tick := rfl
@[simp] theorem State.modTile_mem (s : State) (n : Nat) (f : Tile → Tile) : (s.modTile n f).mem = s.mem := rfl
@[simp] theorem State.modTile_ws (s : State) (n : Nat) (f : Tile → Tile) : (s.modTile n f).ws = s.ws := rfl
@[simp] theorem State.modTile_tags (s : State) (n : Nat) (f : Tile → Tile) : (s.modTile n f).tags = s.tags := rfl
@[simp] theorem State.modTile_guard (s : State) (n : Nat) (f : Tile → Tile) : (s.modTile n f).guard = s.guard := rfl
@[simp] theorem State.modTile_upsets (s : State) (n : Nat) (f : Tile → Tile) : (s.modTile n f).upsets = s.upsets := rfl
@[simp] theorem State.modTile_threads (s : State) (n : Nat) (f : Tile → Tile) : (s.modTile n f).threads = s.threads := rfl
@[simp] theorem State.modTile_cores (s : State) (n : Nat) (f : Tile → Tile) : (s.modTile n f).cores = s.cores := rfl
@[simp] theorem State.modTile_ports (s : State) (n : Nat) (f : Tile → Tile) : (s.modTile n f).ports = s.ports := rfl
@[simp] theorem State.modTile_dies (s : State) (n : Nat) (f : Tile → Tile) : (s.modTile n f).dies = s.dies := rfl
@[simp] theorem State.modTile_links (s : State) (n : Nat) (f : Tile → Tile) : (s.modTile n f).links = s.links := rfl
@[simp] theorem State.modTile_wear (s : State) (n : Nat) (f : Tile → Tile) : (s.modTile n f).wear = s.wear := rfl
@[simp] theorem State.modTile_map (s : State) (n : Nat) (f : Tile → Tile) : (s.modTile n f).map = s.map := rfl
@[simp] theorem State.modTile_fenced (s : State) (n : Nat) (f : Tile → Tile) : (s.modTile n f).fenced = s.fenced := rfl
@[simp] theorem State.modTile_ctxbase (s : State) (n : Nat) (f : Tile → Tile) : (s.modTile n f).ctxbase = s.ctxbase := rfl
@[simp] theorem State.modTile_allocated (s : State) (n : Nat) (f : Tile → Tile) : (s.modTile n f).allocated = s.allocated := rfl
@[simp] theorem State.modTile_net (s : State) (n : Nat) (f : Tile → Tile) : (s.modTile n f).net = s.net := rfl
@[simp] theorem State.modTile_nextRid (s : State) (n : Nat) (f : Tile → Tile) : (s.modTile n f).nextRid = s.nextRid := rfl
@[simp] theorem State.modTile_packets (s : State) (n : Nat) (f : Tile → Tile) : (s.modTile n f).packets = s.packets := rfl
@[simp] theorem State.modTile_nextPkt (s : State) (n : Nat) (f : Tile → Tile) : (s.modTile n f).nextPkt = s.nextPkt := rfl
@[simp] theorem State.modTile_arrivals (s : State) (n : Nat) (f : Tile → Tile) : (s.modTile n f).arrivals = s.arrivals := rfl
@[simp] theorem State.modTile_launches (s : State) (n : Nat) (f : Tile → Tile) : (s.modTile n f).launches = s.launches := rfl
@[simp] theorem State.modTile_answers (s : State) (n : Nat) (f : Tile → Tile) : (s.modTile n f).answers = s.answers := rfl
@[simp] theorem State.modTile_bindings (s : State) (n : Nat) (f : Tile → Tile) : (s.modTile n f).bindings = s.bindings := rfl
@[simp] theorem State.modTile_saves (s : State) (n : Nat) (f : Tile → Tile) : (s.modTile n f).saves = s.saves := rfl
@[simp] theorem State.modTile_granted (s : State) (n : Nat) (f : Tile → Tile) : (s.modTile n f).granted = s.granted := rfl
@[simp] theorem State.modTile_revoked (s : State) (n : Nat) (f : Tile → Tile) : (s.modTile n f).revoked = s.revoked := rfl
@[simp] theorem State.modTile_inbound (s : State) (n : Nat) (f : Tile → Tile) : (s.modTile n f).inbound = s.inbound := rfl
@[simp] theorem State.modTile_inAnswers (s : State) (n : Nat) (f : Tile → Tile) : (s.modTile n f).inAnswers = s.inAnswers := rfl
@[simp] theorem State.modTile_outbound (s : State) (n : Nat) (f : Tile → Tile) : (s.modTile n f).outbound = s.outbound := rfl
@[simp] theorem State.modTile_collOut (s : State) (n : Nat) (f : Tile → Tile) : (s.modTile n f).collOut = s.collOut := rfl
@[simp] theorem State.modTile_dawn (s : State) (n : Nat) (f : Tile → Tile) : (s.modTile n f).dawn = s.dawn := rfl
@[simp] theorem State.modTile_inletHot (s : State) (n : Nat) (f : Tile → Tile) : (s.modTile n f).inletHot = s.inletHot := rfl
@[simp] theorem State.modTile_inlet (s : State) (n : Nat) (f : Tile → Tile) : (s.modTile n f).inlet = s.inlet := rfl
@[simp] theorem State.modTile_mgmt (s : State) (n : Nat) (f : Tile → Tile) : (s.modTile n f).mgmt = s.mgmt := rfl

/-! ## State.modPort -/

@[simp] theorem State.modPort_agenda (s : State) (l : Nat) (f : Port → Port) : (s.modPort l f).agenda = s.agenda := rfl
@[simp] theorem State.modPort_moves (s : State) (l : Nat) (f : Port → Port) : (s.modPort l f).moves = s.moves := rfl
@[simp] theorem State.modPort_fresh (s : State) (l : Nat) (f : Port → Port) : (s.modPort l f).fresh = s.fresh := rfl
@[simp] theorem State.modPort_cur (s : State) (l : Nat) (f : Port → Port) : (s.modPort l f).cur = s.cur := rfl
@[simp] theorem State.modPort_iss (s : State) (l : Nat) (f : Port → Port) : (s.modPort l f).iss = s.iss := rfl
@[simp] theorem State.modPort_curWin (s : State) (l : Nat) (f : Port → Port) : (s.modPort l f).curWin = s.curWin := rfl
@[simp] theorem State.modPort_tick (s : State) (l : Nat) (f : Port → Port) : (s.modPort l f).tick = s.tick := rfl
@[simp] theorem State.modPort_mem (s : State) (l : Nat) (f : Port → Port) : (s.modPort l f).mem = s.mem := rfl
@[simp] theorem State.modPort_ws (s : State) (l : Nat) (f : Port → Port) : (s.modPort l f).ws = s.ws := rfl
@[simp] theorem State.modPort_tags (s : State) (l : Nat) (f : Port → Port) : (s.modPort l f).tags = s.tags := rfl
@[simp] theorem State.modPort_guard (s : State) (l : Nat) (f : Port → Port) : (s.modPort l f).guard = s.guard := rfl
@[simp] theorem State.modPort_upsets (s : State) (l : Nat) (f : Port → Port) : (s.modPort l f).upsets = s.upsets := rfl
@[simp] theorem State.modPort_threads (s : State) (l : Nat) (f : Port → Port) : (s.modPort l f).threads = s.threads := rfl
@[simp] theorem State.modPort_cores (s : State) (l : Nat) (f : Port → Port) : (s.modPort l f).cores = s.cores := rfl
@[simp] theorem State.modPort_tiles (s : State) (l : Nat) (f : Port → Port) : (s.modPort l f).tiles = s.tiles := rfl
@[simp] theorem State.modPort_dies (s : State) (l : Nat) (f : Port → Port) : (s.modPort l f).dies = s.dies := rfl
@[simp] theorem State.modPort_links (s : State) (l : Nat) (f : Port → Port) : (s.modPort l f).links = s.links := rfl
@[simp] theorem State.modPort_wear (s : State) (l : Nat) (f : Port → Port) : (s.modPort l f).wear = s.wear := rfl
@[simp] theorem State.modPort_map (s : State) (l : Nat) (f : Port → Port) : (s.modPort l f).map = s.map := rfl
@[simp] theorem State.modPort_fenced (s : State) (l : Nat) (f : Port → Port) : (s.modPort l f).fenced = s.fenced := rfl
@[simp] theorem State.modPort_ctxbase (s : State) (l : Nat) (f : Port → Port) : (s.modPort l f).ctxbase = s.ctxbase := rfl
@[simp] theorem State.modPort_allocated (s : State) (l : Nat) (f : Port → Port) : (s.modPort l f).allocated = s.allocated := rfl
@[simp] theorem State.modPort_net (s : State) (l : Nat) (f : Port → Port) : (s.modPort l f).net = s.net := rfl
@[simp] theorem State.modPort_nextRid (s : State) (l : Nat) (f : Port → Port) : (s.modPort l f).nextRid = s.nextRid := rfl
@[simp] theorem State.modPort_packets (s : State) (l : Nat) (f : Port → Port) : (s.modPort l f).packets = s.packets := rfl
@[simp] theorem State.modPort_nextPkt (s : State) (l : Nat) (f : Port → Port) : (s.modPort l f).nextPkt = s.nextPkt := rfl
@[simp] theorem State.modPort_arrivals (s : State) (l : Nat) (f : Port → Port) : (s.modPort l f).arrivals = s.arrivals := rfl
@[simp] theorem State.modPort_launches (s : State) (l : Nat) (f : Port → Port) : (s.modPort l f).launches = s.launches := rfl
@[simp] theorem State.modPort_answers (s : State) (l : Nat) (f : Port → Port) : (s.modPort l f).answers = s.answers := rfl
@[simp] theorem State.modPort_bindings (s : State) (l : Nat) (f : Port → Port) : (s.modPort l f).bindings = s.bindings := rfl
@[simp] theorem State.modPort_saves (s : State) (l : Nat) (f : Port → Port) : (s.modPort l f).saves = s.saves := rfl
@[simp] theorem State.modPort_granted (s : State) (l : Nat) (f : Port → Port) : (s.modPort l f).granted = s.granted := rfl
@[simp] theorem State.modPort_revoked (s : State) (l : Nat) (f : Port → Port) : (s.modPort l f).revoked = s.revoked := rfl
@[simp] theorem State.modPort_inbound (s : State) (l : Nat) (f : Port → Port) : (s.modPort l f).inbound = s.inbound := rfl
@[simp] theorem State.modPort_inAnswers (s : State) (l : Nat) (f : Port → Port) : (s.modPort l f).inAnswers = s.inAnswers := rfl
@[simp] theorem State.modPort_outbound (s : State) (l : Nat) (f : Port → Port) : (s.modPort l f).outbound = s.outbound := rfl
@[simp] theorem State.modPort_collOut (s : State) (l : Nat) (f : Port → Port) : (s.modPort l f).collOut = s.collOut := rfl
@[simp] theorem State.modPort_dawn (s : State) (l : Nat) (f : Port → Port) : (s.modPort l f).dawn = s.dawn := rfl
@[simp] theorem State.modPort_inletHot (s : State) (l : Nat) (f : Port → Port) : (s.modPort l f).inletHot = s.inletHot := rfl
@[simp] theorem State.modPort_inlet (s : State) (l : Nat) (f : Port → Port) : (s.modPort l f).inlet = s.inlet := rfl
@[simp] theorem State.modPort_mgmt (s : State) (l : Nat) (f : Port → Port) : (s.modPort l f).mgmt = s.mgmt := rfl

/-! ## State.modDie -/

@[simp] theorem State.modDie_agenda (s : State) (d : Nat) (f : Die → Die) : (s.modDie d f).agenda = s.agenda := rfl
@[simp] theorem State.modDie_moves (s : State) (d : Nat) (f : Die → Die) : (s.modDie d f).moves = s.moves := rfl
@[simp] theorem State.modDie_fresh (s : State) (d : Nat) (f : Die → Die) : (s.modDie d f).fresh = s.fresh := rfl
@[simp] theorem State.modDie_cur (s : State) (d : Nat) (f : Die → Die) : (s.modDie d f).cur = s.cur := rfl
@[simp] theorem State.modDie_iss (s : State) (d : Nat) (f : Die → Die) : (s.modDie d f).iss = s.iss := rfl
@[simp] theorem State.modDie_curWin (s : State) (d : Nat) (f : Die → Die) : (s.modDie d f).curWin = s.curWin := rfl
@[simp] theorem State.modDie_tick (s : State) (d : Nat) (f : Die → Die) : (s.modDie d f).tick = s.tick := rfl
@[simp] theorem State.modDie_mem (s : State) (d : Nat) (f : Die → Die) : (s.modDie d f).mem = s.mem := rfl
@[simp] theorem State.modDie_ws (s : State) (d : Nat) (f : Die → Die) : (s.modDie d f).ws = s.ws := rfl
@[simp] theorem State.modDie_tags (s : State) (d : Nat) (f : Die → Die) : (s.modDie d f).tags = s.tags := rfl
@[simp] theorem State.modDie_guard (s : State) (d : Nat) (f : Die → Die) : (s.modDie d f).guard = s.guard := rfl
@[simp] theorem State.modDie_upsets (s : State) (d : Nat) (f : Die → Die) : (s.modDie d f).upsets = s.upsets := rfl
@[simp] theorem State.modDie_threads (s : State) (d : Nat) (f : Die → Die) : (s.modDie d f).threads = s.threads := rfl
@[simp] theorem State.modDie_cores (s : State) (d : Nat) (f : Die → Die) : (s.modDie d f).cores = s.cores := rfl
@[simp] theorem State.modDie_tiles (s : State) (d : Nat) (f : Die → Die) : (s.modDie d f).tiles = s.tiles := rfl
@[simp] theorem State.modDie_ports (s : State) (d : Nat) (f : Die → Die) : (s.modDie d f).ports = s.ports := rfl
@[simp] theorem State.modDie_links (s : State) (d : Nat) (f : Die → Die) : (s.modDie d f).links = s.links := rfl
@[simp] theorem State.modDie_wear (s : State) (d : Nat) (f : Die → Die) : (s.modDie d f).wear = s.wear := rfl
@[simp] theorem State.modDie_map (s : State) (d : Nat) (f : Die → Die) : (s.modDie d f).map = s.map := rfl
@[simp] theorem State.modDie_fenced (s : State) (d : Nat) (f : Die → Die) : (s.modDie d f).fenced = s.fenced := rfl
@[simp] theorem State.modDie_ctxbase (s : State) (d : Nat) (f : Die → Die) : (s.modDie d f).ctxbase = s.ctxbase := rfl
@[simp] theorem State.modDie_allocated (s : State) (d : Nat) (f : Die → Die) : (s.modDie d f).allocated = s.allocated := rfl
@[simp] theorem State.modDie_net (s : State) (d : Nat) (f : Die → Die) : (s.modDie d f).net = s.net := rfl
@[simp] theorem State.modDie_nextRid (s : State) (d : Nat) (f : Die → Die) : (s.modDie d f).nextRid = s.nextRid := rfl
@[simp] theorem State.modDie_packets (s : State) (d : Nat) (f : Die → Die) : (s.modDie d f).packets = s.packets := rfl
@[simp] theorem State.modDie_nextPkt (s : State) (d : Nat) (f : Die → Die) : (s.modDie d f).nextPkt = s.nextPkt := rfl
@[simp] theorem State.modDie_arrivals (s : State) (d : Nat) (f : Die → Die) : (s.modDie d f).arrivals = s.arrivals := rfl
@[simp] theorem State.modDie_launches (s : State) (d : Nat) (f : Die → Die) : (s.modDie d f).launches = s.launches := rfl
@[simp] theorem State.modDie_answers (s : State) (d : Nat) (f : Die → Die) : (s.modDie d f).answers = s.answers := rfl
@[simp] theorem State.modDie_bindings (s : State) (d : Nat) (f : Die → Die) : (s.modDie d f).bindings = s.bindings := rfl
@[simp] theorem State.modDie_saves (s : State) (d : Nat) (f : Die → Die) : (s.modDie d f).saves = s.saves := rfl
@[simp] theorem State.modDie_granted (s : State) (d : Nat) (f : Die → Die) : (s.modDie d f).granted = s.granted := rfl
@[simp] theorem State.modDie_revoked (s : State) (d : Nat) (f : Die → Die) : (s.modDie d f).revoked = s.revoked := rfl
@[simp] theorem State.modDie_inbound (s : State) (d : Nat) (f : Die → Die) : (s.modDie d f).inbound = s.inbound := rfl
@[simp] theorem State.modDie_inAnswers (s : State) (d : Nat) (f : Die → Die) : (s.modDie d f).inAnswers = s.inAnswers := rfl
@[simp] theorem State.modDie_outbound (s : State) (d : Nat) (f : Die → Die) : (s.modDie d f).outbound = s.outbound := rfl
@[simp] theorem State.modDie_collOut (s : State) (d : Nat) (f : Die → Die) : (s.modDie d f).collOut = s.collOut := rfl
@[simp] theorem State.modDie_dawn (s : State) (d : Nat) (f : Die → Die) : (s.modDie d f).dawn = s.dawn := rfl
@[simp] theorem State.modDie_inletHot (s : State) (d : Nat) (f : Die → Die) : (s.modDie d f).inletHot = s.inletHot := rfl
@[simp] theorem State.modDie_inlet (s : State) (d : Nat) (f : Die → Die) : (s.modDie d f).inlet = s.inlet := rfl
@[simp] theorem State.modDie_mgmt (s : State) (d : Nat) (f : Die → Die) : (s.modDie d f).mgmt = s.mgmt := rfl

/-! ## State.modLink -/

@[simp] theorem State.modLink_agenda (s : State) (n : Nat) (f : Link → Link) : (s.modLink n f).agenda = s.agenda := rfl
@[simp] theorem State.modLink_moves (s : State) (n : Nat) (f : Link → Link) : (s.modLink n f).moves = s.moves := rfl
@[simp] theorem State.modLink_fresh (s : State) (n : Nat) (f : Link → Link) : (s.modLink n f).fresh = s.fresh := rfl
@[simp] theorem State.modLink_cur (s : State) (n : Nat) (f : Link → Link) : (s.modLink n f).cur = s.cur := rfl
@[simp] theorem State.modLink_iss (s : State) (n : Nat) (f : Link → Link) : (s.modLink n f).iss = s.iss := rfl
@[simp] theorem State.modLink_curWin (s : State) (n : Nat) (f : Link → Link) : (s.modLink n f).curWin = s.curWin := rfl
@[simp] theorem State.modLink_tick (s : State) (n : Nat) (f : Link → Link) : (s.modLink n f).tick = s.tick := rfl
@[simp] theorem State.modLink_mem (s : State) (n : Nat) (f : Link → Link) : (s.modLink n f).mem = s.mem := rfl
@[simp] theorem State.modLink_ws (s : State) (n : Nat) (f : Link → Link) : (s.modLink n f).ws = s.ws := rfl
@[simp] theorem State.modLink_tags (s : State) (n : Nat) (f : Link → Link) : (s.modLink n f).tags = s.tags := rfl
@[simp] theorem State.modLink_guard (s : State) (n : Nat) (f : Link → Link) : (s.modLink n f).guard = s.guard := rfl
@[simp] theorem State.modLink_upsets (s : State) (n : Nat) (f : Link → Link) : (s.modLink n f).upsets = s.upsets := rfl
@[simp] theorem State.modLink_threads (s : State) (n : Nat) (f : Link → Link) : (s.modLink n f).threads = s.threads := rfl
@[simp] theorem State.modLink_cores (s : State) (n : Nat) (f : Link → Link) : (s.modLink n f).cores = s.cores := rfl
@[simp] theorem State.modLink_tiles (s : State) (n : Nat) (f : Link → Link) : (s.modLink n f).tiles = s.tiles := rfl
@[simp] theorem State.modLink_ports (s : State) (n : Nat) (f : Link → Link) : (s.modLink n f).ports = s.ports := rfl
@[simp] theorem State.modLink_dies (s : State) (n : Nat) (f : Link → Link) : (s.modLink n f).dies = s.dies := rfl
@[simp] theorem State.modLink_wear (s : State) (n : Nat) (f : Link → Link) : (s.modLink n f).wear = s.wear := rfl
@[simp] theorem State.modLink_map (s : State) (n : Nat) (f : Link → Link) : (s.modLink n f).map = s.map := rfl
@[simp] theorem State.modLink_fenced (s : State) (n : Nat) (f : Link → Link) : (s.modLink n f).fenced = s.fenced := rfl
@[simp] theorem State.modLink_ctxbase (s : State) (n : Nat) (f : Link → Link) : (s.modLink n f).ctxbase = s.ctxbase := rfl
@[simp] theorem State.modLink_allocated (s : State) (n : Nat) (f : Link → Link) : (s.modLink n f).allocated = s.allocated := rfl
@[simp] theorem State.modLink_net (s : State) (n : Nat) (f : Link → Link) : (s.modLink n f).net = s.net := rfl
@[simp] theorem State.modLink_nextRid (s : State) (n : Nat) (f : Link → Link) : (s.modLink n f).nextRid = s.nextRid := rfl
@[simp] theorem State.modLink_packets (s : State) (n : Nat) (f : Link → Link) : (s.modLink n f).packets = s.packets := rfl
@[simp] theorem State.modLink_nextPkt (s : State) (n : Nat) (f : Link → Link) : (s.modLink n f).nextPkt = s.nextPkt := rfl
@[simp] theorem State.modLink_arrivals (s : State) (n : Nat) (f : Link → Link) : (s.modLink n f).arrivals = s.arrivals := rfl
@[simp] theorem State.modLink_launches (s : State) (n : Nat) (f : Link → Link) : (s.modLink n f).launches = s.launches := rfl
@[simp] theorem State.modLink_answers (s : State) (n : Nat) (f : Link → Link) : (s.modLink n f).answers = s.answers := rfl
@[simp] theorem State.modLink_bindings (s : State) (n : Nat) (f : Link → Link) : (s.modLink n f).bindings = s.bindings := rfl
@[simp] theorem State.modLink_saves (s : State) (n : Nat) (f : Link → Link) : (s.modLink n f).saves = s.saves := rfl
@[simp] theorem State.modLink_granted (s : State) (n : Nat) (f : Link → Link) : (s.modLink n f).granted = s.granted := rfl
@[simp] theorem State.modLink_revoked (s : State) (n : Nat) (f : Link → Link) : (s.modLink n f).revoked = s.revoked := rfl
@[simp] theorem State.modLink_inbound (s : State) (n : Nat) (f : Link → Link) : (s.modLink n f).inbound = s.inbound := rfl
@[simp] theorem State.modLink_inAnswers (s : State) (n : Nat) (f : Link → Link) : (s.modLink n f).inAnswers = s.inAnswers := rfl
@[simp] theorem State.modLink_outbound (s : State) (n : Nat) (f : Link → Link) : (s.modLink n f).outbound = s.outbound := rfl
@[simp] theorem State.modLink_collOut (s : State) (n : Nat) (f : Link → Link) : (s.modLink n f).collOut = s.collOut := rfl
@[simp] theorem State.modLink_dawn (s : State) (n : Nat) (f : Link → Link) : (s.modLink n f).dawn = s.dawn := rfl
@[simp] theorem State.modLink_inletHot (s : State) (n : Nat) (f : Link → Link) : (s.modLink n f).inletHot = s.inletHot := rfl
@[simp] theorem State.modLink_inlet (s : State) (n : Nat) (f : Link → Link) : (s.modLink n f).inlet = s.inlet := rfl
@[simp] theorem State.modLink_mgmt (s : State) (n : Nat) (f : Link → Link) : (s.modLink n f).mgmt = s.mgmt := rfl

/-! ## State.modTag -/

@[simp] theorem State.modTag_agenda (s : State) (w : Nat) (f : WordTag → WordTag) : (s.modTag w f).agenda = s.agenda := rfl
@[simp] theorem State.modTag_moves (s : State) (w : Nat) (f : WordTag → WordTag) : (s.modTag w f).moves = s.moves := rfl
@[simp] theorem State.modTag_fresh (s : State) (w : Nat) (f : WordTag → WordTag) : (s.modTag w f).fresh = s.fresh := rfl
@[simp] theorem State.modTag_cur (s : State) (w : Nat) (f : WordTag → WordTag) : (s.modTag w f).cur = s.cur := rfl
@[simp] theorem State.modTag_iss (s : State) (w : Nat) (f : WordTag → WordTag) : (s.modTag w f).iss = s.iss := rfl
@[simp] theorem State.modTag_curWin (s : State) (w : Nat) (f : WordTag → WordTag) : (s.modTag w f).curWin = s.curWin := rfl
@[simp] theorem State.modTag_tick (s : State) (w : Nat) (f : WordTag → WordTag) : (s.modTag w f).tick = s.tick := rfl
@[simp] theorem State.modTag_mem (s : State) (w : Nat) (f : WordTag → WordTag) : (s.modTag w f).mem = s.mem := rfl
@[simp] theorem State.modTag_ws (s : State) (w : Nat) (f : WordTag → WordTag) : (s.modTag w f).ws = s.ws := rfl
@[simp] theorem State.modTag_guard (s : State) (w : Nat) (f : WordTag → WordTag) : (s.modTag w f).guard = s.guard := rfl
@[simp] theorem State.modTag_upsets (s : State) (w : Nat) (f : WordTag → WordTag) : (s.modTag w f).upsets = s.upsets := rfl
@[simp] theorem State.modTag_threads (s : State) (w : Nat) (f : WordTag → WordTag) : (s.modTag w f).threads = s.threads := rfl
@[simp] theorem State.modTag_cores (s : State) (w : Nat) (f : WordTag → WordTag) : (s.modTag w f).cores = s.cores := rfl
@[simp] theorem State.modTag_tiles (s : State) (w : Nat) (f : WordTag → WordTag) : (s.modTag w f).tiles = s.tiles := rfl
@[simp] theorem State.modTag_ports (s : State) (w : Nat) (f : WordTag → WordTag) : (s.modTag w f).ports = s.ports := rfl
@[simp] theorem State.modTag_dies (s : State) (w : Nat) (f : WordTag → WordTag) : (s.modTag w f).dies = s.dies := rfl
@[simp] theorem State.modTag_links (s : State) (w : Nat) (f : WordTag → WordTag) : (s.modTag w f).links = s.links := rfl
@[simp] theorem State.modTag_wear (s : State) (w : Nat) (f : WordTag → WordTag) : (s.modTag w f).wear = s.wear := rfl
@[simp] theorem State.modTag_map (s : State) (w : Nat) (f : WordTag → WordTag) : (s.modTag w f).map = s.map := rfl
@[simp] theorem State.modTag_fenced (s : State) (w : Nat) (f : WordTag → WordTag) : (s.modTag w f).fenced = s.fenced := rfl
@[simp] theorem State.modTag_ctxbase (s : State) (w : Nat) (f : WordTag → WordTag) : (s.modTag w f).ctxbase = s.ctxbase := rfl
@[simp] theorem State.modTag_allocated (s : State) (w : Nat) (f : WordTag → WordTag) : (s.modTag w f).allocated = s.allocated := rfl
@[simp] theorem State.modTag_net (s : State) (w : Nat) (f : WordTag → WordTag) : (s.modTag w f).net = s.net := rfl
@[simp] theorem State.modTag_nextRid (s : State) (w : Nat) (f : WordTag → WordTag) : (s.modTag w f).nextRid = s.nextRid := rfl
@[simp] theorem State.modTag_packets (s : State) (w : Nat) (f : WordTag → WordTag) : (s.modTag w f).packets = s.packets := rfl
@[simp] theorem State.modTag_nextPkt (s : State) (w : Nat) (f : WordTag → WordTag) : (s.modTag w f).nextPkt = s.nextPkt := rfl
@[simp] theorem State.modTag_arrivals (s : State) (w : Nat) (f : WordTag → WordTag) : (s.modTag w f).arrivals = s.arrivals := rfl
@[simp] theorem State.modTag_launches (s : State) (w : Nat) (f : WordTag → WordTag) : (s.modTag w f).launches = s.launches := rfl
@[simp] theorem State.modTag_answers (s : State) (w : Nat) (f : WordTag → WordTag) : (s.modTag w f).answers = s.answers := rfl
@[simp] theorem State.modTag_bindings (s : State) (w : Nat) (f : WordTag → WordTag) : (s.modTag w f).bindings = s.bindings := rfl
@[simp] theorem State.modTag_saves (s : State) (w : Nat) (f : WordTag → WordTag) : (s.modTag w f).saves = s.saves := rfl
@[simp] theorem State.modTag_granted (s : State) (w : Nat) (f : WordTag → WordTag) : (s.modTag w f).granted = s.granted := rfl
@[simp] theorem State.modTag_revoked (s : State) (w : Nat) (f : WordTag → WordTag) : (s.modTag w f).revoked = s.revoked := rfl
@[simp] theorem State.modTag_inbound (s : State) (w : Nat) (f : WordTag → WordTag) : (s.modTag w f).inbound = s.inbound := rfl
@[simp] theorem State.modTag_inAnswers (s : State) (w : Nat) (f : WordTag → WordTag) : (s.modTag w f).inAnswers = s.inAnswers := rfl
@[simp] theorem State.modTag_outbound (s : State) (w : Nat) (f : WordTag → WordTag) : (s.modTag w f).outbound = s.outbound := rfl
@[simp] theorem State.modTag_collOut (s : State) (w : Nat) (f : WordTag → WordTag) : (s.modTag w f).collOut = s.collOut := rfl
@[simp] theorem State.modTag_dawn (s : State) (w : Nat) (f : WordTag → WordTag) : (s.modTag w f).dawn = s.dawn := rfl
@[simp] theorem State.modTag_inletHot (s : State) (w : Nat) (f : WordTag → WordTag) : (s.modTag w f).inletHot = s.inletHot := rfl
@[simp] theorem State.modTag_inlet (s : State) (w : Nat) (f : WordTag → WordTag) : (s.modTag w f).inlet = s.inlet := rfl
@[simp] theorem State.modTag_mgmt (s : State) (w : Nat) (f : WordTag → WordTag) : (s.modTag w f).mgmt = s.mgmt := rfl

/-! ## State.setBinding -/

@[simp] theorem State.setBinding_agenda (s : State) (w : Nat) (b : Option Binding) : (s.setBinding w b).agenda = s.agenda := rfl
@[simp] theorem State.setBinding_moves (s : State) (w : Nat) (b : Option Binding) : (s.setBinding w b).moves = s.moves := rfl
@[simp] theorem State.setBinding_fresh (s : State) (w : Nat) (b : Option Binding) : (s.setBinding w b).fresh = s.fresh := rfl
@[simp] theorem State.setBinding_cur (s : State) (w : Nat) (b : Option Binding) : (s.setBinding w b).cur = s.cur := rfl
@[simp] theorem State.setBinding_iss (s : State) (w : Nat) (b : Option Binding) : (s.setBinding w b).iss = s.iss := rfl
@[simp] theorem State.setBinding_curWin (s : State) (w : Nat) (b : Option Binding) : (s.setBinding w b).curWin = s.curWin := rfl
@[simp] theorem State.setBinding_tick (s : State) (w : Nat) (b : Option Binding) : (s.setBinding w b).tick = s.tick := rfl
@[simp] theorem State.setBinding_mem (s : State) (w : Nat) (b : Option Binding) : (s.setBinding w b).mem = s.mem := rfl
@[simp] theorem State.setBinding_ws (s : State) (w : Nat) (b : Option Binding) : (s.setBinding w b).ws = s.ws := rfl
@[simp] theorem State.setBinding_tags (s : State) (w : Nat) (b : Option Binding) : (s.setBinding w b).tags = s.tags := rfl
@[simp] theorem State.setBinding_guard (s : State) (w : Nat) (b : Option Binding) : (s.setBinding w b).guard = s.guard := rfl
@[simp] theorem State.setBinding_upsets (s : State) (w : Nat) (b : Option Binding) : (s.setBinding w b).upsets = s.upsets := rfl
@[simp] theorem State.setBinding_threads (s : State) (w : Nat) (b : Option Binding) : (s.setBinding w b).threads = s.threads := rfl
@[simp] theorem State.setBinding_cores (s : State) (w : Nat) (b : Option Binding) : (s.setBinding w b).cores = s.cores := rfl
@[simp] theorem State.setBinding_tiles (s : State) (w : Nat) (b : Option Binding) : (s.setBinding w b).tiles = s.tiles := rfl
@[simp] theorem State.setBinding_ports (s : State) (w : Nat) (b : Option Binding) : (s.setBinding w b).ports = s.ports := rfl
@[simp] theorem State.setBinding_dies (s : State) (w : Nat) (b : Option Binding) : (s.setBinding w b).dies = s.dies := rfl
@[simp] theorem State.setBinding_links (s : State) (w : Nat) (b : Option Binding) : (s.setBinding w b).links = s.links := rfl
@[simp] theorem State.setBinding_wear (s : State) (w : Nat) (b : Option Binding) : (s.setBinding w b).wear = s.wear := rfl
@[simp] theorem State.setBinding_map (s : State) (w : Nat) (b : Option Binding) : (s.setBinding w b).map = s.map := rfl
@[simp] theorem State.setBinding_fenced (s : State) (w : Nat) (b : Option Binding) : (s.setBinding w b).fenced = s.fenced := rfl
@[simp] theorem State.setBinding_ctxbase (s : State) (w : Nat) (b : Option Binding) : (s.setBinding w b).ctxbase = s.ctxbase := rfl
@[simp] theorem State.setBinding_allocated (s : State) (w : Nat) (b : Option Binding) : (s.setBinding w b).allocated = s.allocated := rfl
@[simp] theorem State.setBinding_net (s : State) (w : Nat) (b : Option Binding) : (s.setBinding w b).net = s.net := rfl
@[simp] theorem State.setBinding_nextRid (s : State) (w : Nat) (b : Option Binding) : (s.setBinding w b).nextRid = s.nextRid := rfl
@[simp] theorem State.setBinding_packets (s : State) (w : Nat) (b : Option Binding) : (s.setBinding w b).packets = s.packets := rfl
@[simp] theorem State.setBinding_nextPkt (s : State) (w : Nat) (b : Option Binding) : (s.setBinding w b).nextPkt = s.nextPkt := rfl
@[simp] theorem State.setBinding_arrivals (s : State) (w : Nat) (b : Option Binding) : (s.setBinding w b).arrivals = s.arrivals := rfl
@[simp] theorem State.setBinding_launches (s : State) (w : Nat) (b : Option Binding) : (s.setBinding w b).launches = s.launches := rfl
@[simp] theorem State.setBinding_answers (s : State) (w : Nat) (b : Option Binding) : (s.setBinding w b).answers = s.answers := rfl
@[simp] theorem State.setBinding_saves (s : State) (w : Nat) (b : Option Binding) : (s.setBinding w b).saves = s.saves := rfl
@[simp] theorem State.setBinding_granted (s : State) (w : Nat) (b : Option Binding) : (s.setBinding w b).granted = s.granted := rfl
@[simp] theorem State.setBinding_revoked (s : State) (w : Nat) (b : Option Binding) : (s.setBinding w b).revoked = s.revoked := rfl
@[simp] theorem State.setBinding_inbound (s : State) (w : Nat) (b : Option Binding) : (s.setBinding w b).inbound = s.inbound := rfl
@[simp] theorem State.setBinding_inAnswers (s : State) (w : Nat) (b : Option Binding) : (s.setBinding w b).inAnswers = s.inAnswers := rfl
@[simp] theorem State.setBinding_outbound (s : State) (w : Nat) (b : Option Binding) : (s.setBinding w b).outbound = s.outbound := rfl
@[simp] theorem State.setBinding_collOut (s : State) (w : Nat) (b : Option Binding) : (s.setBinding w b).collOut = s.collOut := rfl
@[simp] theorem State.setBinding_dawn (s : State) (w : Nat) (b : Option Binding) : (s.setBinding w b).dawn = s.dawn := rfl
@[simp] theorem State.setBinding_inletHot (s : State) (w : Nat) (b : Option Binding) : (s.setBinding w b).inletHot = s.inletHot := rfl
@[simp] theorem State.setBinding_inlet (s : State) (w : Nat) (b : Option Binding) : (s.setBinding w b).inlet = s.inlet := rfl
@[simp] theorem State.setBinding_mgmt (s : State) (w : Nat) (b : Option Binding) : (s.setBinding w b).mgmt = s.mgmt := rfl

/-! ## State.addReq -/

@[simp] theorem State.addReq_agenda (s : State) (r : Req) : (s.addReq r).agenda = s.agenda := rfl
@[simp] theorem State.addReq_moves (s : State) (r : Req) : (s.addReq r).moves = s.moves := rfl
@[simp] theorem State.addReq_fresh (s : State) (r : Req) : (s.addReq r).fresh = s.fresh := rfl
@[simp] theorem State.addReq_cur (s : State) (r : Req) : (s.addReq r).cur = s.cur := rfl
@[simp] theorem State.addReq_iss (s : State) (r : Req) : (s.addReq r).iss = s.iss := rfl
@[simp] theorem State.addReq_curWin (s : State) (r : Req) : (s.addReq r).curWin = s.curWin := rfl
@[simp] theorem State.addReq_tick (s : State) (r : Req) : (s.addReq r).tick = s.tick := rfl
@[simp] theorem State.addReq_mem (s : State) (r : Req) : (s.addReq r).mem = s.mem := rfl
@[simp] theorem State.addReq_ws (s : State) (r : Req) : (s.addReq r).ws = s.ws := rfl
@[simp] theorem State.addReq_tags (s : State) (r : Req) : (s.addReq r).tags = s.tags := rfl
@[simp] theorem State.addReq_guard (s : State) (r : Req) : (s.addReq r).guard = s.guard := rfl
@[simp] theorem State.addReq_upsets (s : State) (r : Req) : (s.addReq r).upsets = s.upsets := rfl
@[simp] theorem State.addReq_threads (s : State) (r : Req) : (s.addReq r).threads = s.threads := rfl
@[simp] theorem State.addReq_cores (s : State) (r : Req) : (s.addReq r).cores = s.cores := rfl
@[simp] theorem State.addReq_tiles (s : State) (r : Req) : (s.addReq r).tiles = s.tiles := rfl
@[simp] theorem State.addReq_ports (s : State) (r : Req) : (s.addReq r).ports = s.ports := rfl
@[simp] theorem State.addReq_dies (s : State) (r : Req) : (s.addReq r).dies = s.dies := rfl
@[simp] theorem State.addReq_links (s : State) (r : Req) : (s.addReq r).links = s.links := rfl
@[simp] theorem State.addReq_wear (s : State) (r : Req) : (s.addReq r).wear = s.wear := rfl
@[simp] theorem State.addReq_map (s : State) (r : Req) : (s.addReq r).map = s.map := rfl
@[simp] theorem State.addReq_fenced (s : State) (r : Req) : (s.addReq r).fenced = s.fenced := rfl
@[simp] theorem State.addReq_ctxbase (s : State) (r : Req) : (s.addReq r).ctxbase = s.ctxbase := rfl
@[simp] theorem State.addReq_allocated (s : State) (r : Req) : (s.addReq r).allocated = s.allocated := rfl
@[simp] theorem State.addReq_packets (s : State) (r : Req) : (s.addReq r).packets = s.packets := rfl
@[simp] theorem State.addReq_nextPkt (s : State) (r : Req) : (s.addReq r).nextPkt = s.nextPkt := rfl
@[simp] theorem State.addReq_arrivals (s : State) (r : Req) : (s.addReq r).arrivals = s.arrivals := rfl
@[simp] theorem State.addReq_launches (s : State) (r : Req) : (s.addReq r).launches = s.launches := rfl
@[simp] theorem State.addReq_answers (s : State) (r : Req) : (s.addReq r).answers = s.answers := rfl
@[simp] theorem State.addReq_bindings (s : State) (r : Req) : (s.addReq r).bindings = s.bindings := rfl
@[simp] theorem State.addReq_saves (s : State) (r : Req) : (s.addReq r).saves = s.saves := rfl
@[simp] theorem State.addReq_granted (s : State) (r : Req) : (s.addReq r).granted = s.granted := rfl
@[simp] theorem State.addReq_revoked (s : State) (r : Req) : (s.addReq r).revoked = s.revoked := rfl
@[simp] theorem State.addReq_inbound (s : State) (r : Req) : (s.addReq r).inbound = s.inbound := rfl
@[simp] theorem State.addReq_inAnswers (s : State) (r : Req) : (s.addReq r).inAnswers = s.inAnswers := rfl
@[simp] theorem State.addReq_outbound (s : State) (r : Req) : (s.addReq r).outbound = s.outbound := rfl
@[simp] theorem State.addReq_collOut (s : State) (r : Req) : (s.addReq r).collOut = s.collOut := rfl
@[simp] theorem State.addReq_dawn (s : State) (r : Req) : (s.addReq r).dawn = s.dawn := rfl
@[simp] theorem State.addReq_inletHot (s : State) (r : Req) : (s.addReq r).inletHot = s.inletHot := rfl
@[simp] theorem State.addReq_inlet (s : State) (r : Req) : (s.addReq r).inlet = s.inlet := rfl
@[simp] theorem State.addReq_mgmt (s : State) (r : Req) : (s.addReq r).mgmt = s.mgmt := rfl

/-! ## State.setReq -/

@[simp] theorem State.setReq_agenda (s : State) (rid : Nat) (f : Req → Req) : (s.setReq rid f).agenda = s.agenda := rfl
@[simp] theorem State.setReq_moves (s : State) (rid : Nat) (f : Req → Req) : (s.setReq rid f).moves = s.moves := rfl
@[simp] theorem State.setReq_fresh (s : State) (rid : Nat) (f : Req → Req) : (s.setReq rid f).fresh = s.fresh := rfl
@[simp] theorem State.setReq_cur (s : State) (rid : Nat) (f : Req → Req) : (s.setReq rid f).cur = s.cur := rfl
@[simp] theorem State.setReq_iss (s : State) (rid : Nat) (f : Req → Req) : (s.setReq rid f).iss = s.iss := rfl
@[simp] theorem State.setReq_curWin (s : State) (rid : Nat) (f : Req → Req) : (s.setReq rid f).curWin = s.curWin := rfl
@[simp] theorem State.setReq_tick (s : State) (rid : Nat) (f : Req → Req) : (s.setReq rid f).tick = s.tick := rfl
@[simp] theorem State.setReq_mem (s : State) (rid : Nat) (f : Req → Req) : (s.setReq rid f).mem = s.mem := rfl
@[simp] theorem State.setReq_ws (s : State) (rid : Nat) (f : Req → Req) : (s.setReq rid f).ws = s.ws := rfl
@[simp] theorem State.setReq_tags (s : State) (rid : Nat) (f : Req → Req) : (s.setReq rid f).tags = s.tags := rfl
@[simp] theorem State.setReq_guard (s : State) (rid : Nat) (f : Req → Req) : (s.setReq rid f).guard = s.guard := rfl
@[simp] theorem State.setReq_upsets (s : State) (rid : Nat) (f : Req → Req) : (s.setReq rid f).upsets = s.upsets := rfl
@[simp] theorem State.setReq_threads (s : State) (rid : Nat) (f : Req → Req) : (s.setReq rid f).threads = s.threads := rfl
@[simp] theorem State.setReq_cores (s : State) (rid : Nat) (f : Req → Req) : (s.setReq rid f).cores = s.cores := rfl
@[simp] theorem State.setReq_tiles (s : State) (rid : Nat) (f : Req → Req) : (s.setReq rid f).tiles = s.tiles := rfl
@[simp] theorem State.setReq_ports (s : State) (rid : Nat) (f : Req → Req) : (s.setReq rid f).ports = s.ports := rfl
@[simp] theorem State.setReq_dies (s : State) (rid : Nat) (f : Req → Req) : (s.setReq rid f).dies = s.dies := rfl
@[simp] theorem State.setReq_links (s : State) (rid : Nat) (f : Req → Req) : (s.setReq rid f).links = s.links := rfl
@[simp] theorem State.setReq_wear (s : State) (rid : Nat) (f : Req → Req) : (s.setReq rid f).wear = s.wear := rfl
@[simp] theorem State.setReq_map (s : State) (rid : Nat) (f : Req → Req) : (s.setReq rid f).map = s.map := rfl
@[simp] theorem State.setReq_fenced (s : State) (rid : Nat) (f : Req → Req) : (s.setReq rid f).fenced = s.fenced := rfl
@[simp] theorem State.setReq_ctxbase (s : State) (rid : Nat) (f : Req → Req) : (s.setReq rid f).ctxbase = s.ctxbase := rfl
@[simp] theorem State.setReq_allocated (s : State) (rid : Nat) (f : Req → Req) : (s.setReq rid f).allocated = s.allocated := rfl
@[simp] theorem State.setReq_nextRid (s : State) (rid : Nat) (f : Req → Req) : (s.setReq rid f).nextRid = s.nextRid := rfl
@[simp] theorem State.setReq_packets (s : State) (rid : Nat) (f : Req → Req) : (s.setReq rid f).packets = s.packets := rfl
@[simp] theorem State.setReq_nextPkt (s : State) (rid : Nat) (f : Req → Req) : (s.setReq rid f).nextPkt = s.nextPkt := rfl
@[simp] theorem State.setReq_arrivals (s : State) (rid : Nat) (f : Req → Req) : (s.setReq rid f).arrivals = s.arrivals := rfl
@[simp] theorem State.setReq_launches (s : State) (rid : Nat) (f : Req → Req) : (s.setReq rid f).launches = s.launches := rfl
@[simp] theorem State.setReq_answers (s : State) (rid : Nat) (f : Req → Req) : (s.setReq rid f).answers = s.answers := rfl
@[simp] theorem State.setReq_bindings (s : State) (rid : Nat) (f : Req → Req) : (s.setReq rid f).bindings = s.bindings := rfl
@[simp] theorem State.setReq_saves (s : State) (rid : Nat) (f : Req → Req) : (s.setReq rid f).saves = s.saves := rfl
@[simp] theorem State.setReq_granted (s : State) (rid : Nat) (f : Req → Req) : (s.setReq rid f).granted = s.granted := rfl
@[simp] theorem State.setReq_revoked (s : State) (rid : Nat) (f : Req → Req) : (s.setReq rid f).revoked = s.revoked := rfl
@[simp] theorem State.setReq_inbound (s : State) (rid : Nat) (f : Req → Req) : (s.setReq rid f).inbound = s.inbound := rfl
@[simp] theorem State.setReq_inAnswers (s : State) (rid : Nat) (f : Req → Req) : (s.setReq rid f).inAnswers = s.inAnswers := rfl
@[simp] theorem State.setReq_outbound (s : State) (rid : Nat) (f : Req → Req) : (s.setReq rid f).outbound = s.outbound := rfl
@[simp] theorem State.setReq_collOut (s : State) (rid : Nat) (f : Req → Req) : (s.setReq rid f).collOut = s.collOut := rfl
@[simp] theorem State.setReq_dawn (s : State) (rid : Nat) (f : Req → Req) : (s.setReq rid f).dawn = s.dawn := rfl
@[simp] theorem State.setReq_inletHot (s : State) (rid : Nat) (f : Req → Req) : (s.setReq rid f).inletHot = s.inletHot := rfl
@[simp] theorem State.setReq_inlet (s : State) (rid : Nat) (f : Req → Req) : (s.setReq rid f).inlet = s.inlet := rfl
@[simp] theorem State.setReq_mgmt (s : State) (rid : Nat) (f : Req → Req) : (s.setReq rid f).mgmt = s.mgmt := rfl

/-! ## State.dropReq -/

@[simp] theorem State.dropReq_agenda (s : State) (rid : Nat) : (s.dropReq rid).agenda = s.agenda := rfl
@[simp] theorem State.dropReq_moves (s : State) (rid : Nat) : (s.dropReq rid).moves = s.moves := rfl
@[simp] theorem State.dropReq_fresh (s : State) (rid : Nat) : (s.dropReq rid).fresh = s.fresh := rfl
@[simp] theorem State.dropReq_cur (s : State) (rid : Nat) : (s.dropReq rid).cur = s.cur := rfl
@[simp] theorem State.dropReq_iss (s : State) (rid : Nat) : (s.dropReq rid).iss = s.iss := rfl
@[simp] theorem State.dropReq_curWin (s : State) (rid : Nat) : (s.dropReq rid).curWin = s.curWin := rfl
@[simp] theorem State.dropReq_tick (s : State) (rid : Nat) : (s.dropReq rid).tick = s.tick := rfl
@[simp] theorem State.dropReq_mem (s : State) (rid : Nat) : (s.dropReq rid).mem = s.mem := rfl
@[simp] theorem State.dropReq_ws (s : State) (rid : Nat) : (s.dropReq rid).ws = s.ws := rfl
@[simp] theorem State.dropReq_tags (s : State) (rid : Nat) : (s.dropReq rid).tags = s.tags := rfl
@[simp] theorem State.dropReq_guard (s : State) (rid : Nat) : (s.dropReq rid).guard = s.guard := rfl
@[simp] theorem State.dropReq_upsets (s : State) (rid : Nat) : (s.dropReq rid).upsets = s.upsets := rfl
@[simp] theorem State.dropReq_threads (s : State) (rid : Nat) : (s.dropReq rid).threads = s.threads := rfl
@[simp] theorem State.dropReq_cores (s : State) (rid : Nat) : (s.dropReq rid).cores = s.cores := rfl
@[simp] theorem State.dropReq_tiles (s : State) (rid : Nat) : (s.dropReq rid).tiles = s.tiles := rfl
@[simp] theorem State.dropReq_ports (s : State) (rid : Nat) : (s.dropReq rid).ports = s.ports := rfl
@[simp] theorem State.dropReq_dies (s : State) (rid : Nat) : (s.dropReq rid).dies = s.dies := rfl
@[simp] theorem State.dropReq_links (s : State) (rid : Nat) : (s.dropReq rid).links = s.links := rfl
@[simp] theorem State.dropReq_wear (s : State) (rid : Nat) : (s.dropReq rid).wear = s.wear := rfl
@[simp] theorem State.dropReq_map (s : State) (rid : Nat) : (s.dropReq rid).map = s.map := rfl
@[simp] theorem State.dropReq_fenced (s : State) (rid : Nat) : (s.dropReq rid).fenced = s.fenced := rfl
@[simp] theorem State.dropReq_ctxbase (s : State) (rid : Nat) : (s.dropReq rid).ctxbase = s.ctxbase := rfl
@[simp] theorem State.dropReq_allocated (s : State) (rid : Nat) : (s.dropReq rid).allocated = s.allocated := rfl
@[simp] theorem State.dropReq_nextRid (s : State) (rid : Nat) : (s.dropReq rid).nextRid = s.nextRid := rfl
@[simp] theorem State.dropReq_packets (s : State) (rid : Nat) : (s.dropReq rid).packets = s.packets := rfl
@[simp] theorem State.dropReq_nextPkt (s : State) (rid : Nat) : (s.dropReq rid).nextPkt = s.nextPkt := rfl
@[simp] theorem State.dropReq_arrivals (s : State) (rid : Nat) : (s.dropReq rid).arrivals = s.arrivals := rfl
@[simp] theorem State.dropReq_launches (s : State) (rid : Nat) : (s.dropReq rid).launches = s.launches := rfl
@[simp] theorem State.dropReq_answers (s : State) (rid : Nat) : (s.dropReq rid).answers = s.answers := rfl
@[simp] theorem State.dropReq_bindings (s : State) (rid : Nat) : (s.dropReq rid).bindings = s.bindings := rfl
@[simp] theorem State.dropReq_saves (s : State) (rid : Nat) : (s.dropReq rid).saves = s.saves := rfl
@[simp] theorem State.dropReq_granted (s : State) (rid : Nat) : (s.dropReq rid).granted = s.granted := rfl
@[simp] theorem State.dropReq_revoked (s : State) (rid : Nat) : (s.dropReq rid).revoked = s.revoked := rfl
@[simp] theorem State.dropReq_inbound (s : State) (rid : Nat) : (s.dropReq rid).inbound = s.inbound := rfl
@[simp] theorem State.dropReq_inAnswers (s : State) (rid : Nat) : (s.dropReq rid).inAnswers = s.inAnswers := rfl
@[simp] theorem State.dropReq_outbound (s : State) (rid : Nat) : (s.dropReq rid).outbound = s.outbound := rfl
@[simp] theorem State.dropReq_collOut (s : State) (rid : Nat) : (s.dropReq rid).collOut = s.collOut := rfl
@[simp] theorem State.dropReq_dawn (s : State) (rid : Nat) : (s.dropReq rid).dawn = s.dawn := rfl
@[simp] theorem State.dropReq_inletHot (s : State) (rid : Nat) : (s.dropReq rid).inletHot = s.inletHot := rfl
@[simp] theorem State.dropReq_inlet (s : State) (rid : Nat) : (s.dropReq rid).inlet = s.inlet := rfl
@[simp] theorem State.dropReq_mgmt (s : State) (rid : Nat) : (s.dropReq rid).mgmt = s.mgmt := rfl

/-! ## State.stall -/

@[simp] theorem State.stall_agenda (s : State) : (s.stall).agenda = s.agenda := rfl
@[simp] theorem State.stall_moves (s : State) : (s.stall).moves = s.moves := rfl
@[simp] theorem State.stall_fresh (s : State) : (s.stall).fresh = s.fresh := rfl
@[simp] theorem State.stall_cur (s : State) : (s.stall).cur = s.cur := rfl
@[simp] theorem State.stall_curWin (s : State) : (s.stall).curWin = s.curWin := rfl
@[simp] theorem State.stall_tick (s : State) : (s.stall).tick = s.tick := rfl
@[simp] theorem State.stall_mem (s : State) : (s.stall).mem = s.mem := rfl
@[simp] theorem State.stall_ws (s : State) : (s.stall).ws = s.ws := rfl
@[simp] theorem State.stall_tags (s : State) : (s.stall).tags = s.tags := rfl
@[simp] theorem State.stall_guard (s : State) : (s.stall).guard = s.guard := rfl
@[simp] theorem State.stall_upsets (s : State) : (s.stall).upsets = s.upsets := rfl
@[simp] theorem State.stall_threads (s : State) : (s.stall).threads = s.threads := rfl
@[simp] theorem State.stall_cores (s : State) : (s.stall).cores = s.cores := rfl
@[simp] theorem State.stall_tiles (s : State) : (s.stall).tiles = s.tiles := rfl
@[simp] theorem State.stall_ports (s : State) : (s.stall).ports = s.ports := rfl
@[simp] theorem State.stall_dies (s : State) : (s.stall).dies = s.dies := rfl
@[simp] theorem State.stall_links (s : State) : (s.stall).links = s.links := rfl
@[simp] theorem State.stall_wear (s : State) : (s.stall).wear = s.wear := rfl
@[simp] theorem State.stall_map (s : State) : (s.stall).map = s.map := rfl
@[simp] theorem State.stall_fenced (s : State) : (s.stall).fenced = s.fenced := rfl
@[simp] theorem State.stall_ctxbase (s : State) : (s.stall).ctxbase = s.ctxbase := rfl
@[simp] theorem State.stall_allocated (s : State) : (s.stall).allocated = s.allocated := rfl
@[simp] theorem State.stall_net (s : State) : (s.stall).net = s.net := rfl
@[simp] theorem State.stall_nextRid (s : State) : (s.stall).nextRid = s.nextRid := rfl
@[simp] theorem State.stall_packets (s : State) : (s.stall).packets = s.packets := rfl
@[simp] theorem State.stall_nextPkt (s : State) : (s.stall).nextPkt = s.nextPkt := rfl
@[simp] theorem State.stall_arrivals (s : State) : (s.stall).arrivals = s.arrivals := rfl
@[simp] theorem State.stall_launches (s : State) : (s.stall).launches = s.launches := rfl
@[simp] theorem State.stall_answers (s : State) : (s.stall).answers = s.answers := rfl
@[simp] theorem State.stall_bindings (s : State) : (s.stall).bindings = s.bindings := rfl
@[simp] theorem State.stall_saves (s : State) : (s.stall).saves = s.saves := rfl
@[simp] theorem State.stall_granted (s : State) : (s.stall).granted = s.granted := rfl
@[simp] theorem State.stall_revoked (s : State) : (s.stall).revoked = s.revoked := rfl
@[simp] theorem State.stall_inbound (s : State) : (s.stall).inbound = s.inbound := rfl
@[simp] theorem State.stall_inAnswers (s : State) : (s.stall).inAnswers = s.inAnswers := rfl
@[simp] theorem State.stall_outbound (s : State) : (s.stall).outbound = s.outbound := rfl
@[simp] theorem State.stall_collOut (s : State) : (s.stall).collOut = s.collOut := rfl
@[simp] theorem State.stall_dawn (s : State) : (s.stall).dawn = s.dawn := rfl
@[simp] theorem State.stall_inletHot (s : State) : (s.stall).inletHot = s.inletHot := rfl
@[simp] theorem State.stall_inlet (s : State) : (s.stall).inlet = s.inlet := rfl
@[simp] theorem State.stall_mgmt (s : State) : (s.stall).mgmt = s.mgmt := rfl

/-! ## State.pend -/

@[simp] theorem State.pend_agenda (s : State) (p : Pend) : (s.pend p).agenda = s.agenda := rfl
@[simp] theorem State.pend_moves (s : State) (p : Pend) : (s.pend p).moves = s.moves := rfl
@[simp] theorem State.pend_fresh (s : State) (p : Pend) : (s.pend p).fresh = s.fresh := rfl
@[simp] theorem State.pend_cur (s : State) (p : Pend) : (s.pend p).cur = s.cur := rfl
@[simp] theorem State.pend_iss (s : State) (p : Pend) : (s.pend p).iss = s.iss := rfl
@[simp] theorem State.pend_curWin (s : State) (p : Pend) : (s.pend p).curWin = s.curWin := rfl
@[simp] theorem State.pend_tick (s : State) (p : Pend) : (s.pend p).tick = s.tick := rfl
@[simp] theorem State.pend_mem (s : State) (p : Pend) : (s.pend p).mem = s.mem := rfl
@[simp] theorem State.pend_ws (s : State) (p : Pend) : (s.pend p).ws = s.ws := rfl
@[simp] theorem State.pend_tags (s : State) (p : Pend) : (s.pend p).tags = s.tags := rfl
@[simp] theorem State.pend_guard (s : State) (p : Pend) : (s.pend p).guard = s.guard := rfl
@[simp] theorem State.pend_upsets (s : State) (p : Pend) : (s.pend p).upsets = s.upsets := rfl
@[simp] theorem State.pend_cores (s : State) (p : Pend) : (s.pend p).cores = s.cores := rfl
@[simp] theorem State.pend_tiles (s : State) (p : Pend) : (s.pend p).tiles = s.tiles := rfl
@[simp] theorem State.pend_ports (s : State) (p : Pend) : (s.pend p).ports = s.ports := rfl
@[simp] theorem State.pend_dies (s : State) (p : Pend) : (s.pend p).dies = s.dies := rfl
@[simp] theorem State.pend_links (s : State) (p : Pend) : (s.pend p).links = s.links := rfl
@[simp] theorem State.pend_wear (s : State) (p : Pend) : (s.pend p).wear = s.wear := rfl
@[simp] theorem State.pend_map (s : State) (p : Pend) : (s.pend p).map = s.map := rfl
@[simp] theorem State.pend_fenced (s : State) (p : Pend) : (s.pend p).fenced = s.fenced := rfl
@[simp] theorem State.pend_ctxbase (s : State) (p : Pend) : (s.pend p).ctxbase = s.ctxbase := rfl
@[simp] theorem State.pend_allocated (s : State) (p : Pend) : (s.pend p).allocated = s.allocated := rfl
@[simp] theorem State.pend_net (s : State) (p : Pend) : (s.pend p).net = s.net := rfl
@[simp] theorem State.pend_nextRid (s : State) (p : Pend) : (s.pend p).nextRid = s.nextRid := rfl
@[simp] theorem State.pend_packets (s : State) (p : Pend) : (s.pend p).packets = s.packets := rfl
@[simp] theorem State.pend_nextPkt (s : State) (p : Pend) : (s.pend p).nextPkt = s.nextPkt := rfl
@[simp] theorem State.pend_arrivals (s : State) (p : Pend) : (s.pend p).arrivals = s.arrivals := rfl
@[simp] theorem State.pend_launches (s : State) (p : Pend) : (s.pend p).launches = s.launches := rfl
@[simp] theorem State.pend_answers (s : State) (p : Pend) : (s.pend p).answers = s.answers := rfl
@[simp] theorem State.pend_bindings (s : State) (p : Pend) : (s.pend p).bindings = s.bindings := rfl
@[simp] theorem State.pend_saves (s : State) (p : Pend) : (s.pend p).saves = s.saves := rfl
@[simp] theorem State.pend_granted (s : State) (p : Pend) : (s.pend p).granted = s.granted := rfl
@[simp] theorem State.pend_revoked (s : State) (p : Pend) : (s.pend p).revoked = s.revoked := rfl
@[simp] theorem State.pend_inbound (s : State) (p : Pend) : (s.pend p).inbound = s.inbound := rfl
@[simp] theorem State.pend_inAnswers (s : State) (p : Pend) : (s.pend p).inAnswers = s.inAnswers := rfl
@[simp] theorem State.pend_outbound (s : State) (p : Pend) : (s.pend p).outbound = s.outbound := rfl
@[simp] theorem State.pend_collOut (s : State) (p : Pend) : (s.pend p).collOut = s.collOut := rfl
@[simp] theorem State.pend_dawn (s : State) (p : Pend) : (s.pend p).dawn = s.dawn := rfl
@[simp] theorem State.pend_inletHot (s : State) (p : Pend) : (s.pend p).inletHot = s.inletHot := rfl
@[simp] theorem State.pend_inlet (s : State) (p : Pend) : (s.pend p).inlet = s.inlet := rfl
@[simp] theorem State.pend_mgmt (s : State) (p : Pend) : (s.pend p).mgmt = s.mgmt := rfl

/-! ## State.postErr -/

@[simp] theorem State.postErr_agenda (s : State) (p k c x : Nat) : (s.postErr p k c x).agenda = s.agenda := rfl
@[simp] theorem State.postErr_moves (s : State) (p k c x : Nat) : (s.postErr p k c x).moves = s.moves := rfl
@[simp] theorem State.postErr_fresh (s : State) (p k c x : Nat) : (s.postErr p k c x).fresh = s.fresh := rfl
@[simp] theorem State.postErr_cur (s : State) (p k c x : Nat) : (s.postErr p k c x).cur = s.cur := rfl
@[simp] theorem State.postErr_iss (s : State) (p k c x : Nat) : (s.postErr p k c x).iss = s.iss := rfl
@[simp] theorem State.postErr_curWin (s : State) (p k c x : Nat) : (s.postErr p k c x).curWin = s.curWin := rfl
@[simp] theorem State.postErr_tick (s : State) (p k c x : Nat) : (s.postErr p k c x).tick = s.tick := rfl
@[simp] theorem State.postErr_mem (s : State) (p k c x : Nat) : (s.postErr p k c x).mem = s.mem := rfl
@[simp] theorem State.postErr_ws (s : State) (p k c x : Nat) : (s.postErr p k c x).ws = s.ws := rfl
@[simp] theorem State.postErr_tags (s : State) (p k c x : Nat) : (s.postErr p k c x).tags = s.tags := rfl
@[simp] theorem State.postErr_guard (s : State) (p k c x : Nat) : (s.postErr p k c x).guard = s.guard := rfl
@[simp] theorem State.postErr_upsets (s : State) (p k c x : Nat) : (s.postErr p k c x).upsets = s.upsets := rfl
@[simp] theorem State.postErr_threads (s : State) (p k c x : Nat) : (s.postErr p k c x).threads = s.threads := rfl
@[simp] theorem State.postErr_cores (s : State) (p k c x : Nat) : (s.postErr p k c x).cores = s.cores := rfl
@[simp] theorem State.postErr_tiles (s : State) (p k c x : Nat) : (s.postErr p k c x).tiles = s.tiles := rfl
@[simp] theorem State.postErr_dies (s : State) (p k c x : Nat) : (s.postErr p k c x).dies = s.dies := rfl
@[simp] theorem State.postErr_links (s : State) (p k c x : Nat) : (s.postErr p k c x).links = s.links := rfl
@[simp] theorem State.postErr_wear (s : State) (p k c x : Nat) : (s.postErr p k c x).wear = s.wear := rfl
@[simp] theorem State.postErr_map (s : State) (p k c x : Nat) : (s.postErr p k c x).map = s.map := rfl
@[simp] theorem State.postErr_fenced (s : State) (p k c x : Nat) : (s.postErr p k c x).fenced = s.fenced := rfl
@[simp] theorem State.postErr_ctxbase (s : State) (p k c x : Nat) : (s.postErr p k c x).ctxbase = s.ctxbase := rfl
@[simp] theorem State.postErr_allocated (s : State) (p k c x : Nat) : (s.postErr p k c x).allocated = s.allocated := rfl
@[simp] theorem State.postErr_net (s : State) (p k c x : Nat) : (s.postErr p k c x).net = s.net := rfl
@[simp] theorem State.postErr_nextRid (s : State) (p k c x : Nat) : (s.postErr p k c x).nextRid = s.nextRid := rfl
@[simp] theorem State.postErr_packets (s : State) (p k c x : Nat) : (s.postErr p k c x).packets = s.packets := rfl
@[simp] theorem State.postErr_nextPkt (s : State) (p k c x : Nat) : (s.postErr p k c x).nextPkt = s.nextPkt := rfl
@[simp] theorem State.postErr_arrivals (s : State) (p k c x : Nat) : (s.postErr p k c x).arrivals = s.arrivals := rfl
@[simp] theorem State.postErr_launches (s : State) (p k c x : Nat) : (s.postErr p k c x).launches = s.launches := rfl
@[simp] theorem State.postErr_answers (s : State) (p k c x : Nat) : (s.postErr p k c x).answers = s.answers := rfl
@[simp] theorem State.postErr_bindings (s : State) (p k c x : Nat) : (s.postErr p k c x).bindings = s.bindings := rfl
@[simp] theorem State.postErr_saves (s : State) (p k c x : Nat) : (s.postErr p k c x).saves = s.saves := rfl
@[simp] theorem State.postErr_granted (s : State) (p k c x : Nat) : (s.postErr p k c x).granted = s.granted := rfl
@[simp] theorem State.postErr_revoked (s : State) (p k c x : Nat) : (s.postErr p k c x).revoked = s.revoked := rfl
@[simp] theorem State.postErr_inbound (s : State) (p k c x : Nat) : (s.postErr p k c x).inbound = s.inbound := rfl
@[simp] theorem State.postErr_inAnswers (s : State) (p k c x : Nat) : (s.postErr p k c x).inAnswers = s.inAnswers := rfl
@[simp] theorem State.postErr_outbound (s : State) (p k c x : Nat) : (s.postErr p k c x).outbound = s.outbound := rfl
@[simp] theorem State.postErr_collOut (s : State) (p k c x : Nat) : (s.postErr p k c x).collOut = s.collOut := rfl
@[simp] theorem State.postErr_dawn (s : State) (p k c x : Nat) : (s.postErr p k c x).dawn = s.dawn := rfl
@[simp] theorem State.postErr_inletHot (s : State) (p k c x : Nat) : (s.postErr p k c x).inletHot = s.inletHot := rfl
@[simp] theorem State.postErr_inlet (s : State) (p k c x : Nat) : (s.postErr p k c x).inlet = s.inlet := rfl
@[simp] theorem State.postErr_mgmt (s : State) (p k c x : Nat) : (s.postErr p k c x).mgmt = s.mgmt := rfl

/-! ## State.addPacket -/

@[simp] theorem State.addPacket_agenda (s : State) (l : Load) (a b n : Nat) (c : Claim) : (s.addPacket l a b n c).agenda = s.agenda := rfl
@[simp] theorem State.addPacket_moves (s : State) (l : Load) (a b n : Nat) (c : Claim) : (s.addPacket l a b n c).moves = s.moves := rfl
@[simp] theorem State.addPacket_fresh (s : State) (l : Load) (a b n : Nat) (c : Claim) : (s.addPacket l a b n c).fresh = s.fresh := rfl
@[simp] theorem State.addPacket_cur (s : State) (l : Load) (a b n : Nat) (c : Claim) : (s.addPacket l a b n c).cur = s.cur := rfl
@[simp] theorem State.addPacket_iss (s : State) (l : Load) (a b n : Nat) (c : Claim) : (s.addPacket l a b n c).iss = s.iss := rfl
@[simp] theorem State.addPacket_curWin (s : State) (l : Load) (a b n : Nat) (c : Claim) : (s.addPacket l a b n c).curWin = s.curWin := rfl
@[simp] theorem State.addPacket_tick (s : State) (l : Load) (a b n : Nat) (c : Claim) : (s.addPacket l a b n c).tick = s.tick := rfl
@[simp] theorem State.addPacket_mem (s : State) (l : Load) (a b n : Nat) (c : Claim) : (s.addPacket l a b n c).mem = s.mem := rfl
@[simp] theorem State.addPacket_ws (s : State) (l : Load) (a b n : Nat) (c : Claim) : (s.addPacket l a b n c).ws = s.ws := rfl
@[simp] theorem State.addPacket_tags (s : State) (l : Load) (a b n : Nat) (c : Claim) : (s.addPacket l a b n c).tags = s.tags := rfl
@[simp] theorem State.addPacket_guard (s : State) (l : Load) (a b n : Nat) (c : Claim) : (s.addPacket l a b n c).guard = s.guard := rfl
@[simp] theorem State.addPacket_upsets (s : State) (l : Load) (a b n : Nat) (c : Claim) : (s.addPacket l a b n c).upsets = s.upsets := rfl
@[simp] theorem State.addPacket_threads (s : State) (l : Load) (a b n : Nat) (c : Claim) : (s.addPacket l a b n c).threads = s.threads := rfl
@[simp] theorem State.addPacket_cores (s : State) (l : Load) (a b n : Nat) (c : Claim) : (s.addPacket l a b n c).cores = s.cores := rfl
@[simp] theorem State.addPacket_tiles (s : State) (l : Load) (a b n : Nat) (c : Claim) : (s.addPacket l a b n c).tiles = s.tiles := rfl
@[simp] theorem State.addPacket_ports (s : State) (l : Load) (a b n : Nat) (c : Claim) : (s.addPacket l a b n c).ports = s.ports := rfl
@[simp] theorem State.addPacket_dies (s : State) (l : Load) (a b n : Nat) (c : Claim) : (s.addPacket l a b n c).dies = s.dies := rfl
@[simp] theorem State.addPacket_links (s : State) (l : Load) (a b n : Nat) (c : Claim) : (s.addPacket l a b n c).links = s.links := rfl
@[simp] theorem State.addPacket_wear (s : State) (l : Load) (a b n : Nat) (c : Claim) : (s.addPacket l a b n c).wear = s.wear := rfl
@[simp] theorem State.addPacket_map (s : State) (l : Load) (a b n : Nat) (c : Claim) : (s.addPacket l a b n c).map = s.map := rfl
@[simp] theorem State.addPacket_fenced (s : State) (l : Load) (a b n : Nat) (c : Claim) : (s.addPacket l a b n c).fenced = s.fenced := rfl
@[simp] theorem State.addPacket_ctxbase (s : State) (l : Load) (a b n : Nat) (c : Claim) : (s.addPacket l a b n c).ctxbase = s.ctxbase := rfl
@[simp] theorem State.addPacket_allocated (s : State) (l : Load) (a b n : Nat) (c : Claim) : (s.addPacket l a b n c).allocated = s.allocated := rfl
@[simp] theorem State.addPacket_net (s : State) (l : Load) (a b n : Nat) (c : Claim) : (s.addPacket l a b n c).net = s.net := rfl
@[simp] theorem State.addPacket_nextRid (s : State) (l : Load) (a b n : Nat) (c : Claim) : (s.addPacket l a b n c).nextRid = s.nextRid := rfl
@[simp] theorem State.addPacket_arrivals (s : State) (l : Load) (a b n : Nat) (c : Claim) : (s.addPacket l a b n c).arrivals = s.arrivals := rfl
@[simp] theorem State.addPacket_launches (s : State) (l : Load) (a b n : Nat) (c : Claim) : (s.addPacket l a b n c).launches = s.launches := rfl
@[simp] theorem State.addPacket_answers (s : State) (l : Load) (a b n : Nat) (c : Claim) : (s.addPacket l a b n c).answers = s.answers := rfl
@[simp] theorem State.addPacket_bindings (s : State) (l : Load) (a b n : Nat) (c : Claim) : (s.addPacket l a b n c).bindings = s.bindings := rfl
@[simp] theorem State.addPacket_saves (s : State) (l : Load) (a b n : Nat) (c : Claim) : (s.addPacket l a b n c).saves = s.saves := rfl
@[simp] theorem State.addPacket_granted (s : State) (l : Load) (a b n : Nat) (c : Claim) : (s.addPacket l a b n c).granted = s.granted := rfl
@[simp] theorem State.addPacket_revoked (s : State) (l : Load) (a b n : Nat) (c : Claim) : (s.addPacket l a b n c).revoked = s.revoked := rfl
@[simp] theorem State.addPacket_inbound (s : State) (l : Load) (a b n : Nat) (c : Claim) : (s.addPacket l a b n c).inbound = s.inbound := rfl
@[simp] theorem State.addPacket_inAnswers (s : State) (l : Load) (a b n : Nat) (c : Claim) : (s.addPacket l a b n c).inAnswers = s.inAnswers := rfl
@[simp] theorem State.addPacket_outbound (s : State) (l : Load) (a b n : Nat) (c : Claim) : (s.addPacket l a b n c).outbound = s.outbound := rfl
@[simp] theorem State.addPacket_collOut (s : State) (l : Load) (a b n : Nat) (c : Claim) : (s.addPacket l a b n c).collOut = s.collOut := rfl
@[simp] theorem State.addPacket_dawn (s : State) (l : Load) (a b n : Nat) (c : Claim) : (s.addPacket l a b n c).dawn = s.dawn := rfl
@[simp] theorem State.addPacket_inletHot (s : State) (l : Load) (a b n : Nat) (c : Claim) : (s.addPacket l a b n c).inletHot = s.inletHot := rfl
@[simp] theorem State.addPacket_inlet (s : State) (l : Load) (a b n : Nat) (c : Claim) : (s.addPacket l a b n c).inlet = s.inlet := rfl
@[simp] theorem State.addPacket_mgmt (s : State) (l : Load) (a b n : Nat) (c : Claim) : (s.addPacket l a b n c).mgmt = s.mgmt := rfl

/-! ## State.dropPacket -/

@[simp] theorem State.dropPacket_agenda (s : State) (id : Nat) : (s.dropPacket id).agenda = s.agenda := rfl
@[simp] theorem State.dropPacket_moves (s : State) (id : Nat) : (s.dropPacket id).moves = s.moves := rfl
@[simp] theorem State.dropPacket_fresh (s : State) (id : Nat) : (s.dropPacket id).fresh = s.fresh := rfl
@[simp] theorem State.dropPacket_cur (s : State) (id : Nat) : (s.dropPacket id).cur = s.cur := rfl
@[simp] theorem State.dropPacket_iss (s : State) (id : Nat) : (s.dropPacket id).iss = s.iss := rfl
@[simp] theorem State.dropPacket_curWin (s : State) (id : Nat) : (s.dropPacket id).curWin = s.curWin := rfl
@[simp] theorem State.dropPacket_tick (s : State) (id : Nat) : (s.dropPacket id).tick = s.tick := rfl
@[simp] theorem State.dropPacket_mem (s : State) (id : Nat) : (s.dropPacket id).mem = s.mem := rfl
@[simp] theorem State.dropPacket_ws (s : State) (id : Nat) : (s.dropPacket id).ws = s.ws := rfl
@[simp] theorem State.dropPacket_tags (s : State) (id : Nat) : (s.dropPacket id).tags = s.tags := rfl
@[simp] theorem State.dropPacket_guard (s : State) (id : Nat) : (s.dropPacket id).guard = s.guard := rfl
@[simp] theorem State.dropPacket_upsets (s : State) (id : Nat) : (s.dropPacket id).upsets = s.upsets := rfl
@[simp] theorem State.dropPacket_threads (s : State) (id : Nat) : (s.dropPacket id).threads = s.threads := rfl
@[simp] theorem State.dropPacket_cores (s : State) (id : Nat) : (s.dropPacket id).cores = s.cores := rfl
@[simp] theorem State.dropPacket_tiles (s : State) (id : Nat) : (s.dropPacket id).tiles = s.tiles := rfl
@[simp] theorem State.dropPacket_ports (s : State) (id : Nat) : (s.dropPacket id).ports = s.ports := rfl
@[simp] theorem State.dropPacket_dies (s : State) (id : Nat) : (s.dropPacket id).dies = s.dies := rfl
@[simp] theorem State.dropPacket_links (s : State) (id : Nat) : (s.dropPacket id).links = s.links := rfl
@[simp] theorem State.dropPacket_wear (s : State) (id : Nat) : (s.dropPacket id).wear = s.wear := rfl
@[simp] theorem State.dropPacket_map (s : State) (id : Nat) : (s.dropPacket id).map = s.map := rfl
@[simp] theorem State.dropPacket_fenced (s : State) (id : Nat) : (s.dropPacket id).fenced = s.fenced := rfl
@[simp] theorem State.dropPacket_ctxbase (s : State) (id : Nat) : (s.dropPacket id).ctxbase = s.ctxbase := rfl
@[simp] theorem State.dropPacket_allocated (s : State) (id : Nat) : (s.dropPacket id).allocated = s.allocated := rfl
@[simp] theorem State.dropPacket_net (s : State) (id : Nat) : (s.dropPacket id).net = s.net := rfl
@[simp] theorem State.dropPacket_nextRid (s : State) (id : Nat) : (s.dropPacket id).nextRid = s.nextRid := rfl
@[simp] theorem State.dropPacket_nextPkt (s : State) (id : Nat) : (s.dropPacket id).nextPkt = s.nextPkt := rfl
@[simp] theorem State.dropPacket_arrivals (s : State) (id : Nat) : (s.dropPacket id).arrivals = s.arrivals := rfl
@[simp] theorem State.dropPacket_launches (s : State) (id : Nat) : (s.dropPacket id).launches = s.launches := rfl
@[simp] theorem State.dropPacket_answers (s : State) (id : Nat) : (s.dropPacket id).answers = s.answers := rfl
@[simp] theorem State.dropPacket_bindings (s : State) (id : Nat) : (s.dropPacket id).bindings = s.bindings := rfl
@[simp] theorem State.dropPacket_saves (s : State) (id : Nat) : (s.dropPacket id).saves = s.saves := rfl
@[simp] theorem State.dropPacket_granted (s : State) (id : Nat) : (s.dropPacket id).granted = s.granted := rfl
@[simp] theorem State.dropPacket_revoked (s : State) (id : Nat) : (s.dropPacket id).revoked = s.revoked := rfl
@[simp] theorem State.dropPacket_inbound (s : State) (id : Nat) : (s.dropPacket id).inbound = s.inbound := rfl
@[simp] theorem State.dropPacket_inAnswers (s : State) (id : Nat) : (s.dropPacket id).inAnswers = s.inAnswers := rfl
@[simp] theorem State.dropPacket_outbound (s : State) (id : Nat) : (s.dropPacket id).outbound = s.outbound := rfl
@[simp] theorem State.dropPacket_collOut (s : State) (id : Nat) : (s.dropPacket id).collOut = s.collOut := rfl
@[simp] theorem State.dropPacket_dawn (s : State) (id : Nat) : (s.dropPacket id).dawn = s.dawn := rfl
@[simp] theorem State.dropPacket_inletHot (s : State) (id : Nat) : (s.dropPacket id).inletHot = s.inletHot := rfl
@[simp] theorem State.dropPacket_inlet (s : State) (id : Nat) : (s.dropPacket id).inlet = s.inlet := rfl
@[simp] theorem State.dropPacket_mgmt (s : State) (id : Nat) : (s.dropPacket id).mgmt = s.mgmt := rfl

end Sys2Proof.Machine
end

