-- ==== Sys2Proof/Laws/Store.lean ====
section
/-! SUPPORT. The sparse stores: reading what was written, and the canonical form that every operation keeps. -/

namespace Sys2Proof.Machine

variable {α : Type} {d : α}

/-! ## Reading after writing -/

theorem Store.get_above_same (m : Store α) (k : Nat) : Store.get d (Store.above m k) k = d := by
  induction m with
  | nil => rfl
  | cons x m ih =>
    obtain ⟨k', v⟩ := x
    by_cases h : k' ≤ k
    · simp [Store.above, h, ih]
    · simp [Store.above, h, Store.get, Nat.lt_of_not_le h]

theorem Store.get_above_lt (m : Store α) {k j : Nat} (h : j < k) : Store.get d (Store.above m k) j = d := by
  induction m with
  | nil => rfl
  | cons x m ih =>
    obtain ⟨k', v⟩ := x
    by_cases hk : k' ≤ k
    · simp [Store.above, hk, ih]
    · have : j < k' := by omega
      simp [Store.above, hk, Store.get, this]

theorem Store.get_above_gt (m : Store α) {k j : Nat} (h : k < j) : Store.get d (Store.above m k) j = Store.get d m j := by
  induction m with
  | nil => rfl
  | cons x m ih =>
    obtain ⟨k', v⟩ := x
    by_cases hk : k' ≤ k
    · have h1 : ¬ j < k' := by omega
      have h2 : ¬ j = k' := by omega
      simp [Store.above, hk, ih, Store.get, h1, h2]
    · simp [Store.above, hk]

variable [DecidableEq α]

/-- A key reads as what was written to it. -/
@[simp] theorem Store.get_put_same (m : Store α) (k : Nat) (v : α) : Store.get d (Store.put d m k v) k = v := by
  induction m with
  | nil => by_cases h : v = d <;> simp [Store.put, h, Store.get]
  | cons x m ih =>
    obtain ⟨k', v'⟩ := x
    rcases Nat.lt_trichotomy k k' with h | h | h
    · by_cases hv : v = d <;> simp [Store.put, h, hv, Store.get]
    · subst h
      by_cases hv : v = d
      · simp [Store.put, hv, Store.get_above_same]
      · simp [Store.put, hv, Store.get]
    · have h1 : ¬ k < k' := by omega
      have h2 : ¬ k = k' := by omega
      simp [Store.put, h1, h2, Store.get, ih]

/-- Every other key reads as before. -/
theorem Store.get_put_other (m : Store α) {k j : Nat} (v : α) (h : j ≠ k) : Store.get d (Store.put d m k v) j = Store.get d m j := by
  induction m with
  | nil =>
    by_cases hv : v = d <;> simp [Store.put, hv, Store.get]
    intro _ hj; exact absurd hj h
  | cons x m ih =>
    obtain ⟨k', v'⟩ := x
    rcases Nat.lt_trichotomy k k' with hk | hk | hk
    · by_cases hv : v = d
      · simp [Store.put, hk, hv]
      · simp only [Store.put, hk, hv, if_true, if_false]
        rcases Nat.lt_trichotomy j k with hj | hj | hj
        · have : j < k' := by omega
          simp [Store.get, hj, this]
        · exact absurd hj h
        · have h1 : ¬ j < k := by omega
          simp [Store.get, h1, h]
    · subst hk
      by_cases hv : v = d
      · simp only [Store.put, hv, Nat.lt_irrefl, if_true, if_false]
        rcases Nat.lt_trichotomy j k with hj | hj | hj
        · simp [Store.get, hj, Store.get_above_lt m hj]
        · exact absurd hj h
        · have h1 : ¬ j < k := by omega
          simp [Store.get, h1, h, Store.get_above_gt m hj]
      · simp [Store.put, hv, Store.get, h]
    · have h1 : ¬ k < k' := by omega
      have h2 : ¬ k = k' := by omega
      simp only [Store.put, h1, h2, if_false, Store.get, ih]

/-! ## The canonical form -/

theorem Store.wfFrom_weaken {m : Store α} {a : Nat} (h : Store.wfFrom d (some a) m = true) : Store.wfFrom d none m = true := by
  cases m with
  | nil => rfl
  | cons x m => obtain ⟨k, v⟩ := x; simp [Store.wfFrom] at h ⊢; exact ⟨h.1.2, h.2⟩

theorem Store.wfFrom_lower {m : Store α} {a b : Nat} (hab : b ≤ a) (h : Store.wfFrom d (some a) m = true) :
    Store.wfFrom d (some b) m = true := by
  cases m with
  | nil => rfl
  | cons x m =>
    obtain ⟨k, v⟩ := x
    simp only [Store.wfFrom, Bool.and_eq_true, decide_eq_true_eq] at h ⊢
    exact ⟨⟨by omega, h.1.2⟩, h.2⟩

theorem Store.above_of_wf {m : Store α} {k : Nat} (h : Store.wfFrom d (some k) m = true) : Store.above m k = m := by
  cases m with
  | nil => rfl
  | cons x m =>
    obtain ⟨k', v⟩ := x
    simp only [Store.wfFrom, Bool.and_eq_true, decide_eq_true_eq] at h
    have : ¬ k' ≤ k := by omega
    simp [Store.above, this]

theorem Store.wfFrom_put {m : Store α} {lo : Nat} {k : Nat} {v : α} (h : Store.wfFrom d (some lo) m = true) (hk : lo < k) :
    Store.wfFrom d (some lo) (Store.put d m k v) = true := by
  induction m generalizing lo with
  | nil => by_cases hv : v = d <;> simp [Store.put, hv, Store.wfFrom, hk]
  | cons x m ih =>
    obtain ⟨k', v'⟩ := x
    simp only [Store.wfFrom, Bool.and_eq_true, decide_eq_true_eq] at h
    obtain ⟨⟨h1, h2⟩, h3⟩ := h
    rcases Nat.lt_trichotomy k k' with hc | hc | hc
    · by_cases hv : v = d
      · simp [Store.put, hc, hv, Store.wfFrom, h1, h2, h3]
      · simp [Store.put, hc, hv, Store.wfFrom, hk, h2, h3]
    · subst hc
      by_cases hv : v = d
      · simp only [Store.put, hv, Nat.lt_irrefl, if_true, if_false]
        rw [Store.above_of_wf h3]
        exact Store.wfFrom_lower (by omega) h3
      · simp [Store.put, hv, Store.wfFrom, hk, h3]
    · have e1 : ¬ k < k' := by omega
      have e2 : ¬ k = k' := by omega
      simp only [Store.put, e1, e2, if_false, Store.wfFrom, Bool.and_eq_true, decide_eq_true_eq]
      exact ⟨⟨h1, h2⟩, ih h3 hc⟩

/-- Writing keeps the canonical form. -/
theorem Store.wf_put {m : Store α} (k : Nat) (v : α) (h : Store.wf d m = true) : Store.wf d (Store.put d m k v) = true := by
  unfold Store.wf at h ⊢
  cases m with
  | nil => by_cases hv : v = d <;> simp [Store.put, hv, Store.wfFrom]
  | cons x m =>
    obtain ⟨k', v'⟩ := x
    simp only [Store.wfFrom, Bool.and_eq_true, decide_eq_true_eq] at h
    obtain ⟨⟨_, h2⟩, h3⟩ := h
    rcases Nat.lt_trichotomy k k' with hc | hc | hc
    · by_cases hv : v = d
      · simp [Store.put, hc, hv, Store.wfFrom, h2, h3]
      · simp [Store.put, hc, hv, Store.wfFrom, h2, h3]
    · subst hc
      by_cases hv : v = d
      · simp only [Store.put, hv, Nat.lt_irrefl, if_true, if_false]
        rw [Store.above_of_wf h3]
        exact Store.wfFrom_weaken h3
      · simp [Store.put, hv, Store.wfFrom, h3]
    · have e1 : ¬ k < k' := by omega
      have e2 : ¬ k = k' := by omega
      simp only [Store.put, e1, e2, if_false, Store.wfFrom, Bool.and_eq_true, decide_eq_true_eq]
      exact ⟨⟨trivial, h2⟩, Store.wfFrom_put h3 hc⟩

theorem Store.wfFrom_filter {m : Store α} {lo : Option Nat} (p : Nat × α → Bool) (h : Store.wfFrom d lo m = true) :
    Store.wfFrom d lo (m.filter p) = true := by
  induction m generalizing lo with
  | nil => rfl
  | cons x m ih =>
    obtain ⟨k, v⟩ := x
    simp only [Store.wfFrom, Bool.and_eq_true, decide_eq_true_eq] at h
    obtain ⟨⟨h1, h2⟩, h3⟩ := h
    by_cases hp : p (k, v) = true
    · simp only [List.filter_cons, hp, if_true, Store.wfFrom, Bool.and_eq_true, decide_eq_true_eq]
      exact ⟨⟨h1, h2⟩, ih h3⟩
    · simp only [List.filter_cons, hp]
      have := ih h3
      cases lo with
      | none => exact Store.wfFrom_weaken this
      | some b =>
        simp only [decide_eq_true_eq] at h1
        exact Store.wfFrom_lower (by omega) this

/-- Dropping entries keeps the canonical form. -/
theorem Store.wf_filter {m : Store α} (p : Nat × α → Bool) (h : Store.wf d m = true) : Store.wf d (m.filter p) = true :=
  Store.wfFrom_filter p h

theorem Store.wfFrom_mapAll {m : Store α} {lo : Option Nat} (f : Nat → α → α) (h : Store.wfFrom d lo m = true) :
    Store.wfFrom d lo (Store.mapAll d f m) = true := by
  induction m generalizing lo with
  | nil => rfl
  | cons x m ih =>
    obtain ⟨k, v⟩ := x
    simp only [Store.wfFrom, Bool.and_eq_true, decide_eq_true_eq] at h
    obtain ⟨⟨h1, h2⟩, h3⟩ := h
    have i := ih h3
    unfold Store.mapAll at i ⊢
    by_cases hp : f k v = d
    · simp only [List.filterMap_cons, hp, if_true]
      cases lo with
      | none => exact Store.wfFrom_weaken i
      | some b =>
        simp only [decide_eq_true_eq] at h1
        exact Store.wfFrom_lower (by omega) i
    · simp only [List.filterMap_cons, hp, if_false, Store.wfFrom, Bool.and_eq_true, decide_eq_true_eq]
      exact ⟨⟨h1, hp⟩, i⟩

/-- Changing every entry keeps the canonical form. -/
theorem Store.wf_mapAll {m : Store α} (f : Nat → α → α) (h : Store.wf d m = true) : Store.wf d (Store.mapAll d f m) = true :=
  Store.wfFrom_mapAll f h

/-! ## Memory -/

/-- A byte reads as what was written to it. -/
@[simp] theorem Memory.read_write_same (m : Memory) (a : Nat) (b : Byte) : (m.write a b).read a = b := Store.get_put_same m a b

/-- Every other byte reads as before. -/
theorem Memory.read_write_other (m : Memory) {a c : Nat} (b : Byte) (h : c ≠ a) : (m.write a b).read c = m.read c :=
  Store.get_put_other m b h

/-- A write keeps the memory's canonical form. -/
theorem Memory.wf_write {m : Memory} (a : Nat) (b : Byte) (h : m.wf = true) : (m.write a b).wf = true := Store.wf_put a b h

/-- The memory after reset has the canonical form. -/
theorem Memory.wf_reset : Memory.wf State.reset.mem = true := rfl

/-! ## The keyed parts of the state -/

@[simp] theorem State.getWs_setWs_same (s : State) (th : Nat) (w : Workspace) : (s.setWs th w).getWs th = w := Store.get_put_same ..
theorem State.getWs_setWs_other (s : State) {th j : Nat} (w : Workspace) (h : j ≠ th) : (s.setWs th w).getWs j = s.getWs j :=
  Store.get_put_other _ _ h
@[simp] theorem State.thr_setThr_same (s : State) (th : Nat) (x : Thread) : (s.setThr th x).thr th = x := Store.get_put_same ..
theorem State.thr_setThr_other (s : State) {th j : Nat} (x : Thread) (h : j ≠ th) : (s.setThr th x).thr j = s.thr j :=
  Store.get_put_other _ _ h
@[simp] theorem State.thr_modThr_same (s : State) (th : Nat) (f : Thread → Thread) : (s.modThr th f).thr th = f (s.thr th) :=
  Store.get_put_same ..
theorem State.thr_modThr_other (s : State) {th j : Nat} (f : Thread → Thread) (h : j ≠ th) : (s.modThr th f).thr j = s.thr j :=
  Store.get_put_other _ _ h
@[simp] theorem State.core_modCore_same (s : State) (l : Nat) (f : CoreSt → CoreSt) : (s.modCore l f).core l = f (s.core l) :=
  Store.get_put_same ..
theorem State.core_modCore_other (s : State) {l j : Nat} (f : CoreSt → CoreSt) (h : j ≠ l) : (s.modCore l f).core j = s.core j :=
  Store.get_put_other _ _ h
@[simp] theorem State.tile_modTile_same (s : State) (l : Nat) (f : Tile → Tile) : (s.modTile l f).tile l = f (s.tile l) :=
  Store.get_put_same ..
theorem State.tile_modTile_other (s : State) {l j : Nat} (f : Tile → Tile) (h : j ≠ l) : (s.modTile l f).tile j = s.tile j :=
  Store.get_put_other _ _ h
@[simp] theorem State.port_modPort_same (s : State) (l : Nat) (f : Port → Port) : (s.modPort l f).port l = f (s.port l) :=
  Store.get_put_same ..
theorem State.port_modPort_other (s : State) {l j : Nat} (f : Port → Port) (h : j ≠ l) : (s.modPort l f).port j = s.port j :=
  Store.get_put_other _ _ h
@[simp] theorem State.die_modDie_same (s : State) (l : Nat) (f : Die → Die) : (s.modDie l f).die l = f (s.die l) :=
  Store.get_put_same ..
theorem State.die_modDie_other (s : State) {l j : Nat} (f : Die → Die) (h : j ≠ l) : (s.modDie l f).die j = s.die j :=
  Store.get_put_other _ _ h
@[simp] theorem State.link_modLink_same (s : State) (l : Nat) (f : Link → Link) : (s.modLink l f).link l = f (s.link l) :=
  Store.get_put_same ..
theorem State.link_modLink_other (s : State) {l j : Nat} (f : Link → Link) (h : j ≠ l) : (s.modLink l f).link j = s.link j :=
  Store.get_put_other _ _ h
@[simp] theorem State.tag_modTag_same (s : State) (l : Nat) (f : WordTag → WordTag) : (s.modTag l f).tag l = f (s.tag l) :=
  Store.get_put_same ..
theorem State.tag_modTag_other (s : State) {l j : Nat} (f : WordTag → WordTag) (h : j ≠ l) : (s.modTag l f).tag j = s.tag j :=
  Store.get_put_other _ _ h
@[simp] theorem State.binding_setBinding_same (s : State) (l : Nat) (b : Option Binding) : (s.setBinding l b).binding l = b :=
  Store.get_put_same ..
theorem State.binding_setBinding_other (s : State) {l j : Nat} (b : Option Binding) (h : j ≠ l) :
    (s.setBinding l b).binding j = s.binding j := Store.get_put_other _ _ h

/-! ## Reading a part that an update does not concern -/

@[simp] theorem State.getWs_setThr (s : State) (th j : Nat) (x : Thread) : (s.setThr th x).getWs j = s.getWs j := rfl
@[simp] theorem State.getWs_modThr (s : State) (th j : Nat) (f : Thread → Thread) : (s.modThr th f).getWs j = s.getWs j := rfl
@[simp] theorem State.getWs_modMe (s : State) (j : Nat) (f : Thread → Thread) : (s.modMe f).getWs j = s.getWs j := rfl
@[simp] theorem State.getWs_modCore (s : State) (l j : Nat) (f : CoreSt → CoreSt) : (s.modCore l f).getWs j = s.getWs j := rfl
@[simp] theorem State.getWs_modTile (s : State) (l j : Nat) (f : Tile → Tile) : (s.modTile l f).getWs j = s.getWs j := rfl
@[simp] theorem State.getWs_modPort (s : State) (l j : Nat) (f : Port → Port) : (s.modPort l f).getWs j = s.getWs j := rfl
@[simp] theorem State.getWs_addReq (s : State) (j : Nat) (r : Req) : (s.addReq r).getWs j = s.getWs j := rfl
@[simp] theorem State.thr_setWs (s : State) (th j : Nat) (w : Workspace) : (s.setWs th w).thr j = s.thr j := rfl
@[simp] theorem State.thr_upd (s : State) (j : Nat) (f : Workspace → Workspace) : (s.upd f).thr j = s.thr j := rfl
@[simp] theorem State.thr_modCore (s : State) (l j : Nat) (f : CoreSt → CoreSt) : (s.modCore l f).thr j = s.thr j := rfl
@[simp] theorem State.thr_modTile (s : State) (l j : Nat) (f : Tile → Tile) : (s.modTile l f).thr j = s.thr j := rfl
@[simp] theorem State.thr_modPort (s : State) (l j : Nat) (f : Port → Port) : (s.modPort l f).thr j = s.thr j := rfl
@[simp] theorem State.thr_addReq (s : State) (j : Nat) (r : Req) : (s.addReq r).thr j = s.thr j := rfl
@[simp] theorem State.core_setWs (s : State) (th l : Nat) (w : Workspace) : (s.setWs th w).core l = s.core l := rfl
@[simp] theorem State.core_modThr (s : State) (th l : Nat) (f : Thread → Thread) : (s.modThr th f).core l = s.core l := rfl
@[simp] theorem State.tile_setWs (s : State) (th l : Nat) (w : Workspace) : (s.setWs th w).tile l = s.tile l := rfl
@[simp] theorem State.tile_modThr (s : State) (th l : Nat) (f : Thread → Thread) : (s.modThr th f).tile l = s.tile l := rfl
@[simp] theorem State.tile_addReq (s : State) (l : Nat) (r : Req) : (s.addReq r).tile l = s.tile l := rfl

/-- The issuing thread's workspace after a change of it. -/
@[simp] theorem State.live_upd (s : State) (f : Workspace → Workspace) : (s.upd f).live = f s.live := Store.get_put_same ..
@[simp] theorem State.live_modMe (s : State) (f : Thread → Thread) : (s.modMe f).live = s.live := rfl
@[simp] theorem State.live_addReq (s : State) (r : Req) : (s.addReq r).live = s.live := rfl
@[simp] theorem State.me_upd (s : State) (f : Workspace → Workspace) : (s.upd f).me = s.me := rfl
@[simp] theorem State.me_addReq (s : State) (r : Req) : (s.addReq r).me = s.me := rfl
@[simp] theorem State.me_modMe (s : State) (f : Thread → Thread) : (s.modMe f).me = f s.me := Store.get_put_same ..
/-- A change of the issuing thread's workspace leaves every other workspace. -/
theorem State.getWs_upd_other (s : State) {j : Nat} (f : Workspace → Workspace) (h : j ≠ s.cur) : (s.upd f).getWs j = s.getWs j :=
  Store.get_put_other _ _ h

end Sys2Proof.Machine
end

