-- ==== Sys2Proof/Laws/Bytes.lean ====
section
/-! SUPPORT. What a register write leaves of a workspace, register by register and byte by byte (R222), and what that
leaves of the machine's memories. -/

namespace Sys2Proof.Machine

/-! ## Vectors -/

theorem getD_set_other {α : Type} {n : Nat} (v : Vector α n) (i j : Nat) (h : i < n) (x d : α) (hj : j ≠ i) :
    (v.set i x h).toList.getD j d = v.toList.getD j d := by
  simp [List.getD_eq_getElem?_getD, hj.symm]

/-! ## Register files -/

@[simp] theorem Workspace.getS_setS_same (w : Workspace) (r : BitVec 5) (x : BitVec 64) : (w.setS r x).getS r = x := by
  simp [Workspace.getS, Workspace.setS]
theorem Workspace.getS_setS_other (w : Workspace) {r q : BitVec 5} (x : BitVec 64) (h : q ≠ r) : (w.setS r x).getS q = w.getS q := by
  have : r.toNat ≠ q.toNat := fun e => h (BitVec.eq_of_toNat_eq e.symm)
  simp [Workspace.getS, Workspace.setS, this]
@[simp] theorem Workspace.getV_setV_same (w : Workspace) (r : BitVec 4) (x : Vec) : (w.setV r x).getV r = x := by
  simp [Workspace.getV, Workspace.setV]
theorem Workspace.getV_setV_other (w : Workspace) {r q : BitVec 4} (x : Vec) (h : q ≠ r) : (w.setV r x).getV q = w.getV q := by
  have : r.toNat ≠ q.toNat := fun e => h (BitVec.eq_of_toNat_eq e.symm)
  simp [Workspace.getV, Workspace.setV, this]
@[simp] theorem Workspace.getD_setD_same (w : Workspace) (r : BitVec 3) (x : Vec) : (w.setD r x).getD r = x := by
  simp [Workspace.getD, Workspace.setD]
theorem Workspace.getD_setD_other (w : Workspace) {r q : BitVec 3} (x : Vec) (h : q ≠ r) : (w.setD r x).getD q = w.getD q := by
  have : r.toNat ≠ q.toNat := fun e => h (BitVec.eq_of_toNat_eq e.symm)
  simp [Workspace.getD, Workspace.setD, this]
@[simp] theorem Workspace.getN_setN_same (w : Workspace) (r : BitVec 3) (x : BitVec 32) : (w.setN r x).getN r = x := by
  simp [Workspace.getN, Workspace.setN]
theorem Workspace.getN_setN_other (w : Workspace) {r q : BitVec 3} (x : BitVec 32) (h : q ≠ r) : (w.setN r x).getN q = w.getN q := by
  have : r.toNat ≠ q.toNat := fun e => h (BitVec.eq_of_toNat_eq e.symm)
  simp [Workspace.getN, Workspace.setN, this]
@[simp] theorem Workspace.getP_zero (w : Workspace) : w.getP 0 = BitVec.allOnes 64 := rfl
@[simp] theorem Workspace.setP_zero (w : Workspace) (x : BitVec 64) : w.setP 0 x = w := rfl
theorem Workspace.getP_setP_same (w : Workspace) {r : BitVec 3} (x : BitVec 64) (h : r ≠ 0) : (w.setP r x).getP r = x := by
  have h' : ¬ r = 0#3 := h
  simp [Workspace.getP, Workspace.setP, h']
theorem Workspace.getP_setP_other (w : Workspace) {r q : BitVec 3} (x : BitVec 64) (h : q ≠ r) : (w.setP r x).getP q = w.getP q := by
  have : r.toNat ≠ q.toNat := fun e => h (BitVec.eq_of_toNat_eq e.symm)
  unfold Workspace.setP
  split
  · rfl
  · by_cases hq : q = 0#3 <;> simp [Workspace.getP, hq, this]
@[simp] theorem Workspace.getT_setT_same (w : Workspace) (r : BitVec 3) (x : BitVec 64) : (w.setT r x).getT r = x := by
  simp [Workspace.getT, Workspace.setT]
theorem Workspace.getT_setT_other (w : Workspace) {r q : BitVec 3} (x : BitVec 64) (h : q ≠ r) : (w.setT r x).getT q = w.getT q := by
  have : r.toNat ≠ q.toNat := fun e => h (BitVec.eq_of_toNat_eq e.symm)
  simp [Workspace.getT, Workspace.setT, this]

/-! ## Bytes of a workspace -/

/-- A scalar write leaves every byte beyond its register's eight. -/
theorem Workspace.byte_setS (w : Workspace) (r : BitVec 5) (x : BitVec 64) {off : Nat} (h : off < 8 * r.toNat ∨ 8 * r.toNat + 8 ≤ off) :
    (w.setS r x).byte off = w.byte off := by
  unfold Workspace.byte
  split
  · rw [show (w.setS r x).s = w.s.set r.toNat x r.isLt from rfl, getD_set_other _ _ _ _ _ _ (by omega)]
  · rfl
/-- A predicate write leaves every byte beyond its register's eight. -/
theorem Workspace.byte_setP (w : Workspace) (r : BitVec 3) (x : BitVec 64) {off : Nat}
    (h : off < 256 + 8 * r.toNat ∨ 256 + 8 * r.toNat + 8 ≤ off) : (w.setP r x).byte off = w.byte off := by
  unfold Workspace.setP
  split
  · rfl
  · simp only [Workspace.byte]
    split
    · rfl
    · split
      · rw [getD_set_other _ _ _ _ _ _ (by omega)]
      · rfl
/-- A vector write leaves every byte beyond its register's 64. -/
theorem Workspace.byte_setV (w : Workspace) (r : BitVec 4) (x : Vec) {off : Nat}
    (h : off < 384 + 64 * r.toNat ∨ 384 + 64 * r.toNat + 64 ≤ off) : (w.setV r x).byte off = w.byte off := by
  simp only [Workspace.byte, Workspace.setV]
  split
  · rfl
  split
  · rfl
  split
  · rfl
  split
  · rw [getD_set_other _ _ _ _ _ _ (by omega)]
  · rfl
/-- A directional write leaves every byte beyond its register's 64. -/
theorem Workspace.byte_setD (w : Workspace) (r : BitVec 3) (x : Vec) {off : Nat}
    (h : off < 1408 + 64 * r.toNat ∨ 1408 + 64 * r.toNat + 64 ≤ off) : (w.setD r x).byte off = w.byte off := by
  simp only [Workspace.byte, Workspace.setD]
  split
  · rfl
  split
  · rfl
  split
  · rfl
  split
  · rfl
  split
  · rw [getD_set_other _ _ _ _ _ _ (by omega)]
  · rfl
/-- A norm write leaves every byte beyond its register's four. -/
theorem Workspace.byte_setN (w : Workspace) (r : BitVec 3) (x : BitVec 32) {off : Nat}
    (h : off < 1920 + 4 * r.toNat ∨ 1920 + 4 * r.toNat + 4 ≤ off) : (w.setN r x).byte off = w.byte off := by
  simp only [Workspace.byte, Workspace.setN]
  split
  · rfl
  split
  · rfl
  split
  · rfl
  split
  · rfl
  split
  · rfl
  split
  · rw [getD_set_other _ _ _ _ _ _ (by omega)]
  · rfl

/-- A bit of a replaced field's word. -/
theorem getLsbD_putF {w : Nat} (x : BitVec w) (lo len v j : Nat) :
    (putF x lo len v).getLsbD j = (decide (j < w) && if lo ≤ j ∧ j < lo + len then v.testBit (j - lo) else x.getLsbD j) := by
  unfold putF
  by_cases hj : j < w
  · rw [BitVec.getLsbD_or, BitVec.getLsbD_and, BitVec.getLsbD_not]
    simp only [BitVec.getLsbD_ofNat, hj, decide_true, Bool.true_and]
    rw [Nat.testBit_mul_two_pow, Nat.testBit_mul_two_pow, Nat.testBit_two_pow_sub_one, Nat.testBit_mod_two_pow]
    by_cases h1 : lo ≤ j
    · by_cases h2 : j < lo + len
      · have : j - lo < len := by omega
        simp [h1, h2, this]
      · have : ¬ j - lo < len := by omega
        simp [h1, h2, this]
    · simp [h1]
  · rw [BitVec.getLsbD_of_ge _ _ (by omega)]
    simp [hj]

/-- A bit of a byte. -/
theorem getLsbD_byteOf {w : Nat} (x : BitVec w) (i j : Nat) : (byteOf x i).getLsbD j = (decide (j < 8) && x.getLsbD (8 * i + j)) := by
  simp [byteOf]

/-- A replaced field leaves the bytes beyond it. -/
theorem byteOf_putF {w : Nat} (x : BitVec w) (lo len v i : Nat) (h : 8 * i + 8 ≤ lo ∨ lo + len ≤ 8 * i) :
    byteOf (putF x lo len v) i = byteOf x i := by
  apply BitVec.eq_of_getLsbD_eq
  intro j hj
  rw [getLsbD_byteOf, getLsbD_byteOf, getLsbD_putF]
  have : ¬ (lo ≤ 8 * i + j ∧ 8 * i + j < lo + len) := by omega
  simp only [this, if_false, hj, decide_true, Bool.true_and]
  by_cases h1 : 8 * i + j < w
  · simp [h1]
  · simp only [h1, decide_false, Bool.false_and]
    exact (BitVec.getLsbD_of_ge x _ (by omega)).symm

/-- A field of a thread-state word: every byte beyond the field's stays. -/
theorem Workspace.byte_setTsF (w : Workspace) (i : BitVec 3) (lo len v : Nat) {off : Nat}
    (h : off < 320 + 8 * i.toNat + lo / 8 ∨ 320 + 8 * i.toNat + (lo + len + 7) / 8 ≤ off) :
    (w.setTsF i lo len v).byte off = w.byte off := by
  simp only [Workspace.byte, Workspace.setTsF, Workspace.setT]
  split
  · rfl
  split
  · rfl
  split
  · rename_i h1 h2 h3
    by_cases hi : (off - 320) / 8 = i.toNat
    · have e1 : ∀ (u : Vector (BitVec 64) 8) (x : BitVec 64), ((u.set i.toNat x i.isLt).toList.getD ((off - 320) / 8) 0) = x := by
        intro u x
        rw [hi]
        simp [List.getD_eq_getElem?_getD]
      have e2 : w.ts.toList.getD ((off - 320) / 8) 0 = w.getT i := by
        rw [hi]
        simp [List.getD_eq_getElem?_getD, Workspace.getT, i.isLt]
      rw [e1, e2]
      exact byteOf_putF _ _ _ _ _ (by omega)
    · rw [getD_set_other _ _ _ _ _ _ hi]
  · rfl

/-! ## The machine's memories -/

/-- A change of the issuing thread's workspace that leaves every byte beyond some ranges leaves everything else of the
machine. -/
theorem State.onlyBytes_upd (s : State) (f : Workspace → Workspace) (rs : List (Nat × Nat))
    (h : ∀ off, (∀ r ∈ rs, off < r.1 ∨ r.1 + r.2 ≤ off) → (f s.live).byte off = s.live.byte off) : s.onlyBytes (s.upd f) rs := by
  refine ⟨rfl, fun th hth => State.getWs_upd_other s f hth, fun k hk => ?_⟩
  unfold State.rdByte
  split
  · rename_i th off hw
    by_cases ht : th = s.cur
    · subst ht
      have := h off (hk off hw)
      rw [show (s.upd f).getWs s.cur = f s.live from State.live_upd s f]
      exact this
    · rw [State.getWs_upd_other s f ht]
  · rfl

/-- A scalar write changes its register and nothing else of the machine. -/
theorem State.onlyS_wS (s : State) (d : BitVec 5) (x : BitVec 64) : s.onlyS (s.wS d x) d x := by
  refine ⟨by simp [State.wS], s.onlyBytes_upd _ _ fun off h => ?_⟩
  have := h (sBytes d) (by simp)
  exact Workspace.byte_setS _ _ _ this

end Sys2Proof.Machine
end

