-- ==== Sys2Proof/Laws/Canon.lean ====
section
/-! SUPPORT. Every operation that the meanings share keeps the canonical form of the state: one lemma per operation, in the
order in which the model defines them. A meaning's own lemma is then a case split over these. -/

namespace Sys2Proof.Machine

/-! ## Canonical stores -/

theorem Store.wf_union {α : Type} [DecidableEq α] {d : α} {m : Store α} (l : Store α) (h : Store.wf d m = true) :
    Store.wf d (Store.union d m l) = true := by
  induction l generalizing m with
  | nil => exact h
  | cons x l ih => exact ih (Store.wf_put x.1 x.2 h)

/-! ## The canonical form, part by part -/

@[simp] theorem State.canon_mk (agenda moves fresh cur iss curWin tick mem ws tags guard upsets threads cores tiles ports dies links wear map
    fenced ctxbase allocated net nextRid packets nextPkt arrivals launches answers bindings saves granted revoked inbound inAnswers outbound
    collOut dawn inletHot inlet mgmt) :
    (State.mk agenda moves fresh cur iss curWin tick mem ws tags guard upsets threads cores tiles ports dies links wear map
    fenced ctxbase allocated net nextRid packets nextPkt arrivals launches answers bindings saves granted revoked inbound inAnswers outbound
    collOut dawn inletHot inlet mgmt).Canon ↔ Memory.wf mem = true ∧ Store.wf Workspace.zero ws = true ∧ Store.wf WordTag.zero tags = true ∧
      Store.wf 0 guard = true ∧ Store.wf Thread.none threads = true ∧ Store.wf CoreSt.zero cores = true ∧ Store.wf Tile.zero tiles = true ∧
      Store.wf Port.zero ports = true ∧ Store.wf Die.zero dies = true ∧ Store.wf Link.zero links = true ∧ Store.wf WearSt.zero wear = true ∧
      Store.wf none map = true ∧ Store.wf none bindings = true := by
  constructor
  · rintro ⟨⟩; simp_all
  · rintro ⟨h1, h2, h3, h4, h5, h6, h7, h8, h9, h10, h11, h12, h13⟩; constructor <;> assumption

@[simp] theorem foldl_canon {α : Type} (f : State → α → State) (l : List α) (hf : ∀ s x, s.Canon → (f s x).Canon) {s : State} (h : s.Canon) :
    (l.foldl f s).Canon := by
  induction l generalizing s with
  | nil => exact h
  | cons x l ih => exact ih (hf _ _ h)
@[simp] theorem foldl_canon1 {α β : Type} (f : State × β → α → State × β) (l : List α) (hf : ∀ s b x, s.Canon → (f (s, b) x).1.Canon) {s : State} {b : β} (h : s.Canon) :
    (l.foldl f (s, b)).1.Canon := by
  have : ∀ p : State × β, p.1.Canon → (l.foldl f p).1.Canon := by
    induction l with
    | nil => exact fun _ h => h
    | cons x l ih => exact fun p h => ih _ (hf p.1 p.2 x h)
  exact this (s, b) h
@[simp] theorem State.setWs_canon {s : State} (th : Nat) (w : Workspace) (h : s.Canon) : (s.setWs th w).Canon := { h with ws := Store.wf_put _ _ h.ws }
@[simp] theorem State.setThr_canon {s : State} (th : Nat) (x : Thread) (h : s.Canon) : (s.setThr th x).Canon := { h with threads := Store.wf_put _ _ h.threads }
@[simp] theorem State.modThr_canon {s : State} (th : Nat) (f : Thread → Thread) (h : s.Canon) : (s.modThr th f).Canon := { h with threads := Store.wf_put _ _ h.threads }
@[simp] theorem State.modCore_canon {s : State} (l : Nat) (f : CoreSt → CoreSt) (h : s.Canon) : (s.modCore l f).Canon := { h with cores := Store.wf_put _ _ h.cores }
@[simp] theorem State.modTile_canon {s : State} (l : Nat) (f : Tile → Tile) (h : s.Canon) : (s.modTile l f).Canon := { h with tiles := Store.wf_put _ _ h.tiles }
@[simp] theorem State.modPort_canon {s : State} (l : Nat) (f : Port → Port) (h : s.Canon) : (s.modPort l f).Canon := { h with ports := Store.wf_put _ _ h.ports }
@[simp] theorem State.modDie_canon {s : State} (l : Nat) (f : Die → Die) (h : s.Canon) : (s.modDie l f).Canon := { h with dies := Store.wf_put _ _ h.dies }
@[simp] theorem State.modLink_canon {s : State} (l : Nat) (f : Link → Link) (h : s.Canon) : (s.modLink l f).Canon := { h with links := Store.wf_put _ _ h.links }
@[simp] theorem State.modTag_canon {s : State} (l : Nat) (f : WordTag → WordTag) (h : s.Canon) : (s.modTag l f).Canon := { h with tags := Store.wf_put _ _ h.tags }
@[simp] theorem State.setBinding_canon {s : State} (l : Nat) (b : Option Binding) (h : s.Canon) : (s.setBinding l b).Canon := { h with bindings := Store.wf_put _ _ h.bindings }
@[simp] theorem State.wrByte_canon {s : State} (k : Nat) (b : Byte) (h : s.Canon) : (s.wrByte k b).Canon := by
  unfold State.wrByte
  split
  · exact State.setWs_canon _ _ h
  · exact { h with mem := Memory.wf_write _ _ h.mem }
@[simp] theorem State.wrN_canon {s : State} (k n x : Nat) (h : s.Canon) : (s.wrN k n x).Canon := by
  induction n generalizing s k x with
  | zero => exact h
  | succ n ih => exact ih _ _ (State.wrByte_canon _ _ h)
@[simp] theorem State.wrList_canon {s : State} (k : Nat) (bs : List Byte) (h : s.Canon) : (s.wrList k bs).Canon := by
  induction bs generalizing s k with
  | nil => exact h
  | cons b bs ih => exact ih _ (State.wrByte_canon _ _ h)
@[simp] theorem State.wrMasked_canon {s : State} (k : Nat) (x : Vec) (m : BitVec 64) (h : s.Canon) : (s.wrMasked k x m).Canon := by
  refine foldl_canon _ _ (fun s i h => ?_) h
  split
  · exact State.wrByte_canon _ _ h
  · exact h
@[simp] theorem State.ite_canon {c : Prop} [Decidable c] {s t : State} (hs : s.Canon) (ht : t.Canon) : (if c then s else t).Canon := by
  split <;> assumption
@[simp] theorem State.ite_canon1 {β : Type} {c : Prop} [Decidable c] {s t : State × β} (hs : s.1.Canon) (ht : t.1.Canon) : (if c then s else t).1.Canon := by
  split <;> assumption
@[simp] theorem State.wfFilter_canon {m : Memory} (p : Nat × Byte → Bool) (h : Memory.wf m = true) : Memory.wf (m.filter p) = true := Store.wf_filter p h
@[simp] theorem State.wfUnion_canon {m : Memory} (l : Memory) (h : Memory.wf m = true) : Memory.wf (Store.union Memory.unlisted m l) = true := Store.wf_union l h

@[simp] theorem State.Canon.wf_mem {s : State} (h : s.Canon) : Memory.wf s.mem = true := h.mem
@[simp] theorem State.Canon.wf_ws {s : State} (h : s.Canon) : Store.wf Workspace.zero s.ws = true := h.ws
@[simp] theorem State.Canon.wf_tags {s : State} (h : s.Canon) : Store.wf WordTag.zero s.tags = true := h.tags
@[simp] theorem State.Canon.wf_guard {s : State} (h : s.Canon) : Store.wf (0#16) s.guard = true := h.guard
@[simp] theorem State.Canon.wf_threads {s : State} (h : s.Canon) : Store.wf Thread.none s.threads = true := h.threads
@[simp] theorem State.Canon.wf_cores {s : State} (h : s.Canon) : Store.wf CoreSt.zero s.cores = true := h.cores
@[simp] theorem State.Canon.wf_tiles {s : State} (h : s.Canon) : Store.wf Tile.zero s.tiles = true := h.tiles
@[simp] theorem State.Canon.wf_ports {s : State} (h : s.Canon) : Store.wf Port.zero s.ports = true := h.ports
@[simp] theorem State.Canon.wf_dies {s : State} (h : s.Canon) : Store.wf Die.zero s.dies = true := h.dies
@[simp] theorem State.Canon.wf_links {s : State} (h : s.Canon) : Store.wf Link.zero s.links = true := h.links
@[simp] theorem State.Canon.wf_wear {s : State} (h : s.Canon) : Store.wf WearSt.zero s.wear = true := h.wear
@[simp] theorem State.Canon.wf_map {s : State} (h : s.Canon) : Store.wf none s.map = true := h.map
@[simp] theorem State.Canon.wf_bindings {s : State} (h : s.Canon) : Store.wf none s.bindings = true := h.bindings

/-! ## Operands -/

@[simp] theorem State.upd_canon (s : State) (f : Workspace → Workspace) (hs : s.Canon) :
    (State.upd s f).Canon := by
  simp [State.upd, *]

@[simp] theorem State.wS_canon (s : State) (r : BitVec 5) (x : BitVec 64) (hs : s.Canon) :
    (State.wS s r x).Canon := by
  simp [State.wS, *]

@[simp] theorem State.wV_canon (s : State) (r : BitVec 4) (x : Vec) (t : BitVec 4) (hs : s.Canon) :
    (State.wV s r x t).Canon := by
  simp [State.wV, *]

@[simp] theorem State.wP_canon (s : State) (r : BitVec 3) (x : BitVec 64) (hs : s.Canon) :
    (State.wP s r x).Canon := by
  simp [State.wP, *]

@[simp] theorem State.modMe_canon (s : State) (f : Thread → Thread) (hs : s.Canon) :
    (State.modMe s f).Canon := by
  simp [State.modMe, *]

/-! ## Ops -/

@[simp] theorem State.postErr_canon (s : State) (port : Nat) (kind : Nat) (ctx : Nat) (detail : Nat) (hs : s.Canon) :
    (State.postErr s port kind ctx detail).Canon := by
  simp [State.postErr, *]

@[simp] theorem State.correct_canon (s : State) (l : Nat) (n : Nat) (hs : s.Canon) :
    (State.correct s l n).Canon := by
  unfold State.correct; (try dsimp only); (repeat' split) <;> simp +contextual (maxDischargeDepth := 40) [*, Store.wf_filter, Store.wf_mapAll, Store.wf_put, Store.wf_union, Memory.wf_write]

@[simp] theorem State.forThreads_canon (s : State) (ks : List Nat) (f : Thread → Thread) (hs : s.Canon) :
    (State.forThreads s ks f).Canon := by
  unfold State.forThreads; (repeat' split) <;> simp +contextual (maxDischargeDepth := 40) [*]

@[simp] theorem State.sysFreeze_canon (s : State) (l : Nat) (hs : s.Canon) :
    (State.sysFreeze s l).Canon := by
  simp [State.sysFreeze, *]

@[simp] theorem State.markTile_canon (s : State) (l : Nat) (hs : s.Canon) :
    (State.markTile s l).Canon := by
  simp [State.markTile, *]

@[simp] theorem State.dropWatches_canon (s : State) (th : Nat) (hs : s.Canon) :
    (State.dropWatches s th).Canon := by
  unfold State.dropWatches; (repeat' split) <;> simp +contextual (maxDischargeDepth := 40) [*]

@[simp] theorem State.orphan_canon (s : State) (th : Nat) (hs : s.Canon) :
    (State.orphan s th).Canon := by
  unfold State.orphan; (try dsimp only); (repeat' split) <;> simp +contextual (maxDischargeDepth := 40) [*, Store.wf_filter, Store.wf_mapAll, Store.wf_put, Store.wf_union, Memory.wf_write]

@[simp] theorem State.keepPos_canon (s : State) (l : Nat) (pos : Nat) (hs : s.Canon) :
    (State.keepPos s l pos).Canon := by
  unfold State.keepPos; (try dsimp only); (repeat' split) <;> simp +contextual (maxDischargeDepth := 40) [*, Store.wf_filter, Store.wf_mapAll, Store.wf_put, Store.wf_union, Memory.wf_write]

@[simp] theorem State.endThread_canon (s : State) (th : Nat) (hs : s.Canon) :
    (State.endThread s th).Canon := by
  unfold State.endThread; (repeat' split) <;> simp +contextual (maxDischargeDepth := 40) [*]

@[simp] theorem State.addReq_canon (s : State) (r : Req) (hs : s.Canon) :
    (State.addReq s r).Canon := by
  simp [State.addReq, *]

@[simp] theorem State.calleeEnds_canon (s : State) (th : Nat) (c : Caller) (cause : BitVec 8) (va : Option (BitVec 48)) (hs : s.Canon) :
    (State.calleeEnds s th c cause va).Canon := by
  simp [State.calleeEnds, *]

@[simp] theorem State.takeTrap_canon (s : State) (th : Nat) (f : Failure) (defer : Bool) (pc : BitVec 48) (inRep : Bool) (hs : s.Canon) :
    (State.takeTrap s th f defer pc inRep).Canon := by
  unfold State.takeTrap; dsimp only; (repeat' split) <;> simp +contextual (maxDischargeDepth := 40) [*]

@[simp] theorem State.raise_canon (s : State) (t : Trap) (hs : s.Canon) :
    (State.raise s t).Canon := by
  simp [State.raise, *]

@[simp] theorem State.check_canon (s : State) (l : List (Bool × Trap)) (k : State) (hs : s.Canon) (hk : k.Canon) :
    (State.check s l k).Canon := by
  unfold State.check; (repeat' split) <;> simp [*]

@[simp] theorem State.hold_canon (s : State) (th : Nat) (f : Failure) (hs : s.Canon) :
    (State.hold s th f).Canon := by
  unfold State.hold; (repeat' split) <;> simp [*]

@[simp] theorem State.deferFail_canon (s : State) (cause : BitVec 8) (info : Nat) (va : Option (BitVec 64)) (hs : s.Canon) :
    (State.deferFail s cause info va).Canon := by
  simp [State.deferFail, *]

@[simp] theorem State.strike_canon (s : State) (th : Nat) (hs : s.Canon) :
    (State.strike s th).Canon := by
  unfold State.strike; (repeat' split) <;> simp [*]

@[simp] theorem State.rteResume_canon (s : State) (th : Nat) (mode : BitVec 2) (hs : s.Canon) :
    (State.rteResume s th mode).Canon := by
  simp [State.rteResume, *]

@[simp] theorem State.leaveTrap_canon (s : State) (th : Nat) (hs : s.Canon) :
    (State.leaveTrap s th).Canon := by
  simp [State.leaveTrap, *]

@[simp] theorem State.startThread_canon (s : State) (th : Nat) (t : Thread) (w : Workspace) (hs : s.Canon) :
    (State.startThread s th t w).Canon := by
  simp [State.startThread, *]

@[simp] theorem State.preemptPos_canon (s : State) (l : Nat) (pos : Nat) (hs : s.Canon) :
    (State.preemptPos s l pos).Canon := by
  simp [State.preemptPos, *]

@[simp] theorem State.pend_canon (s : State) (p : Pend) (hs : s.Canon) :
    (State.pend s p).Canon := by
  simp [State.pend, *]

@[simp] theorem State.pendReady_canon (s : State) (dests : List Reg) (writes : List RegWrite) (fl : Flags) (hs : s.Canon) :
    (State.pendReady s dests writes fl).Canon := by
  simp [State.pendReady, *]

@[simp] theorem State.pendReq_canon (s : State) (rid : Nat) (dests : List Reg) (writes : List RegWrite) (hs : s.Canon) :
    (State.pendReq s rid dests writes).Canon := by
  simp [State.pendReq, *]

@[simp] theorem State.pendAccess_canon (s : State) (rid : Nat) (keys : List Nat) (dests : List Reg) (writes : List RegWrite) (hs : s.Canon) :
    (State.pendAccess s rid keys dests writes).Canon := by
  unfold State.pendAccess; (try dsimp only); (repeat' split) <;> simp +contextual (maxDischargeDepth := 40) [*, Store.wf_filter, Store.wf_mapAll, Store.wf_put, Store.wf_union, Memory.wf_write]

@[simp] theorem State.land_canon (s : State) (th : Nat) (p : Pend) (hs : s.Canon) :
    (State.land s th p).Canon := by
  unfold State.land; (repeat' split) <;> simp +contextual (maxDischargeDepth := 40) [*]

@[simp] theorem State.consume_canon (s : State) (md : Nat) (n : Nat) (hs : s.Canon) :
    (State.consume s md n).Canon := by
  simp [State.consume, *]

@[simp] theorem State.finish_canon (s : State) (fl : Flags) (md : Nat) (n : Nat) (k : State → State) (hs : s.Canon) (hk : ∀ x0 : State, x0.Canon → (k x0).Canon) :
    (State.finish s fl md n k).Canon := by
  unfold State.finish; (repeat' split) <;> simp +contextual (maxDischargeDepth := 40) [*]

@[simp] theorem State.unless_canon (s : State) (t : Option Trap) (k : State) (hs : s.Canon) (hk : k.Canon) :
    (State.unless s t k).Canon := by
  unfold State.unless; (repeat' split) <;> simp [*]

/-! ## Routes -/

@[simp] theorem State.addPacket_canon (s : State) (load : Load) (src : Nat) (dst : Nat) (len : Nat) (claim : Claim) (hs : s.Canon) :
    (State.addPacket s load src dst len claim).Canon := by
  unfold State.addPacket; (try dsimp only); (repeat' split) <;> simp +contextual (maxDischargeDepth := 40) [*, Store.wf_filter, Store.wf_mapAll, Store.wf_put, Store.wf_union, Memory.wf_write]

@[simp] theorem State.answerFrom_canon (s : State) (r : Req) (node : Nat) (n : Nat) (hs : s.Canon) :
    (State.answerFrom s r node n).Canon := by
  unfold State.answerFrom; (try dsimp only); (repeat' split) <;> simp +contextual (maxDischargeDepth := 40) [*, Store.wf_filter, Store.wf_mapAll, Store.wf_put, Store.wf_union, Memory.wf_write]

@[simp] theorem State.sendOut_canon (s : State) (die : Nat) (ep : Nat) (n : Nat) (hs : s.Canon) :
    (State.sendOut s die ep n).Canon := by
  unfold State.sendOut; (try dsimp only); (repeat' split) <;> simp +contextual (maxDischargeDepth := 40) [*, Store.wf_filter, Store.wf_mapAll, Store.wf_put, Store.wf_union, Memory.wf_write]

@[simp] theorem State.takeMsg_canon (s : State) (die : Nat) (m : PeerMsg) (k : State → State) (hs : s.Canon) (hk : ∀ x0 : State, x0.Canon → (k x0).Canon) :
    (State.takeMsg s die m k).Canon := by
  unfold State.takeMsg; (try dsimp only); (repeat' split) <;> simp +contextual (maxDischargeDepth := 40) [*, Store.wf_filter, Store.wf_mapAll, Store.wf_put, Store.wf_union, Memory.wf_write]

@[simp] theorem State.fromPeer_canon (s : State) (m : PeerMsg) (k : State → State) (hs : s.Canon) (hk : ∀ x0 : State, x0.Canon → (k x0).Canon) :
    (State.fromPeer s m k).Canon := by
  unfold State.fromPeer; (try dsimp only); (repeat' split) <;> simp +contextual (maxDischargeDepth := 40) [*, Store.wf_filter, Store.wf_mapAll, Store.wf_put, Store.wf_union, Memory.wf_write]

/-! ## Access -/

@[simp] theorem State.startWalk_canon (s : State) (port : Nat) (ctx : BitVec 6) (vpn : Nat) (tile : Nat) (w : Waiter) (hs : s.Canon) :
    (State.startWalk s port ctx vpn tile w).Canon := by
  simp [State.startWalk, *]

@[simp] theorem State.stall_canon (s : State) (hs : s.Canon) :
    (State.stall s).Canon := by
  simp [State.stall, *]

@[simp] theorem State.threadWalk_canon (s : State) (th : Nat) (vpn : Nat) (hs : s.Canon) :
    (State.threadWalk s th vpn).Canon := by
  unfold State.threadWalk; (try dsimp only); (repeat' split) <;> simp +contextual (maxDischargeDepth := 40) [*, Store.wf_filter, Store.wf_mapAll, Store.wf_put, Store.wf_union, Memory.wf_write]

@[simp] theorem State.stallWalk_canon (s : State) (vpn : Nat) (hs : s.Canon) :
    (State.stallWalk s vpn).Canon := by
  unfold State.stallWalk; (repeat' split) <;> simp +contextual (maxDischargeDepth := 40) [*]

@[simp] theorem State.logUnc_canon (s : State) (key : Nat) (ctx : Nat) (hs : s.Canon) :
    (State.logUnc s key ctx).Canon := by
  simp [State.logUnc, *]

@[simp] theorem State.logRed_canon (s : State) (ctx : Nat) (key : Nat) (hs : s.Canon) :
    (State.logRed s ctx key).Canon := by
  unfold State.logRed; (try dsimp only); (repeat' split) <;> simp +contextual (maxDischargeDepth := 40) [*, Store.wf_filter, Store.wf_mapAll, Store.wf_put, Store.wf_union, Memory.wf_write]

@[simp] theorem State.logCtx_canon (s : State) (ctx : Nat) (hs : s.Canon) :
    (State.logCtx s ctx).Canon := by
  unfold State.logCtx; (try dsimp only); (repeat' split) <;> simp +contextual (maxDischargeDepth := 40) [*, Store.wf_filter, Store.wf_mapAll, Store.wf_put, Store.wf_union, Memory.wf_write]

@[simp] theorem State.putBytes_canon (s : State) (key : Nat) (m : BitVec 64) (data : Nat) (y0 : Nat) (hs : s.Canon) :
    (State.putBytes s key m data y0).Canon := by
  induction y0 generalizing s with
  | zero => simpa [State.putBytes]
  | succ n ih => unfold State.putBytes; dsimp only; (repeat' split) <;> first | exact hs | (apply ih; simp +contextual (maxDischargeDepth := 40) [*, Store.wf_filter, Store.wf_mapAll, Store.wf_put, Store.wf_union, Memory.wf_write]) | (simp +contextual (maxDischargeDepth := 40) [*, Store.wf_filter, Store.wf_mapAll, Store.wf_put, Store.wf_union, Memory.wf_write]; done)

@[simp] theorem State.fillPend_canon (s : State) (r : Req) (p : Part) (x : Nat) (hs : s.Canon) :
    (State.fillPend s r p x).Canon := by
  simp [State.fillPend, *]

@[simp] theorem State.setReq_canon (s : State) (rid : Nat) (f : Req → Req) (hs : s.Canon) :
    (State.setReq s rid f).Canon := by
  simp [State.setReq, *]

@[simp] theorem State.dropReq_canon (s : State) (rid : Nat) (hs : s.Canon) :
    (State.dropReq s rid).Canon := by
  simp [State.dropReq, *]

@[simp] theorem State.completeHere_canon (s : State) (r : Req) (value : BitVec 64) (hs : s.Canon) :
    (State.completeHere s r value).Canon := by
  unfold State.completeHere; (try dsimp only); (repeat' split) <;> simp +contextual (maxDischargeDepth := 40) [*, Store.wf_filter, Store.wf_mapAll, Store.wf_put, Store.wf_union, Memory.wf_write]

@[simp] theorem State.complete_canon (s : State) (r : Req) (value : BitVec 64) (hs : s.Canon) :
    (State.complete s r value).Canon := by
  unfold State.complete; (repeat' split) <;> simp [*]

@[simp] theorem State.failHere_canon (s : State) (r : Req) (cause : BitVec 8) (info : Nat) (va : Option (BitVec 64)) (hs : s.Canon) :
    (State.failHere s r cause info va).Canon := by
  unfold State.failHere; (try dsimp only); (repeat' split) <;> simp +contextual (maxDischargeDepth := 40) [*, Store.wf_filter, Store.wf_mapAll, Store.wf_put, Store.wf_union, Memory.wf_write]

@[simp] theorem State.failReq_canon (s : State) (r : Req) (cause : BitVec 8) (info : Nat) (va : Option (BitVec 64)) (hs : s.Canon) :
    (State.failReq s r cause info va).Canon := by
  simp [State.failReq, *]

@[simp] theorem State.refuseReq_canon (s : State) (r : Req) (hs : s.Canon) :
    (State.refuseReq s r).Canon := by
  unfold State.refuseReq; (try dsimp only); (repeat' split) <;> simp +contextual (maxDischargeDepth := 40) [*, Store.wf_filter, Store.wf_mapAll, Store.wf_put, Store.wf_union, Memory.wf_write]

@[simp] theorem State.drainReq_canon (s : State) (r : Req) (hs : s.Canon) :
    (State.drainReq s r).Canon := by
  unfold State.drainReq; (try dsimp only); (repeat' split) <;> simp +contextual (maxDischargeDepth := 40) [*, Store.wf_filter, Store.wf_mapAll, Store.wf_put, Store.wf_union, Memory.wf_write]

@[simp] theorem State.partDone_canon (s : State) (r : Req) (j : Nat) (hs : s.Canon) :
    (State.partDone s r j).Canon := by
  unfold State.partDone; dsimp only
  refine State.ite_canon (State.completeHere_canon _ _ _ (State.ite_canon (by simp [hs]) hs)) (State.setReq_canon _ _ _ (State.ite_canon (by simp [hs]) hs))

@[simp] theorem State.serveLdv_canon (s : State) (r : Req) (hs : s.Canon) :
    (State.serveLdv s r).Canon := by
  unfold State.serveLdv; (repeat' split) <;> simp [*]

@[simp] theorem State.wakeLdv_canon (s : State) (word : Nat) (hs : s.Canon) :
    (State.wakeLdv s word).Canon := by
  unfold State.wakeLdv; (repeat' split) <;> simp +contextual (maxDischargeDepth := 40) [*]

@[simp] theorem State.wordWritten_canon (s : State) (writer : Option Nat) (word : Nat) (hs : s.Canon) :
    (State.wordWritten s writer word).Canon := by
  unfold State.wordWritten; dsimp only; (repeat' split) <;> simp +contextual (maxDischargeDepth := 40) [*]

@[simp] theorem State.markDirty_canon (s : State) (key : Nat) (len : Nat) (hs : s.Canon) :
    (State.markDirty s key len).Canon := by
  unfold State.markDirty; (try dsimp only); (repeat' split) <;> simp +contextual (maxDischargeDepth := 40) [*, Store.wf_filter, Store.wf_mapAll, Store.wf_put, Store.wf_union, Memory.wf_write]

@[simp] theorem State.cleanUnits_canon (s : State) (key : Nat) (len : Nat) (m : BitVec 64) (hs : s.Canon) :
    (State.cleanUnits s key len m).Canon := by
  simp [State.cleanUnits, *]

@[simp] theorem State.homeWrite_canon (s : State) (writer : Option Nat) (key : Nat) (len : Nat) (m : BitVec 64) (data : Nat) (again : Bool) (hs : s.Canon) :
    (State.homeWrite s writer key len m data again).Canon := by
  unfold State.homeWrite; (try dsimp only); (repeat' split) <;> simp +contextual (maxDischargeDepth := 40) [*, Store.wf_filter, Store.wf_mapAll, Store.wf_put, Store.wf_union, Memory.wf_write]

@[simp] theorem State.homeStore_canon (s : State) (writer : Option Nat) (key : Nat) (len : Nat) (m : BitVec 64) (data : Nat) (rel : Bool) (hs : s.Canon) :
    (State.homeStore s writer key len m data rel).Canon := by
  unfold State.homeStore; (repeat' split) <;> simp +contextual (maxDischargeDepth := 40) [*]

@[simp] theorem State.parkReq_canon (s : State) (r : Req) (hs : s.Canon) :
    (State.parkReq s r).Canon := by
  have h (f : Req → Req) (n : Nat) : State.Canon { s.setReq r.rid f with arrivals := n } := by
    have := State.setReq_canon s r.rid f hs
    exact ⟨this.mem, this.ws, this.tags, this.guard, this.threads, this.cores, this.tiles, this.ports, this.dies, this.links, this.wear, this.map, this.bindings⟩
  unfold State.parkReq; dsimp only
  split
  · simp [hs]
  · split
    · exact State.modThr_canon _ _ (h _ _)
    · exact h _ _

/-! ## Slice -/

@[simp] theorem State.evict_canon (s : State) (port : Nat) (x : Line) (hs : s.Canon) :
    (State.evict s port x).Canon := by
  unfold State.evict; (try dsimp only); (repeat' split) <;> simp +contextual (maxDischargeDepth := 40) [*, Store.wf_filter, Store.wf_mapAll, Store.wf_put, Store.wf_union, Memory.wf_write]

@[simp] theorem State.startMiss_canon (s : State) (port : Nat) (hs : s.Canon) :
    (State.startMiss s port).Canon := by
  unfold State.startMiss; (try dsimp only); (repeat' split) <;> simp +contextual (maxDischargeDepth := 40) [*, Store.wf_filter, Store.wf_mapAll, Store.wf_put, Store.wf_union, Memory.wf_write]

@[simp] theorem State.askLine_canon (s : State) (port : Nat) (m : Miss) (hs : s.Canon) :
    (State.askLine s port m).Canon := by
  unfold State.askLine; (try dsimp only); (repeat' split) <;> simp +contextual (maxDischargeDepth := 40) [*, Store.wf_filter, Store.wf_mapAll, Store.wf_put, Store.wf_union, Memory.wf_write]

@[simp] theorem State.askMem_canon (s : State) (key : Nat) (len : Nat) (pte : BitVec 64) (write : Bool) (hint : Option (BitVec 2 × BitVec 4)) (c : Claim) (hs : s.Canon) :
    (State.askMem s key len pte write hint c).Canon := by
  unfold State.askMem; (try dsimp only); (repeat' split) <;> simp +contextual (maxDischargeDepth := 40) [*, Store.wf_filter, Store.wf_mapAll, Store.wf_put, Store.wf_union, Memory.wf_write]

@[simp] theorem State.serveMem_canon (s : State) (port : Nat) (hs : s.Canon) :
    (State.serveMem s port).Canon := by
  unfold State.serveMem; (try dsimp only); (repeat' split) <;> simp +contextual (maxDischargeDepth := 40) [*, Store.wf_filter, Store.wf_mapAll, Store.wf_put, Store.wf_union, Memory.wf_write]

/-! ## Requests -/

@[simp] theorem State.putRecord_canon (s : State) (writer : Option Nat) (key : Nat) (q : Partial) (vec : Bool) (hs : s.Canon) :
    (State.putRecord s writer key q vec).Canon := by
  unfold State.putRecord; (repeat' split) <;> simp [*]

@[simp] theorem State.pmrgResult_canon (s : State) (th : Nat) (rid : Nat) (q : Partial) (next : Option Nat) (hs : s.Canon) :
    (State.pmrgResult s th rid q next).Canon := by
  simp [State.pmrgResult, *]

@[simp] theorem State.pmrgSend_canon (s : State) (th : Nat) (src : Src) (rid : Nat) (key : Nat) (q : Partial) (next : BitVec 64) (vec : Bool) (hs : s.Canon) :
    (State.pmrgSend s th src rid key q next vec).Canon := by
  unfold State.pmrgSend; (repeat' split) <;> simp +contextual (maxDischargeDepth := 40) [*]

@[simp] theorem State.serveFe_canon (s : State) (r : Req) (hs : s.Canon) :
    (State.serveFe s r).Canon := by
  unfold State.serveFe; (repeat' split) <;> simp +contextual (maxDischargeDepth := 40) [*]

@[simp] theorem State.serveWord_canon (s : State) (word : Nat) (y0 : Nat) (hs : s.Canon) :
    (State.serveWord s word y0).Canon := by
  fun_induction State.serveWord s word y0 <;> simp_all

@[simp] theorem State.arriveFe_canon (s : State) (r : Req) (hs : s.Canon) :
    (State.arriveFe s r).Canon := by
  unfold State.arriveFe; dsimp only; (repeat' split) <;> simp [*]

@[simp] theorem State.hit_canon (s : State) (key : Nat) (near : Bool) (hs : s.Canon) :
    (State.hit s key near).Canon := by
  unfold State.hit; (try dsimp only); (repeat' split) <;> simp +contextual (maxDischargeDepth := 40) [*, Store.wf_filter, Store.wf_mapAll, Store.wf_put, Store.wf_union, Memory.wf_write]

@[simp] theorem State.countPage_canon (s : State) (key : Nat) (va : Nat) (pte : BitVec 64) (l : Nat) (ctx : BitVec 6) (hs : s.Canon) :
    (State.countPage s key va pte l ctx).Canon := by
  unfold State.countPage; (try dsimp only); (repeat' split) <;> simp +contextual (maxDischargeDepth := 40) [*, Store.wf_filter, Store.wf_mapAll, Store.wf_put, Store.wf_union, Memory.wf_write]

@[simp] theorem State.touchWith_canon (s : State) (key : Nat) (va : Nat) (pte : BitVec 64) (l : Nat) (ctx : BitVec 6) (hs : s.Canon) :
    (State.touchWith s key va pte l ctx).Canon := by
  unfold State.touchWith; (try dsimp only); (repeat' split) <;> simp +contextual (maxDischargeDepth := 40) [*, Store.wf_filter, Store.wf_mapAll, Store.wf_put, Store.wf_union, Memory.wf_write]

@[simp] theorem State.touch_canon (s : State) (p : Part) (l : Nat) (ctx : BitVec 6) (hs : s.Canon) :
    (State.touch s p l ctx).Canon := by
  simp [State.touch, *]

@[simp] theorem State.visitLine_canon (s : State) (l : Nat) (pte : BitVec 64) (write : Bool) (hs : s.Canon) :
    (State.visitLine s l pte write).Canon := by
  unfold State.visitLine; (try dsimp only); (repeat' split) <;> simp +contextual (maxDischargeDepth := 40) [*, Store.wf_filter, Store.wf_mapAll, Store.wf_put, Store.wf_union, Memory.wf_write]

@[simp] theorem State.visit_canon (s : State) (key : Nat) (n : Nat) (pte : BitVec 64) (write : Bool) (hs : s.Canon) :
    (State.visit s key n pte write).Canon := by
  unfold State.visit; (try dsimp only); (repeat' split) <;> simp +contextual (maxDischargeDepth := 40) [*, Store.wf_filter, Store.wf_mapAll, Store.wf_put, Store.wf_union, Memory.wf_write]

@[simp] theorem State.visitWalk_canon (s : State) (ctx : BitVec 6) (vpn : Nat) (hs : s.Canon) :
    (State.visitWalk s ctx vpn).Canon := by
  unfold State.visitWalk; (try dsimp only); (repeat' split) <;> simp +contextual (maxDischargeDepth := 40) [*, Store.wf_filter, Store.wf_mapAll, Store.wf_put, Store.wf_union, Memory.wf_write]

@[simp] theorem State.visitPage_canon (s : State) (l : Nat) (ctx : BitVec 6) (write : Bool) (a : Nat) (b : Nat) (hs : s.Canon) :
    (State.visitPage s l ctx write a b).Canon := by
  unfold State.visitPage; (try dsimp only); (repeat' split) <;> simp +contextual (maxDischargeDepth := 40) [*, Store.wf_filter, Store.wf_mapAll, Store.wf_put, Store.wf_union, Memory.wf_write]

@[simp] theorem State.visitVa_canon (s : State) (l : Nat) (ctx : BitVec 6) (va : Nat) (n : Nat) (write : Bool) (hs : s.Canon) :
    (State.visitVa s l ctx va n write).Canon := by
  unfold State.visitVa; (try dsimp only); (repeat' split) <;> simp +contextual (maxDischargeDepth := 40) [*, Store.wf_filter, Store.wf_mapAll, Store.wf_put, Store.wf_union, Memory.wf_write]

@[simp] theorem State.askPart_canon (s : State) (p : Part) (write : Bool) (c : Claim) (held : Option (Nat × Nat)) (hs : s.Canon) :
    (State.askPart s p write c held).Canon := by
  unfold State.askPart; (try dsimp only); (repeat' split) <;> simp +contextual (maxDischargeDepth := 40) [*, Store.wf_filter, Store.wf_mapAll, Store.wf_put, Store.wf_union, Memory.wf_write]

@[simp] theorem State.clearTile_canon (s : State) (t : Nat) (hs : s.Canon) :
    (State.clearTile s t).Canon := by
  unfold State.clearTile; (try dsimp only); (repeat' split) <;> (simp +contextual (maxDischargeDepth := 40) [*, Store.wf_filter, Store.wf_mapAll, Store.wf_put, Store.wf_union, Memory.wf_write]; done)

@[simp] theorem State.emptyTile_canon (s : State) (t : Nat) (hs : s.Canon) :
    (State.emptyTile s t).Canon := by
  unfold State.emptyTile; (repeat' split) <;> simp +contextual (maxDischargeDepth := 40) [*]

@[simp] theorem State.blankTile_canon (s : State) (t : Nat) (hs : s.Canon) :
    (State.blankTile s t).Canon := by
  unfold State.blankTile; (try dsimp only); (repeat' split) <;> simp +contextual (maxDischargeDepth := 40) [*, Store.wf_filter, Store.wf_mapAll, Store.wf_put, Store.wf_union, Memory.wf_write]

@[simp] theorem State.remap_canon (s : State) (t : Nat) (slot : Nat) (hs : s.Canon) :
    (State.remap s t slot).Canon := by
  unfold State.remap; (try dsimp only); (repeat' split) <;> (simp +contextual (maxDischargeDepth := 40) [*, Store.wf_filter, Store.wf_mapAll, Store.wf_put, Store.wf_union, Memory.wf_write]; done)

@[simp] theorem State.unpark_canon (s : State) (th : Nat) (rid : Nat) (hs : s.Canon) :
    (State.unpark s th rid).Canon := by
  simp [State.unpark, *]

@[simp] theorem State.failSend_canon (s : State) (r : Req) (cause : BitVec 8) (info : Nat) (hs : s.Canon) :
    (State.failSend s r cause info).Canon := by
  simp [State.failSend, *]

@[simp] theorem State.setPlain_canon (s : State) (port : Nat) (off : Nat) (x : BitVec 64) (hs : s.Canon) :
    (State.setPlain s port off x).Canon := by
  unfold State.setPlain; (try dsimp only); (repeat' split) <;> simp +contextual (maxDischargeDepth := 40) [*, Store.wf_filter, Store.wf_mapAll, Store.wf_put, Store.wf_union, Memory.wf_write]

@[simp] theorem State.popFault_canon (s : State) (port : Nat) (hs : s.Canon) :
    (State.popFault s port).1.Canon := by
  unfold State.popFault; dsimp only; (repeat' split) <;> simp [*]

@[simp] theorem State.popErr_canon (s : State) (port : Nat) (hs : s.Canon) :
    (State.popErr s port).1.Canon := by
  unfold State.popErr; dsimp only; (repeat' split) <;> simp [*]

@[simp] theorem State.pageLoad_canon (s : State) (port : Nat) (off : Nat) (hs : s.Canon) :
    (State.pageLoad s port off).1.Canon := by
  unfold State.pageLoad; (repeat' split) <;> simp [*]

@[simp] theorem State.specRead_canon (s : State) (th : Nat) (key : Nat) (len : Nat) (hs : s.Canon) :
    (State.specRead s th key len).Canon := by
  simp [State.specRead, *]

@[simp] theorem State.ifHome_canon (s : State) (r : Req) (j : Nat) (p : Part) (k : State) (hs : s.Canon) (hk : k.Canon) :
    (State.ifHome s r j p k).Canon := by
  unfold State.ifHome; (repeat' split) <;> simp [*]

@[simp] theorem State.applyPart_canon (s : State) (r : Req) (j : Nat) (p : Part) (hs : s.Canon) :
    (State.applyPart s r j p).Canon := by
  unfold State.applyPart
  dsimp only
  refine State.ifHome_canon _ _ _ _ _ (by (repeat' split) <;> simp +contextual (maxDischargeDepth := 40) [*, Store.wf_filter, Store.wf_mapAll, Store.wf_put, Store.wf_union, Memory.wf_write]) ?_
  have h1 : ((if p.key ≥ fabricBase then { s with fresh := s.fresh + 1 } else s).touch p r.lcore r.ctx).Canon := by (repeat' split) <;> simp +contextual (maxDischargeDepth := 40) [*, Store.wf_filter, Store.wf_mapAll, Store.wf_put, Store.wf_union, Memory.wf_write]
  generalize ((if p.key ≥ fabricBase then { s with fresh := s.fresh + 1 } else s).touch p r.lcore r.ctx) = s1 at *
  cases r.kind <;> dsimp only <;> (repeat' split) <;> simp +contextual (maxDischargeDepth := 40) [*, Store.wf_filter, Store.wf_mapAll, Store.wf_put, Store.wf_union, Memory.wf_write]

@[simp] theorem State.arrive_canon (s : State) (rid : Nat) (j : Nat) (hs : s.Canon) :
    (State.arrive s rid j).Canon := by
  unfold State.arrive; (repeat' split) <;> simp [*]

@[simp] theorem State.loadParts_canon (s : State) (kind : ReqKind) (ps : List Part) (dest : Reg) (w : RegWrite) (sext : Bool) (hold : Bool) (hs : s.Canon) :
    (State.loadParts s kind ps dest w sext hold).Canon := by
  unfold State.loadParts; dsimp only
  generalize (ps.map s.specSplit).foldl _ w = w1
  split
  · simp [hs]
  · split
    · simp [hs]
    · split
      · split
        · simp [hs]
        · exact State.upd_canon _ _ (foldl_canon _ _ (fun s p h => State.specRead_canon _ _ _ _ h) hs)
      · split <;> simp [hs]

@[simp] theorem State.storeParts_canon (s : State) (kind : ReqKind) (ps : List Part) (hold : Bool) (hs : s.Canon) :
    (State.storeParts s kind ps hold).Canon := by
  unfold State.storeParts; (repeat' split) <;> simp +contextual (maxDischargeDepth := 40) [*]

/-! ## Control -/

@[simp] theorem State.jump_canon (s : State) (pc : BitVec 64) (hs : s.Canon) :
    (State.jump s pc).Canon := by
  simp [State.jump, *]

@[simp] theorem State.parkHere_canon (s : State) (p : Park) (hs : s.Canon) :
    (State.parkHere s p).Canon := by
  simp [State.parkHere, *]

@[simp] theorem State.startRep_canon (s : State) (c : BitVec 8) (m : BitVec 6) (t : BitVec 3) (hs : s.Canon) :
    (State.startRep s c m t).Canon := by
  simp [State.startRep, *]

/-! ## MemInstr -/

@[simp] theorem State.onKey_canon (s : State) (va : BitVec 64) (size : Nat) (kind : AccKind) (k : Nat → BitVec 64 → State) (hs : s.Canon) (hk : ∀ x0 : Nat, ∀ x1 : BitVec 64, (k x0 x1).Canon) :
    (State.onKey s va size kind k).Canon := by
  unfold State.onKey; (try dsimp only); (repeat' split) <;> simp +contextual (maxDischargeDepth := 40) [*, Store.wf_filter, Store.wf_mapAll, Store.wf_put, Store.wf_union, Memory.wf_write]

@[simp] theorem State.holdBundle_canon (s : State) (kind : ReqKind) (parts : List Part) (hold : Bool) (hs : s.Canon) :
    (State.holdBundle s kind parts hold).Canon := by
  unfold State.holdBundle; (repeat' split) <;> simp +contextual (maxDischargeDepth := 40) [*]

@[simp] theorem State.heldForm_canon (s : State) (first : State) (done : Answer → State) (hs : s.Canon) (hfirst : first.Canon) (hdone : ∀ x0 : Answer, (done x0).Canon) :
    (State.heldForm s first done).Canon := by
  unfold State.heldForm; (try dsimp only); (repeat' split) <;> simp +contextual (maxDischargeDepth := 40) [*, Store.wf_filter, Store.wf_mapAll, Store.wf_put, Store.wf_union, Memory.wf_write]

@[simp] theorem State.storeAll_canon (s : State) (ps : List Part) (scalar : Bool) (hs : s.Canon) :
    (State.storeAll s ps scalar).Canon := by
  unfold State.storeAll; (repeat' split) <;> simp +contextual (maxDischargeDepth := 40) [*]

@[simp] theorem State.loadScalar_canon (s : State) (size : Nat) (sext : Bool) (d : BitVec 5) (a : BitVec 5) (i : BitVec 10) (hs : s.Canon) :
    (State.loadScalar s size sext d a i).Canon := by
  simp [State.loadScalar, *]

@[simp] theorem State.storeScalar_canon (s : State) (size : Nat) (d : BitVec 5) (a : BitVec 5) (i : BitVec 10) (hs : s.Canon) :
    (State.storeScalar s size d a i).Canon := by
  simp [State.storeScalar, *]

@[simp] theorem State.onElems_canon (s : State) (kind : AccKind) (e : Nat) (data : Vec) (l : List (Nat × BitVec 64)) (k : List Part → State) (hs : s.Canon) (hk : ∀ x0 : List Part, (k x0).Canon) :
    (State.onElems s kind e data l k).Canon := by
  unfold State.onElems; (try dsimp only); (repeat' split) <;> simp +contextual (maxDischargeDepth := 40) [*, Store.wf_filter, Store.wf_mapAll, Store.wf_put, Store.wf_union, Memory.wf_write]

@[simp] theorem State.noSpec_canon (s : State) (major : Nat) (k : State) (hs : s.Canon) (hk : k.Canon) :
    (State.noSpec s major k).Canon := by
  unfold State.noSpec; split <;> simp [*]

@[simp] theorem State.noSpecAt_canon (s : State) (major : Nat) (va : BitVec 64) (size : Nat) (kind : AccKind) (k : State) (hs : s.Canon) (hk : k.Canon) :
    (State.noSpecAt s major va size kind k).Canon := by
  simp [State.noSpecAt, *]

@[simp] theorem State.addFence_canon (s : State) (scope : Nat) (hs : s.Canon) :
    (State.addFence s scope).Canon := by
  unfold State.addFence; (try dsimp only); (repeat' split) <;> simp +contextual (maxDischargeDepth := 40) [*, Store.wf_filter, Store.wf_mapAll, Store.wf_put, Store.wf_union, Memory.wf_write]

@[simp] theorem State.released_canon (s : State) (hs : s.Canon) :
    (State.released s).Canon := by
  unfold State.released; (try dsimp only); (repeat' split) <;> simp +contextual (maxDischargeDepth := 40) [*, Store.wf_filter, Store.wf_mapAll, Store.wf_put, Store.wf_union, Memory.wf_write]

@[simp] theorem State.onOwnWord_canon (s : State) (va : BitVec 64) (k : Nat → State) (hs : s.Canon) (hk : ∀ x0 : Nat, (k x0).Canon) :
    (State.onOwnWord s va k).Canon := by
  unfold State.onOwnWord; (try dsimp only); (repeat' split) <;> simp +contextual (maxDischargeDepth := 40) [*, Store.wf_filter, Store.wf_mapAll, Store.wf_put, Store.wf_union, Memory.wf_write]

@[simp] theorem State.hint_canon (s : State) (va : BitVec 64) (k : Nat → BitVec 64 → State) (hs : s.Canon) (hk : ∀ x0 : Nat, ∀ x1 : BitVec 64, (k x0 x1).Canon) :
    (State.hint s va k).Canon := by
  unfold State.hint; (try dsimp only); (repeat' split) <;> simp +contextual (maxDischargeDepth := 40) [*, Store.wf_filter, Store.wf_mapAll, Store.wf_put, Store.wf_union, Memory.wf_write]

@[simp] theorem State.fillAhead_canon (s : State) (key : Nat) (pte : BitVec 64) (hint : Option (BitVec 2 × BitVec 4)) (hs : s.Canon) :
    (State.fillAhead s key pte hint).Canon := by
  unfold State.fillAhead; (try dsimp only); (repeat' split) <;> simp +contextual (maxDischargeDepth := 40) [*, Store.wf_filter, Store.wf_mapAll, Store.wf_put, Store.wf_union, Memory.wf_write]

/-! ## Calls -/

@[simp] theorem State.onUnit_canon (s : State) (va : BitVec 64) (migr : Bool) (k : Nat → State) (hs : s.Canon) (hk : ∀ x0 : Nat, (k x0).Canon) :
    (State.onUnit s va migr k).Canon := by
  unfold State.onUnit; (try dsimp only); (repeat' split) <;> simp +contextual (maxDischargeDepth := 40) [*, Store.wf_filter, Store.wf_mapAll, Store.wf_put, Store.wf_union, Memory.wf_write]

@[simp] theorem State.sendCall_canon (s : State) (th : Nat) (rid : Nat) (hs : s.Canon) :
    (State.sendCall s th rid).Canon := by
  simp [State.sendCall, *]

@[simp] theorem State.sendReply_canon (s : State) (th : Nat) (ss : List (BitVec 64)) (vs : List (Vec × BitVec 4)) (hs : s.Canon) :
    (State.sendReply s th ss vs).Canon := by
  unfold State.sendReply; (repeat' split) <;> simp [*]

/-! ## Sync -/

@[simp] theorem State.barrierForm_canon (s : State) (op : Nat) (a : BitVec 5) (done : Answer → State) (hs : s.Canon) (hdone : ∀ x0 : Answer, (done x0).Canon) :
    (State.barrierForm s op a done).Canon := by
  unfold State.barrierForm; (try dsimp only); (repeat' split) <;> simp +contextual (maxDischargeDepth := 40) [*, Store.wf_filter, Store.wf_mapAll, Store.wf_put, Store.wf_union, Memory.wf_write]

@[simp] theorem State.phaseDone_canon (s : State) (th : Nat) (d : BitVec 5) (status : Nat) (hs : s.Canon) :
    (State.phaseDone s th d status).Canon := by
  simp [State.phaseDone, *]

@[simp] theorem State.pollFail_canon (s : State) (th : Nat) (src : Src) (c : BitVec 8) (i : Nat) (hs : s.Canon) :
    (State.pollFail s th src c i).Canon := by
  unfold State.pollFail; (try dsimp only); (repeat' split) <;> simp +contextual (maxDischargeDepth := 40) [*, Store.wf_filter, Store.wf_mapAll, Store.wf_put, Store.wf_union, Memory.wf_write]

@[simp] theorem State.pollRead_canon (s : State) (th : Nat) (key : Nat) (ph : BitVec 32) (d : BitVec 5) (src : Src) (hs : s.Canon) :
    (State.pollRead s th key ph d src).Canon := by
  unfold State.pollRead; (try dsimp only); (repeat' split) <;> simp +contextual (maxDischargeDepth := 40) [*, Store.wf_filter, Store.wf_mapAll, Store.wf_put, Store.wf_union, Memory.wf_write]

@[simp] theorem State.onQueue_canon (s : State) (q : BitVec 2) (k : State) (hs : s.Canon) (hk : k.Canon) :
    (State.onQueue s q k).Canon := by
  simp [State.onQueue, *]

@[simp] theorem State.pendTake_canon (s : State) (kind : PendKind) (d : BitVec 5) (hs : s.Canon) :
    (State.pendTake s kind d).Canon := by
  simp [State.pendTake, *]

/-! ## System -/

@[simp] theorem State.supCheck_canon (s : State) (p : BitVec 64) (k : State) (hs : s.Canon) (hk : k.Canon) :
    (State.supCheck s p k).Canon := by
  simp [State.supCheck, *]

@[simp] theorem State.takeEntry_canon (s : State) (th : Nat) (d : BitVec 5) (hs : s.Canon) :
    (State.takeEntry s th d).Canon := by
  unfold State.takeEntry; (repeat' split) <;> simp +contextual (maxDischargeDepth := 40) [*]

@[simp] theorem State.coordCheck_canon (s : State) (x : BitVec 64) (dusk : Bool) (k : State) (hs : s.Canon) (hk : k.Canon) :
    (State.coordCheck s x dusk k).Canon := by
  simp [State.coordCheck, *]

@[simp] theorem State.stopTimers_canon (s : State) (ks : List Nat) (hs : s.Canon) :
    (State.stopTimers s ks).Canon := by
  simp [State.stopTimers, *]

@[simp] theorem State.runTimers_canon (s : State) (ks : List Nat) (hs : s.Canon) :
    (State.runTimers s ks).Canon := by
  simp [State.runTimers, *]

@[simp] theorem State.withdraw_canon (s : State) (t : Nat) (hs : s.Canon) :
    (State.withdraw s t).Canon := by
  simp [State.withdraw, *]

@[simp] theorem State.startDrain_canon (s : State) (t : Nat) (dusks : List (Nat × Nat)) (hs : s.Canon) :
    (State.startDrain s t dusks).Canon := by
  unfold State.startDrain; (try dsimp only); (repeat' split) <;> simp +contextual (maxDischargeDepth := 40) [*, Store.wf_filter, Store.wf_mapAll, Store.wf_put, Store.wf_union, Memory.wf_write]

@[simp] theorem State.release_canon (s : State) (t : Nat) (hs : s.Canon) :
    (State.release s t).Canon := by
  unfold State.release; (repeat' split) <;> simp +contextual (maxDischargeDepth := 40) [*]

/-! ## Logit -/

@[simp] theorem State.onRun_canon (s : State) (f : LRun → LRun) (hs : s.Canon) :
    (State.onRun s f).Canon := by
  unfold State.onRun; (repeat' split) <;> simp [*]

@[simp] theorem State.lwrite_canon (s : State) (d : BitVec 4) (f : LRun → Nat → Nat) (hs : s.Canon) :
    (State.lwrite s d f).Canon := by
  simp [State.lwrite, *]

@[simp] theorem State.winWrite_canon (s : State) (ctx : BitVec 6) (compress : Bool) (key : Nat) (n : Nat) (x : Nat) (hs : s.Canon) :
    (State.winWrite s ctx compress key n x).Canon := by
  unfold State.winWrite; (try dsimp only); (repeat' split) <;> simp +contextual (maxDischargeDepth := 40) [*, Store.wf_filter, Store.wf_mapAll, Store.wf_put, Store.wf_union, Memory.wf_write]

@[simp] theorem State.setStatus_canon (s : State) (ctx : BitVec 6) (compress : Bool) (win : Nat) (code : Nat) (index : Nat) (hs : s.Canon) :
    (State.setStatus s ctx compress win code index).Canon := by
  unfold State.setStatus; (try dsimp only); (repeat' split) <;> simp +contextual (maxDischargeDepth := 40) [*, Store.wf_filter, Store.wf_mapAll, Store.wf_put, Store.wf_union, Memory.wf_write]

@[simp] theorem State.writeReport_canon (s : State) (win : Nat) (b : Binding) (hs : s.Canon) :
    (State.writeReport s win b).Canon := by
  unfold State.writeReport; (repeat' split) <;> simp +contextual (maxDischargeDepth := 40) [*]

@[simp] theorem State.nextStep_canon (s : State) (win : Nat) (b : Binding) (hs : s.Canon) :
    (State.nextStep s win b).Canon := by
  unfold State.nextStep; (repeat' split) <;> simp +contextual (maxDischargeDepth := 40) [*]

@[simp] theorem State.startSampler_canon (s : State) (win : Nat) (b : Binding) (hs : s.Canon) :
    (State.startSampler s win b).Canon := by
  unfold State.startSampler; dsimp only
  split
  · simp [hs]
  · generalize (if s.refuses (padKey b.sampler 0) then none else if b.part then s.partPlace b.sampler b.lid else s.ordPlace b.sampler) = o
    cases o <;> simp (maxDischargeDepth := 40) [hs]

@[simp] theorem State.endStep_canon (s : State) (win : Nat) (b : Binding) (hs : s.Canon) :
    (State.endStep s win b).Canon := by
  unfold State.endStep; (repeat' split) <;> simp +contextual (maxDischargeDepth := 40) [*]

@[simp] theorem State.logReads_canon (s : State) (ctx : BitVec 6) (l : List (Nat × Nat)) (hs : s.Canon) :
    (State.logReads s ctx l).Canon := by
  unfold State.logReads; (try dsimp only); (repeat' split) <;> simp +contextual (maxDischargeDepth := 40) [*, Store.wf_filter, Store.wf_mapAll, Store.wf_put, Store.wf_union, Memory.wf_write]

@[simp] theorem State.chunkStart_canon (s : State) (win : Nat) (chunk : Nat) (hs : s.Canon) :
    (State.chunkStart s win chunk).Canon := by
  unfold State.chunkStart; dsimp only; (repeat' split) <;> simp [*]

@[simp] theorem State.endRun_canon (s : State) (win : Nat) (hs : s.Canon) :
    (State.endRun s win).Canon := by
  unfold State.endRun; (repeat' split) <;> simp [*]

@[simp] theorem State.logitAdvance_canon (s : State) (win : Nat) (hs : s.Canon) :
    (State.logitAdvance s win).Canon := by
  simp [State.logitAdvance, *]

@[simp] theorem State.logitArrive_canon (s : State) (rid : Nat) (j : Nat) (want : Option Nat → Bool) (k : Req → Part → State → State) (hs : s.Canon) (hk : ∀ x0 : Req, ∀ x1 : Part, ∀ x2 : State, x2.Canon → (k x0 x1 x2).Canon) :
    (State.logitArrive s rid j want k).Canon := by
  unfold State.logitArrive; (try dsimp only); (repeat' split) <;> simp +contextual (maxDischargeDepth := 40) [*, Store.wf_filter, Store.wf_mapAll, Store.wf_put, Store.wf_union, Memory.wf_write]

@[simp] theorem State.logitMark_canon (s : State) (p : Part) (hs : s.Canon) :
    (State.logitMark s p).Canon := by
  unfold State.logitMark; dsimp only; (repeat' split) <;> simp [*]

@[simp] theorem State.bindWindow_canon (s : State) (r : Req) (p : Part) (hs : s.Canon) :
    (State.bindWindow s r p).Canon := by
  unfold State.bindWindow; dsimp only; (repeat' split) <;> simp +contextual (maxDischargeDepth := 40) [*]

@[simp] theorem State.unbindWindow_canon (s : State) (p : Part) (hs : s.Canon) :
    (State.unbindWindow s p).Canon := by
  unfold State.unbindWindow; dsimp only; (repeat' split) <;> simp [*]

@[simp] theorem State.filterStore_canon (s : State) (r : Req) (p : Part) (hs : s.Canon) :
    (State.filterStore s r p).Canon := by
  unfold State.filterStore; (repeat' split) <;> simp [*]

/-! ## Inbound -/

@[simp] theorem State.inAnswer_canon (s : State) (x : Inbound) (code : Nat) (v : BitVec 512) (hs : s.Canon) :
    (State.inAnswer s x code v).Canon := by
  simp [State.inAnswer, *]

@[simp] theorem State.inPerform_canon (s : State) (x : Inbound) (key : Nat) (pte : BitVec 64) (hs : s.Canon) :
    (State.inPerform s x key pte).Canon := by
  unfold State.inPerform; (repeat' split) <;> simp +contextual (maxDischargeDepth := 40) [*]

@[simp] theorem State.inTry_canon (s : State) (kept : List Inbound) (y0 : List Inbound) (hs : s.Canon) :
    (State.inTry s kept y0).Canon := by
  fun_induction State.inTry s kept y0 <;> simp_all

@[simp] theorem State.flushInbound_canon (s : State) (hs : s.Canon) :
    (State.flushInbound s).Canon := by
  simp [State.flushInbound, *]

/-! ## Arrival -/

@[simp] theorem State.commitWord_canon (s : State) (r : Req) (p : Part) (hs : s.Canon) :
    (State.commitWord s r p).Canon := by
  unfold State.commitWord; (try dsimp only); (repeat' split) <;> simp +contextual (maxDischargeDepth := 40) [*, Store.wf_filter, Store.wf_mapAll, Store.wf_put, Store.wf_union, Memory.wf_write]

@[simp] theorem State.commitArrive_canon (s : State) (rid : Nat) (hs : s.Canon) :
    (State.commitArrive s rid).Canon := by
  unfold State.commitArrive; (try dsimp only); (repeat' split) <;> simp +contextual (maxDischargeDepth := 40) [*, Store.wf_filter, Store.wf_mapAll, Store.wf_put, Store.wf_union, Memory.wf_write]

@[simp] theorem State.sendCommit_canon (s : State) (th : Nat) (src : Src) (y0 : Nat) (y1 : List Part) (hs : s.Canon) :
    (State.sendCommit s th src y0 y1).1.Canon := by
  induction y0 generalizing s y1 with
  | zero => exact hs
  | succ n ih =>
    cases y1 with
    | nil => exact hs
    | cons p ps =>
      unfold State.sendCommit; dsimp only
      split
      · exact ih _ _ (State.commitArrive_canon _ _ (State.addReq_canon _ _ hs))
      · split
        · exact hs
        · exact ih _ _ (State.addReq_canon _ _ hs)

@[simp] theorem State.commitEnd_canon (s : State) (th : Nat) (d : BitVec 5) (res : BitVec 64) (hs : s.Canon) :
    (State.commitEnd s th d res).Canon := by
  unfold State.commitEnd; (try dsimp only); (repeat' split) <;> simp +contextual (maxDischargeDepth := 40) [*, Store.wf_filter, Store.wf_mapAll, Store.wf_put, Store.wf_union, Memory.wf_write]

@[simp] theorem State.commitMore_canon (s : State) (th : Nat) (d : BitVec 5) (src : Src) (ps : List Part) (hs : s.Canon) :
    (State.commitMore s th d src ps).Canon := by
  unfold State.commitMore; (try dsimp only); (repeat' split) <;> simp +contextual (maxDischargeDepth := 40) [*, Store.wf_filter, Store.wf_mapAll, Store.wf_put, Store.wf_union, Memory.wf_write]

@[simp] theorem State.commitNow_canon (s : State) (th : Nat) (d : BitVec 5) (src : Src) (hs : s.Canon) :
    (State.commitNow s th d src).Canon := by
  unfold State.commitNow
  split
  · exact hs
  · have h : (s.modThr th fun t => { t with spec := none }).Canon := State.modThr_canon _ _ hs
    dsimp only
    split
    · exact State.commitEnd_canon _ _ _ _ h
    · split
      · exact State.commitEnd_canon _ _ _ _ h
      · split
        · exact State.commitMore_canon _ _ _ _ _ h
        · exact State.commitEnd_canon _ _ _ _ h

@[simp] theorem State.onReq_canon (s : State) (rid : Nat) (k : Req → State) (hs : s.Canon) (hk : ∀ x0 : Req, (k x0).Canon) :
    (State.onReq s rid k).Canon := by
  unfold State.onReq; (try dsimp only); (repeat' split) <;> simp +contextual (maxDischargeDepth := 40) [*, Store.wf_filter, Store.wf_mapAll, Store.wf_put, Store.wf_union, Memory.wf_write]

@[simp] theorem State.landWith_canon (s : State) (th : Nat) (p : Pend) (xs : List (BitVec 64)) (fail : Option Failure) (hs : s.Canon) :
    (State.landWith s th p xs fail).Canon := by
  simp [State.landWith, *]

@[simp] theorem State.ifUnit_canon (s : State) (r : Req) (l : Nat) (k : State) (hs : s.Canon) (hk : k.Canon) :
    (State.ifUnit s r l k).Canon := by
  unfold State.ifUnit; (repeat' split) <;> simp [*]

@[simp] theorem State.resend_canon (s : State) (r : Req) (hs : s.Canon) :
    (State.resend s r).Canon := by
  unfold State.resend; (repeat' split) <;> simp +contextual (maxDischargeDepth := 40) [*]

@[simp] theorem State.runInline_canon (s : State) (r : Req) (entry : BitVec 48) (args : List (BitVec 64)) (hs : s.Canon) :
    (State.runInline s r entry args).Canon := by
  simp [State.runInline, *]

@[simp] theorem State.startCallee_canon (s : State) (r : Req) (u : Nat) (entry : BitVec 48) (args : List (BitVec 64)) (vecs : List (Vec × BitVec 4)) (w : Nat) (pos : Nat) (hs : s.Canon) :
    (State.startCallee s r u entry args vecs w pos).Canon := by
  simp [State.startCallee, *]

@[simp] theorem State.endCall_canon (s : State) (th : Nat) (rid : Nat) (writes : List RegWrite) (fail : Option Failure) (hs : s.Canon) :
    (State.endCall s th rid writes fail).Canon := by
  simp [State.endCall, *]

@[simp] theorem State.ifCaller_canon (s : State) (r : Req) (th : Nat) (k : State) (hs : s.Canon) (hk : k.Canon) :
    (State.ifCaller s r th k).Canon := by
  unfold State.ifCaller; (repeat' split) <;> simp [*]

@[simp] theorem State.acceptMigr_canon (s : State) (r : Req) (u : Nat) (w : Nat) (pos : Nat) (hs : s.Canon) :
    (State.acceptMigr s r u w pos).Canon := by
  unfold State.acceptMigr; dsimp only
  exact State.setReq_canon _ _ _ (State.answerFrom_canon _ _ _ _ (State.startThread_canon _ _ _ _ hs))

@[simp] theorem State.redDone_canon (s : State) (l : Nat) (rid : Nat) (oldest : Bool) (hs : s.Canon) :
    (State.redDone s l rid oldest).Canon := by
  unfold State.redDone; (try dsimp only); (repeat' split) <;> simp +contextual (maxDischargeDepth := 40) [*, Store.wf_filter, Store.wf_mapAll, Store.wf_put, Store.wf_union, Memory.wf_write]

@[simp] theorem State.redArrive_canon (s : State) (rid : Nat) (hs : s.Canon) :
    (State.redArrive s rid).Canon := by
  refine State.onReq_canon _ _ _ hs fun r => ?_
  split
  · split
    · exact hs
    · split
      · simp [hs]
      · dsimp only
        refine State.ite_canon (State.redDone_canon _ _ _ _ (State.modPort_canon _ _ hs)) (State.refuseReq_canon _ _ (State.modPort_canon _ _ hs))
  · exact hs

@[simp] theorem State.askBarrier_canon (s : State) (rid : Nat) (hs : s.Canon) :
    (State.askBarrier s rid).Canon := by
  unfold State.askBarrier; (try dsimp only); (repeat' split) <;> simp +contextual (maxDischargeDepth := 40) [*, Store.wf_filter, Store.wf_mapAll, Store.wf_put, Store.wf_union, Memory.wf_write]

@[simp] theorem State.barrierApply_canon (s : State) (rids : List Nat) (hs : s.Canon) :
    (State.barrierApply s rids).Canon := by
  unfold State.barrierApply
  split
  · exact foldl_canon _ _ (fun _ _ h => State.askBarrier_canon _ _ h) hs
  · dsimp only
    have h1 (l : List (Req × Nat × Part)) (k : Part) : (l.foldl (fun (s : State) x => match s.homeCheck x.1 x.2.2 with | .ok => s | _ => s.ifHome x.1 0 x.2.2 s) s).Canon :=
      foldl_canon _ _ (fun s x h => by split <;> simp [h]) hs
    have h2 (u : State) (l : List (Req × Nat × Part)) (h : u.Canon) : (l.foldl (fun (s : State) x => s.touch x.2.2 x.1.lcore x.1.ctx) u).Canon :=
      foldl_canon _ _ (fun s x h => State.touch_canon _ _ _ _ h) h
    split
    · exact foldl_canon _ _ (fun s x h => by simp [h]) (h2 _ _ (h1 _ ‹Part›))
    · refine foldl_canon _ _ (fun s x h => ?_) ?_
      · split <;> simp [h]
      · split
        · exact State.homeStore_canon _ _ _ _ _ _ _ (h2 _ _ (h1 _ ‹Part›))
        · exact h2 _ _ (h1 _ ‹Part›)

/-! ## Engine -/

@[simp] theorem State.askPage_canon (s : State) (t : Nat) (c : Cmd) (vpn : Nat) (hs : s.Canon) :
    (State.askPage s t c vpn).Canon := by
  unfold State.askPage; (try dsimp only); (repeat' split) <;> simp +contextual (maxDischargeDepth := 40) [*, Store.wf_filter, Store.wf_mapAll, Store.wf_put, Store.wf_union, Memory.wf_write]

@[simp] theorem State.installTlb_canon (s : State) (port : Nat) (tile : Option Nat) (e : TlbEntry) (hs : s.Canon) :
    (State.installTlb s port tile e).Canon := by
  unfold State.installTlb; (repeat' split) <;> simp +contextual (maxDischargeDepth := 40) [*]

theorem State.engMem_canon (s : State) (c : Cmd) (key n : Nat) (pte : BitVec 64) (write : Bool) (hint : Option (BitVec 2 × BitVec 4)) (k : State → State × EngStep) (hs : s.Canon) (hk : (k s).1.Canon) :
    (State.engMem s c key n pte write hint k).1.Canon := by
  unfold State.engMem; split <;> simp [*]

@[simp] theorem State.engOut_canon (s : State) (t : Nat) (key : Nat) (n : Nat) (hs : s.Canon) :
    (State.engOut s t key n).Canon := by
  unfold State.engOut; (try dsimp only); (repeat' split) <;> simp +contextual (maxDischargeDepth := 40) [*, Store.wf_filter, Store.wf_mapAll, Store.wf_put, Store.wf_union, Memory.wf_write]

@[simp] theorem State.engHome_canon (s : State) (t : Nat) (c : Cmd) (p : Part) (k : State → State × EngStep) (hs : s.Canon) (hk : ∀ x0 : State, x0.Canon → (k x0).1.Canon) :
    (State.engHome s t c p k).1.Canon := by
  unfold State.engHome; (repeat' split) <;> simp [*]

@[simp] theorem State.engReadAt_canon (s : State) (t : Nat) (c : Cmd) (key : Nat) (va : Nat) (pte : BitVec 64) (n : Nat) (hs : s.Canon) :
    (State.engReadAt s t c key va pte n).1.Canon := by
  unfold State.engReadAt; (try dsimp only); (repeat' split) <;> simp +contextual (maxDischargeDepth := 40) [*, Store.wf_filter, Store.wf_mapAll, Store.wf_put, Store.wf_union, Memory.wf_write]

theorem State.engAt_canon (s : State) (t : Nat) (c : Cmd) (va n : Nat) (write : Bool) (k : Nat → BitVec 64 → State × EngStep) (hs : s.Canon) (hk : ∀ key pte, (k key pte).1.Canon) :
    (State.engAt s t c va n write k).1.Canon := by
  unfold State.engAt; (repeat' split) <;> simp [*]

@[simp] theorem State.engRead_canon (s : State) (t : Nat) (c : Cmd) (va : Nat) (n : Nat) (hs : s.Canon) :
    (State.engRead s t c va n).1.Canon := State.engAt_canon _ _ _ _ _ _ _ hs fun _ _ => State.engReadAt_canon _ _ _ _ _ _ _ hs

@[simp] theorem State.engFetch_canon (s : State) (t : Nat) (c : Cmd) (va : Nat) (n : Nat) (hint : Option (BitVec 2 × BitVec 4)) (hs : s.Canon) :
    (State.engFetch s t c va n hint).1.Canon :=
  State.engAt_canon _ _ _ _ _ _ _ hs fun _ _ => State.engMem_canon _ _ _ _ _ _ _ _ hs (State.engReadAt_canon _ _ _ _ _ _ _ hs)

@[simp] theorem State.engSpan_canon (s : State) (t : Nat) (c : Cmd) (va : Nat) (n : Nat) (hint : Option (BitVec 2 × BitVec 4)) (hs : s.Canon) :
    (State.engSpan s t c va n hint).1.Canon := by
  unfold State.engSpan; dsimp only
  have h1 := State.engFetch_canon s t c va (min n (64 - va % 64)) hint hs
  split
  · rename_i heq; rw [heq] at h1
    split
    · exact h1
    · have h2 := State.engFetch_canon _ t c (va + min n (64 - va % 64)) (n - min n (64 - va % 64)) hint h1
      split
      · rename_i heq2; rw [heq2] at h2; exact h2
      · exact h2
  · exact h1

@[simp] theorem State.engWriteAt_canon (s : State) (t : Nat) (c : Cmd) (key : Nat) (va : Nat) (pte : BitVec 64) (n : Nat) (m : BitVec 64) (x : Nat) (again : Bool) (hs : s.Canon) :
    (State.engWriteAt s t c key va pte n m x again).1.Canon := by
  unfold State.engWriteAt; (try dsimp only); (repeat' split) <;> simp +contextual (maxDischargeDepth := 40) [*, Store.wf_filter, Store.wf_mapAll, Store.wf_put, Store.wf_union, Memory.wf_write]

@[simp] theorem State.engWrite_canon (s : State) (t : Nat) (c : Cmd) (va : Nat) (n : Nat) (m : BitVec 64) (x : Nat) (hs : s.Canon) :
    (State.engWrite s t c va n m x).1.Canon := State.engAt_canon _ _ _ _ _ _ _ hs fun _ _ => State.engWriteAt_canon _ _ _ _ _ _ _ _ _ _ hs

@[simp] theorem State.engStore_canon (s : State) (t : Nat) (c : Cmd) (va : Nat) (n : Nat) (m : BitVec 64) (x : Nat) (hint : Option (BitVec 2 × BitVec 4)) (again : Bool) (hs : s.Canon) :
    (State.engStore s t c va n m x hint again).1.Canon := by
  refine State.engAt_canon _ _ _ _ _ _ _ hs fun key pte => ?_
  split
  · exact State.engWriteAt_canon _ _ _ _ _ _ _ _ _ _ hs
  · exact State.engMem_canon _ _ _ _ _ _ _ _ hs (State.engWriteAt_canon _ _ _ _ _ _ _ _ _ _ hs)

@[simp] theorem State.startCmd_canon (s : State) (t : Nat) (q : Nat) (op : Nat) (k : Cmd → State → State) (hs : s.Canon) (hk : ∀ x0 : Cmd, ∀ x1 : State, x1.Canon → (k x0 x1).Canon) :
    (State.startCmd s t q op k).Canon := by
  unfold State.startCmd; (try dsimp only); (repeat' split) <;> simp +contextual (maxDischargeDepth := 40) [*, Store.wf_filter, Store.wf_mapAll, Store.wf_put, Store.wf_union, Memory.wf_write]

@[simp] theorem State.startPaged_canon (s : State) (t : Nat) (q : Nat) (op : Nat) (pages : State → Cmd → List Nat) (k : Cmd → State → State) (hs : s.Canon) (hk : ∀ x0 : Cmd, ∀ x1 : State, x1.Canon → (k x0 x1).Canon) :
    (State.startPaged s t q op pages k).Canon := by
  unfold State.startPaged; (try dsimp only); (repeat' split) <;> simp +contextual (maxDischargeDepth := 40) [*, Store.wf_filter, Store.wf_mapAll, Store.wf_put, Store.wf_union, Memory.wf_write]

@[simp] theorem State.finishCmd_canon (s : State) (t : Nat) (c : Cmd) (st : Nat) (info : Nat) (ovf : Bool) (inv : Bool) (hs : s.Canon) :
    (State.finishCmd s t c st info ovf inv).Canon := by
  simp [State.finishCmd, *]

@[simp] theorem State.putStream_canon (s : State) (t : Nat) (y : Stream) (hs : s.Canon) :
    (State.putStream s t y).Canon := by
  simp [State.putStream, *]

@[simp] theorem State.stallStream_canon (s : State) (t : Nat) (y : Stream) (vpn : Nat) (p : Nat) (hs : s.Canon) :
    (State.stallStream s t y vpn p).Canon := by
  simp [State.stallStream, *]

@[simp] theorem State.startOrGo_canon (s : State) (t : Nat) (q : Nat) (op : Nat) (pages : State → Cmd → List Nat) (start : Cmd → State → State) (go : Stream → State → State) (hs : s.Canon) (hstart : ∀ x0 : Cmd, ∀ x1 : State, x1.Canon → (start x0 x1).Canon) (hgo : ∀ x0 : Stream, ∀ x1 : State, x1.Canon → (go x0 x1).Canon) :
    (State.startOrGo s t q op pages start go).Canon := by
  unfold State.startOrGo; (try dsimp only); (repeat' split) <;> simp +contextual (maxDischargeDepth := 40) [*, Store.wf_filter, Store.wf_mapAll, Store.wf_put, Store.wf_union, Memory.wf_write]

@[simp] theorem State.movePieces_canon (s : State) (t : Nat) (c : Cmd) (hint : Option (BitVec 2 × BitVec 4)) (y : Stream) (y0 : List Piece) (hs : s.Canon) :
    (State.movePieces s t c hint y y0).1.Canon := by
  induction y0 generalizing s y with
  | nil => simpa [State.movePieces]
  | cons p l ih =>
    unfold State.movePieces
    split
    rename_i s1 r heq
    have h1 : s1.Canon := by
      split at heq
      · have := State.engSpan_canon s t c ‹Nat› p.len hint hs; rw [heq] at this; exact this
      · cases heq; exact hs
    cases r with
    | data x bad =>
      dsimp only
      have h2 := State.engStore_canon s1 t c p.dst p.len (~~~bad) x hint p.again h1
      split <;> rename_i heq2 <;> rw [heq2] at h2 <;> first | exact h2 | exact ih _ _ h2
    | _ => exact h1

@[simp] theorem State.runMove_canon (s : State) (t : Nat) (y : Stream) (ps : List Piece) (hint : Option (BitVec 2 × BitVec 4)) (last : State → State) (hs : s.Canon) (hlast : ∀ x0 : State, x0.Canon → (last x0).Canon) :
    (State.runMove s t y ps hint last).Canon := by
  unfold State.runMove; dsimp only; (repeat' split) <;> simp +contextual (maxDischargeDepth := 40) [*]

@[simp] theorem State.postBarrier_canon (s : State) (t : Nat) (f : Finished) (hs : s.Canon) :
    (State.postBarrier s t f).1.Canon := by
  unfold State.postBarrier; dsimp only
  split
  · exact hs
  · split
    · simp [hs]
    · split
      · split
        · simp [hs]
        · split
          · simp [hs]
          · rename_i key pte _ _ _
            have h2 : ∀ k : State → State × EngStep, (∀ x : State, x.Canon → (k x).1.Canon) →
                (s.engMem f.cmd key 16 pte true none fun s => s.engHome t f.cmd ⟨key, BitVec.ofNat 64 f.cmd.w.bar, 16, 0, 0xFFFF, pte, 0, false⟩ k).1.Canon := fun k hk =>
              State.engMem_canon _ _ _ _ _ _ _ _ hs (State.engHome_canon _ _ _ _ _ hs hk)
            have h3 := h2 (fun s => ((s.hit key (pte.getLsbD 9)).homeStore none (key + 12) 4 0xF (Nat.lor (s.rdN (key + 12) 4) (barrierBits f.status.toNat f.ovf f.inv)) false, .data 0 0))
              (fun x hx => by simp [hx])
            split <;> rename_i heq <;> rw [heq] at h3 <;> first | exact h3 | exact State.postErr_canon _ _ _ _ _ h3
      · simp [hs]

/-! ## Dispatcher -/

@[simp] theorem State.answerTo_canon (s : State) (die : Nat) (ep : Nat) (lid : BitVec 32) (kind : Nat) (check : Nat) (detail : Nat) (hs : s.Canon) :
    (State.answerTo s die ep lid kind check detail).Canon := by
  unfold State.answerTo; (try dsimp only); (repeat' split) <;> simp +contextual (maxDischargeDepth := 40) [*, Store.wf_filter, Store.wf_mapAll, Store.wf_put, Store.wf_union, Memory.wf_write]

@[simp] theorem State.logLaunch_canon (s : State) (check : Nat) (ctx : BitVec 6) (image : Nat) (hs : s.Canon) :
    (State.logLaunch s check ctx image).Canon := by
  unfold State.logLaunch; (try dsimp only); (repeat' split) <;> simp +contextual (maxDischargeDepth := 40) [*, Store.wf_filter, Store.wf_mapAll, Store.wf_put, Store.wf_union, Memory.wf_write]

@[simp] theorem State.unqueue_canon (s : State) (x : Launch) (hs : s.Canon) :
    (State.unqueue s x).Canon := by
  simp [State.unqueue, *]

@[simp] theorem State.endLaunch_canon (s : State) (lid : BitVec 32) (hs : s.Canon) :
    (State.endLaunch s lid).Canon := by
  simp [State.endLaunch, *]

@[simp] theorem State.setRunning_canon (s : State) (x : Launch) (preempt : Bool) (hs : s.Canon) :
    (State.setRunning s x preempt).Canon := by
  simp [State.setRunning, *]

@[simp] theorem State.placeData_canon (s : State) (t : Nat) (bytes : List Byte) (hs : s.Canon) :
    (State.placeData s t bytes).Canon := by
  unfold State.placeData; (repeat' split) <;> simp +contextual (maxDischargeDepth := 40) [*]

@[simp] theorem State.startTask_canon (s : State) (x : Launch) (t : Nat) (i : Nat) (n : Nat) (w : Nat) (pos : Nat) (part : Bool) (hs : s.Canon) :
    (State.startTask s x t i n w pos part).Canon := by
  simp [State.startTask, *]

@[simp] theorem State.dispatchLaunch_canon (s : State) (x : Launch) (hs : s.Canon) :
    (State.dispatchLaunch s x).Canon := by
  unfold State.dispatchLaunch; (repeat' split) <;> simp +contextual (maxDischargeDepth := 40) [*]

@[simp] theorem State.dispatchPart_canon (s : State) (x : Launch) (hs : s.Canon) :
    (State.dispatchPart s x).Canon := by
  unfold State.dispatchPart
  dsimp only
  refine foldl_canon _ _ (fun s x h => ?_) (by simp +contextual (maxDischargeDepth := 40) [*, Store.wf_filter, Store.wf_mapAll, Store.wf_put, Store.wf_union, Memory.wf_write])
  split
  · simp +contextual (maxDischargeDepth := 40) [*, Store.wf_filter, Store.wf_mapAll, Store.wf_put, Store.wf_union, Memory.wf_write]
  · exact h

@[simp] theorem State.dispatchLower_canon (s : State) (die : Nat) (wait0 : Bool) (y0 : List (BitVec 2)) (hs : s.Canon) :
    (State.dispatchLower s die wait0 y0).Canon := by
  fun_induction State.dispatchLower s die wait0 y0 <;> simp_all

@[simp] theorem State.revokeTile_canon (s : State) (t : Nat) (hs : s.Canon) :
    (State.revokeTile s t).Canon := by
  refine foldl_canon _ _ (fun s r h => ?_) hs
  split <;> simp [h]

@[simp] theorem State.retireFrom_canon (s : State) (x : Launch) (t : Nat) (hs : s.Canon) :
    (State.retireFrom s x t).Canon := by
  unfold State.retireFrom; dsimp only; (repeat' split) <;> simp [*]

/-! ## Vector -/

@[simp] theorem State.wVm_canon (s : State) (d : BitVec 4) (x : Vec) (m : BitVec 64) (tag : BitVec 4) (hs : s.Canon) :
    (State.wVm s d x m tag).Canon := by
  simp [State.wVm, *]

@[simp] theorem State.elemWise_canon (s : State) (d : BitVec 4) (g : BitVec 3) (e : Nat) (tag : BitVec 4) (md : Nat) (f : Nat → Nat × Flags) (hs : s.Canon) :
    (State.elemWise s d g e tag md f).Canon := by
  unfold State.elemWise; (repeat' split) <;> simp +contextual (maxDischargeDepth := 40) [*]

@[simp] theorem State.byteWise_canon (s : State) (d : BitVec 4) (a : BitVec 4) (g : BitVec 3) (x : Vec) (hs : s.Canon) :
    (State.byteWise s d a g x).Canon := by
  simp [State.byteWise, *]

@[simp] theorem State.arith_canon (s : State) (d : BitVec 4) (a : BitVec 4) (b : BitVec 4) (g : BitVec 3) (f : BitVec 4) (r : BitVec 3) (p : BitVec 4) (ff : FF → Nat → Nat → Nat → Nat → Nat × Flags) (fi : Int → Int → Int) (hs : s.Canon) :
    (State.arith s d a b g f r p ff fi).Canon := by
  simp [State.arith, *]

@[simp] theorem State.fused_canon (s : State) (d : BitVec 4) (a : BitVec 4) (b : BitVec 4) (g : BitVec 3) (f : BitVec 4) (r : BitVec 3) (op : FF → Nat → Nat → Nat → Nat → Nat → Nat × Flags) (hs : s.Canon) :
    (State.fused s d a b g f r op).Canon := by
  simp [State.fused, *]

@[simp] theorem State.minMax_canon (s : State) (mx : Bool) (d : BitVec 4) (a : BitVec 4) (b : BitVec 4) (g : BitVec 3) (f : BitVec 4) (p : BitVec 7) (hs : s.Canon) :
    (State.minMax s mx d a b g f p).Canon := by
  simp [State.minMax, *]

@[simp] theorem State.signOp_canon (s : State) (d : BitVec 4) (a : BitVec 4) (g : BitVec 3) (f : BitVec 4) (p : BitVec 7) (ff : FF → Nat → Nat) (fi : Int → Int) (hs : s.Canon) :
    (State.signOp s d a g f p ff fi).Canon := by
  simp [State.signOp, *]

@[simp] theorem State.wPm_canon (s : State) (d : BitVec 3) (x : BitVec 64) (m : BitVec 64) (hs : s.Canon) :
    (State.wPm s d x m).Canon := by
  simp [State.wPm, *]

@[simp] theorem State.shift_canon (s : State) (d : BitVec 4) (a : BitVec 4) (b : BitVec 4) (g : BitVec 3) (f : BitVec 4) (p : BitVec 7) (op : Nat → Nat → Nat → Nat) (hs : s.Canon) :
    (State.shift s d a b g f p op).Canon := by
  simp [State.shift, *]

@[simp] theorem State.histAdd_canon (s : State) (bins : List (Nat × Nat)) (hs : s.Canon) :
    (State.histAdd s bins).Canon := by
  unfold State.histAdd; dsimp only; (repeat' split) <;> simp +contextual (maxDischargeDepth := 40) [*]

/-! ## Matrix -/

@[simp] theorem State.putX_canon (s : State) (key : Nat) (x : Nat) (hs : s.Canon) :
    (State.putX s key x).Canon := by
  unfold State.putX; (try dsimp only); (repeat' split) <;> (simp +contextual (maxDischargeDepth := 40) [*, Store.wf_filter, Store.wf_mapAll, Store.wf_put, Store.wf_union, Memory.wf_write]; done)

@[simp] theorem State.addAnchored_canon (s : State) (key : Nat) (anchor : Int) (c : Int) (hs : s.Canon) :
    (State.addAnchored s key anchor c).1.Canon := by
  simp [State.addAnchored, *]

@[simp] theorem State.addFast_canon (s : State) (key : Nat) (c : Ctr) (hs : s.Canon) :
    (State.addFast s key c).1.Canon := by
  simp [State.addFast, *]

@[simp] theorem State.streamPage_canon (s : State) (t : Nat) (y : Stream) (va : Nat) (p : Nat) (hs : s.Canon) :
    (State.streamPage s t y va p).1.Canon := by
  unfold State.streamPage; (repeat' split) <;> simp [*]

@[simp] theorem State.streamRead_canon (s : State) (t : Nat) (y : Stream) (va : Nat) (n : Nat) (hint : Option (BitVec 2 × BitVec 4)) (hs : s.Canon) :
    (State.streamRead s t y va n hint).1.Canon := by
  unfold State.streamRead
  split
  · exact State.engMem_canon _ _ _ _ _ _ _ _ hs (State.engReadAt_canon _ _ _ _ _ _ _ hs)
  · exact hs

@[simp] theorem State.streamExps_canon (s : State) (t : Nat) (y0 : List (Nat × Nat)) (y1 : Stream) (hs : s.Canon) :
    (State.streamExps s t y0 y1).1.Canon := by
  induction y0 generalizing s y1 with
  | nil => simpa [State.streamExps]
  | cons x l ih =>
    unfold State.streamExps
    split
    · exact ih _ _ hs
    · have h1 := State.streamPage_canon s t y1 x.1 (max y1.B x.2) hs
      split
      · rename_i heq; rw [heq] at h1
        have h2 := State.streamRead_canon _ t ‹Stream› x.1 1 none h1
        split <;> rename_i heq2 <;> rw [heq2] at h2 <;> first | exact ih _ _ h2 | exact h2
      · exact h1

@[simp] theorem State.issueSector_canon (s : State) (t : Nat) (y : Stream) (i : Nat) (hs : s.Canon) :
    (State.issueSector s t y i).1.Canon := by
  unfold State.issueSector
  dsimp only
  have h1 : (if i = 0 && y.straddles 0 then s.streamPage t y (y.B - 32) y.B else (s, y, .fin)).1.Canon := by
    split
    · exact State.streamPage_canon _ _ _ _ _ hs
    · exact hs
  split
  · rename_i heq; rw [heq] at h1
    have h2 := fun (a b : Nat) (y : Stream) => State.streamPage_canon _ t y a b h1
    split
    · rename_i heq2
      have h3 := congrArg (fun p => p.1.Canon) heq2; dsimp only at h3; have h3 := h3 ▸ h2 _ _ _
      exact State.streamExps_canon _ _ _ _ h3
    · exact h2 _ _ _
  · exact h1

@[simp] theorem State.issueTo_canon (s : State) (t : Nat) (i : Nat) (y0 : Nat) (y1 : Stream) (hs : s.Canon) :
    (State.issueTo s t i y0 y1).1.Canon := by
  induction y0 generalizing s y1 with
  | zero => simpa [State.issueTo]
  | succ n ih =>
    unfold State.issueTo
    split
    · exact hs
    · have h1 := State.issueSector_canon s t y1 y1.done hs
      split
      · rename_i heq; rw [heq] at h1; exact ih _ _ h1
      · exact h1

@[simp] theorem State.feed_canon (s : State) (y : Stream) (row : Nat) (j : Nat) (es : List (Nat × FVal)) (hs : s.Canon) :
    (State.feed s y row j es).1.Canon := by
  unfold State.feed; dsimp only; (repeat' split) <;> simp [*]

@[simp] theorem State.contribute_canon (s : State) (y : Stream) (i : Nat) (hs : s.Canon) :
    (State.contribute s y i).1.Canon := by
  unfold State.contribute; (repeat' split) <;> simp +contextual (maxDischargeDepth := 40) [*]

@[simp] theorem State.tryCount_canon (s : State) (y : Stream) (i : Nat) (hs : s.Canon) :
    (State.tryCount s y i).1.Canon := by
  simp [State.tryCount, *]

@[simp] theorem State.endStream_canon (s : State) (t : Nat) (y : Stream) (hs : s.Canon) :
    (State.endStream s t y).Canon := by
  simp [State.endStream, *]

@[simp] theorem State.stopStream_canon (s : State) (t : Nat) (y : Stream) (st : Nat) (p : Nat) (hs : s.Canon) :
    (State.stopStream s t y st p).Canon := by
  simp [State.stopStream, *]

@[simp] theorem State.readSector_canon (s : State) (t : Nat) (y : Stream) (i : Nat) (hs : s.Canon) :
    (State.readSector s t y i).Canon := by
  unfold State.readSector
  dsimp only
  have h1 : (if i = 0 && y.straddles 0 then s.streamRead t y (y.B - 32) 32 (hintOf y.cmd.w 110) else (s, .data 0 0)).1.Canon := by
    split
    · exact State.streamRead_canon _ _ _ _ _ _ hs
    · exact hs
  generalize (if i = 0 && y.straddles 0 then s.streamRead t y (y.B - 32) 32 (hintOf y.cmd.w 110) else (s, .data 0 0)) = q at *
  obtain ⟨s1, b⟩ := q
  have h2 := State.streamRead_canon s1 t y (y.at_ i) 32 (hintOf y.cmd.w 110) h1
  (repeat' split) <;> simp_all +contextual (maxDischargeDepth := 40)

/-! ## Translation -/

@[simp] theorem State.freeSlot_canon (s : State) (port : Nat) (slot : Nat) (hs : s.Canon) :
    (State.freeSlot s port slot).Canon := by
  simp [State.freeSlot, *]

@[simp] theorem State.wakeWaiter_canon (s : State) (vpn : Nat) (y0 : Waiter) (hs : s.Canon) :
    (State.wakeWaiter s vpn y0).Canon := by
  cases y0 <;> unfold State.wakeWaiter <;> (repeat' split) <;> (simp +contextual (maxDischargeDepth := 40) [*, Store.wf_filter, Store.wf_mapAll, Store.wf_put, Store.wf_union, Memory.wf_write]; done)

@[simp] theorem State.failWaiter_canon (s : State) (vpn : Nat) (reason : Nat) (y0 : Waiter) (hs : s.Canon) :
    (State.failWaiter s vpn reason y0).Canon := by
  cases y0 <;> unfold State.failWaiter <;> (repeat' split) <;> (simp +contextual (maxDischargeDepth := 40) [*, Store.wf_filter, Store.wf_mapAll, Store.wf_put, Store.wf_union, Memory.wf_write]; done)

@[simp] theorem State.seePage_canon (s : State) (vpn : Nat) (e : Option (BitVec 64 × Nat)) (y0 : Waiter) (hs : s.Canon) :
    (State.seePage s vpn e y0).Canon := by
  unfold State.seePage; (try dsimp only); (repeat' split) <;> simp +contextual (maxDischargeDepth := 40) [*, Store.wf_filter, Store.wf_mapAll, Store.wf_put, Store.wf_union, Memory.wf_write]

@[simp] theorem State.walkMem_canon (s : State) (ctx : BitVec 6) (vpn : Nat) (k : State → State) (hs : s.Canon) (hk : ∀ x0 : State, x0.Canon → (k x0).Canon) :
    (State.walkMem s ctx vpn k).Canon := by
  unfold State.walkMem; (try dsimp only); (repeat' split) <;> simp +contextual (maxDischargeDepth := 40) [*, Store.wf_filter, Store.wf_mapAll, Store.wf_put, Store.wf_union, Memory.wf_write]

@[simp] theorem State.faultStream_canon (s : State) (y0 : Waiter) (hs : s.Canon) :
    (State.faultStream s y0).Canon := by
  cases y0 <;> unfold State.faultStream <;> (repeat' split) <;> (simp +contextual (maxDischargeDepth := 40) [*, Store.wf_filter, Store.wf_mapAll, Store.wf_put, Store.wf_union, Memory.wf_write]; done)

@[simp] theorem State.failFault_canon (s : State) (port : Nat) (w : WalkSlot) (hs : s.Canon) :
    (State.failFault s port w).Canon := by
  unfold State.failFault; (repeat' split) <;> simp +contextual (maxDischargeDepth := 40) [*]

@[simp] theorem State.onPage_canon (s : State) (port : Nat) (off : Nat) (ok : BitVec 64 → Bool) (k : Req → Nat → BitVec 64 → State → State) (hs : s.Canon) (hk : ∀ x0 : Req, ∀ x1 : Nat, ∀ x2 : BitVec 64, ∀ x3 : State, x3.Canon → (k x0 x1 x2 x3).Canon) :
    (State.onPage s port off ok k).Canon := by
  unfold State.onPage; (try dsimp only); (repeat' split) <;> simp +contextual (maxDischargeDepth := 40) [*, Store.wf_filter, Store.wf_mapAll, Store.wf_put, Store.wf_union, Memory.wf_write]

@[simp] theorem State.readPage_canon (s : State) (port : Nat) (off : Nat) (hs : s.Canon) :
    (State.readPage s port off).Canon := by
  unfold State.readPage; (repeat' split) <;> simp [*]

@[simp] theorem State.dropTlb_canon (s : State) (ctx : Nat) (all : Bool) (vpn : Nat) (hs : s.Canon) :
    (State.dropTlb s ctx all vpn).Canon := by
  unfold State.dropTlb; (try dsimp only); (repeat' split) <;> (simp +contextual (maxDischargeDepth := 40) [*, Store.wf_filter, Store.wf_mapAll, Store.wf_put, Store.wf_union, Memory.wf_write]; done)

@[simp] theorem State.tinvWrite_canon (s : State) (port : Nat) (ok : BitVec 64 → Bool) (hs : s.Canon) :
    (State.tinvWrite s port ok).Canon := by
  unfold State.tinvWrite; (repeat' split) <;> simp +contextual (maxDischargeDepth := 40) [*]

@[simp] theorem State.clearStack_canon (s : State) (l : Nat) (hs : s.Canon) :
    (State.clearStack s l).Canon := by
  unfold State.clearStack; (try dsimp only); (repeat' split) <;> (simp +contextual (maxDischargeDepth := 40) [*, Store.wf_filter, Store.wf_mapAll, Store.wf_put, Store.wf_union, Memory.wf_write]; done)

/-! ## Collective -/

@[simp] theorem State.unitWrite_canon (s : State) (l : Nat) (va : Nat) (n : Nat) (y0 : List (List Byte)) (hs : s.Canon) :
    (State.unitWrite s l va n y0).Canon := by
  induction y0 generalizing s va with
  | nil => simpa [State.unitWrite]
  | cons x l ih => unfold State.unitWrite; dsimp only; (repeat' split) <;> first | exact hs | (apply ih; simp +contextual (maxDischargeDepth := 40) [*, Store.wf_filter, Store.wf_mapAll, Store.wf_put, Store.wf_union, Memory.wf_write]) | (simp +contextual (maxDischargeDepth := 40) [*, Store.wf_filter, Store.wf_mapAll, Store.wf_put, Store.wf_union, Memory.wf_write]; done)

@[simp] theorem State.unitLog_canon (s : State) (l : Nat) (e : BitVec 8 × Nat × Nat) (hs : s.Canon) :
    (State.unitLog s l e).Canon := by
  unfold State.unitLog; (try dsimp only); (repeat' split) <;> simp +contextual (maxDischargeDepth := 40) [*, Store.wf_filter, Store.wf_mapAll, Store.wf_put, Store.wf_union, Memory.wf_write]

@[simp] theorem State.unitFail_canon (s : State) (l : Nat) (r : Req) (e : BitVec 8 × Nat × Nat) (hs : s.Canon) :
    (State.unitFail s l r e).Canon := by
  unfold State.unitFail; (try dsimp only); (repeat' split) <;> simp +contextual (maxDischargeDepth := 40) [*, Store.wf_filter, Store.wf_mapAll, Store.wf_put, Store.wf_union, Memory.wf_write]

@[simp] theorem State.collSend_canon (s : State) (die : Nat) (c : Coll) (tree : List (BitVec 32)) (i : Nat) (data : CollData) (hs : s.Canon) :
    (State.collSend s die c tree i data).Canon := by
  unfold State.collSend; (try dsimp only); (repeat' split) <;> simp +contextual (maxDischargeDepth := 40) [*, Store.wf_filter, Store.wf_mapAll, Store.wf_put, Store.wf_union, Memory.wf_write]

@[simp] theorem State.collUp_canon (s : State) (die : Nat) (c : Coll) (hs : s.Canon) :
    (State.collUp s die c).Canon := by
  unfold State.collUp; (try dsimp only); (repeat' split) <;> simp +contextual (maxDischargeDepth := 40) [*, Store.wf_filter, Store.wf_mapAll, Store.wf_put, Store.wf_union, Memory.wf_write]

@[simp] theorem State.startColl_canon (s : State) (die : Nat) (w : List Nat) (tree : List (BitVec 32)) (hs : s.Canon) :
    (State.startColl s die w tree).Canon := by
  unfold State.startColl; (try dsimp only); (repeat' split) <;> simp +contextual (maxDischargeDepth := 40) [*, Store.wf_filter, Store.wf_mapAll, Store.wf_put, Store.wf_union, Memory.wf_write]

@[simp] theorem State.collDown_canon (s : State) (die : Nat) (c : Coll) (res : Option (List Byte)) (hs : s.Canon) :
    (State.collDown s die c res).Canon := by
  unfold State.collDown; (try dsimp only); (repeat' split) <;> simp +contextual (maxDischargeDepth := 40) [*, Store.wf_filter, Store.wf_mapAll, Store.wf_put, Store.wf_union, Memory.wf_write]

/-! ## ContextSave -/

@[simp] theorem State.writeArea_canon (s : State) (frames : List Nat) (header : Nat) (hs : s.Canon) :
    (State.writeArea s frames header).Canon := by
  unfold State.writeArea; (repeat' split) <;> simp +contextual (maxDischargeDepth := 40) [*]

@[simp] theorem State.saveTo_canon (s : State) (t : Nat) (frames : List Nat) (hs : s.Canon) :
    (State.saveTo s t frames).Canon := by
  unfold State.saveTo; (repeat' split) <;> simp [*]

@[simp] theorem State.logTile_canon (s : State) (t : Nat) (c : Nat) (hs : s.Canon) :
    (State.logTile s t c).Canon := by
  unfold State.logTile; (repeat' split) <;> simp +contextual (maxDischargeDepth := 40) [*]

@[simp] theorem State.restore_canon (s : State) (x : Save) (hs : s.Canon) :
    (State.restore s x).Canon := by
  unfold State.restore; (try dsimp only); (repeat' split) <;> (simp +contextual (maxDischargeDepth := 40) [*, Store.wf_filter, Store.wf_mapAll, Store.wf_put, Store.wf_union, Memory.wf_write]; done)

/-! ## Controller -/

@[simp] theorem State.takeFrames_canon (s : State) (die : Nat) (fs : List Nat) (hs : s.Canon) :
    (State.takeFrames s die fs).Canon := by
  unfold State.takeFrames; (try dsimp only); (repeat' split) <;> simp +contextual (maxDischargeDepth := 40) [*, Store.wf_filter, Store.wf_mapAll, Store.wf_put, Store.wf_union, Memory.wf_write]

@[simp] theorem State.allocate_canon (s : State) (die : Nat) (y0 : Nat) (hs : s.Canon) :
    (State.allocate s die y0).Canon := by
  induction y0 generalizing s with
  | zero => simpa [State.allocate]
  | succ n ih => unfold State.allocate; dsimp only; (repeat' split) <;> first | exact hs | (apply ih; simp +contextual (maxDischargeDepth := 40) [*, Store.wf_filter, Store.wf_mapAll, Store.wf_put, Store.wf_union, Memory.wf_write]) | (simp +contextual (maxDischargeDepth := 40) [*, Store.wf_filter, Store.wf_mapAll, Store.wf_put, Store.wf_union, Memory.wf_write]; done)

@[simp] theorem State.allocateLarge_canon (s : State) (die k : Nat) (y0 : Nat) (hs : s.Canon) :
    (State.allocateLarge s die k y0).Canon := by
  induction y0 generalizing s with
  | zero => exact hs
  | succ n ih => exact ih _ (State.takeFrames_canon _ _ _ hs)

@[simp] theorem State.allocatePages_canon (s : State) (die : Nat) (n : Nat) (large : Bool) (hs : s.Canon) :
    (State.allocatePages s die n large).Canon := by
  unfold State.allocatePages; (try dsimp only); (repeat' split) <;> simp +contextual (maxDischargeDepth := 40) [*, Store.wf_filter, Store.wf_mapAll, Store.wf_put, Store.wf_union, Memory.wf_write]

@[simp] theorem State.startCopy_canon (s : State) (port : Nat) (page : Nat) (grp : Nat) (pte : Nat) (frame : Nat) (at_ : Nat) (hs : s.Canon) :
    (State.startCopy s port page grp pte frame at_).Canon := by
  unfold State.startCopy; (repeat' split) <;> simp [*]

@[simp] theorem State.copyFrame_canon (s : State) (a : Nat) (b : Nat) (hs : s.Canon) :
    (State.copyFrame s a b).Canon := by
  unfold State.copyFrame; (try dsimp only); (repeat' split) <;> (simp +contextual (maxDischargeDepth := 40) [*, Store.wf_filter, Store.wf_mapAll, Store.wf_put, Store.wf_union, Memory.wf_write]; done)

@[simp] theorem State.passFrame_canon (s : State) (a : Nat) (b : Nat) (hs : s.Canon) :
    (State.passFrame s a b).Canon := by
  unfold State.passFrame; (try dsimp only); (repeat' split) <;> (simp +contextual (maxDischargeDepth := 40) [*, Store.wf_filter, Store.wf_mapAll, Store.wf_put, Store.wf_union, Memory.wf_write]; done)

@[simp] theorem State.releaseHeld_canon (s : State) (home : Nat) (c : FrameCopy) (hs : s.Canon) :
    (State.releaseHeld s home c).Canon := by
  unfold State.releaseHeld; (try dsimp only); (repeat' split) <;> simp +contextual (maxDischargeDepth := 40) [*, Store.wf_filter, Store.wf_mapAll, Store.wf_put, Store.wf_union, Memory.wf_write]

@[simp] theorem State.readInlet_canon (s : State) (inlet : Nat) (hs : s.Canon) :
    (State.readInlet s inlet).Canon := by
  unfold State.readInlet; (try dsimp only); (repeat' split) <;> simp +contextual (maxDischargeDepth := 40) [*, Store.wf_filter, Store.wf_mapAll, Store.wf_put, Store.wf_union, Memory.wf_write]

/-! ## Conversion -/

@[simp] theorem State.readExps_canon (s : State) (t : Nat) (c : Cmd) (y0 : List Nat) (hs : s.Canon) :
    (State.readExps s t c y0).1.Canon := by
  induction y0 generalizing s with
  | nil => simpa [State.readExps]
  | cons a l ih =>
    unfold State.readExps
    have h1 := State.engRead_canon s t c a 1 hs
    split <;> rename_i heq <;> rw [heq] at h1
    · exact ih _ h1
    all_goals exact h1

@[simp] theorem State.putBitsAt_canon (s : State) (key : Nat) (b : Nat) (w : Nat) (x : Nat) (hs : s.Canon) :
    (State.putBitsAt s key b w x).Canon := by
  simp [State.putBitsAt, *]

@[simp] theorem State.cvtBlock_canon (s : State) (t : Nat) (c : Cmd) (D : BitVec 256) (i : Nat) (b : Nat) (xs : List (Option SrcElem)) (z : ConvEnd) (hs : s.Canon) :
    (State.cvtBlock s t c D i b xs z).1.Canon := by
  unfold State.cvtBlock; (repeat' split) <;> simp +contextual (maxDischargeDepth := 40) [*]

@[simp] theorem State.cvtRows_canon (s : State) (t : Nat) (c : Cmd) (D : BitVec 256) (z : ConvEnd) (y0 : List (Nat × List (Option SrcElem))) (hs : s.Canon) :
    (State.cvtRows s t c D z y0).1.Canon := by
  induction y0 generalizing s z with
  | nil => simpa [State.cvtRows]
  | cons x l ih =>
    obtain ⟨i, xs⟩ := x
    unfold State.cvtRows
    dsimp only
    apply ih
    split
    · refine foldl_canon1 _ _ (fun s b x h => ?_) hs
      exact State.cvtBlock_canon _ _ _ _ _ _ _ _ h
    · refine foldl_canon1 _ _ (fun s b x h => ?_) hs
      split
      · exact h
      · exact State.homeStore_canon _ _ _ _ _ _ _ h

@[simp] theorem State.askPlane_canon (s : State) (c : Cmd) (write : Bool) (l : List (Nat × BitVec 64)) (hs : s.Canon) :
    (State.askPlane s c write l).Canon := by
  unfold State.askPlane; (try dsimp only); (repeat' split) <;> simp +contextual (maxDischargeDepth := 40) [*, Store.wf_filter, Store.wf_mapAll, Store.wf_put, Store.wf_union, Memory.wf_write]

@[simp] theorem State.cvtGo_canon (s : State) (t : Nat) (y : Stream) (hs : s.Canon) :
    (State.cvtGo s t y).Canon := by
  unfold State.cvtGo
  dsimp only
  have h1 := State.readExps_canon s t y.cmd (expAddrs y.sdx) hs
  generalize s.readExps t y.cmd (expAddrs y.sdx) = q at *
  obtain ⟨s1, b, e⟩ := q
  (repeat' split) <;> simp_all +contextual (maxDischargeDepth := 40)

/-! ## Copy -/

@[simp] theorem State.setToggle_canon (s : State) (t : Nat) (i : Nat) (d : BitVec 256) (hs : s.Canon) :
    (State.setToggle s t i d).Canon := by
  simp [State.setToggle, *]

@[simp] theorem State.shapedGo_canon (s : State) (t : Nat) (y : Stream) (hs : s.Canon) :
    (State.shapedGo s t y).Canon := by
  unfold State.shapedGo; (repeat' split) <;> simp +contextual (maxDischargeDepth := 40) [*]

@[simp] theorem State.shapedStart_canon (s : State) (t : Nat) (c : Cmd) (hs : s.Canon) :
    (State.shapedStart s t c).Canon := by
  simp [State.shapedStart, *]

@[simp] theorem State.cpyGo_canon (s : State) (t : Nat) (y : Stream) (hs : s.Canon) :
    (State.cpyGo s t y).Canon := by
  simp [State.cpyGo, *]

@[simp] theorem State.fillGo_canon (s : State) (t : Nat) (y : Stream) (hs : s.Canon) :
    (State.fillGo s t y).Canon := by
  simp [State.fillGo, *]

@[simp] theorem State.tableGo_canon (s : State) (t : Nat) (y : Stream) (hs : s.Canon) :
    (State.tableGo s t y).Canon := by
  simp [State.tableGo, *]

@[simp] theorem State.tableStart_canon (s : State) (t : Nat) (c : Cmd) (hs : s.Canon) :
    (State.tableStart s t c).Canon := by
  unfold State.tableStart; dsimp only; (repeat' split) <;> simp [*]

@[simp] theorem State.xfrRows_canon (s : State) (t : Nat) (y : Stream) (y0 : List Nat) (hs : s.Canon) :
    (State.xfrRows s t y y0).Canon := by
  induction y0 generalizing s y with
  | nil => unfold State.xfrRows; simp +contextual (maxDischargeDepth := 40) [*, Store.wf_filter, Store.wf_mapAll, Store.wf_put, Store.wf_union, Memory.wf_write]
  | cons x l ih =>
    have h1 : ∀ (s' : State) (f : Nat → Bool) (g : Nat → Nat), s'.Canon → ((List.range (rowBytes y.sdx)).foldl (fun s' i => if f i then s' else s'.homeStore none (y.cmd.w.f 191 144 + x * y.cmd.w.f 143 120 + i) 1 1 (g i) false) s').Canon := by
      intro s' f g h
      exact foldl_canon _ _ (fun s i h => by (repeat' split) <;> simp +contextual (maxDischargeDepth := 40) [*, Store.wf_filter, Store.wf_mapAll, Store.wf_put, Store.wf_union, Memory.wf_write]) h
    have h3 : ∀ (t : State) u, t.Canon → State.Canon { t with upsets := u } := fun t u hs => ⟨hs.mem, hs.ws, hs.tags, hs.guard, hs.threads, hs.cores, hs.tiles, hs.ports, hs.dies, hs.links, hs.wear, hs.map, hs.bindings⟩
    unfold State.xfrRows
    dsimp only
    split
    · simp +contextual (maxDischargeDepth := 40) [*, Store.wf_filter, Store.wf_mapAll, Store.wf_put, Store.wf_union, Memory.wf_write]
    · split
      · simp +contextual (maxDischargeDepth := 40) [*, Store.wf_filter, Store.wf_mapAll, Store.wf_put, Store.wf_union, Memory.wf_write]
      · apply ih
        split
        · exact State.logUnc_canon _ _ _ (h3 _ _ (h1 _ _ _ hs))
        · exact h3 _ _ (h1 _ _ _ hs)

@[simp] theorem State.xfrGo_canon (s : State) (t : Nat) (y : Stream) (hs : s.Canon) :
    (State.xfrGo s t y).Canon := by
  simp [State.xfrGo, *]

/-! ## Directional -/

@[simp] theorem State.wDir_canon (s : State) (k : BitVec 3) (g : BitVec 2) (a : Dir) (hs : s.Canon) :
    (State.wDir s k g a).Canon := by
  simp [State.wDir, *]

@[simp] theorem State.dirTags2_canon (s : State) (a : BitVec 3) (b : BitVec 3) (g : BitVec 2) (k : State) (hs : s.Canon) (hk : k.Canon) :
    (State.dirTags2 s a b g k).Canon := by
  simp [State.dirTags2, *]

@[simp] theorem State.pendDir_canon (s : State) (d : BitVec 3) (g : BitVec 2) (x : Dir × Flags) (hs : s.Canon) :
    (State.pendDir s d g x).Canon := by
  simp [State.pendDir, *]

@[simp] theorem State.dirSum_canon (s : State) (d : BitVec 3) (a : BitVec 3) (b : BitVec 3) (g : BitVec 2) (wa : Int) (wb : Int) (hs : s.Canon) :
    (State.dirSum s d a b g wa wb).Canon := by
  simp [State.dirSum, *]

@[simp] theorem State.wNorm_canon (s : State) (k : BitVec 3) (n : Int) (hs : s.Canon) :
    (State.wNorm s k n).Canon := by
  simp [State.wNorm, *]

/-! ## Fabric -/

@[simp] theorem State.servePart_canon (s : State) (r : Req) (j : Nat) (hs : s.Canon) :
    (State.servePart s r j).Canon := by
  have h1 := State.redArrive_canon s r.rid hs
  have h2 := State.barrierApply_canon s [r.rid] hs
  have h3 := State.commitArrive_canon s r.rid hs
  have h4 := State.arrive_canon s r.rid j hs
  unfold State.servePart
  generalize r.kind = k
  cases k <;> assumption

@[simp] theorem State.contend_canon (s : State) (bank : Bool) (l : List (Nat × Nat)) (hs : s.Canon) :
    (State.contend s bank l).Canon := by
  unfold State.contend; (try dsimp only); (repeat' split) <;> simp +contextual (maxDischargeDepth := 40) [*, Store.wf_filter, Store.wf_mapAll, Store.wf_put, Store.wf_union, Memory.wf_write]

@[simp] theorem State.unroutable_canon (s : State) (r : Req) (hs : s.Canon) :
    (State.unroutable s r).Canon := by
  unfold State.unroutable; (try dsimp only); (repeat' split) <;> simp +contextual (maxDischargeDepth := 40) [*, Store.wf_filter, Store.wf_mapAll, Store.wf_put, Store.wf_union, Memory.wf_write]

@[simp] theorem State.sendReq_canon (s : State) (r : Req) (hs : s.Canon) :
    (State.sendReq s r).Canon := by
  unfold State.sendReq; (try dsimp only); (repeat' split) <;> simp +contextual (maxDischargeDepth := 40) [*, Store.wf_filter, Store.wf_mapAll, Store.wf_put, Store.wf_union, Memory.wf_write]

@[simp] theorem State.dropPacket_canon (s : State) (id : Nat) (hs : s.Canon) :
    (State.dropPacket s id).Canon := by
  unfold State.dropPacket; (try dsimp only); (repeat' split) <;> simp +contextual (maxDischargeDepth := 40) [*, Store.wf_filter, Store.wf_mapAll, Store.wf_put, Store.wf_union, Memory.wf_write]

@[simp] theorem State.noPath_canon (s : State) (p : Packet) (hs : s.Canon) :
    (State.noPath s p).Canon := by
  unfold State.noPath; (try dsimp only); (repeat' split) <;> simp +contextual (maxDischargeDepth := 40) [*, Store.wf_filter, Store.wf_mapAll, Store.wf_put, Store.wf_union, Memory.wf_write]

@[simp] theorem State.enterMesh_canon (s : State) (die : Nat) (via : Nat) (at_ : Nat) (p : Packet) (hs : s.Canon) :
    (State.enterMesh s die via at_ p).Canon := by
  unfold State.enterMesh; (try dsimp only); (repeat' split) <;> simp +contextual (maxDischargeDepth := 40) [*, Store.wf_filter, Store.wf_mapAll, Store.wf_put, Store.wf_union, Memory.wf_write]

@[simp] theorem State.launchPackets_canon (s : State) (die : Nat) (hs : s.Canon) :
    (State.launchPackets s die).Canon := by
  unfold State.launchPackets; (try dsimp only); (repeat' split) <;> simp +contextual (maxDischargeDepth := 40) [*, Store.wf_filter, Store.wf_mapAll, Store.wf_put, Store.wf_union, Memory.wf_write]

@[simp] theorem State.gather_canon (s : State) (die : Nat) (hs : s.Canon) :
    (State.gather s die).Canon := by
  unfold State.gather
  refine foldl_canon _ _ (fun s a h => ?_) hs
  dsimp only
  split <;> simp [h]

@[simp] theorem State.sendRefusals_canon (s : State) (die : Nat) (hs : s.Canon) :
    (State.sendRefusals s die).Canon := by
  unfold State.sendRefusals
  refine foldl_canon _ _ (fun s x h => ?_) (State.modDie_canon _ _ hs)
  split <;> simp [h]

@[simp] theorem State.deliver_canon (s : State) (p : Packet) (hs : s.Canon) :
    (State.deliver s p).Canon := by
  unfold State.deliver; (try dsimp only); (repeat' split) <;> simp +contextual (maxDischargeDepth := 40) [*, Store.wf_filter, Store.wf_mapAll, Store.wf_put, Store.wf_union, Memory.wf_write]

@[simp] theorem State.number_canon (s : State) (k : Nat) (p : Packet) (hs : s.Canon) :
    (State.number s k p).1.Canon := by
  unfold State.number; (try dsimp only); (repeat' split) <;> simp +contextual (maxDischargeDepth := 40) [*, Store.wf_filter, Store.wf_mapAll, Store.wf_put, Store.wf_union, Memory.wf_write]

@[simp] theorem State.passOn_canon (s : State) (k : Nat) (p : Packet) (hs : s.Canon) :
    (State.passOn s k p).Canon := by
  unfold State.passOn; (try dsimp only); (repeat' split) <;> simp +contextual (maxDischargeDepth := 40) [*, Store.wf_filter, Store.wf_mapAll, Store.wf_put, Store.wf_union, Memory.wf_write]

@[simp] theorem State.sendOn_canon (s : State) (k : Nat) (hs : s.Canon) :
    (State.sendOn s k).Canon := by
  unfold State.sendOn; (try dsimp only); (repeat' split) <;> simp +contextual (maxDischargeDepth := 40) [*, Store.wf_filter, Store.wf_mapAll, Store.wf_put, Store.wf_union, Memory.wf_write]

@[simp] theorem State.peerPackets_canon (s : State) (k : Nat) (hs : s.Canon) :
    (State.peerPackets s k).Canon := by
  unfold State.peerPackets; (try dsimp only); (repeat' split) <;> simp +contextual (maxDischargeDepth := 40) [*, Store.wf_filter, Store.wf_mapAll, Store.wf_put, Store.wf_union, Memory.wf_write]

@[simp] theorem State.peerSends_canon (s : State) (die : Nat) (ep : Nat) (m : PeerMsg) (hs : s.Canon) :
    (State.peerSends s die ep m).Canon := by
  unfold State.peerSends; (try dsimp only); (repeat' split) <;> simp +contextual (maxDischargeDepth := 40) [*, Store.wf_filter, Store.wf_mapAll, Store.wf_put, Store.wf_union, Memory.wf_write]

@[simp] theorem State.whole_canon (s : State) (k : Nat) (id : Nat) (hs : s.Canon) :
    (State.whole s k id).Canon := by
  unfold State.whole; (try dsimp only); (repeat' split) <;> simp +contextual (maxDischargeDepth := 40) [*, Store.wf_filter, Store.wf_mapAll, Store.wf_put, Store.wf_union, Memory.wf_write]

@[simp] theorem State.logLink_canon (s : State) (link : Nat) (kind : Nat) (detail : Nat) (hs : s.Canon) :
    (State.logLink s link kind detail).Canon := by
  simp [State.logLink, *]

@[simp] theorem State.reroute_canon (s : State) (k : Nat) (p : Packet) (hs : s.Canon) :
    (State.reroute s k p).Canon := by
  unfold State.reroute; (try dsimp only); (repeat' split) <;> simp +contextual (maxDischargeDepth := 40) [*, Store.wf_filter, Store.wf_mapAll, Store.wf_put, Store.wf_union, Memory.wf_write]

@[simp] theorem State.moveTraffic_canon (s : State) (link : Nat) (hs : s.Canon) :
    (State.moveTraffic s link).Canon := by
  unfold State.moveTraffic; (try dsimp only); (repeat' split) <;> simp +contextual (maxDischargeDepth := 40) [*, Store.wf_filter, Store.wf_mapAll, Store.wf_put, Store.wf_union, Memory.wf_write]

@[simp] theorem State.linkDown_canon (s : State) (link : Nat) (hs : s.Canon) :
    (State.linkDown s link).Canon := by
  unfold State.linkDown; (try dsimp only); (repeat' split) <;> simp +contextual (maxDischargeDepth := 40) [*, Store.wf_filter, Store.wf_mapAll, Store.wf_put, Store.wf_union, Memory.wf_write]

/-! ## Recovery -/

@[simp] theorem State.landResult_canon (s : State) (th : Nat) (seq : Nat) (v : BitVec 64) (hs : s.Canon) :
    (State.landResult s th seq v).Canon := by
  simp [State.landResult, *]

@[simp] theorem State.refuseParked_canon (s : State) (t : Nat) (hs : s.Canon) :
    (State.refuseParked s t).Canon := foldl_canon _ _ (fun _ _ h => State.drainReq_canon _ _ h) hs

@[simp] theorem State.startSuper_canon (s : State) (l : Nat) (frozen : Bool) (hs : s.Canon) :
    (State.startSuper s l frozen).Canon := by
  simp [State.startSuper, *]

@[simp] theorem State.dawnHold_canon (s : State) (code : Nat) (hs : s.Canon) :
    (State.dawnHold s code).Canon := by
  simp [State.dawnHold, *]

@[simp] theorem State.dawnPlace_canon (s : State) (hs : s.Canon) :
    (State.dawnPlace s).Canon := by
  unfold State.dawnPlace; (repeat' split) <;> simp +contextual (maxDischargeDepth := 40) [*]

/-! ## SpecialFn -/

@[simp] theorem State.special_canon (s : State) (d : BitVec 4) (srcs : List (BitVec 4)) (g : BitVec 3) (f : BitVec 4) (r : BitVec 3) (fn : Nat → Exact) (hs : s.Canon) :
    (State.special s d srcs g f r fn).Canon := by
  unfold State.special; (repeat' split) <;> simp +contextual (maxDischargeDepth := 40) [*]

/-! ## Issue -/

@[simp] theorem State.exitAct_canon (s : State) (th : Nat) (src : Src) (hs : s.Canon) :
    (State.exitAct s th src).Canon := by
  unfold State.exitAct; (try dsimp only); (repeat' split) <;> simp +contextual (maxDischargeDepth := 40) [*, Store.wf_filter, Store.wf_mapAll, Store.wf_put, Store.wf_union, Memory.wf_write]

@[simp] theorem State.migrSend_canon (s : State) (th : Nat) (va : BitVec 64) (src : Src) (hs : s.Canon) :
    (State.migrSend s th va src).Canon := by
  unfold State.migrSend; dsimp only; (repeat' split) <;> simp +contextual (maxDischargeDepth := 40) [*]

@[simp] theorem State.wake_canon (s : State) (th : Nat) (hs : s.Canon) :
    (State.wake s th).Canon := by
  unfold State.wake; dsimp only; (repeat' split) <;> simp [*]

@[simp] theorem State.freezeTurn_canon (s : State) (l : Nat) (p : Nat) (hs : s.Canon) :
    (State.freezeTurn s l p).Canon := by
  unfold State.freezeTurn; (try dsimp only); (repeat' split) <;> simp +contextual (maxDischargeDepth := 40) [*, Store.wf_filter, Store.wf_mapAll, Store.wf_put, Store.wf_union, Memory.wf_write]

@[simp] theorem State.replayTurn_canon (s : State) (l : Nat) (p : Nat) (hs : s.Canon) :
    (State.replayTurn s l p).Canon := by
  unfold State.replayTurn; (try dsimp only); (repeat' split) <;> simp +contextual (maxDischargeDepth := 40) [*, Store.wf_filter, Store.wf_mapAll, Store.wf_put, Store.wf_union, Memory.wf_write]

end Sys2Proof.Machine
end

