-- ==== Sys2Proof/Laws/PerInstr.lean ====
section
/-! SUPPORT. Statements made per instruction. RoundTrip: the word of a well-formed instruction decodes to it (R190, R191,
R193, R201); a row that is no word has none. -/

namespace Sys2Proof.Laws

set_option Elab.async false

/-- The word of a well-formed instruction decodes to it, in its slot. -/
def RoundTrip.Statement (i : Instr) : Prop :=
  match slotOf i with
  | .a => WellFormed i = true → decodeA (encode i) = .ok i
  | .b => WellFormed i = true → decodeB (encode i) = .ok i
  | .logit => WellFormed i = true → decodeL (encode i) = .ok i
  | .none => encode i = 0

/-- A word passes the checks of the instruction that it encodes. -/
theorem checkWord_encode (i : Instr) (h : WellFormed i = true) : checkWord (encode i) i = .ok i := by
  simp only [WellFormed, Bool.and_eq_true] at h
  obtain ⟨⟨⟨h1, h2⟩, h3⟩, h4⟩ := h
  simp [checkWord, h1, h2, h3, h4]

/-- The fields of a word, each at its low bit. -/
def fieldsOf : List Nat → List (Nat × Nat) → List (Nat × Nat)
  | v :: vs, x :: lay => (v, x.1) :: fieldsOf vs lay
  | _, _ => []

/-- Bits a to a + n − 1 and b to b + m − 1 have none in common. -/
def apart (a n b m : Nat) : Bool := decide (a + n ≤ b) || decide (b + m ≤ a)

/-- Fields at these low bits, of these widths, have no bit in common, and the fixed bits are zero there. -/
def layoutOk (fixed : Nat) : List (Nat × Nat) → Bool
  | [] => true
  | x :: lay => fld fixed x.1 x.2 == 0 && lay.all (fun y => apart x.1 x.2 y.1 y.2) && layoutOk fixed lay

/-- Each value fits its field. -/
def Fits : List Nat → List (Nat × Nat) → Prop
  | v :: vs, x :: lay => v < 2 ^ x.2 ∧ Fits vs lay
  | [], [] => True
  | _, _ => False

/-- A sum of a field and a rest that is zero there: the rest's other bits. -/
theorem fld_add_other {v lo wd r a n : Nat} (hv : v < 2 ^ wd) (hr : fld r lo wd = 0) (h : apart a n lo wd = true) :
    fld (v * 2 ^ lo + r) a n = fld r a n := by
  have hr1 : r / 2 ^ lo = 2 ^ wd * (r / 2 ^ lo / 2 ^ wd) := by
    have := Nat.div_add_mod (r / 2 ^ lo) (2 ^ wd)
    simp only [fld] at hr; omega
  have hs : (v * 2 ^ lo + r) / 2 ^ lo = v + r / 2 ^ lo := by
    rw [Nat.add_comm, Nat.add_mul_div_right _ _ (Nat.two_pow_pos lo), Nat.add_comm]
  simp only [apart, Bool.or_eq_true, decide_eq_true_eq] at h
  simp only [fld]
  rcases h with h | h
  · obtain ⟨k, rfl⟩ : ∃ k, lo = a + n + k := ⟨lo - (a + n), by omega⟩
    rw [show v * 2 ^ (a + n + k) + r = r + 2 ^ a * (2 ^ n * (2 ^ k * v)) by rw [Nat.pow_add, Nat.pow_add]; ac_rfl,
      Nat.add_mul_div_left _ _ (Nat.two_pow_pos a), Nat.add_mul_mod_self_left]
  · obtain ⟨k, rfl⟩ : ∃ k, a = lo + (wd + k) := ⟨a - (lo + wd), by omega⟩
    rw [Nat.pow_add 2 lo, ← Nat.div_div_eq_div_mul, ← Nat.div_div_eq_div_mul, hs, Nat.pow_add 2 wd, ← Nat.div_div_eq_div_mul,
      ← Nat.div_div_eq_div_mul (r / 2 ^ lo)]
    have : (v + r / 2 ^ lo) / 2 ^ wd = r / 2 ^ lo / 2 ^ wd := by
      rw [hr1, Nat.add_mul_div_left _ _ (Nat.two_pow_pos wd), Nat.div_eq_of_lt hv, Nat.zero_add, Nat.mul_div_cancel_left _ (Nat.two_pow_pos wd)]
    rw [this]

/-- A sum of a field and a rest that is zero there: the field. -/
theorem fld_add_self {v lo wd r : Nat} (hv : v < 2 ^ wd) (hr : fld r lo wd = 0) : fld (v * 2 ^ lo + r) lo wd = v := by
  simp only [fld] at hr ⊢
  rw [Nat.add_comm, Nat.add_mul_div_right _ _ (Nat.two_pow_pos lo), Nat.add_mod, hr, Nat.zero_add, Nat.mod_mod, Nat.mod_eq_of_lt hv]

/-- Bits that no field holds are the fixed ones. -/
theorem fld_place {fixed : Nat} : ∀ {vs : List Nat} {lay : List (Nat × Nat)}, layoutOk fixed lay = true → Fits vs lay →
    ∀ {a n : Nat}, (lay.all fun y => apart a n y.1 y.2) = true → fld (place fixed (fieldsOf vs lay)) a n = fld fixed a n
  | [], [], _, _, _, _, _ => rfl
  | _ :: vs, x :: lay, ok, ⟨hv, hf⟩, a, n, h => by
    simp only [layoutOk, Bool.and_eq_true, List.all_cons, beq_iff_eq] at ok h
    simp only [fieldsOf, place]
    rw [fld_add_other hv ((fld_place ok.2 hf ok.1.2).trans ok.1.1) h.1]
    exact fld_place ok.2 hf h.2

/-- Each field holds its value. -/
theorem fld_field {fixed : Nat} : ∀ {vs : List Nat} {lay : List (Nat × Nat)}, layoutOk fixed lay = true → Fits vs lay →
    ∀ i, i < lay.length → fld (place fixed (fieldsOf vs lay)) (lay.getD i (0, 0)).1 (lay.getD i (0, 0)).2 = vs.getD i 0
  | [], [], _, _, i, h => absurd h (Nat.not_lt_zero i)
  | v :: vs, x :: lay, ok, ⟨hv, hf⟩, 0, _ => by
    simp only [layoutOk, Bool.and_eq_true, beq_iff_eq] at ok
    exact fld_add_self hv ((fld_place ok.2 hf ok.1.2).trans ok.1.1)
  | v :: vs, x :: lay, ok, ⟨hv, hf⟩, i + 1, h => by
    simp only [layoutOk, Bool.and_eq_true, beq_iff_eq] at ok
    simp only [List.length_cons, Nat.add_lt_add_iff_right] at h
    have e := fld_field ok.2 hf i h
    have hx : apart (lay.getD i (0, 0)).1 (lay.getD i (0, 0)).2 x.1 x.2 = true := by
      have := List.all_eq_true.mp ok.1.2 (lay.getD i (0, 0)) (by rw [List.getD_eq_getElem?_getD, List.getElem?_eq_getElem h]; exact List.getElem_mem h)
      simp only [apart, Bool.or_eq_true] at this ⊢; exact this.symm
    show fld (v * 2 ^ x.1 + place fixed (fieldsOf vs lay)) _ _ = vs.getD i 0
    rw [← e]
    exact fld_add_other hv ((fld_place ok.2 hf ok.1.2).trans ok.1.1) hx

/-- The value of a bit-vector, read back from its field. -/
theorem ofNat_field {n x : Nat} {y : BitVec n} (h : x = y.toNat) : BitVec.ofNat n x = y := by
  rw [h]; simp

/-- A 5-bit field in two parts, read back. -/
theorem ofNat_parts (y : BitVec 5) {hi lo : Nat} (h1 : hi = fld y.toNat 4 1) (h0 : lo = fld y.toNat 0 4) :
    BitVec.ofNat 5 (hi * 2 ^ 4 + lo) = y := by
  subst h1 h0; revert y; decide

/-- A part of a value fits its width. -/
theorem fld_lt (x lo n : Nat) : fld x lo n < 2 ^ n := Nat.mod_lt _ (Nat.two_pow_pos n)

/-- A slot A word decodes to the instruction that its selections name. -/
theorem decodeA_encode {i : Instr} (h : selectA (encode i) = some i) (w : WellFormed i = true) : decodeA (encode i) = .ok i := by
  simp only [decodeA, h]; exact checkWord_encode i w
/-- A slot B word decodes to the instruction that its selections name. -/
theorem decodeB_encode {i : Instr} (h : selectB (encode i) = some i) (w : WellFormed i = true) : decodeB (encode i) = .ok i := by
  simp only [decodeB, h]; exact checkWord_encode i w
/-- A logit word decodes to the instruction that its selection names. -/
theorem decodeL_encode {i : Instr} (h : selectL (encode i) = some i) (w : WellFormed i = true) : decodeL (encode i) = .ok i := by
  simp only [decodeL, h]; exact checkWord_encode i w

/-- A slot A instruction that its selections name. -/
theorem RoundTrip.ofA {i : Instr} (hs : slotOf i = .a) (h : selectA (encode i) = some i) : RoundTrip.Statement i := by
  simp only [RoundTrip.Statement, hs]; exact decodeA_encode h
/-- A slot B instruction that its selections name. -/
theorem RoundTrip.ofB {i : Instr} (hs : slotOf i = .b) (h : selectB (encode i) = some i) : RoundTrip.Statement i := by
  simp only [RoundTrip.Statement, hs]; exact decodeB_encode h
/-- A logit instruction that its selection names. -/
theorem RoundTrip.ofL {i : Instr} (hs : slotOf i = .logit) (h : selectL (encode i) = some i) : RoundTrip.Statement i := by
  simp only [RoundTrip.Statement, hs]; exact decodeL_encode h
/-- A row that is no word. -/
theorem RoundTrip.ofN {i : Instr} (hs : slotOf i = .none) (h : encode i = 0) : RoundTrip.Statement i := by
  simp only [RoundTrip.Statement, hs]; exact h

theorem RoundTrip.nop (z_ : BitVec 1) : RoundTrip.Statement (.nop z_) := by
  refine RoundTrip.ofA rfl ?_
  have o : layoutOk 0x00000000 [(31, 1)] = true := by decide
  have h : Fits [z_.toNat] [(31, 1)] := ⟨z_.isLt, trivial⟩
  show selectA (place 0x00000000 (fieldsOf [z_.toNat] [(31, 1)])) = _
  unfold selectA
  rw [fld_place o h (a := 25) (n := 6) (by decide)]
  exact congrArg some ((congr (rfl : Instr.nop = Instr.nop) (ofNat_field (y := z_) (fld_field o h 0 (by decide)))))

theorem RoundTrip.add (z_ : BitVec 1) (d_ : BitVec 5) (a_ : BitVec 5) (b_ : BitVec 5) : RoundTrip.Statement (.add z_ d_ a_ b_) := by
  refine RoundTrip.ofA rfl ?_
  have o : layoutOk 0x02000000 [(31, 1), (20, 5), (15, 5), (10, 5)] = true := by decide
  have h : Fits [z_.toNat, d_.toNat, a_.toNat, b_.toNat] [(31, 1), (20, 5), (15, 5), (10, 5)] := ⟨z_.isLt, d_.isLt, a_.isLt, b_.isLt, trivial⟩
  show selectA (place 0x02000000 (fieldsOf [z_.toNat, d_.toNat, a_.toNat, b_.toNat] [(31, 1), (20, 5), (15, 5), (10, 5)])) = _
  unfold selectA
  rw [fld_place o h (a := 25) (n := 6) (by decide), fld_place o h (a := 0) (n := 10) (by decide)]
  exact congrArg some ((congr (congr (congr (congr (rfl : Instr.add = Instr.add) (ofNat_field (y := z_) (fld_field o h 0 (by decide)))) (ofNat_field (y := d_) (fld_field o h 1 (by decide)))) (ofNat_field (y := a_) (fld_field o h 2 (by decide)))) (ofNat_field (y := b_) (fld_field o h 3 (by decide)))))

theorem RoundTrip.sub (z_ : BitVec 1) (d_ : BitVec 5) (a_ : BitVec 5) (b_ : BitVec 5) : RoundTrip.Statement (.sub z_ d_ a_ b_) := by
  refine RoundTrip.ofA rfl ?_
  have o : layoutOk 0x02000001 [(31, 1), (20, 5), (15, 5), (10, 5)] = true := by decide
  have h : Fits [z_.toNat, d_.toNat, a_.toNat, b_.toNat] [(31, 1), (20, 5), (15, 5), (10, 5)] := ⟨z_.isLt, d_.isLt, a_.isLt, b_.isLt, trivial⟩
  show selectA (place 0x02000001 (fieldsOf [z_.toNat, d_.toNat, a_.toNat, b_.toNat] [(31, 1), (20, 5), (15, 5), (10, 5)])) = _
  unfold selectA
  rw [fld_place o h (a := 25) (n := 6) (by decide), fld_place o h (a := 0) (n := 10) (by decide)]
  exact congrArg some ((congr (congr (congr (congr (rfl : Instr.sub = Instr.sub) (ofNat_field (y := z_) (fld_field o h 0 (by decide)))) (ofNat_field (y := d_) (fld_field o h 1 (by decide)))) (ofNat_field (y := a_) (fld_field o h 2 (by decide)))) (ofNat_field (y := b_) (fld_field o h 3 (by decide)))))

theorem RoundTrip.and (z_ : BitVec 1) (d_ : BitVec 5) (a_ : BitVec 5) (b_ : BitVec 5) : RoundTrip.Statement (.and z_ d_ a_ b_) := by
  refine RoundTrip.ofA rfl ?_
  have o : layoutOk 0x02000002 [(31, 1), (20, 5), (15, 5), (10, 5)] = true := by decide
  have h : Fits [z_.toNat, d_.toNat, a_.toNat, b_.toNat] [(31, 1), (20, 5), (15, 5), (10, 5)] := ⟨z_.isLt, d_.isLt, a_.isLt, b_.isLt, trivial⟩
  show selectA (place 0x02000002 (fieldsOf [z_.toNat, d_.toNat, a_.toNat, b_.toNat] [(31, 1), (20, 5), (15, 5), (10, 5)])) = _
  unfold selectA
  rw [fld_place o h (a := 25) (n := 6) (by decide), fld_place o h (a := 0) (n := 10) (by decide)]
  exact congrArg some ((congr (congr (congr (congr (rfl : Instr.and = Instr.and) (ofNat_field (y := z_) (fld_field o h 0 (by decide)))) (ofNat_field (y := d_) (fld_field o h 1 (by decide)))) (ofNat_field (y := a_) (fld_field o h 2 (by decide)))) (ofNat_field (y := b_) (fld_field o h 3 (by decide)))))

theorem RoundTrip.or (z_ : BitVec 1) (d_ : BitVec 5) (a_ : BitVec 5) (b_ : BitVec 5) : RoundTrip.Statement (.or z_ d_ a_ b_) := by
  refine RoundTrip.ofA rfl ?_
  have o : layoutOk 0x02000003 [(31, 1), (20, 5), (15, 5), (10, 5)] = true := by decide
  have h : Fits [z_.toNat, d_.toNat, a_.toNat, b_.toNat] [(31, 1), (20, 5), (15, 5), (10, 5)] := ⟨z_.isLt, d_.isLt, a_.isLt, b_.isLt, trivial⟩
  show selectA (place 0x02000003 (fieldsOf [z_.toNat, d_.toNat, a_.toNat, b_.toNat] [(31, 1), (20, 5), (15, 5), (10, 5)])) = _
  unfold selectA
  rw [fld_place o h (a := 25) (n := 6) (by decide), fld_place o h (a := 0) (n := 10) (by decide)]
  exact congrArg some ((congr (congr (congr (congr (rfl : Instr.or = Instr.or) (ofNat_field (y := z_) (fld_field o h 0 (by decide)))) (ofNat_field (y := d_) (fld_field o h 1 (by decide)))) (ofNat_field (y := a_) (fld_field o h 2 (by decide)))) (ofNat_field (y := b_) (fld_field o h 3 (by decide)))))

theorem RoundTrip.xor (z_ : BitVec 1) (d_ : BitVec 5) (a_ : BitVec 5) (b_ : BitVec 5) : RoundTrip.Statement (.xor z_ d_ a_ b_) := by
  refine RoundTrip.ofA rfl ?_
  have o : layoutOk 0x02000004 [(31, 1), (20, 5), (15, 5), (10, 5)] = true := by decide
  have h : Fits [z_.toNat, d_.toNat, a_.toNat, b_.toNat] [(31, 1), (20, 5), (15, 5), (10, 5)] := ⟨z_.isLt, d_.isLt, a_.isLt, b_.isLt, trivial⟩
  show selectA (place 0x02000004 (fieldsOf [z_.toNat, d_.toNat, a_.toNat, b_.toNat] [(31, 1), (20, 5), (15, 5), (10, 5)])) = _
  unfold selectA
  rw [fld_place o h (a := 25) (n := 6) (by decide), fld_place o h (a := 0) (n := 10) (by decide)]
  exact congrArg some ((congr (congr (congr (congr (rfl : Instr.xor = Instr.xor) (ofNat_field (y := z_) (fld_field o h 0 (by decide)))) (ofNat_field (y := d_) (fld_field o h 1 (by decide)))) (ofNat_field (y := a_) (fld_field o h 2 (by decide)))) (ofNat_field (y := b_) (fld_field o h 3 (by decide)))))

theorem RoundTrip.shl (z_ : BitVec 1) (d_ : BitVec 5) (a_ : BitVec 5) (b_ : BitVec 5) : RoundTrip.Statement (.shl z_ d_ a_ b_) := by
  refine RoundTrip.ofA rfl ?_
  have o : layoutOk 0x02000005 [(31, 1), (20, 5), (15, 5), (10, 5)] = true := by decide
  have h : Fits [z_.toNat, d_.toNat, a_.toNat, b_.toNat] [(31, 1), (20, 5), (15, 5), (10, 5)] := ⟨z_.isLt, d_.isLt, a_.isLt, b_.isLt, trivial⟩
  show selectA (place 0x02000005 (fieldsOf [z_.toNat, d_.toNat, a_.toNat, b_.toNat] [(31, 1), (20, 5), (15, 5), (10, 5)])) = _
  unfold selectA
  rw [fld_place o h (a := 25) (n := 6) (by decide), fld_place o h (a := 0) (n := 10) (by decide)]
  exact congrArg some ((congr (congr (congr (congr (rfl : Instr.shl = Instr.shl) (ofNat_field (y := z_) (fld_field o h 0 (by decide)))) (ofNat_field (y := d_) (fld_field o h 1 (by decide)))) (ofNat_field (y := a_) (fld_field o h 2 (by decide)))) (ofNat_field (y := b_) (fld_field o h 3 (by decide)))))

theorem RoundTrip.shr (z_ : BitVec 1) (d_ : BitVec 5) (a_ : BitVec 5) (b_ : BitVec 5) : RoundTrip.Statement (.shr z_ d_ a_ b_) := by
  refine RoundTrip.ofA rfl ?_
  have o : layoutOk 0x02000006 [(31, 1), (20, 5), (15, 5), (10, 5)] = true := by decide
  have h : Fits [z_.toNat, d_.toNat, a_.toNat, b_.toNat] [(31, 1), (20, 5), (15, 5), (10, 5)] := ⟨z_.isLt, d_.isLt, a_.isLt, b_.isLt, trivial⟩
  show selectA (place 0x02000006 (fieldsOf [z_.toNat, d_.toNat, a_.toNat, b_.toNat] [(31, 1), (20, 5), (15, 5), (10, 5)])) = _
  unfold selectA
  rw [fld_place o h (a := 25) (n := 6) (by decide), fld_place o h (a := 0) (n := 10) (by decide)]
  exact congrArg some ((congr (congr (congr (congr (rfl : Instr.shr = Instr.shr) (ofNat_field (y := z_) (fld_field o h 0 (by decide)))) (ofNat_field (y := d_) (fld_field o h 1 (by decide)))) (ofNat_field (y := a_) (fld_field o h 2 (by decide)))) (ofNat_field (y := b_) (fld_field o h 3 (by decide)))))

theorem RoundTrip.sra (z_ : BitVec 1) (d_ : BitVec 5) (a_ : BitVec 5) (b_ : BitVec 5) : RoundTrip.Statement (.sra z_ d_ a_ b_) := by
  refine RoundTrip.ofA rfl ?_
  have o : layoutOk 0x02000007 [(31, 1), (20, 5), (15, 5), (10, 5)] = true := by decide
  have h : Fits [z_.toNat, d_.toNat, a_.toNat, b_.toNat] [(31, 1), (20, 5), (15, 5), (10, 5)] := ⟨z_.isLt, d_.isLt, a_.isLt, b_.isLt, trivial⟩
  show selectA (place 0x02000007 (fieldsOf [z_.toNat, d_.toNat, a_.toNat, b_.toNat] [(31, 1), (20, 5), (15, 5), (10, 5)])) = _
  unfold selectA
  rw [fld_place o h (a := 25) (n := 6) (by decide), fld_place o h (a := 0) (n := 10) (by decide)]
  exact congrArg some ((congr (congr (congr (congr (rfl : Instr.sra = Instr.sra) (ofNat_field (y := z_) (fld_field o h 0 (by decide)))) (ofNat_field (y := d_) (fld_field o h 1 (by decide)))) (ofNat_field (y := a_) (fld_field o h 2 (by decide)))) (ofNat_field (y := b_) (fld_field o h 3 (by decide)))))

theorem RoundTrip.slt (z_ : BitVec 1) (d_ : BitVec 5) (a_ : BitVec 5) (b_ : BitVec 5) : RoundTrip.Statement (.slt z_ d_ a_ b_) := by
  refine RoundTrip.ofA rfl ?_
  have o : layoutOk 0x02000008 [(31, 1), (20, 5), (15, 5), (10, 5)] = true := by decide
  have h : Fits [z_.toNat, d_.toNat, a_.toNat, b_.toNat] [(31, 1), (20, 5), (15, 5), (10, 5)] := ⟨z_.isLt, d_.isLt, a_.isLt, b_.isLt, trivial⟩
  show selectA (place 0x02000008 (fieldsOf [z_.toNat, d_.toNat, a_.toNat, b_.toNat] [(31, 1), (20, 5), (15, 5), (10, 5)])) = _
  unfold selectA
  rw [fld_place o h (a := 25) (n := 6) (by decide), fld_place o h (a := 0) (n := 10) (by decide)]
  exact congrArg some ((congr (congr (congr (congr (rfl : Instr.slt = Instr.slt) (ofNat_field (y := z_) (fld_field o h 0 (by decide)))) (ofNat_field (y := d_) (fld_field o h 1 (by decide)))) (ofNat_field (y := a_) (fld_field o h 2 (by decide)))) (ofNat_field (y := b_) (fld_field o h 3 (by decide)))))

theorem RoundTrip.sltn (z_ : BitVec 1) (d_ : BitVec 5) (a_ : BitVec 5) (b_ : BitVec 5) : RoundTrip.Statement (.sltn z_ d_ a_ b_) := by
  refine RoundTrip.ofA rfl ?_
  have o : layoutOk 0x02000009 [(31, 1), (20, 5), (15, 5), (10, 5)] = true := by decide
  have h : Fits [z_.toNat, d_.toNat, a_.toNat, b_.toNat] [(31, 1), (20, 5), (15, 5), (10, 5)] := ⟨z_.isLt, d_.isLt, a_.isLt, b_.isLt, trivial⟩
  show selectA (place 0x02000009 (fieldsOf [z_.toNat, d_.toNat, a_.toNat, b_.toNat] [(31, 1), (20, 5), (15, 5), (10, 5)])) = _
  unfold selectA
  rw [fld_place o h (a := 25) (n := 6) (by decide), fld_place o h (a := 0) (n := 10) (by decide)]
  exact congrArg some ((congr (congr (congr (congr (rfl : Instr.sltn = Instr.sltn) (ofNat_field (y := z_) (fld_field o h 0 (by decide)))) (ofNat_field (y := d_) (fld_field o h 1 (by decide)))) (ofNat_field (y := a_) (fld_field o h 2 (by decide)))) (ofNat_field (y := b_) (fld_field o h 3 (by decide)))))

theorem RoundTrip.min (z_ : BitVec 1) (d_ : BitVec 5) (a_ : BitVec 5) (b_ : BitVec 5) : RoundTrip.Statement (.min z_ d_ a_ b_) := by
  refine RoundTrip.ofA rfl ?_
  have o : layoutOk 0x0200000A [(31, 1), (20, 5), (15, 5), (10, 5)] = true := by decide
  have h : Fits [z_.toNat, d_.toNat, a_.toNat, b_.toNat] [(31, 1), (20, 5), (15, 5), (10, 5)] := ⟨z_.isLt, d_.isLt, a_.isLt, b_.isLt, trivial⟩
  show selectA (place 0x0200000A (fieldsOf [z_.toNat, d_.toNat, a_.toNat, b_.toNat] [(31, 1), (20, 5), (15, 5), (10, 5)])) = _
  unfold selectA
  rw [fld_place o h (a := 25) (n := 6) (by decide), fld_place o h (a := 0) (n := 10) (by decide)]
  exact congrArg some ((congr (congr (congr (congr (rfl : Instr.min = Instr.min) (ofNat_field (y := z_) (fld_field o h 0 (by decide)))) (ofNat_field (y := d_) (fld_field o h 1 (by decide)))) (ofNat_field (y := a_) (fld_field o h 2 (by decide)))) (ofNat_field (y := b_) (fld_field o h 3 (by decide)))))

theorem RoundTrip.max (z_ : BitVec 1) (d_ : BitVec 5) (a_ : BitVec 5) (b_ : BitVec 5) : RoundTrip.Statement (.max z_ d_ a_ b_) := by
  refine RoundTrip.ofA rfl ?_
  have o : layoutOk 0x0200000B [(31, 1), (20, 5), (15, 5), (10, 5)] = true := by decide
  have h : Fits [z_.toNat, d_.toNat, a_.toNat, b_.toNat] [(31, 1), (20, 5), (15, 5), (10, 5)] := ⟨z_.isLt, d_.isLt, a_.isLt, b_.isLt, trivial⟩
  show selectA (place 0x0200000B (fieldsOf [z_.toNat, d_.toNat, a_.toNat, b_.toNat] [(31, 1), (20, 5), (15, 5), (10, 5)])) = _
  unfold selectA
  rw [fld_place o h (a := 25) (n := 6) (by decide), fld_place o h (a := 0) (n := 10) (by decide)]
  exact congrArg some ((congr (congr (congr (congr (rfl : Instr.max = Instr.max) (ofNat_field (y := z_) (fld_field o h 0 (by decide)))) (ofNat_field (y := d_) (fld_field o h 1 (by decide)))) (ofNat_field (y := a_) (fld_field o h 2 (by decide)))) (ofNat_field (y := b_) (fld_field o h 3 (by decide)))))

theorem RoundTrip.minn (z_ : BitVec 1) (d_ : BitVec 5) (a_ : BitVec 5) (b_ : BitVec 5) : RoundTrip.Statement (.minn z_ d_ a_ b_) := by
  refine RoundTrip.ofA rfl ?_
  have o : layoutOk 0x0200000C [(31, 1), (20, 5), (15, 5), (10, 5)] = true := by decide
  have h : Fits [z_.toNat, d_.toNat, a_.toNat, b_.toNat] [(31, 1), (20, 5), (15, 5), (10, 5)] := ⟨z_.isLt, d_.isLt, a_.isLt, b_.isLt, trivial⟩
  show selectA (place 0x0200000C (fieldsOf [z_.toNat, d_.toNat, a_.toNat, b_.toNat] [(31, 1), (20, 5), (15, 5), (10, 5)])) = _
  unfold selectA
  rw [fld_place o h (a := 25) (n := 6) (by decide), fld_place o h (a := 0) (n := 10) (by decide)]
  exact congrArg some ((congr (congr (congr (congr (rfl : Instr.minn = Instr.minn) (ofNat_field (y := z_) (fld_field o h 0 (by decide)))) (ofNat_field (y := d_) (fld_field o h 1 (by decide)))) (ofNat_field (y := a_) (fld_field o h 2 (by decide)))) (ofNat_field (y := b_) (fld_field o h 3 (by decide)))))

theorem RoundTrip.maxn (z_ : BitVec 1) (d_ : BitVec 5) (a_ : BitVec 5) (b_ : BitVec 5) : RoundTrip.Statement (.maxn z_ d_ a_ b_) := by
  refine RoundTrip.ofA rfl ?_
  have o : layoutOk 0x0200000D [(31, 1), (20, 5), (15, 5), (10, 5)] = true := by decide
  have h : Fits [z_.toNat, d_.toNat, a_.toNat, b_.toNat] [(31, 1), (20, 5), (15, 5), (10, 5)] := ⟨z_.isLt, d_.isLt, a_.isLt, b_.isLt, trivial⟩
  show selectA (place 0x0200000D (fieldsOf [z_.toNat, d_.toNat, a_.toNat, b_.toNat] [(31, 1), (20, 5), (15, 5), (10, 5)])) = _
  unfold selectA
  rw [fld_place o h (a := 25) (n := 6) (by decide), fld_place o h (a := 0) (n := 10) (by decide)]
  exact congrArg some ((congr (congr (congr (congr (rfl : Instr.maxn = Instr.maxn) (ofNat_field (y := z_) (fld_field o h 0 (by decide)))) (ofNat_field (y := d_) (fld_field o h 1 (by decide)))) (ofNat_field (y := a_) (fld_field o h 2 (by decide)))) (ofNat_field (y := b_) (fld_field o h 3 (by decide)))))

theorem RoundTrip.sel (z_ : BitVec 1) (d_ : BitVec 5) (a_ : BitVec 5) (b_ : BitVec 5) : RoundTrip.Statement (.sel z_ d_ a_ b_) := by
  refine RoundTrip.ofA rfl ?_
  have o : layoutOk 0x0200000E [(31, 1), (20, 5), (15, 5), (10, 5)] = true := by decide
  have h : Fits [z_.toNat, d_.toNat, a_.toNat, b_.toNat] [(31, 1), (20, 5), (15, 5), (10, 5)] := ⟨z_.isLt, d_.isLt, a_.isLt, b_.isLt, trivial⟩
  show selectA (place 0x0200000E (fieldsOf [z_.toNat, d_.toNat, a_.toNat, b_.toNat] [(31, 1), (20, 5), (15, 5), (10, 5)])) = _
  unfold selectA
  rw [fld_place o h (a := 25) (n := 6) (by decide), fld_place o h (a := 0) (n := 10) (by decide)]
  exact congrArg some ((congr (congr (congr (congr (rfl : Instr.sel = Instr.sel) (ofNat_field (y := z_) (fld_field o h 0 (by decide)))) (ofNat_field (y := d_) (fld_field o h 1 (by decide)))) (ofNat_field (y := a_) (fld_field o h 2 (by decide)))) (ofNat_field (y := b_) (fld_field o h 3 (by decide)))))

theorem RoundTrip.clz (z_ : BitVec 1) (d_ : BitVec 5) (a_ : BitVec 5) : RoundTrip.Statement (.clz z_ d_ a_) := by
  refine RoundTrip.ofA rfl ?_
  have o : layoutOk 0x0200000F [(31, 1), (20, 5), (15, 5)] = true := by decide
  have h : Fits [z_.toNat, d_.toNat, a_.toNat] [(31, 1), (20, 5), (15, 5)] := ⟨z_.isLt, d_.isLt, a_.isLt, trivial⟩
  show selectA (place 0x0200000F (fieldsOf [z_.toNat, d_.toNat, a_.toNat] [(31, 1), (20, 5), (15, 5)])) = _
  unfold selectA
  rw [fld_place o h (a := 25) (n := 6) (by decide), fld_place o h (a := 0) (n := 10) (by decide)]
  exact congrArg some ((congr (congr (congr (rfl : Instr.clz = Instr.clz) (ofNat_field (y := z_) (fld_field o h 0 (by decide)))) (ofNat_field (y := d_) (fld_field o h 1 (by decide)))) (ofNat_field (y := a_) (fld_field o h 2 (by decide)))))

theorem RoundTrip.popc (z_ : BitVec 1) (d_ : BitVec 5) (a_ : BitVec 5) : RoundTrip.Statement (.popc z_ d_ a_) := by
  refine RoundTrip.ofA rfl ?_
  have o : layoutOk 0x02000010 [(31, 1), (20, 5), (15, 5)] = true := by decide
  have h : Fits [z_.toNat, d_.toNat, a_.toNat] [(31, 1), (20, 5), (15, 5)] := ⟨z_.isLt, d_.isLt, a_.isLt, trivial⟩
  show selectA (place 0x02000010 (fieldsOf [z_.toNat, d_.toNat, a_.toNat] [(31, 1), (20, 5), (15, 5)])) = _
  unfold selectA
  rw [fld_place o h (a := 25) (n := 6) (by decide), fld_place o h (a := 0) (n := 10) (by decide)]
  exact congrArg some ((congr (congr (congr (rfl : Instr.popc = Instr.popc) (ofNat_field (y := z_) (fld_field o h 0 (by decide)))) (ofNat_field (y := d_) (fld_field o h 1 (by decide)))) (ofNat_field (y := a_) (fld_field o h 2 (by decide)))))

theorem RoundTrip.mul (z_ : BitVec 1) (d_ : BitVec 5) (a_ : BitVec 5) (b_ : BitVec 5) : RoundTrip.Statement (.mul z_ d_ a_ b_) := by
  refine RoundTrip.ofA rfl ?_
  have o : layoutOk 0x04000000 [(31, 1), (20, 5), (15, 5), (10, 5)] = true := by decide
  have h : Fits [z_.toNat, d_.toNat, a_.toNat, b_.toNat] [(31, 1), (20, 5), (15, 5), (10, 5)] := ⟨z_.isLt, d_.isLt, a_.isLt, b_.isLt, trivial⟩
  show selectA (place 0x04000000 (fieldsOf [z_.toNat, d_.toNat, a_.toNat, b_.toNat] [(31, 1), (20, 5), (15, 5), (10, 5)])) = _
  unfold selectA
  rw [fld_place o h (a := 25) (n := 6) (by decide), fld_place o h (a := 0) (n := 10) (by decide)]
  exact congrArg some ((congr (congr (congr (congr (rfl : Instr.mul = Instr.mul) (ofNat_field (y := z_) (fld_field o h 0 (by decide)))) (ofNat_field (y := d_) (fld_field o h 1 (by decide)))) (ofNat_field (y := a_) (fld_field o h 2 (by decide)))) (ofNat_field (y := b_) (fld_field o h 3 (by decide)))))

theorem RoundTrip.mulh (z_ : BitVec 1) (d_ : BitVec 5) (a_ : BitVec 5) (b_ : BitVec 5) : RoundTrip.Statement (.mulh z_ d_ a_ b_) := by
  refine RoundTrip.ofA rfl ?_
  have o : layoutOk 0x04000001 [(31, 1), (20, 5), (15, 5), (10, 5)] = true := by decide
  have h : Fits [z_.toNat, d_.toNat, a_.toNat, b_.toNat] [(31, 1), (20, 5), (15, 5), (10, 5)] := ⟨z_.isLt, d_.isLt, a_.isLt, b_.isLt, trivial⟩
  show selectA (place 0x04000001 (fieldsOf [z_.toNat, d_.toNat, a_.toNat, b_.toNat] [(31, 1), (20, 5), (15, 5), (10, 5)])) = _
  unfold selectA
  rw [fld_place o h (a := 25) (n := 6) (by decide), fld_place o h (a := 0) (n := 10) (by decide)]
  exact congrArg some ((congr (congr (congr (congr (rfl : Instr.mulh = Instr.mulh) (ofNat_field (y := z_) (fld_field o h 0 (by decide)))) (ofNat_field (y := d_) (fld_field o h 1 (by decide)))) (ofNat_field (y := a_) (fld_field o h 2 (by decide)))) (ofNat_field (y := b_) (fld_field o h 3 (by decide)))))

theorem RoundTrip.mulhn (z_ : BitVec 1) (d_ : BitVec 5) (a_ : BitVec 5) (b_ : BitVec 5) : RoundTrip.Statement (.mulhn z_ d_ a_ b_) := by
  refine RoundTrip.ofA rfl ?_
  have o : layoutOk 0x04000002 [(31, 1), (20, 5), (15, 5), (10, 5)] = true := by decide
  have h : Fits [z_.toNat, d_.toNat, a_.toNat, b_.toNat] [(31, 1), (20, 5), (15, 5), (10, 5)] := ⟨z_.isLt, d_.isLt, a_.isLt, b_.isLt, trivial⟩
  show selectA (place 0x04000002 (fieldsOf [z_.toNat, d_.toNat, a_.toNat, b_.toNat] [(31, 1), (20, 5), (15, 5), (10, 5)])) = _
  unfold selectA
  rw [fld_place o h (a := 25) (n := 6) (by decide), fld_place o h (a := 0) (n := 10) (by decide)]
  exact congrArg some ((congr (congr (congr (congr (rfl : Instr.mulhn = Instr.mulhn) (ofNat_field (y := z_) (fld_field o h 0 (by decide)))) (ofNat_field (y := d_) (fld_field o h 1 (by decide)))) (ofNat_field (y := a_) (fld_field o h 2 (by decide)))) (ofNat_field (y := b_) (fld_field o h 3 (by decide)))))

theorem RoundTrip.div (z_ : BitVec 1) (d_ : BitVec 5) (a_ : BitVec 5) (b_ : BitVec 5) : RoundTrip.Statement (.div z_ d_ a_ b_) := by
  refine RoundTrip.ofA rfl ?_
  have o : layoutOk 0x04000003 [(31, 1), (20, 5), (15, 5), (10, 5)] = true := by decide
  have h : Fits [z_.toNat, d_.toNat, a_.toNat, b_.toNat] [(31, 1), (20, 5), (15, 5), (10, 5)] := ⟨z_.isLt, d_.isLt, a_.isLt, b_.isLt, trivial⟩
  show selectA (place 0x04000003 (fieldsOf [z_.toNat, d_.toNat, a_.toNat, b_.toNat] [(31, 1), (20, 5), (15, 5), (10, 5)])) = _
  unfold selectA
  rw [fld_place o h (a := 25) (n := 6) (by decide), fld_place o h (a := 0) (n := 10) (by decide)]
  exact congrArg some ((congr (congr (congr (congr (rfl : Instr.div = Instr.div) (ofNat_field (y := z_) (fld_field o h 0 (by decide)))) (ofNat_field (y := d_) (fld_field o h 1 (by decide)))) (ofNat_field (y := a_) (fld_field o h 2 (by decide)))) (ofNat_field (y := b_) (fld_field o h 3 (by decide)))))

theorem RoundTrip.divn (z_ : BitVec 1) (d_ : BitVec 5) (a_ : BitVec 5) (b_ : BitVec 5) : RoundTrip.Statement (.divn z_ d_ a_ b_) := by
  refine RoundTrip.ofA rfl ?_
  have o : layoutOk 0x04000004 [(31, 1), (20, 5), (15, 5), (10, 5)] = true := by decide
  have h : Fits [z_.toNat, d_.toNat, a_.toNat, b_.toNat] [(31, 1), (20, 5), (15, 5), (10, 5)] := ⟨z_.isLt, d_.isLt, a_.isLt, b_.isLt, trivial⟩
  show selectA (place 0x04000004 (fieldsOf [z_.toNat, d_.toNat, a_.toNat, b_.toNat] [(31, 1), (20, 5), (15, 5), (10, 5)])) = _
  unfold selectA
  rw [fld_place o h (a := 25) (n := 6) (by decide), fld_place o h (a := 0) (n := 10) (by decide)]
  exact congrArg some ((congr (congr (congr (congr (rfl : Instr.divn = Instr.divn) (ofNat_field (y := z_) (fld_field o h 0 (by decide)))) (ofNat_field (y := d_) (fld_field o h 1 (by decide)))) (ofNat_field (y := a_) (fld_field o h 2 (by decide)))) (ofNat_field (y := b_) (fld_field o h 3 (by decide)))))

theorem RoundTrip.rem (z_ : BitVec 1) (d_ : BitVec 5) (a_ : BitVec 5) (b_ : BitVec 5) : RoundTrip.Statement (.rem z_ d_ a_ b_) := by
  refine RoundTrip.ofA rfl ?_
  have o : layoutOk 0x04000005 [(31, 1), (20, 5), (15, 5), (10, 5)] = true := by decide
  have h : Fits [z_.toNat, d_.toNat, a_.toNat, b_.toNat] [(31, 1), (20, 5), (15, 5), (10, 5)] := ⟨z_.isLt, d_.isLt, a_.isLt, b_.isLt, trivial⟩
  show selectA (place 0x04000005 (fieldsOf [z_.toNat, d_.toNat, a_.toNat, b_.toNat] [(31, 1), (20, 5), (15, 5), (10, 5)])) = _
  unfold selectA
  rw [fld_place o h (a := 25) (n := 6) (by decide), fld_place o h (a := 0) (n := 10) (by decide)]
  exact congrArg some ((congr (congr (congr (congr (rfl : Instr.rem = Instr.rem) (ofNat_field (y := z_) (fld_field o h 0 (by decide)))) (ofNat_field (y := d_) (fld_field o h 1 (by decide)))) (ofNat_field (y := a_) (fld_field o h 2 (by decide)))) (ofNat_field (y := b_) (fld_field o h 3 (by decide)))))

theorem RoundTrip.remn (z_ : BitVec 1) (d_ : BitVec 5) (a_ : BitVec 5) (b_ : BitVec 5) : RoundTrip.Statement (.remn z_ d_ a_ b_) := by
  refine RoundTrip.ofA rfl ?_
  have o : layoutOk 0x04000006 [(31, 1), (20, 5), (15, 5), (10, 5)] = true := by decide
  have h : Fits [z_.toNat, d_.toNat, a_.toNat, b_.toNat] [(31, 1), (20, 5), (15, 5), (10, 5)] := ⟨z_.isLt, d_.isLt, a_.isLt, b_.isLt, trivial⟩
  show selectA (place 0x04000006 (fieldsOf [z_.toNat, d_.toNat, a_.toNat, b_.toNat] [(31, 1), (20, 5), (15, 5), (10, 5)])) = _
  unfold selectA
  rw [fld_place o h (a := 25) (n := 6) (by decide), fld_place o h (a := 0) (n := 10) (by decide)]
  exact congrArg some ((congr (congr (congr (congr (rfl : Instr.remn = Instr.remn) (ofNat_field (y := z_) (fld_field o h 0 (by decide)))) (ofNat_field (y := d_) (fld_field o h 1 (by decide)))) (ofNat_field (y := a_) (fld_field o h 2 (by decide)))) (ofNat_field (y := b_) (fld_field o h 3 (by decide)))))

theorem RoundTrip.addi (z_ : BitVec 1) (d_ : BitVec 5) (a_ : BitVec 5) (i_ : BitVec 10) : RoundTrip.Statement (.addi z_ d_ a_ i_) := by
  refine RoundTrip.ofA rfl ?_
  have o : layoutOk 0x06000000 [(31, 1), (20, 5), (15, 5), (0, 10)] = true := by decide
  have h : Fits [z_.toNat, d_.toNat, a_.toNat, i_.toNat] [(31, 1), (20, 5), (15, 5), (0, 10)] := ⟨z_.isLt, d_.isLt, a_.isLt, i_.isLt, trivial⟩
  show selectA (place 0x06000000 (fieldsOf [z_.toNat, d_.toNat, a_.toNat, i_.toNat] [(31, 1), (20, 5), (15, 5), (0, 10)])) = _
  unfold selectA
  rw [fld_place o h (a := 25) (n := 6) (by decide)]
  exact congrArg some ((congr (congr (congr (congr (rfl : Instr.addi = Instr.addi) (ofNat_field (y := z_) (fld_field o h 0 (by decide)))) (ofNat_field (y := d_) (fld_field o h 1 (by decide)))) (ofNat_field (y := a_) (fld_field o h 2 (by decide)))) (ofNat_field (y := i_) (fld_field o h 3 (by decide)))))

theorem RoundTrip.andi (z_ : BitVec 1) (d_ : BitVec 5) (a_ : BitVec 5) (i_ : BitVec 10) : RoundTrip.Statement (.andi z_ d_ a_ i_) := by
  refine RoundTrip.ofA rfl ?_
  have o : layoutOk 0x08000000 [(31, 1), (20, 5), (15, 5), (0, 10)] = true := by decide
  have h : Fits [z_.toNat, d_.toNat, a_.toNat, i_.toNat] [(31, 1), (20, 5), (15, 5), (0, 10)] := ⟨z_.isLt, d_.isLt, a_.isLt, i_.isLt, trivial⟩
  show selectA (place 0x08000000 (fieldsOf [z_.toNat, d_.toNat, a_.toNat, i_.toNat] [(31, 1), (20, 5), (15, 5), (0, 10)])) = _
  unfold selectA
  rw [fld_place o h (a := 25) (n := 6) (by decide)]
  exact congrArg some ((congr (congr (congr (congr (rfl : Instr.andi = Instr.andi) (ofNat_field (y := z_) (fld_field o h 0 (by decide)))) (ofNat_field (y := d_) (fld_field o h 1 (by decide)))) (ofNat_field (y := a_) (fld_field o h 2 (by decide)))) (ofNat_field (y := i_) (fld_field o h 3 (by decide)))))

theorem RoundTrip.ori (z_ : BitVec 1) (d_ : BitVec 5) (a_ : BitVec 5) (i_ : BitVec 10) : RoundTrip.Statement (.ori z_ d_ a_ i_) := by
  refine RoundTrip.ofA rfl ?_
  have o : layoutOk 0x0A000000 [(31, 1), (20, 5), (15, 5), (0, 10)] = true := by decide
  have h : Fits [z_.toNat, d_.toNat, a_.toNat, i_.toNat] [(31, 1), (20, 5), (15, 5), (0, 10)] := ⟨z_.isLt, d_.isLt, a_.isLt, i_.isLt, trivial⟩
  show selectA (place 0x0A000000 (fieldsOf [z_.toNat, d_.toNat, a_.toNat, i_.toNat] [(31, 1), (20, 5), (15, 5), (0, 10)])) = _
  unfold selectA
  rw [fld_place o h (a := 25) (n := 6) (by decide)]
  exact congrArg some ((congr (congr (congr (congr (rfl : Instr.ori = Instr.ori) (ofNat_field (y := z_) (fld_field o h 0 (by decide)))) (ofNat_field (y := d_) (fld_field o h 1 (by decide)))) (ofNat_field (y := a_) (fld_field o h 2 (by decide)))) (ofNat_field (y := i_) (fld_field o h 3 (by decide)))))

theorem RoundTrip.xori (z_ : BitVec 1) (d_ : BitVec 5) (a_ : BitVec 5) (i_ : BitVec 10) : RoundTrip.Statement (.xori z_ d_ a_ i_) := by
  refine RoundTrip.ofA rfl ?_
  have o : layoutOk 0x0C000000 [(31, 1), (20, 5), (15, 5), (0, 10)] = true := by decide
  have h : Fits [z_.toNat, d_.toNat, a_.toNat, i_.toNat] [(31, 1), (20, 5), (15, 5), (0, 10)] := ⟨z_.isLt, d_.isLt, a_.isLt, i_.isLt, trivial⟩
  show selectA (place 0x0C000000 (fieldsOf [z_.toNat, d_.toNat, a_.toNat, i_.toNat] [(31, 1), (20, 5), (15, 5), (0, 10)])) = _
  unfold selectA
  rw [fld_place o h (a := 25) (n := 6) (by decide)]
  exact congrArg some ((congr (congr (congr (congr (rfl : Instr.xori = Instr.xori) (ofNat_field (y := z_) (fld_field o h 0 (by decide)))) (ofNat_field (y := d_) (fld_field o h 1 (by decide)))) (ofNat_field (y := a_) (fld_field o h 2 (by decide)))) (ofNat_field (y := i_) (fld_field o h 3 (by decide)))))

theorem RoundTrip.slti (z_ : BitVec 1) (d_ : BitVec 5) (a_ : BitVec 5) (i_ : BitVec 10) : RoundTrip.Statement (.slti z_ d_ a_ i_) := by
  refine RoundTrip.ofA rfl ?_
  have o : layoutOk 0x0E000000 [(31, 1), (20, 5), (15, 5), (0, 10)] = true := by decide
  have h : Fits [z_.toNat, d_.toNat, a_.toNat, i_.toNat] [(31, 1), (20, 5), (15, 5), (0, 10)] := ⟨z_.isLt, d_.isLt, a_.isLt, i_.isLt, trivial⟩
  show selectA (place 0x0E000000 (fieldsOf [z_.toNat, d_.toNat, a_.toNat, i_.toNat] [(31, 1), (20, 5), (15, 5), (0, 10)])) = _
  unfold selectA
  rw [fld_place o h (a := 25) (n := 6) (by decide)]
  exact congrArg some ((congr (congr (congr (congr (rfl : Instr.slti = Instr.slti) (ofNat_field (y := z_) (fld_field o h 0 (by decide)))) (ofNat_field (y := d_) (fld_field o h 1 (by decide)))) (ofNat_field (y := a_) (fld_field o h 2 (by decide)))) (ofNat_field (y := i_) (fld_field o h 3 (by decide)))))

theorem RoundTrip.shli (z_ : BitVec 1) (d_ : BitVec 5) (a_ : BitVec 5) (h_ : BitVec 6) : RoundTrip.Statement (.shli z_ d_ a_ h_) := by
  refine RoundTrip.ofA rfl ?_
  have o : layoutOk 0x10000000 [(31, 1), (20, 5), (15, 5), (0, 6)] = true := by decide
  have h : Fits [z_.toNat, d_.toNat, a_.toNat, h_.toNat] [(31, 1), (20, 5), (15, 5), (0, 6)] := ⟨z_.isLt, d_.isLt, a_.isLt, h_.isLt, trivial⟩
  show selectA (place 0x10000000 (fieldsOf [z_.toNat, d_.toNat, a_.toNat, h_.toNat] [(31, 1), (20, 5), (15, 5), (0, 6)])) = _
  unfold selectA
  rw [fld_place o h (a := 25) (n := 6) (by decide), fld_place o h (a := 8) (n := 2) (by decide)]
  exact congrArg some ((congr (congr (congr (congr (rfl : Instr.shli = Instr.shli) (ofNat_field (y := z_) (fld_field o h 0 (by decide)))) (ofNat_field (y := d_) (fld_field o h 1 (by decide)))) (ofNat_field (y := a_) (fld_field o h 2 (by decide)))) (ofNat_field (y := h_) (fld_field o h 3 (by decide)))))

theorem RoundTrip.shri (z_ : BitVec 1) (d_ : BitVec 5) (a_ : BitVec 5) (h_ : BitVec 6) : RoundTrip.Statement (.shri z_ d_ a_ h_) := by
  refine RoundTrip.ofA rfl ?_
  have o : layoutOk 0x10000100 [(31, 1), (20, 5), (15, 5), (0, 6)] = true := by decide
  have h : Fits [z_.toNat, d_.toNat, a_.toNat, h_.toNat] [(31, 1), (20, 5), (15, 5), (0, 6)] := ⟨z_.isLt, d_.isLt, a_.isLt, h_.isLt, trivial⟩
  show selectA (place 0x10000100 (fieldsOf [z_.toNat, d_.toNat, a_.toNat, h_.toNat] [(31, 1), (20, 5), (15, 5), (0, 6)])) = _
  unfold selectA
  rw [fld_place o h (a := 25) (n := 6) (by decide), fld_place o h (a := 8) (n := 2) (by decide)]
  exact congrArg some ((congr (congr (congr (congr (rfl : Instr.shri = Instr.shri) (ofNat_field (y := z_) (fld_field o h 0 (by decide)))) (ofNat_field (y := d_) (fld_field o h 1 (by decide)))) (ofNat_field (y := a_) (fld_field o h 2 (by decide)))) (ofNat_field (y := h_) (fld_field o h 3 (by decide)))))

theorem RoundTrip.srai (z_ : BitVec 1) (d_ : BitVec 5) (a_ : BitVec 5) (h_ : BitVec 6) : RoundTrip.Statement (.srai z_ d_ a_ h_) := by
  refine RoundTrip.ofA rfl ?_
  have o : layoutOk 0x10000200 [(31, 1), (20, 5), (15, 5), (0, 6)] = true := by decide
  have h : Fits [z_.toNat, d_.toNat, a_.toNat, h_.toNat] [(31, 1), (20, 5), (15, 5), (0, 6)] := ⟨z_.isLt, d_.isLt, a_.isLt, h_.isLt, trivial⟩
  show selectA (place 0x10000200 (fieldsOf [z_.toNat, d_.toNat, a_.toNat, h_.toNat] [(31, 1), (20, 5), (15, 5), (0, 6)])) = _
  unfold selectA
  rw [fld_place o h (a := 25) (n := 6) (by decide), fld_place o h (a := 8) (n := 2) (by decide)]
  exact congrArg some ((congr (congr (congr (congr (rfl : Instr.srai = Instr.srai) (ofNat_field (y := z_) (fld_field o h 0 (by decide)))) (ofNat_field (y := d_) (fld_field o h 1 (by decide)))) (ofNat_field (y := a_) (fld_field o h 2 (by decide)))) (ofNat_field (y := h_) (fld_field o h 3 (by decide)))))

theorem RoundTrip.bfx (z_ : BitVec 1) (d_ : BitVec 5) (a_ : BitVec 5) (l_ : BitVec 6) (p_ : BitVec 6) : RoundTrip.Statement (.bfx z_ d_ a_ l_ p_) := by
  refine RoundTrip.ofA rfl ?_
  have o : layoutOk 0x12000000 [(31, 1), (20, 5), (15, 5), (9, 6), (3, 6)] = true := by decide
  have h : Fits [z_.toNat, d_.toNat, a_.toNat, l_.toNat, p_.toNat] [(31, 1), (20, 5), (15, 5), (9, 6), (3, 6)] := ⟨z_.isLt, d_.isLt, a_.isLt, l_.isLt, p_.isLt, trivial⟩
  show selectA (place 0x12000000 (fieldsOf [z_.toNat, d_.toNat, a_.toNat, l_.toNat, p_.toNat] [(31, 1), (20, 5), (15, 5), (9, 6), (3, 6)])) = _
  unfold selectA
  rw [fld_place o h (a := 25) (n := 6) (by decide)]
  exact congrArg some ((congr (congr (congr (congr (congr (rfl : Instr.bfx = Instr.bfx) (ofNat_field (y := z_) (fld_field o h 0 (by decide)))) (ofNat_field (y := d_) (fld_field o h 1 (by decide)))) (ofNat_field (y := a_) (fld_field o h 2 (by decide)))) (ofNat_field (y := l_) (fld_field o h 3 (by decide)))) (ofNat_field (y := p_) (fld_field o h 4 (by decide)))))

theorem RoundTrip.bfi (z_ : BitVec 1) (d_ : BitVec 5) (a_ : BitVec 5) (l_ : BitVec 6) (p_ : BitVec 6) : RoundTrip.Statement (.bfi z_ d_ a_ l_ p_) := by
  refine RoundTrip.ofA rfl ?_
  have o : layoutOk 0x14000000 [(31, 1), (20, 5), (15, 5), (9, 6), (3, 6)] = true := by decide
  have h : Fits [z_.toNat, d_.toNat, a_.toNat, l_.toNat, p_.toNat] [(31, 1), (20, 5), (15, 5), (9, 6), (3, 6)] := ⟨z_.isLt, d_.isLt, a_.isLt, l_.isLt, p_.isLt, trivial⟩
  show selectA (place 0x14000000 (fieldsOf [z_.toNat, d_.toNat, a_.toNat, l_.toNat, p_.toNat] [(31, 1), (20, 5), (15, 5), (9, 6), (3, 6)])) = _
  unfold selectA
  rw [fld_place o h (a := 25) (n := 6) (by decide)]
  exact congrArg some ((congr (congr (congr (congr (congr (rfl : Instr.bfi = Instr.bfi) (ofNat_field (y := z_) (fld_field o h 0 (by decide)))) (ofNat_field (y := d_) (fld_field o h 1 (by decide)))) (ofNat_field (y := a_) (fld_field o h 2 (by decide)))) (ofNat_field (y := l_) (fld_field o h 3 (by decide)))) (ofNat_field (y := p_) (fld_field o h 4 (by decide)))))

theorem RoundTrip.limh (z_ : BitVec 1) (d_ : BitVec 5) (i_ : BitVec 10) : RoundTrip.Statement (.limh z_ d_ i_) := by
  refine RoundTrip.ofA rfl ?_
  have o : layoutOk 0x16000000 [(31, 1), (20, 5), (0, 10)] = true := by decide
  have h : Fits [z_.toNat, d_.toNat, i_.toNat] [(31, 1), (20, 5), (0, 10)] := ⟨z_.isLt, d_.isLt, i_.isLt, trivial⟩
  show selectA (place 0x16000000 (fieldsOf [z_.toNat, d_.toNat, i_.toNat] [(31, 1), (20, 5), (0, 10)])) = _
  unfold selectA
  rw [fld_place o h (a := 25) (n := 6) (by decide)]
  exact congrArg some ((congr (congr (congr (rfl : Instr.limh = Instr.limh) (ofNat_field (y := z_) (fld_field o h 0 (by decide)))) (ofNat_field (y := d_) (fld_field o h 1 (by decide)))) (ofNat_field (y := i_) (fld_field o h 2 (by decide)))))

theorem RoundTrip.lea (z_ : BitVec 1) (d_ : BitVec 5) (b_ : BitVec 5) (i_ : BitVec 10) : RoundTrip.Statement (.lea z_ d_ b_ i_) := by
  refine RoundTrip.ofA rfl ?_
  have o : layoutOk 0x18000000 [(31, 1), (20, 5), (10, 5), (0, 10)] = true := by decide
  have h : Fits [z_.toNat, d_.toNat, b_.toNat, i_.toNat] [(31, 1), (20, 5), (10, 5), (0, 10)] := ⟨z_.isLt, d_.isLt, b_.isLt, i_.isLt, trivial⟩
  show selectA (place 0x18000000 (fieldsOf [z_.toNat, d_.toNat, b_.toNat, i_.toNat] [(31, 1), (20, 5), (10, 5), (0, 10)])) = _
  unfold selectA
  rw [fld_place o h (a := 25) (n := 6) (by decide)]
  exact congrArg some ((congr (congr (congr (congr (rfl : Instr.lea = Instr.lea) (ofNat_field (y := z_) (fld_field o h 0 (by decide)))) (ofNat_field (y := d_) (fld_field o h 1 (by decide)))) (ofNat_field (y := b_) (fld_field o h 2 (by decide)))) (ofNat_field (y := i_) (fld_field o h 3 (by decide)))))

theorem RoundTrip.leap (z_ : BitVec 1) (d_ : BitVec 5) (a_ : BitVec 5) (i_ : BitVec 5) : RoundTrip.Statement (.leap z_ d_ a_ i_) := by
  refine RoundTrip.ofA rfl ?_
  have o : layoutOk 0x1A000000 [(31, 1), (20, 5), (15, 5), (0, 5)] = true := by decide
  have h : Fits [z_.toNat, d_.toNat, a_.toNat, i_.toNat] [(31, 1), (20, 5), (15, 5), (0, 5)] := ⟨z_.isLt, d_.isLt, a_.isLt, i_.isLt, trivial⟩
  show selectA (place 0x1A000000 (fieldsOf [z_.toNat, d_.toNat, a_.toNat, i_.toNat] [(31, 1), (20, 5), (15, 5), (0, 5)])) = _
  unfold selectA
  rw [fld_place o h (a := 25) (n := 6) (by decide)]
  exact congrArg some ((congr (congr (congr (congr (rfl : Instr.leap = Instr.leap) (ofNat_field (y := z_) (fld_field o h 0 (by decide)))) (ofNat_field (y := d_) (fld_field o h 1 (by decide)))) (ofNat_field (y := a_) (fld_field o h 2 (by decide)))) (ofNat_field (y := i_) (fld_field o h 3 (by decide)))))

theorem RoundTrip.bcc (z_ : BitVec 1) (c_ : BitVec 3) (a_ : BitVec 5) (b_ : BitVec 5) (i_ : BitVec 10) : RoundTrip.Statement (.bcc z_ c_ a_ b_ i_) := by
  refine RoundTrip.ofA rfl ?_
  have o : layoutOk 0x20000000 [(31, 1), (22, 3), (15, 5), (10, 5), (0, 10)] = true := by decide
  have h : Fits [z_.toNat, c_.toNat, a_.toNat, b_.toNat, i_.toNat] [(31, 1), (22, 3), (15, 5), (10, 5), (0, 10)] := ⟨z_.isLt, c_.isLt, a_.isLt, b_.isLt, i_.isLt, trivial⟩
  show selectA (place 0x20000000 (fieldsOf [z_.toNat, c_.toNat, a_.toNat, b_.toNat, i_.toNat] [(31, 1), (22, 3), (15, 5), (10, 5), (0, 10)])) = _
  unfold selectA
  rw [fld_place o h (a := 25) (n := 6) (by decide)]
  exact congrArg some ((congr (congr (congr (congr (congr (rfl : Instr.bcc = Instr.bcc) (ofNat_field (y := z_) (fld_field o h 0 (by decide)))) (ofNat_field (y := c_) (fld_field o h 1 (by decide)))) (ofNat_field (y := a_) (fld_field o h 2 (by decide)))) (ofNat_field (y := b_) (fld_field o h 3 (by decide)))) (ofNat_field (y := i_) (fld_field o h 4 (by decide)))))

theorem RoundTrip.bccz (z_ : BitVec 1) (c_ : BitVec 3) (a_ : BitVec 5) (i_ : BitVec 10) : RoundTrip.Statement (.bccz z_ c_ a_ i_) := by
  refine RoundTrip.ofA rfl ?_
  have o : layoutOk 0x22000000 [(31, 1), (22, 3), (15, 5), (0, 10)] = true := by decide
  have h : Fits [z_.toNat, c_.toNat, a_.toNat, i_.toNat] [(31, 1), (22, 3), (15, 5), (0, 10)] := ⟨z_.isLt, c_.isLt, a_.isLt, i_.isLt, trivial⟩
  show selectA (place 0x22000000 (fieldsOf [z_.toNat, c_.toNat, a_.toNat, i_.toNat] [(31, 1), (22, 3), (15, 5), (0, 10)])) = _
  unfold selectA
  rw [fld_place o h (a := 25) (n := 6) (by decide)]
  exact congrArg some ((congr (congr (congr (congr (rfl : Instr.bccz = Instr.bccz) (ofNat_field (y := z_) (fld_field o h 0 (by decide)))) (ofNat_field (y := c_) (fld_field o h 1 (by decide)))) (ofNat_field (y := a_) (fld_field o h 2 (by decide)))) (ofNat_field (y := i_) (fld_field o h 3 (by decide)))))

theorem RoundTrip.jmp (z_ : BitVec 1) (i_ : BitVec 10) : RoundTrip.Statement (.jmp z_ i_) := by
  refine RoundTrip.ofA rfl ?_
  have o : layoutOk 0x24000000 [(31, 1), (0, 10)] = true := by decide
  have h : Fits [z_.toNat, i_.toNat] [(31, 1), (0, 10)] := ⟨z_.isLt, i_.isLt, trivial⟩
  show selectA (place 0x24000000 (fieldsOf [z_.toNat, i_.toNat] [(31, 1), (0, 10)])) = _
  unfold selectA
  rw [fld_place o h (a := 25) (n := 6) (by decide)]
  exact congrArg some ((congr (congr (rfl : Instr.jmp = Instr.jmp) (ofNat_field (y := z_) (fld_field o h 0 (by decide)))) (ofNat_field (y := i_) (fld_field o h 1 (by decide)))))

theorem RoundTrip.jal (z_ : BitVec 1) (d_ : BitVec 5) (i_ : BitVec 10) : RoundTrip.Statement (.jal z_ d_ i_) := by
  refine RoundTrip.ofA rfl ?_
  have o : layoutOk 0x26000000 [(31, 1), (20, 5), (0, 10)] = true := by decide
  have h : Fits [z_.toNat, d_.toNat, i_.toNat] [(31, 1), (20, 5), (0, 10)] := ⟨z_.isLt, d_.isLt, i_.isLt, trivial⟩
  show selectA (place 0x26000000 (fieldsOf [z_.toNat, d_.toNat, i_.toNat] [(31, 1), (20, 5), (0, 10)])) = _
  unfold selectA
  rw [fld_place o h (a := 25) (n := 6) (by decide)]
  exact congrArg some ((congr (congr (congr (rfl : Instr.jal = Instr.jal) (ofNat_field (y := z_) (fld_field o h 0 (by decide)))) (ofNat_field (y := d_) (fld_field o h 1 (by decide)))) (ofNat_field (y := i_) (fld_field o h 2 (by decide)))))

theorem RoundTrip.jr (z_ : BitVec 1) (a_ : BitVec 5) : RoundTrip.Statement (.jr z_ a_) := by
  refine RoundTrip.ofA rfl ?_
  have o : layoutOk 0x28000000 [(31, 1), (15, 5)] = true := by decide
  have h : Fits [z_.toNat, a_.toNat] [(31, 1), (15, 5)] := ⟨z_.isLt, a_.isLt, trivial⟩
  show selectA (place 0x28000000 (fieldsOf [z_.toNat, a_.toNat] [(31, 1), (15, 5)])) = _
  unfold selectA
  rw [fld_place o h (a := 25) (n := 6) (by decide)]
  exact congrArg some ((congr (congr (rfl : Instr.jr = Instr.jr) (ofNat_field (y := z_) (fld_field o h 0 (by decide)))) (ofNat_field (y := a_) (fld_field o h 1 (by decide)))))

theorem RoundTrip.exit (z_ : BitVec 1) : RoundTrip.Statement (.exit z_) := by
  refine RoundTrip.ofA rfl ?_
  have o : layoutOk 0x2A000000 [(31, 1)] = true := by decide
  have h : Fits [z_.toNat] [(31, 1)] := ⟨z_.isLt, trivial⟩
  show selectA (place 0x2A000000 (fieldsOf [z_.toNat] [(31, 1)])) = _
  unfold selectA
  rw [fld_place o h (a := 25) (n := 6) (by decide)]
  exact congrArg some ((congr (rfl : Instr.exit = Instr.exit) (ofNat_field (y := z_) (fld_field o h 0 (by decide)))))

theorem RoundTrip.ldb (z_ : BitVec 1) (d_ : BitVec 5) (a_ : BitVec 5) (i_ : BitVec 10) : RoundTrip.Statement (.ldb z_ d_ a_ i_) := by
  refine RoundTrip.ofA rfl ?_
  have o : layoutOk 0x30000000 [(31, 1), (20, 5), (15, 5), (0, 10)] = true := by decide
  have h : Fits [z_.toNat, d_.toNat, a_.toNat, i_.toNat] [(31, 1), (20, 5), (15, 5), (0, 10)] := ⟨z_.isLt, d_.isLt, a_.isLt, i_.isLt, trivial⟩
  show selectA (place 0x30000000 (fieldsOf [z_.toNat, d_.toNat, a_.toNat, i_.toNat] [(31, 1), (20, 5), (15, 5), (0, 10)])) = _
  unfold selectA
  rw [fld_place o h (a := 25) (n := 6) (by decide)]
  exact congrArg some ((congr (congr (congr (congr (rfl : Instr.ldb = Instr.ldb) (ofNat_field (y := z_) (fld_field o h 0 (by decide)))) (ofNat_field (y := d_) (fld_field o h 1 (by decide)))) (ofNat_field (y := a_) (fld_field o h 2 (by decide)))) (ofNat_field (y := i_) (fld_field o h 3 (by decide)))))

theorem RoundTrip.ldbz (z_ : BitVec 1) (d_ : BitVec 5) (a_ : BitVec 5) (i_ : BitVec 10) : RoundTrip.Statement (.ldbz z_ d_ a_ i_) := by
  refine RoundTrip.ofA rfl ?_
  have o : layoutOk 0x32000000 [(31, 1), (20, 5), (15, 5), (0, 10)] = true := by decide
  have h : Fits [z_.toNat, d_.toNat, a_.toNat, i_.toNat] [(31, 1), (20, 5), (15, 5), (0, 10)] := ⟨z_.isLt, d_.isLt, a_.isLt, i_.isLt, trivial⟩
  show selectA (place 0x32000000 (fieldsOf [z_.toNat, d_.toNat, a_.toNat, i_.toNat] [(31, 1), (20, 5), (15, 5), (0, 10)])) = _
  unfold selectA
  rw [fld_place o h (a := 25) (n := 6) (by decide)]
  exact congrArg some ((congr (congr (congr (congr (rfl : Instr.ldbz = Instr.ldbz) (ofNat_field (y := z_) (fld_field o h 0 (by decide)))) (ofNat_field (y := d_) (fld_field o h 1 (by decide)))) (ofNat_field (y := a_) (fld_field o h 2 (by decide)))) (ofNat_field (y := i_) (fld_field o h 3 (by decide)))))

theorem RoundTrip.ldh (z_ : BitVec 1) (d_ : BitVec 5) (a_ : BitVec 5) (i_ : BitVec 10) : RoundTrip.Statement (.ldh z_ d_ a_ i_) := by
  refine RoundTrip.ofA rfl ?_
  have o : layoutOk 0x34000000 [(31, 1), (20, 5), (15, 5), (0, 10)] = true := by decide
  have h : Fits [z_.toNat, d_.toNat, a_.toNat, i_.toNat] [(31, 1), (20, 5), (15, 5), (0, 10)] := ⟨z_.isLt, d_.isLt, a_.isLt, i_.isLt, trivial⟩
  show selectA (place 0x34000000 (fieldsOf [z_.toNat, d_.toNat, a_.toNat, i_.toNat] [(31, 1), (20, 5), (15, 5), (0, 10)])) = _
  unfold selectA
  rw [fld_place o h (a := 25) (n := 6) (by decide)]
  exact congrArg some ((congr (congr (congr (congr (rfl : Instr.ldh = Instr.ldh) (ofNat_field (y := z_) (fld_field o h 0 (by decide)))) (ofNat_field (y := d_) (fld_field o h 1 (by decide)))) (ofNat_field (y := a_) (fld_field o h 2 (by decide)))) (ofNat_field (y := i_) (fld_field o h 3 (by decide)))))

theorem RoundTrip.ldhz (z_ : BitVec 1) (d_ : BitVec 5) (a_ : BitVec 5) (i_ : BitVec 10) : RoundTrip.Statement (.ldhz z_ d_ a_ i_) := by
  refine RoundTrip.ofA rfl ?_
  have o : layoutOk 0x36000000 [(31, 1), (20, 5), (15, 5), (0, 10)] = true := by decide
  have h : Fits [z_.toNat, d_.toNat, a_.toNat, i_.toNat] [(31, 1), (20, 5), (15, 5), (0, 10)] := ⟨z_.isLt, d_.isLt, a_.isLt, i_.isLt, trivial⟩
  show selectA (place 0x36000000 (fieldsOf [z_.toNat, d_.toNat, a_.toNat, i_.toNat] [(31, 1), (20, 5), (15, 5), (0, 10)])) = _
  unfold selectA
  rw [fld_place o h (a := 25) (n := 6) (by decide)]
  exact congrArg some ((congr (congr (congr (congr (rfl : Instr.ldhz = Instr.ldhz) (ofNat_field (y := z_) (fld_field o h 0 (by decide)))) (ofNat_field (y := d_) (fld_field o h 1 (by decide)))) (ofNat_field (y := a_) (fld_field o h 2 (by decide)))) (ofNat_field (y := i_) (fld_field o h 3 (by decide)))))

theorem RoundTrip.ldw (z_ : BitVec 1) (d_ : BitVec 5) (a_ : BitVec 5) (i_ : BitVec 10) : RoundTrip.Statement (.ldw z_ d_ a_ i_) := by
  refine RoundTrip.ofA rfl ?_
  have o : layoutOk 0x38000000 [(31, 1), (20, 5), (15, 5), (0, 10)] = true := by decide
  have h : Fits [z_.toNat, d_.toNat, a_.toNat, i_.toNat] [(31, 1), (20, 5), (15, 5), (0, 10)] := ⟨z_.isLt, d_.isLt, a_.isLt, i_.isLt, trivial⟩
  show selectA (place 0x38000000 (fieldsOf [z_.toNat, d_.toNat, a_.toNat, i_.toNat] [(31, 1), (20, 5), (15, 5), (0, 10)])) = _
  unfold selectA
  rw [fld_place o h (a := 25) (n := 6) (by decide)]
  exact congrArg some ((congr (congr (congr (congr (rfl : Instr.ldw = Instr.ldw) (ofNat_field (y := z_) (fld_field o h 0 (by decide)))) (ofNat_field (y := d_) (fld_field o h 1 (by decide)))) (ofNat_field (y := a_) (fld_field o h 2 (by decide)))) (ofNat_field (y := i_) (fld_field o h 3 (by decide)))))

theorem RoundTrip.ldwz (z_ : BitVec 1) (d_ : BitVec 5) (a_ : BitVec 5) (i_ : BitVec 10) : RoundTrip.Statement (.ldwz z_ d_ a_ i_) := by
  refine RoundTrip.ofA rfl ?_
  have o : layoutOk 0x3A000000 [(31, 1), (20, 5), (15, 5), (0, 10)] = true := by decide
  have h : Fits [z_.toNat, d_.toNat, a_.toNat, i_.toNat] [(31, 1), (20, 5), (15, 5), (0, 10)] := ⟨z_.isLt, d_.isLt, a_.isLt, i_.isLt, trivial⟩
  show selectA (place 0x3A000000 (fieldsOf [z_.toNat, d_.toNat, a_.toNat, i_.toNat] [(31, 1), (20, 5), (15, 5), (0, 10)])) = _
  unfold selectA
  rw [fld_place o h (a := 25) (n := 6) (by decide)]
  exact congrArg some ((congr (congr (congr (congr (rfl : Instr.ldwz = Instr.ldwz) (ofNat_field (y := z_) (fld_field o h 0 (by decide)))) (ofNat_field (y := d_) (fld_field o h 1 (by decide)))) (ofNat_field (y := a_) (fld_field o h 2 (by decide)))) (ofNat_field (y := i_) (fld_field o h 3 (by decide)))))

theorem RoundTrip.ldd (z_ : BitVec 1) (d_ : BitVec 5) (a_ : BitVec 5) (i_ : BitVec 10) : RoundTrip.Statement (.ldd z_ d_ a_ i_) := by
  refine RoundTrip.ofA rfl ?_
  have o : layoutOk 0x3C000000 [(31, 1), (20, 5), (15, 5), (0, 10)] = true := by decide
  have h : Fits [z_.toNat, d_.toNat, a_.toNat, i_.toNat] [(31, 1), (20, 5), (15, 5), (0, 10)] := ⟨z_.isLt, d_.isLt, a_.isLt, i_.isLt, trivial⟩
  show selectA (place 0x3C000000 (fieldsOf [z_.toNat, d_.toNat, a_.toNat, i_.toNat] [(31, 1), (20, 5), (15, 5), (0, 10)])) = _
  unfold selectA
  rw [fld_place o h (a := 25) (n := 6) (by decide)]
  exact congrArg some ((congr (congr (congr (congr (rfl : Instr.ldd = Instr.ldd) (ofNat_field (y := z_) (fld_field o h 0 (by decide)))) (ofNat_field (y := d_) (fld_field o h 1 (by decide)))) (ofNat_field (y := a_) (fld_field o h 2 (by decide)))) (ofNat_field (y := i_) (fld_field o h 3 (by decide)))))

theorem RoundTrip.stb (z_ : BitVec 1) (d_ : BitVec 5) (a_ : BitVec 5) (i_ : BitVec 10) : RoundTrip.Statement (.stb z_ d_ a_ i_) := by
  refine RoundTrip.ofA rfl ?_
  have o : layoutOk 0x3E000000 [(31, 1), (20, 5), (15, 5), (0, 10)] = true := by decide
  have h : Fits [z_.toNat, d_.toNat, a_.toNat, i_.toNat] [(31, 1), (20, 5), (15, 5), (0, 10)] := ⟨z_.isLt, d_.isLt, a_.isLt, i_.isLt, trivial⟩
  show selectA (place 0x3E000000 (fieldsOf [z_.toNat, d_.toNat, a_.toNat, i_.toNat] [(31, 1), (20, 5), (15, 5), (0, 10)])) = _
  unfold selectA
  rw [fld_place o h (a := 25) (n := 6) (by decide)]
  exact congrArg some ((congr (congr (congr (congr (rfl : Instr.stb = Instr.stb) (ofNat_field (y := z_) (fld_field o h 0 (by decide)))) (ofNat_field (y := d_) (fld_field o h 1 (by decide)))) (ofNat_field (y := a_) (fld_field o h 2 (by decide)))) (ofNat_field (y := i_) (fld_field o h 3 (by decide)))))

theorem RoundTrip.sth (z_ : BitVec 1) (d_ : BitVec 5) (a_ : BitVec 5) (i_ : BitVec 10) : RoundTrip.Statement (.sth z_ d_ a_ i_) := by
  refine RoundTrip.ofA rfl ?_
  have o : layoutOk 0x40000000 [(31, 1), (20, 5), (15, 5), (0, 10)] = true := by decide
  have h : Fits [z_.toNat, d_.toNat, a_.toNat, i_.toNat] [(31, 1), (20, 5), (15, 5), (0, 10)] := ⟨z_.isLt, d_.isLt, a_.isLt, i_.isLt, trivial⟩
  show selectA (place 0x40000000 (fieldsOf [z_.toNat, d_.toNat, a_.toNat, i_.toNat] [(31, 1), (20, 5), (15, 5), (0, 10)])) = _
  unfold selectA
  rw [fld_place o h (a := 25) (n := 6) (by decide)]
  exact congrArg some ((congr (congr (congr (congr (rfl : Instr.sth = Instr.sth) (ofNat_field (y := z_) (fld_field o h 0 (by decide)))) (ofNat_field (y := d_) (fld_field o h 1 (by decide)))) (ofNat_field (y := a_) (fld_field o h 2 (by decide)))) (ofNat_field (y := i_) (fld_field o h 3 (by decide)))))

theorem RoundTrip.stw (z_ : BitVec 1) (d_ : BitVec 5) (a_ : BitVec 5) (i_ : BitVec 10) : RoundTrip.Statement (.stw z_ d_ a_ i_) := by
  refine RoundTrip.ofA rfl ?_
  have o : layoutOk 0x42000000 [(31, 1), (20, 5), (15, 5), (0, 10)] = true := by decide
  have h : Fits [z_.toNat, d_.toNat, a_.toNat, i_.toNat] [(31, 1), (20, 5), (15, 5), (0, 10)] := ⟨z_.isLt, d_.isLt, a_.isLt, i_.isLt, trivial⟩
  show selectA (place 0x42000000 (fieldsOf [z_.toNat, d_.toNat, a_.toNat, i_.toNat] [(31, 1), (20, 5), (15, 5), (0, 10)])) = _
  unfold selectA
  rw [fld_place o h (a := 25) (n := 6) (by decide)]
  exact congrArg some ((congr (congr (congr (congr (rfl : Instr.stw = Instr.stw) (ofNat_field (y := z_) (fld_field o h 0 (by decide)))) (ofNat_field (y := d_) (fld_field o h 1 (by decide)))) (ofNat_field (y := a_) (fld_field o h 2 (by decide)))) (ofNat_field (y := i_) (fld_field o h 3 (by decide)))))

theorem RoundTrip.std (z_ : BitVec 1) (d_ : BitVec 5) (a_ : BitVec 5) (i_ : BitVec 10) : RoundTrip.Statement (.std z_ d_ a_ i_) := by
  refine RoundTrip.ofA rfl ?_
  have o : layoutOk 0x44000000 [(31, 1), (20, 5), (15, 5), (0, 10)] = true := by decide
  have h : Fits [z_.toNat, d_.toNat, a_.toNat, i_.toNat] [(31, 1), (20, 5), (15, 5), (0, 10)] := ⟨z_.isLt, d_.isLt, a_.isLt, i_.isLt, trivial⟩
  show selectA (place 0x44000000 (fieldsOf [z_.toNat, d_.toNat, a_.toNat, i_.toNat] [(31, 1), (20, 5), (15, 5), (0, 10)])) = _
  unfold selectA
  rw [fld_place o h (a := 25) (n := 6) (by decide)]
  exact congrArg some ((congr (congr (congr (congr (rfl : Instr.std = Instr.std) (ofNat_field (y := z_) (fld_field o h 0 (by decide)))) (ofNat_field (y := d_) (fld_field o h 1 (by decide)))) (ofNat_field (y := a_) (fld_field o h 2 (by decide)))) (ofNat_field (y := i_) (fld_field o h 3 (by decide)))))

theorem RoundTrip.vld (z_ : BitVec 1) (v_ : BitVec 4) (a_ : BitVec 5) (g_ : BitVec 3) (f_ : BitVec 4) (i_ : BitVec 8) : RoundTrip.Statement (.vld z_ v_ a_ g_ f_ i_) := by
  refine RoundTrip.ofA rfl ?_
  have o : layoutOk 0x46000000 [(31, 1), (20, 4), (15, 5), (12, 3), (8, 4), (0, 8)] = true := by decide
  have h : Fits [z_.toNat, v_.toNat, a_.toNat, g_.toNat, f_.toNat, i_.toNat] [(31, 1), (20, 4), (15, 5), (12, 3), (8, 4), (0, 8)] := ⟨z_.isLt, v_.isLt, a_.isLt, g_.isLt, f_.isLt, i_.isLt, trivial⟩
  show selectA (place 0x46000000 (fieldsOf [z_.toNat, v_.toNat, a_.toNat, g_.toNat, f_.toNat, i_.toNat] [(31, 1), (20, 4), (15, 5), (12, 3), (8, 4), (0, 8)])) = _
  unfold selectA
  rw [fld_place o h (a := 25) (n := 6) (by decide)]
  exact congrArg some ((congr (congr (congr (congr (congr (congr (rfl : Instr.vld = Instr.vld) (ofNat_field (y := z_) (fld_field o h 0 (by decide)))) (ofNat_field (y := v_) (fld_field o h 1 (by decide)))) (ofNat_field (y := a_) (fld_field o h 2 (by decide)))) (ofNat_field (y := g_) (fld_field o h 3 (by decide)))) (ofNat_field (y := f_) (fld_field o h 4 (by decide)))) (ofNat_field (y := i_) (fld_field o h 5 (by decide)))))

theorem RoundTrip.vst (z_ : BitVec 1) (v_ : BitVec 4) (a_ : BitVec 5) (g_ : BitVec 3) (i_ : BitVec 8) : RoundTrip.Statement (.vst z_ v_ a_ g_ i_) := by
  refine RoundTrip.ofA rfl ?_
  have o : layoutOk 0x48000000 [(31, 1), (20, 4), (15, 5), (12, 3), (0, 8)] = true := by decide
  have h : Fits [z_.toNat, v_.toNat, a_.toNat, g_.toNat, i_.toNat] [(31, 1), (20, 4), (15, 5), (12, 3), (0, 8)] := ⟨z_.isLt, v_.isLt, a_.isLt, g_.isLt, i_.isLt, trivial⟩
  show selectA (place 0x48000000 (fieldsOf [z_.toNat, v_.toNat, a_.toNat, g_.toNat, i_.toNat] [(31, 1), (20, 4), (15, 5), (12, 3), (0, 8)])) = _
  unfold selectA
  rw [fld_place o h (a := 25) (n := 6) (by decide)]
  exact congrArg some ((congr (congr (congr (congr (congr (rfl : Instr.vst = Instr.vst) (ofNat_field (y := z_) (fld_field o h 0 (by decide)))) (ofNat_field (y := v_) (fld_field o h 1 (by decide)))) (ofNat_field (y := a_) (fld_field o h 2 (by decide)))) (ofNat_field (y := g_) (fld_field o h 3 (by decide)))) (ofNat_field (y := i_) (fld_field o h 4 (by decide)))))

theorem RoundTrip.vlds (z_ : BitVec 1) (v_ : BitVec 4) (a_ : BitVec 5) (g_ : BitVec 3) (f_ : BitVec 4) (t_ : BitVec 5) : RoundTrip.Statement (.vlds z_ v_ a_ g_ f_ t_) := by
  refine RoundTrip.ofA rfl ?_
  have o : layoutOk 0x4A000000 [(31, 1), (20, 4), (15, 5), (12, 3), (8, 4), (3, 5)] = true := by decide
  have h : Fits [z_.toNat, v_.toNat, a_.toNat, g_.toNat, f_.toNat, t_.toNat] [(31, 1), (20, 4), (15, 5), (12, 3), (8, 4), (3, 5)] := ⟨z_.isLt, v_.isLt, a_.isLt, g_.isLt, f_.isLt, t_.isLt, trivial⟩
  show selectA (place 0x4A000000 (fieldsOf [z_.toNat, v_.toNat, a_.toNat, g_.toNat, f_.toNat, t_.toNat] [(31, 1), (20, 4), (15, 5), (12, 3), (8, 4), (3, 5)])) = _
  unfold selectA
  rw [fld_place o h (a := 25) (n := 6) (by decide)]
  exact congrArg some ((congr (congr (congr (congr (congr (congr (rfl : Instr.vlds = Instr.vlds) (ofNat_field (y := z_) (fld_field o h 0 (by decide)))) (ofNat_field (y := v_) (fld_field o h 1 (by decide)))) (ofNat_field (y := a_) (fld_field o h 2 (by decide)))) (ofNat_field (y := g_) (fld_field o h 3 (by decide)))) (ofNat_field (y := f_) (fld_field o h 4 (by decide)))) (ofNat_field (y := t_) (fld_field o h 5 (by decide)))))

theorem RoundTrip.vgth (z_ : BitVec 1) (v_ : BitVec 4) (a_ : BitVec 5) (g_ : BitVec 3) (f_ : BitVec 4) (x_ : BitVec 4) : RoundTrip.Statement (.vgth z_ v_ a_ g_ f_ x_) := by
  refine RoundTrip.ofA rfl ?_
  have o : layoutOk 0x4C000000 [(31, 1), (20, 4), (15, 5), (12, 3), (8, 4), (4, 4)] = true := by decide
  have h : Fits [z_.toNat, v_.toNat, a_.toNat, g_.toNat, f_.toNat, x_.toNat] [(31, 1), (20, 4), (15, 5), (12, 3), (8, 4), (4, 4)] := ⟨z_.isLt, v_.isLt, a_.isLt, g_.isLt, f_.isLt, x_.isLt, trivial⟩
  show selectA (place 0x4C000000 (fieldsOf [z_.toNat, v_.toNat, a_.toNat, g_.toNat, f_.toNat, x_.toNat] [(31, 1), (20, 4), (15, 5), (12, 3), (8, 4), (4, 4)])) = _
  unfold selectA
  rw [fld_place o h (a := 25) (n := 6) (by decide)]
  exact congrArg some ((congr (congr (congr (congr (congr (congr (rfl : Instr.vgth = Instr.vgth) (ofNat_field (y := z_) (fld_field o h 0 (by decide)))) (ofNat_field (y := v_) (fld_field o h 1 (by decide)))) (ofNat_field (y := a_) (fld_field o h 2 (by decide)))) (ofNat_field (y := g_) (fld_field o h 3 (by decide)))) (ofNat_field (y := f_) (fld_field o h 4 (by decide)))) (ofNat_field (y := x_) (fld_field o h 5 (by decide)))))

theorem RoundTrip.vsct (z_ : BitVec 1) (v_ : BitVec 4) (a_ : BitVec 5) (g_ : BitVec 3) (f_ : BitVec 4) (x_ : BitVec 4) : RoundTrip.Statement (.vsct z_ v_ a_ g_ f_ x_) := by
  refine RoundTrip.ofA rfl ?_
  have o : layoutOk 0x4E000000 [(31, 1), (20, 4), (15, 5), (12, 3), (8, 4), (4, 4)] = true := by decide
  have h : Fits [z_.toNat, v_.toNat, a_.toNat, g_.toNat, f_.toNat, x_.toNat] [(31, 1), (20, 4), (15, 5), (12, 3), (8, 4), (4, 4)] := ⟨z_.isLt, v_.isLt, a_.isLt, g_.isLt, f_.isLt, x_.isLt, trivial⟩
  show selectA (place 0x4E000000 (fieldsOf [z_.toNat, v_.toNat, a_.toNat, g_.toNat, f_.toNat, x_.toNat] [(31, 1), (20, 4), (15, 5), (12, 3), (8, 4), (4, 4)])) = _
  unfold selectA
  rw [fld_place o h (a := 25) (n := 6) (by decide)]
  exact congrArg some ((congr (congr (congr (congr (congr (congr (rfl : Instr.vsct = Instr.vsct) (ofNat_field (y := z_) (fld_field o h 0 (by decide)))) (ofNat_field (y := v_) (fld_field o h 1 (by decide)))) (ofNat_field (y := a_) (fld_field o h 2 (by decide)))) (ofNat_field (y := g_) (fld_field o h 3 (by decide)))) (ofNat_field (y := f_) (fld_field o h 4 (by decide)))) (ofNat_field (y := x_) (fld_field o h 5 (by decide)))))

theorem RoundTrip.ldv (z_ : BitVec 1) (d_ : BitVec 5) (a_ : BitVec 5) (n_ : BitVec 6) (i_ : BitVec 9) : RoundTrip.Statement (.ldv z_ d_ a_ n_ i_) := by
  refine RoundTrip.ofA rfl ?_
  have o : layoutOk 0x50000000 [(31, 1), (20, 5), (15, 5), (9, 6), (0, 9)] = true := by decide
  have h : Fits [z_.toNat, d_.toNat, a_.toNat, n_.toNat, i_.toNat] [(31, 1), (20, 5), (15, 5), (9, 6), (0, 9)] := ⟨z_.isLt, d_.isLt, a_.isLt, n_.isLt, i_.isLt, trivial⟩
  show selectA (place 0x50000000 (fieldsOf [z_.toNat, d_.toNat, a_.toNat, n_.toNat, i_.toNat] [(31, 1), (20, 5), (15, 5), (9, 6), (0, 9)])) = _
  unfold selectA
  rw [fld_place o h (a := 25) (n := 6) (by decide)]
  exact congrArg some ((congr (congr (congr (congr (congr (rfl : Instr.ldv = Instr.ldv) (ofNat_field (y := z_) (fld_field o h 0 (by decide)))) (ofNat_field (y := d_) (fld_field o h 1 (by decide)))) (ofNat_field (y := a_) (fld_field o h 2 (by decide)))) (ofNat_field (y := n_) (fld_field o h 3 (by decide)))) (ofNat_field (y := i_) (fld_field o h 4 (by decide)))))

theorem RoundTrip.stv (z_ : BitVec 1) (d_ : BitVec 5) (a_ : BitVec 5) (i_ : BitVec 10) : RoundTrip.Statement (.stv z_ d_ a_ i_) := by
  refine RoundTrip.ofA rfl ?_
  have o : layoutOk 0x52000000 [(31, 1), (20, 5), (15, 5), (0, 10)] = true := by decide
  have h : Fits [z_.toNat, d_.toNat, a_.toNat, i_.toNat] [(31, 1), (20, 5), (15, 5), (0, 10)] := ⟨z_.isLt, d_.isLt, a_.isLt, i_.isLt, trivial⟩
  show selectA (place 0x52000000 (fieldsOf [z_.toNat, d_.toNat, a_.toNat, i_.toNat] [(31, 1), (20, 5), (15, 5), (0, 10)])) = _
  unfold selectA
  rw [fld_place o h (a := 25) (n := 6) (by decide)]
  exact congrArg some ((congr (congr (congr (congr (rfl : Instr.stv = Instr.stv) (ofNat_field (y := z_) (fld_field o h 0 (by decide)))) (ofNat_field (y := d_) (fld_field o h 1 (by decide)))) (ofNat_field (y := a_) (fld_field o h 2 (by decide)))) (ofNat_field (y := i_) (fld_field o h 3 (by decide)))))

theorem RoundTrip.ldfe (z_ : BitVec 1) (d_ : BitVec 5) (a_ : BitVec 5) (i_ : BitVec 10) : RoundTrip.Statement (.ldfe z_ d_ a_ i_) := by
  refine RoundTrip.ofA rfl ?_
  have o : layoutOk 0x54000000 [(31, 1), (20, 5), (15, 5), (0, 10)] = true := by decide
  have h : Fits [z_.toNat, d_.toNat, a_.toNat, i_.toNat] [(31, 1), (20, 5), (15, 5), (0, 10)] := ⟨z_.isLt, d_.isLt, a_.isLt, i_.isLt, trivial⟩
  show selectA (place 0x54000000 (fieldsOf [z_.toNat, d_.toNat, a_.toNat, i_.toNat] [(31, 1), (20, 5), (15, 5), (0, 10)])) = _
  unfold selectA
  rw [fld_place o h (a := 25) (n := 6) (by decide)]
  exact congrArg some ((congr (congr (congr (congr (rfl : Instr.ldfe = Instr.ldfe) (ofNat_field (y := z_) (fld_field o h 0 (by decide)))) (ofNat_field (y := d_) (fld_field o h 1 (by decide)))) (ofNat_field (y := a_) (fld_field o h 2 (by decide)))) (ofNat_field (y := i_) (fld_field o h 3 (by decide)))))

theorem RoundTrip.stfe (z_ : BitVec 1) (d_ : BitVec 5) (a_ : BitVec 5) (i_ : BitVec 10) : RoundTrip.Statement (.stfe z_ d_ a_ i_) := by
  refine RoundTrip.ofA rfl ?_
  have o : layoutOk 0x56000000 [(31, 1), (20, 5), (15, 5), (0, 10)] = true := by decide
  have h : Fits [z_.toNat, d_.toNat, a_.toNat, i_.toNat] [(31, 1), (20, 5), (15, 5), (0, 10)] := ⟨z_.isLt, d_.isLt, a_.isLt, i_.isLt, trivial⟩
  show selectA (place 0x56000000 (fieldsOf [z_.toNat, d_.toNat, a_.toNat, i_.toNat] [(31, 1), (20, 5), (15, 5), (0, 10)])) = _
  unfold selectA
  rw [fld_place o h (a := 25) (n := 6) (by decide)]
  exact congrArg some ((congr (congr (congr (congr (rfl : Instr.stfe = Instr.stfe) (ofNat_field (y := z_) (fld_field o h 0 (by decide)))) (ofNat_field (y := d_) (fld_field o h 1 (by decide)))) (ofNat_field (y := a_) (fld_field o h 2 (by decide)))) (ofNat_field (y := i_) (fld_field o h 3 (by decide)))))

theorem RoundTrip.amo (z_ : BitVec 1) (d_ : BitVec 5) (a_ : BitVec 5) (b_ : BitVec 5) (w_ : BitVec 1) (p_ : BitVec 4) : RoundTrip.Statement (.amo z_ d_ a_ b_ w_ p_) := by
  refine RoundTrip.ofA rfl ?_
  have o : layoutOk 0x58000000 [(31, 1), (20, 5), (15, 5), (10, 5), (4, 1), (0, 4)] = true := by decide
  have h : Fits [z_.toNat, d_.toNat, a_.toNat, b_.toNat, w_.toNat, p_.toNat] [(31, 1), (20, 5), (15, 5), (10, 5), (4, 1), (0, 4)] := ⟨z_.isLt, d_.isLt, a_.isLt, b_.isLt, w_.isLt, p_.isLt, trivial⟩
  show selectA (place 0x58000000 (fieldsOf [z_.toNat, d_.toNat, a_.toNat, b_.toNat, w_.toNat, p_.toNat] [(31, 1), (20, 5), (15, 5), (10, 5), (4, 1), (0, 4)])) = _
  unfold selectA
  rw [fld_place o h (a := 25) (n := 6) (by decide), fld_place o h (a := 8) (n := 2) (by decide)]
  exact congrArg some ((congr (congr (congr (congr (congr (congr (rfl : Instr.amo = Instr.amo) (ofNat_field (y := z_) (fld_field o h 0 (by decide)))) (ofNat_field (y := d_) (fld_field o h 1 (by decide)))) (ofNat_field (y := a_) (fld_field o h 2 (by decide)))) (ofNat_field (y := b_) (fld_field o h 3 (by decide)))) (ofNat_field (y := w_) (fld_field o h 4 (by decide)))) (ofNat_field (y := p_) (fld_field o h 5 (by decide)))))

theorem RoundTrip.amoc (z_ : BitVec 1) (d_ : BitVec 5) (a_ : BitVec 5) (b_ : BitVec 5) (w_ : BitVec 1) : RoundTrip.Statement (.amoc z_ d_ a_ b_ w_) := by
  refine RoundTrip.ofA rfl ?_
  have o : layoutOk 0x5800010A [(31, 1), (20, 5), (15, 5), (10, 5), (4, 1)] = true := by decide
  have h : Fits [z_.toNat, d_.toNat, a_.toNat, b_.toNat, w_.toNat] [(31, 1), (20, 5), (15, 5), (10, 5), (4, 1)] := ⟨z_.isLt, d_.isLt, a_.isLt, b_.isLt, w_.isLt, trivial⟩
  show selectA (place 0x5800010A (fieldsOf [z_.toNat, d_.toNat, a_.toNat, b_.toNat, w_.toNat] [(31, 1), (20, 5), (15, 5), (10, 5), (4, 1)])) = _
  unfold selectA
  rw [fld_place o h (a := 25) (n := 6) (by decide), fld_place o h (a := 8) (n := 2) (by decide)]
  exact congrArg some ((congr (congr (congr (congr (congr (rfl : Instr.amoc = Instr.amoc) (ofNat_field (y := z_) (fld_field o h 0 (by decide)))) (ofNat_field (y := d_) (fld_field o h 1 (by decide)))) (ofNat_field (y := a_) (fld_field o h 2 (by decide)))) (ofNat_field (y := b_) (fld_field o h 3 (by decide)))) (ofNat_field (y := w_) (fld_field o h 4 (by decide)))))

theorem RoundTrip.red (z_ : BitVec 1) (a_ : BitVec 5) (b_ : BitVec 5) (w_ : BitVec 1) (p_ : BitVec 4) : RoundTrip.Statement (.red z_ a_ b_ w_ p_) := by
  refine RoundTrip.ofA rfl ?_
  have o : layoutOk 0x5A000000 [(31, 1), (15, 5), (10, 5), (4, 1), (0, 4)] = true := by decide
  have h : Fits [z_.toNat, a_.toNat, b_.toNat, w_.toNat, p_.toNat] [(31, 1), (15, 5), (10, 5), (4, 1), (0, 4)] := ⟨z_.isLt, a_.isLt, b_.isLt, w_.isLt, p_.isLt, trivial⟩
  show selectA (place 0x5A000000 (fieldsOf [z_.toNat, a_.toNat, b_.toNat, w_.toNat, p_.toNat] [(31, 1), (15, 5), (10, 5), (4, 1), (0, 4)])) = _
  unfold selectA
  rw [fld_place o h (a := 25) (n := 6) (by decide)]
  exact congrArg some ((congr (congr (congr (congr (congr (rfl : Instr.red = Instr.red) (ofNat_field (y := z_) (fld_field o h 0 (by decide)))) (ofNat_field (y := a_) (fld_field o h 1 (by decide)))) (ofNat_field (y := b_) (fld_field o h 2 (by decide)))) (ofNat_field (y := w_) (fld_field o h 3 (by decide)))) (ofNat_field (y := p_) (fld_field o h 4 (by decide)))))

theorem RoundTrip.vrcl (z_ : BitVec 1) (a_ : BitVec 5) (b_ : BitVec 5) : RoundTrip.Statement (.vrcl z_ a_ b_) := by
  refine RoundTrip.ofA rfl ?_
  have o : layoutOk 0x5C000040 [(31, 1), (15, 5), (10, 5)] = true := by decide
  have h : Fits [z_.toNat, a_.toNat, b_.toNat] [(31, 1), (15, 5), (10, 5)] := ⟨z_.isLt, a_.isLt, b_.isLt, trivial⟩
  show selectA (place 0x5C000040 (fieldsOf [z_.toNat, a_.toNat, b_.toNat] [(31, 1), (15, 5), (10, 5)])) = _
  unfold selectA
  rw [fld_place o h (a := 25) (n := 6) (by decide), fld_place o h (a := 6) (n := 4) (by decide)]
  exact congrArg some ((congr (congr (congr (rfl : Instr.vrcl = Instr.vrcl) (ofNat_field (y := z_) (fld_field o h 0 (by decide)))) (ofNat_field (y := a_) (fld_field o h 1 (by decide)))) (ofNat_field (y := b_) (fld_field o h 2 (by decide)))))

theorem RoundTrip.watch (z_ : BitVec 1) (d_ : BitVec 5) (a_ : BitVec 5) : RoundTrip.Statement (.watch z_ d_ a_) := by
  refine RoundTrip.ofA rfl ?_
  have o : layoutOk 0x5C000080 [(31, 1), (20, 5), (15, 5)] = true := by decide
  have h : Fits [z_.toNat, d_.toNat, a_.toNat] [(31, 1), (20, 5), (15, 5)] := ⟨z_.isLt, d_.isLt, a_.isLt, trivial⟩
  show selectA (place 0x5C000080 (fieldsOf [z_.toNat, d_.toNat, a_.toNat] [(31, 1), (20, 5), (15, 5)])) = _
  unfold selectA
  rw [fld_place o h (a := 25) (n := 6) (by decide), fld_place o h (a := 6) (n := 4) (by decide)]
  exact congrArg some ((congr (congr (congr (rfl : Instr.watch = Instr.watch) (ofNat_field (y := z_) (fld_field o h 0 (by decide)))) (ofNat_field (y := d_) (fld_field o h 1 (by decide)))) (ofNat_field (y := a_) (fld_field o h 2 (by decide)))))

theorem RoundTrip.unwatch (z_ : BitVec 1) (a_ : BitVec 5) : RoundTrip.Statement (.unwatch z_ a_) := by
  refine RoundTrip.ofA rfl ?_
  have o : layoutOk 0x5C0000C0 [(31, 1), (15, 5)] = true := by decide
  have h : Fits [z_.toNat, a_.toNat] [(31, 1), (15, 5)] := ⟨z_.isLt, a_.isLt, trivial⟩
  show selectA (place 0x5C0000C0 (fieldsOf [z_.toNat, a_.toNat] [(31, 1), (15, 5)])) = _
  unfold selectA
  rw [fld_place o h (a := 25) (n := 6) (by decide), fld_place o h (a := 6) (n := 4) (by decide)]
  exact congrArg some ((congr (congr (rfl : Instr.unwatch = Instr.unwatch) (ofNat_field (y := z_) (fld_field o h 0 (by decide)))) (ofNat_field (y := a_) (fld_field o h 1 (by decide)))))

theorem RoundTrip.wait (z_ : BitVec 1) : RoundTrip.Statement (.wait z_) := by
  refine RoundTrip.ofA rfl ?_
  have o : layoutOk 0x5C000100 [(31, 1)] = true := by decide
  have h : Fits [z_.toNat] [(31, 1)] := ⟨z_.isLt, trivial⟩
  show selectA (place 0x5C000100 (fieldsOf [z_.toNat] [(31, 1)])) = _
  unfold selectA
  rw [fld_place o h (a := 25) (n := 6) (by decide), fld_place o h (a := 6) (n := 4) (by decide)]
  exact congrArg some ((congr (rfl : Instr.wait = Instr.wait) (ofNat_field (y := z_) (fld_field o h 0 (by decide)))))

theorem RoundTrip.pfh (z_ : BitVec 1) (a_ : BitVec 5) : RoundTrip.Statement (.pfh z_ a_) := by
  refine RoundTrip.ofA rfl ?_
  have o : layoutOk 0x5C000140 [(31, 1), (15, 5)] = true := by decide
  have h : Fits [z_.toNat, a_.toNat] [(31, 1), (15, 5)] := ⟨z_.isLt, a_.isLt, trivial⟩
  show selectA (place 0x5C000140 (fieldsOf [z_.toNat, a_.toNat] [(31, 1), (15, 5)])) = _
  unfold selectA
  rw [fld_place o h (a := 25) (n := 6) (by decide), fld_place o h (a := 6) (n := 4) (by decide)]
  exact congrArg some ((congr (congr (rfl : Instr.pfh = Instr.pfh) (ofNat_field (y := z_) (fld_field o h 0 (by decide)))) (ofNat_field (y := a_) (fld_field o h 1 (by decide)))))

theorem RoundTrip.tcls (z_ : BitVec 1) (a_ : BitVec 5) (c_ : BitVec 2) (r_ : BitVec 4) : RoundTrip.Statement (.tcls z_ a_ c_ r_) := by
  refine RoundTrip.ofA rfl ?_
  have o : layoutOk 0x5C000180 [(31, 1), (15, 5), (4, 2), (0, 4)] = true := by decide
  have h : Fits [z_.toNat, a_.toNat, c_.toNat, r_.toNat] [(31, 1), (15, 5), (4, 2), (0, 4)] := ⟨z_.isLt, a_.isLt, c_.isLt, r_.isLt, trivial⟩
  show selectA (place 0x5C000180 (fieldsOf [z_.toNat, a_.toNat, c_.toNat, r_.toNat] [(31, 1), (15, 5), (4, 2), (0, 4)])) = _
  unfold selectA
  rw [fld_place o h (a := 25) (n := 6) (by decide), fld_place o h (a := 6) (n := 4) (by decide)]
  exact congrArg some ((congr (congr (congr (congr (rfl : Instr.tcls = Instr.tcls) (ofNat_field (y := z_) (fld_field o h 0 (by decide)))) (ofNat_field (y := a_) (fld_field o h 1 (by decide)))) (ofNat_field (y := c_) (fld_field o h 2 (by decide)))) (ofNat_field (y := r_) (fld_field o h 3 (by decide)))))

theorem RoundTrip.fence (z_ : BitVec 1) (s_ : BitVec 3) (k_ : BitVec 2) : RoundTrip.Statement (.fence z_ s_ k_) := by
  refine RoundTrip.ofA rfl ?_
  have o : layoutOk 0x5E000000 [(31, 1), (2, 3), (0, 2)] = true := by decide
  have h : Fits [z_.toNat, s_.toNat, k_.toNat] [(31, 1), (2, 3), (0, 2)] := ⟨z_.isLt, s_.isLt, k_.isLt, trivial⟩
  show selectA (place 0x5E000000 (fieldsOf [z_.toNat, s_.toNat, k_.toNat] [(31, 1), (2, 3), (0, 2)])) = _
  unfold selectA
  rw [fld_place o h (a := 25) (n := 6) (by decide)]
  exact congrArg some ((congr (congr (congr (rfl : Instr.fence = Instr.fence) (ofNat_field (y := z_) (fld_field o h 0 (by decide)))) (ofNat_field (y := s_) (fld_field o h 1 (by decide)))) (ofNat_field (y := k_) (fld_field o h 2 (by decide)))))

theorem RoundTrip.spawn (z_ : BitVec 1) (s_ : BitVec 5) (a_ : BitVec 5) (n_ : BitVec 4) (l_ : BitVec 1) (y_ : BitVec 1) (i_ : BitVec 9) : RoundTrip.Statement (.spawn z_ s_ a_ n_ l_ y_ i_) := by
  refine RoundTrip.ofA rfl ?_
  have o : layoutOk 0x60000000 [(31, 1), (20, 5), (15, 5), (11, 4), (10, 1), (9, 1), (0, 9)] = true := by decide
  have h : Fits [z_.toNat, s_.toNat, a_.toNat, n_.toNat, l_.toNat, y_.toNat, i_.toNat] [(31, 1), (20, 5), (15, 5), (11, 4), (10, 1), (9, 1), (0, 9)] := ⟨z_.isLt, s_.isLt, a_.isLt, n_.isLt, l_.isLt, y_.isLt, i_.isLt, trivial⟩
  show selectA (place 0x60000000 (fieldsOf [z_.toNat, s_.toNat, a_.toNat, n_.toNat, l_.toNat, y_.toNat, i_.toNat] [(31, 1), (20, 5), (15, 5), (11, 4), (10, 1), (9, 1), (0, 9)])) = _
  unfold selectA
  rw [fld_place o h (a := 25) (n := 6) (by decide)]
  exact congrArg some ((congr (congr (congr (congr (congr (congr (congr (rfl : Instr.spawn = Instr.spawn) (ofNat_field (y := z_) (fld_field o h 0 (by decide)))) (ofNat_field (y := s_) (fld_field o h 1 (by decide)))) (ofNat_field (y := a_) (fld_field o h 2 (by decide)))) (ofNat_field (y := n_) (fld_field o h 3 (by decide)))) (ofNat_field (y := l_) (fld_field o h 4 (by decide)))) (ofNat_field (y := y_) (fld_field o h 5 (by decide)))) (ofNat_field (y := i_) (fld_field o h 6 (by decide)))))

theorem RoundTrip.rcall (z_ : BitVec 1) (s_ : BitVec 5) (a_ : BitVec 5) (n_ : BitVec 5) (v_ : BitVec 4) (c_ : BitVec 3) : RoundTrip.Statement (.rcall z_ s_ a_ n_ v_ c_) := by
  refine RoundTrip.ofA rfl ?_
  have o : layoutOk 0x62000000 [(31, 1), (20, 5), (15, 5), (10, 5), (6, 4), (3, 3)] = true := by decide
  have h : Fits [z_.toNat, s_.toNat, a_.toNat, n_.toNat, v_.toNat, c_.toNat] [(31, 1), (20, 5), (15, 5), (10, 5), (6, 4), (3, 3)] := ⟨z_.isLt, s_.isLt, a_.isLt, n_.isLt, v_.isLt, c_.isLt, trivial⟩
  show selectA (place 0x62000000 (fieldsOf [z_.toNat, s_.toNat, a_.toNat, n_.toNat, v_.toNat, c_.toNat] [(31, 1), (20, 5), (15, 5), (10, 5), (6, 4), (3, 3)])) = _
  unfold selectA
  rw [fld_place o h (a := 25) (n := 6) (by decide)]
  exact congrArg some ((congr (congr (congr (congr (congr (congr (rfl : Instr.rcall = Instr.rcall) (ofNat_field (y := z_) (fld_field o h 0 (by decide)))) (ofNat_field (y := s_) (fld_field o h 1 (by decide)))) (ofNat_field (y := a_) (fld_field o h 2 (by decide)))) (ofNat_field (y := n_) (fld_field o h 3 (by decide)))) (ofNat_field (y := v_) (fld_field o h 4 (by decide)))) (ofNat_field (y := c_) (fld_field o h 5 (by decide)))))

theorem RoundTrip.rret (z_ : BitVec 1) (s_ : BitVec 5) (v_ : BitVec 4) (n_ : BitVec 4) (c_ : BitVec 3) : RoundTrip.Statement (.rret z_ s_ v_ n_ c_) := by
  refine RoundTrip.ofA rfl ?_
  have o : layoutOk 0x64000000 [(31, 1), (20, 5), (16, 4), (11, 4), (8, 3)] = true := by decide
  have h : Fits [z_.toNat, s_.toNat, v_.toNat, n_.toNat, c_.toNat] [(31, 1), (20, 5), (16, 4), (11, 4), (8, 3)] := ⟨z_.isLt, s_.isLt, v_.isLt, n_.isLt, c_.isLt, trivial⟩
  show selectA (place 0x64000000 (fieldsOf [z_.toNat, s_.toNat, v_.toNat, n_.toNat, c_.toNat] [(31, 1), (20, 5), (16, 4), (11, 4), (8, 3)])) = _
  unfold selectA
  rw [fld_place o h (a := 25) (n := 6) (by decide)]
  exact congrArg some ((congr (congr (congr (congr (congr (rfl : Instr.rret = Instr.rret) (ofNat_field (y := z_) (fld_field o h 0 (by decide)))) (ofNat_field (y := s_) (fld_field o h 1 (by decide)))) (ofNat_field (y := v_) (fld_field o h 2 (by decide)))) (ofNat_field (y := n_) (fld_field o h 3 (by decide)))) (ofNat_field (y := c_) (fld_field o h 4 (by decide)))))

theorem RoundTrip.migr (z_ : BitVec 1) (a_ : BitVec 5) : RoundTrip.Statement (.migr z_ a_) := by
  refine RoundTrip.ofA rfl ?_
  have o : layoutOk 0x66000000 [(31, 1), (15, 5)] = true := by decide
  have h : Fits [z_.toNat, a_.toNat] [(31, 1), (15, 5)] := ⟨z_.isLt, a_.isLt, trivial⟩
  show selectA (place 0x66000000 (fieldsOf [z_.toNat, a_.toNat] [(31, 1), (15, 5)])) = _
  unfold selectA
  rw [fld_place o h (a := 25) (n := 6) (by decide)]
  exact congrArg some ((congr (congr (rfl : Instr.migr = Instr.migr) (ofNat_field (y := z_) (fld_field o h 0 (by decide)))) (ofNat_field (y := a_) (fld_field o h 1 (by decide)))))

theorem RoundTrip.join (z_ : BitVec 1) (a_ : BitVec 5) : RoundTrip.Statement (.join z_ a_) := by
  refine RoundTrip.ofA rfl ?_
  have o : layoutOk 0x68000000 [(31, 1), (15, 5)] = true := by decide
  have h : Fits [z_.toNat, a_.toNat] [(31, 1), (15, 5)] := ⟨z_.isLt, a_.isLt, trivial⟩
  show selectA (place 0x68000000 (fieldsOf [z_.toNat, a_.toNat] [(31, 1), (15, 5)])) = _
  unfold selectA
  rw [fld_place o h (a := 25) (n := 6) (by decide), fld_place o h (a := 0) (n := 10) (by decide)]
  exact congrArg some ((congr (congr (rfl : Instr.join = Instr.join) (ofNat_field (y := z_) (fld_field o h 0 (by decide)))) (ofNat_field (y := a_) (fld_field o h 1 (by decide)))))

theorem RoundTrip.leave (z_ : BitVec 1) (a_ : BitVec 5) : RoundTrip.Statement (.leave z_ a_) := by
  refine RoundTrip.ofA rfl ?_
  have o : layoutOk 0x68000001 [(31, 1), (15, 5)] = true := by decide
  have h : Fits [z_.toNat, a_.toNat] [(31, 1), (15, 5)] := ⟨z_.isLt, a_.isLt, trivial⟩
  show selectA (place 0x68000001 (fieldsOf [z_.toNat, a_.toNat] [(31, 1), (15, 5)])) = _
  unfold selectA
  rw [fld_place o h (a := 25) (n := 6) (by decide), fld_place o h (a := 0) (n := 10) (by decide)]
  exact congrArg some ((congr (congr (rfl : Instr.leave = Instr.leave) (ofNat_field (y := z_) (fld_field o h 0 (by decide)))) (ofNat_field (y := a_) (fld_field o h 1 (by decide)))))

theorem RoundTrip.gbar (z_ : BitVec 1) (d_ : BitVec 5) (a_ : BitVec 5) : RoundTrip.Statement (.gbar z_ d_ a_) := by
  refine RoundTrip.ofA rfl ?_
  have o : layoutOk 0x68000002 [(31, 1), (20, 5), (15, 5)] = true := by decide
  have h : Fits [z_.toNat, d_.toNat, a_.toNat] [(31, 1), (20, 5), (15, 5)] := ⟨z_.isLt, d_.isLt, a_.isLt, trivial⟩
  show selectA (place 0x68000002 (fieldsOf [z_.toNat, d_.toNat, a_.toNat] [(31, 1), (20, 5), (15, 5)])) = _
  unfold selectA
  rw [fld_place o h (a := 25) (n := 6) (by decide), fld_place o h (a := 0) (n := 10) (by decide)]
  exact congrArg some ((congr (congr (congr (rfl : Instr.gbar = Instr.gbar) (ofNat_field (y := z_) (fld_field o h 0 (by decide)))) (ofNat_field (y := d_) (fld_field o h 1 (by decide)))) (ofNat_field (y := a_) (fld_field o h 2 (by decide)))))

theorem RoundTrip.gbard (z_ : BitVec 1) (a_ : BitVec 5) : RoundTrip.Statement (.gbard z_ a_) := by
  refine RoundTrip.ofA rfl ?_
  have o : layoutOk 0x68000003 [(31, 1), (15, 5)] = true := by decide
  have h : Fits [z_.toNat, a_.toNat] [(31, 1), (15, 5)] := ⟨z_.isLt, a_.isLt, trivial⟩
  show selectA (place 0x68000003 (fieldsOf [z_.toNat, a_.toNat] [(31, 1), (15, 5)])) = _
  unfold selectA
  rw [fld_place o h (a := 25) (n := 6) (by decide), fld_place o h (a := 0) (n := 10) (by decide)]
  exact congrArg some ((congr (congr (rfl : Instr.gbard = Instr.gbard) (ofNat_field (y := z_) (fld_field o h 0 (by decide)))) (ofNat_field (y := a_) (fld_field o h 1 (by decide)))))

theorem RoundTrip.gqry (z_ : BitVec 1) (d_ : BitVec 5) (a_ : BitVec 5) : RoundTrip.Statement (.gqry z_ d_ a_) := by
  refine RoundTrip.ofA rfl ?_
  have o : layoutOk 0x68000004 [(31, 1), (20, 5), (15, 5)] = true := by decide
  have h : Fits [z_.toNat, d_.toNat, a_.toNat] [(31, 1), (20, 5), (15, 5)] := ⟨z_.isLt, d_.isLt, a_.isLt, trivial⟩
  show selectA (place 0x68000004 (fieldsOf [z_.toNat, d_.toNat, a_.toNat] [(31, 1), (20, 5), (15, 5)])) = _
  unfold selectA
  rw [fld_place o h (a := 25) (n := 6) (by decide), fld_place o h (a := 0) (n := 10) (by decide)]
  exact congrArg some ((congr (congr (congr (rfl : Instr.gqry = Instr.gqry) (ofNat_field (y := z_) (fld_field o h 0 (by decide)))) (ofNat_field (y := d_) (fld_field o h 1 (by decide)))) (ofNat_field (y := a_) (fld_field o h 2 (by decide)))))

theorem RoundTrip.spec (z_ : BitVec 1) : RoundTrip.Statement (.spec z_) := by
  refine RoundTrip.ofA rfl ?_
  have o : layoutOk 0x6A000000 [(31, 1)] = true := by decide
  have h : Fits [z_.toNat] [(31, 1)] := ⟨z_.isLt, trivial⟩
  show selectA (place 0x6A000000 (fieldsOf [z_.toNat] [(31, 1)])) = _
  unfold selectA
  rw [fld_place o h (a := 25) (n := 6) (by decide), fld_place o h (a := 0) (n := 10) (by decide)]
  exact congrArg some ((congr (rfl : Instr.spec = Instr.spec) (ofNat_field (y := z_) (fld_field o h 0 (by decide)))))

theorem RoundTrip.commit (z_ : BitVec 1) (d_ : BitVec 5) : RoundTrip.Statement (.commit z_ d_) := by
  refine RoundTrip.ofA rfl ?_
  have o : layoutOk 0x6A000001 [(31, 1), (20, 5)] = true := by decide
  have h : Fits [z_.toNat, d_.toNat] [(31, 1), (20, 5)] := ⟨z_.isLt, d_.isLt, trivial⟩
  show selectA (place 0x6A000001 (fieldsOf [z_.toNat, d_.toNat] [(31, 1), (20, 5)])) = _
  unfold selectA
  rw [fld_place o h (a := 25) (n := 6) (by decide), fld_place o h (a := 0) (n := 10) (by decide)]
  exact congrArg some ((congr (congr (rfl : Instr.commit = Instr.commit) (ofNat_field (y := z_) (fld_field o h 0 (by decide)))) (ofNat_field (y := d_) (fld_field o h 1 (by decide)))))

theorem RoundTrip.abort (z_ : BitVec 1) : RoundTrip.Statement (.abort z_) := by
  refine RoundTrip.ofA rfl ?_
  have o : layoutOk 0x6A000002 [(31, 1)] = true := by decide
  have h : Fits [z_.toNat] [(31, 1)] := ⟨z_.isLt, trivial⟩
  show selectA (place 0x6A000002 (fieldsOf [z_.toNat] [(31, 1)])) = _
  unfold selectA
  rw [fld_place o h (a := 25) (n := 6) (by decide), fld_place o h (a := 0) (n := 10) (by decide)]
  exact congrArg some ((congr (rfl : Instr.abort = Instr.abort) (ofNat_field (y := z_) (fld_field o h 0 (by decide)))))

theorem RoundTrip.pmrg (z_ : BitVec 1) (d_ : BitVec 5) (a_ : BitVec 5) (b_ : BitVec 5) (v_ : BitVec 1) (f_ : BitVec 1) : RoundTrip.Statement (.pmrg z_ d_ a_ b_ v_ f_) := by
  refine RoundTrip.ofA rfl ?_
  have o : layoutOk 0x6C000000 [(31, 1), (20, 5), (15, 5), (10, 5), (1, 1), (0, 1)] = true := by decide
  have h : Fits [z_.toNat, d_.toNat, a_.toNat, b_.toNat, v_.toNat, f_.toNat] [(31, 1), (20, 5), (15, 5), (10, 5), (1, 1), (0, 1)] := ⟨z_.isLt, d_.isLt, a_.isLt, b_.isLt, v_.isLt, f_.isLt, trivial⟩
  show selectA (place 0x6C000000 (fieldsOf [z_.toNat, d_.toNat, a_.toNat, b_.toNat, v_.toNat, f_.toNat] [(31, 1), (20, 5), (15, 5), (10, 5), (1, 1), (0, 1)])) = _
  unfold selectA
  rw [fld_place o h (a := 25) (n := 6) (by decide)]
  exact congrArg some ((congr (congr (congr (congr (congr (congr (rfl : Instr.pmrg = Instr.pmrg) (ofNat_field (y := z_) (fld_field o h 0 (by decide)))) (ofNat_field (y := d_) (fld_field o h 1 (by decide)))) (ofNat_field (y := a_) (fld_field o h 2 (by decide)))) (ofNat_field (y := b_) (fld_field o h 3 (by decide)))) (ofNat_field (y := v_) (fld_field o h 4 (by decide)))) (ofNat_field (y := f_) (fld_field o h 5 (by decide)))))

theorem RoundTrip.send (z_ : BitVec 1) (a_ : BitVec 5) (s_ : BitVec 5) : RoundTrip.Statement (.send z_ a_ s_) := by
  refine RoundTrip.ofA rfl ?_
  have o : layoutOk 0x6E000000 [(31, 1), (15, 5), (10, 5)] = true := by decide
  have h : Fits [z_.toNat, a_.toNat, s_.toNat] [(31, 1), (15, 5), (10, 5)] := ⟨z_.isLt, a_.isLt, s_.isLt, trivial⟩
  show selectA (place 0x6E000000 (fieldsOf [z_.toNat, a_.toNat, s_.toNat] [(31, 1), (15, 5), (10, 5)])) = _
  unfold selectA
  rw [fld_place o h (a := 25) (n := 6) (by decide), fld_place o h (a := 0) (n := 10) (by decide)]
  exact congrArg some ((congr (congr (congr (rfl : Instr.send = Instr.send) (ofNat_field (y := z_) (fld_field o h 0 (by decide)))) (ofNat_field (y := a_) (fld_field o h 1 (by decide)))) (ofNat_field (y := s_) (fld_field o h 2 (by decide)))))

theorem RoundTrip.recv (z_ : BitVec 1) (d_ : BitVec 5) : RoundTrip.Statement (.recv z_ d_) := by
  refine RoundTrip.ofA rfl ?_
  have o : layoutOk 0x6E000001 [(31, 1), (20, 5)] = true := by decide
  have h : Fits [z_.toNat, d_.toNat] [(31, 1), (20, 5)] := ⟨z_.isLt, d_.isLt, trivial⟩
  show selectA (place 0x6E000001 (fieldsOf [z_.toNat, d_.toNat] [(31, 1), (20, 5)])) = _
  unfold selectA
  rw [fld_place o h (a := 25) (n := 6) (by decide), fld_place o h (a := 0) (n := 10) (by decide)]
  exact congrArg some ((congr (congr (rfl : Instr.recv = Instr.recv) (ofNat_field (y := z_) (fld_field o h 0 (by decide)))) (ofNat_field (y := d_) (fld_field o h 1 (by decide)))))

theorem RoundTrip.push (z_ : BitVec 1) (r_ : BitVec 5) (q_ : BitVec 2) : RoundTrip.Statement (.push z_ r_ q_) := by
  refine RoundTrip.ofA rfl ?_
  have o : layoutOk 0x70000000 [(31, 1), (20, 5), (0, 2)] = true := by decide
  have h : Fits [z_.toNat, r_.toNat, q_.toNat] [(31, 1), (20, 5), (0, 2)] := ⟨z_.isLt, r_.isLt, q_.isLt, trivial⟩
  show selectA (place 0x70000000 (fieldsOf [z_.toNat, r_.toNat, q_.toNat] [(31, 1), (20, 5), (0, 2)])) = _
  unfold selectA
  rw [fld_place o h (a := 25) (n := 6) (by decide)]
  exact congrArg some ((congr (congr (congr (rfl : Instr.push = Instr.push) (ofNat_field (y := z_) (fld_field o h 0 (by decide)))) (ofNat_field (y := r_) (fld_field o h 1 (by decide)))) (ofNat_field (y := q_) (fld_field o h 2 (by decide)))))

theorem RoundTrip.pop (z_ : BitVec 1) (d_ : BitVec 5) (q_ : BitVec 2) : RoundTrip.Statement (.pop z_ d_ q_) := by
  refine RoundTrip.ofA rfl ?_
  have o : layoutOk 0x72000000 [(31, 1), (20, 5), (0, 2)] = true := by decide
  have h : Fits [z_.toNat, d_.toNat, q_.toNat] [(31, 1), (20, 5), (0, 2)] := ⟨z_.isLt, d_.isLt, q_.isLt, trivial⟩
  show selectA (place 0x72000000 (fieldsOf [z_.toNat, d_.toNat, q_.toNat] [(31, 1), (20, 5), (0, 2)])) = _
  unfold selectA
  rw [fld_place o h (a := 25) (n := 6) (by decide), fld_place o h (a := 8) (n := 2) (by decide)]
  exact congrArg some ((congr (congr (congr (rfl : Instr.pop = Instr.pop) (ofNat_field (y := z_) (fld_field o h 0 (by decide)))) (ofNat_field (y := d_) (fld_field o h 1 (by decide)))) (ofNat_field (y := q_) (fld_field o h 2 (by decide)))))

theorem RoundTrip.fstat (z_ : BitVec 1) (d_ : BitVec 5) (q_ : BitVec 2) : RoundTrip.Statement (.fstat z_ d_ q_) := by
  refine RoundTrip.ofA rfl ?_
  have o : layoutOk 0x72000100 [(31, 1), (20, 5), (0, 2)] = true := by decide
  have h : Fits [z_.toNat, d_.toNat, q_.toNat] [(31, 1), (20, 5), (0, 2)] := ⟨z_.isLt, d_.isLt, q_.isLt, trivial⟩
  show selectA (place 0x72000100 (fieldsOf [z_.toNat, d_.toNat, q_.toNat] [(31, 1), (20, 5), (0, 2)])) = _
  unfold selectA
  rw [fld_place o h (a := 25) (n := 6) (by decide), fld_place o h (a := 8) (n := 2) (by decide)]
  exact congrArg some ((congr (congr (congr (rfl : Instr.fstat = Instr.fstat) (ofNat_field (y := z_) (fld_field o h 0 (by decide)))) (ofNat_field (y := d_) (fld_field o h 1 (by decide)))) (ofNat_field (y := q_) (fld_field o h 2 (by decide)))))

theorem RoundTrip.semp (z_ : BitVec 1) (n_ : BitVec 4) : RoundTrip.Statement (.semp z_ n_) := by
  refine RoundTrip.ofA rfl ?_
  have o : layoutOk 0x74000000 [(31, 1), (0, 4)] = true := by decide
  have h : Fits [z_.toNat, n_.toNat] [(31, 1), (0, 4)] := ⟨z_.isLt, n_.isLt, trivial⟩
  show selectA (place 0x74000000 (fieldsOf [z_.toNat, n_.toNat] [(31, 1), (0, 4)])) = _
  unfold selectA
  rw [fld_place o h (a := 25) (n := 6) (by decide), fld_place o h (a := 8) (n := 2) (by decide)]
  exact congrArg some ((congr (congr (rfl : Instr.semp = Instr.semp) (ofNat_field (y := z_) (fld_field o h 0 (by decide)))) (ofNat_field (y := n_) (fld_field o h 1 (by decide)))))

theorem RoundTrip.semv (z_ : BitVec 1) (n_ : BitVec 4) : RoundTrip.Statement (.semv z_ n_) := by
  refine RoundTrip.ofA rfl ?_
  have o : layoutOk 0x74000100 [(31, 1), (0, 4)] = true := by decide
  have h : Fits [z_.toNat, n_.toNat] [(31, 1), (0, 4)] := ⟨z_.isLt, n_.isLt, trivial⟩
  show selectA (place 0x74000100 (fieldsOf [z_.toNat, n_.toNat] [(31, 1), (0, 4)])) = _
  unfold selectA
  rw [fld_place o h (a := 25) (n := 6) (by decide), fld_place o h (a := 8) (n := 2) (by decide)]
  exact congrArg some ((congr (congr (rfl : Instr.semv = Instr.semv) (ofNat_field (y := z_) (fld_field o h 0 (by decide)))) (ofNat_field (y := n_) (fld_field o h 1 (by decide)))))

theorem RoundTrip.evpop (z_ : BitVec 1) (d_ : BitVec 5) : RoundTrip.Statement (.evpop z_ d_) := by
  refine RoundTrip.ofA rfl ?_
  have o : layoutOk 0x76000000 [(31, 1), (20, 5)] = true := by decide
  have h : Fits [z_.toNat, d_.toNat] [(31, 1), (20, 5)] := ⟨z_.isLt, d_.isLt, trivial⟩
  show selectA (place 0x76000000 (fieldsOf [z_.toNat, d_.toNat] [(31, 1), (20, 5)])) = _
  unfold selectA
  rw [fld_place o h (a := 25) (n := 6) (by decide), fld_place o h (a := 8) (n := 2) (by decide)]
  exact congrArg some ((congr (congr (rfl : Instr.evpop = Instr.evpop) (ofNat_field (y := z_) (fld_field o h 0 (by decide)))) (ofNat_field (y := d_) (fld_field o h 1 (by decide)))))

theorem RoundTrip.hget (z_ : BitVec 1) (d_ : BitVec 5) (a_ : BitVec 5) : RoundTrip.Statement (.hget z_ d_ a_) := by
  refine RoundTrip.ofA rfl ?_
  have o : layoutOk 0x76000100 [(31, 1), (20, 5), (15, 5)] = true := by decide
  have h : Fits [z_.toNat, d_.toNat, a_.toNat] [(31, 1), (20, 5), (15, 5)] := ⟨z_.isLt, d_.isLt, a_.isLt, trivial⟩
  show selectA (place 0x76000100 (fieldsOf [z_.toNat, d_.toNat, a_.toNat] [(31, 1), (20, 5), (15, 5)])) = _
  unfold selectA
  rw [fld_place o h (a := 25) (n := 6) (by decide), fld_place o h (a := 8) (n := 2) (by decide)]
  exact congrArg some ((congr (congr (congr (rfl : Instr.hget = Instr.hget) (ofNat_field (y := z_) (fld_field o h 0 (by decide)))) (ofNat_field (y := d_) (fld_field o h 1 (by decide)))) (ofNat_field (y := a_) (fld_field o h 2 (by decide)))))

theorem RoundTrip.hclr (z_ : BitVec 1) : RoundTrip.Statement (.hclr z_) := by
  refine RoundTrip.ofA rfl ?_
  have o : layoutOk 0x76000200 [(31, 1)] = true := by decide
  have h : Fits [z_.toNat] [(31, 1)] := ⟨z_.isLt, trivial⟩
  show selectA (place 0x76000200 (fieldsOf [z_.toNat] [(31, 1)])) = _
  unfold selectA
  rw [fld_place o h (a := 25) (n := 6) (by decide), fld_place o h (a := 8) (n := 2) (by decide)]
  exact congrArg some ((congr (rfl : Instr.hclr = Instr.hclr) (ofNat_field (y := z_) (fld_field o h 0 (by decide)))))

theorem RoundTrip.csrr (z_ : BitVec 1) (d_ : BitVec 5) (n_ : BitVec 9) : RoundTrip.Statement (.csrr z_ d_ n_) := by
  refine RoundTrip.ofA rfl ?_
  have o : layoutOk 0x78000000 [(31, 1), (20, 5), (0, 9)] = true := by decide
  have h : Fits [z_.toNat, d_.toNat, n_.toNat] [(31, 1), (20, 5), (0, 9)] := ⟨z_.isLt, d_.isLt, n_.isLt, trivial⟩
  show selectA (place 0x78000000 (fieldsOf [z_.toNat, d_.toNat, n_.toNat] [(31, 1), (20, 5), (0, 9)])) = _
  unfold selectA
  rw [fld_place o h (a := 25) (n := 6) (by decide), fld_place o h (a := 9) (n := 1) (by decide)]
  exact congrArg some ((congr (congr (congr (rfl : Instr.csrr = Instr.csrr) (ofNat_field (y := z_) (fld_field o h 0 (by decide)))) (ofNat_field (y := d_) (fld_field o h 1 (by decide)))) (ofNat_field (y := n_) (fld_field o h 2 (by decide)))))

theorem RoundTrip.csrw (z_ : BitVec 1) (a_ : BitVec 5) (n_ : BitVec 9) : RoundTrip.Statement (.csrw z_ a_ n_) := by
  refine RoundTrip.ofA rfl ?_
  have o : layoutOk 0x78000200 [(31, 1), (15, 5), (0, 9)] = true := by decide
  have h : Fits [z_.toNat, a_.toNat, n_.toNat] [(31, 1), (15, 5), (0, 9)] := ⟨z_.isLt, a_.isLt, n_.isLt, trivial⟩
  show selectA (place 0x78000200 (fieldsOf [z_.toNat, a_.toNat, n_.toNat] [(31, 1), (15, 5), (0, 9)])) = _
  unfold selectA
  rw [fld_place o h (a := 25) (n := 6) (by decide), fld_place o h (a := 9) (n := 1) (by decide)]
  exact congrArg some ((congr (congr (congr (rfl : Instr.csrw = Instr.csrw) (ofNat_field (y := z_) (fld_field o h 0 (by decide)))) (ofNat_field (y := a_) (fld_field o h 1 (by decide)))) (ofNat_field (y := n_) (fld_field o h 2 (by decide)))))

theorem RoundTrip.trap (z_ : BitVec 1) (c_ : BitVec 10) : RoundTrip.Statement (.trap z_ c_) := by
  refine RoundTrip.ofA rfl ?_
  have o : layoutOk 0x7A000000 [(31, 1), (0, 10)] = true := by decide
  have h : Fits [z_.toNat, c_.toNat] [(31, 1), (0, 10)] := ⟨z_.isLt, c_.isLt, trivial⟩
  show selectA (place 0x7A000000 (fieldsOf [z_.toNat, c_.toNat] [(31, 1), (0, 10)])) = _
  unfold selectA
  rw [fld_place o h (a := 25) (n := 6) (by decide), fld_place o h (a := 10) (n := 5) (by decide)]
  exact congrArg some ((congr (congr (rfl : Instr.trap = Instr.trap) (ofNat_field (y := z_) (fld_field o h 0 (by decide)))) (ofNat_field (y := c_) (fld_field o h 1 (by decide)))))

theorem RoundTrip.brk (z_ : BitVec 1) (c_ : BitVec 10) : RoundTrip.Statement (.brk z_ c_) := by
  refine RoundTrip.ofA rfl ?_
  have o : layoutOk 0x7A000400 [(31, 1), (0, 10)] = true := by decide
  have h : Fits [z_.toNat, c_.toNat] [(31, 1), (0, 10)] := ⟨z_.isLt, c_.isLt, trivial⟩
  show selectA (place 0x7A000400 (fieldsOf [z_.toNat, c_.toNat] [(31, 1), (0, 10)])) = _
  unfold selectA
  rw [fld_place o h (a := 25) (n := 6) (by decide), fld_place o h (a := 10) (n := 5) (by decide)]
  exact congrArg some ((congr (congr (rfl : Instr.brk = Instr.brk) (ofNat_field (y := z_) (fld_field o h 0 (by decide)))) (ofNat_field (y := c_) (fld_field o h 1 (by decide)))))

theorem RoundTrip.rte (z_ : BitVec 1) (d_ : BitVec 5) (a_ : BitVec 5) (m_ : BitVec 2) : RoundTrip.Statement (.rte z_ d_ a_ m_) := by
  refine RoundTrip.ofA rfl ?_
  have o : layoutOk 0x7A000800 [(31, 1), (20, 5), (15, 5), (0, 2)] = true := by decide
  have h : Fits [z_.toNat, d_.toNat, a_.toNat, m_.toNat] [(31, 1), (20, 5), (15, 5), (0, 2)] := ⟨z_.isLt, d_.isLt, a_.isLt, m_.isLt, trivial⟩
  show selectA (place 0x7A000800 (fieldsOf [z_.toNat, d_.toNat, a_.toNat, m_.toNat] [(31, 1), (20, 5), (15, 5), (0, 2)])) = _
  unfold selectA
  rw [fld_place o h (a := 25) (n := 6) (by decide), fld_place o h (a := 10) (n := 5) (by decide)]
  exact congrArg some ((congr (congr (congr (congr (rfl : Instr.rte = Instr.rte) (ofNat_field (y := z_) (fld_field o h 0 (by decide)))) (ofNat_field (y := d_) (fld_field o h 1 (by decide)))) (ofNat_field (y := a_) (fld_field o h 2 (by decide)))) (ofNat_field (y := m_) (fld_field o h 3 (by decide)))))

theorem RoundTrip.idle (z_ : BitVec 1) (d_ : BitVec 5) : RoundTrip.Statement (.idle z_ d_) := by
  refine RoundTrip.ofA rfl ?_
  have o : layoutOk 0x7A000C00 [(31, 1), (20, 5)] = true := by decide
  have h : Fits [z_.toNat, d_.toNat] [(31, 1), (20, 5)] := ⟨z_.isLt, d_.isLt, trivial⟩
  show selectA (place 0x7A000C00 (fieldsOf [z_.toNat, d_.toNat] [(31, 1), (20, 5)])) = _
  unfold selectA
  rw [fld_place o h (a := 25) (n := 6) (by decide), fld_place o h (a := 10) (n := 5) (by decide)]
  exact congrArg some ((congr (congr (rfl : Instr.idle = Instr.idle) (ofNat_field (y := z_) (fld_field o h 0 (by decide)))) (ofNat_field (y := d_) (fld_field o h 1 (by decide)))))

theorem RoundTrip.frz (z_ : BitVec 1) (d_ : BitVec 5) (a_ : BitVec 5) : RoundTrip.Statement (.frz z_ d_ a_) := by
  refine RoundTrip.ofA rfl ?_
  have o : layoutOk 0x7A001000 [(31, 1), (20, 5), (15, 5)] = true := by decide
  have h : Fits [z_.toNat, d_.toNat, a_.toNat] [(31, 1), (20, 5), (15, 5)] := ⟨z_.isLt, d_.isLt, a_.isLt, trivial⟩
  show selectA (place 0x7A001000 (fieldsOf [z_.toNat, d_.toNat, a_.toNat] [(31, 1), (20, 5), (15, 5)])) = _
  unfold selectA
  rw [fld_place o h (a := 25) (n := 6) (by decide), fld_place o h (a := 10) (n := 5) (by decide)]
  exact congrArg some ((congr (congr (congr (rfl : Instr.frz = Instr.frz) (ofNat_field (y := z_) (fld_field o h 0 (by decide)))) (ofNat_field (y := d_) (fld_field o h 1 (by decide)))) (ofNat_field (y := a_) (fld_field o h 2 (by decide)))))

theorem RoundTrip.thaw (z_ : BitVec 1) (d_ : BitVec 5) (a_ : BitVec 5) : RoundTrip.Statement (.thaw z_ d_ a_) := by
  refine RoundTrip.ofA rfl ?_
  have o : layoutOk 0x7A001400 [(31, 1), (20, 5), (15, 5)] = true := by decide
  have h : Fits [z_.toNat, d_.toNat, a_.toNat] [(31, 1), (20, 5), (15, 5)] := ⟨z_.isLt, d_.isLt, a_.isLt, trivial⟩
  show selectA (place 0x7A001400 (fieldsOf [z_.toNat, d_.toNat, a_.toNat] [(31, 1), (20, 5), (15, 5)])) = _
  unfold selectA
  rw [fld_place o h (a := 25) (n := 6) (by decide), fld_place o h (a := 10) (n := 5) (by decide)]
  exact congrArg some ((congr (congr (congr (rfl : Instr.thaw = Instr.thaw) (ofNat_field (y := z_) (fld_field o h 0 (by decide)))) (ofNat_field (y := d_) (fld_field o h 1 (by decide)))) (ofNat_field (y := a_) (fld_field o h 2 (by decide)))))

theorem RoundTrip.slotq (z_ : BitVec 1) (d_ : BitVec 5) (a_ : BitVec 5) : RoundTrip.Statement (.slotq z_ d_ a_) := by
  refine RoundTrip.ofA rfl ?_
  have o : layoutOk 0x7A001800 [(31, 1), (20, 5), (15, 5)] = true := by decide
  have h : Fits [z_.toNat, d_.toNat, a_.toNat] [(31, 1), (20, 5), (15, 5)] := ⟨z_.isLt, d_.isLt, a_.isLt, trivial⟩
  show selectA (place 0x7A001800 (fieldsOf [z_.toNat, d_.toNat, a_.toNat] [(31, 1), (20, 5), (15, 5)])) = _
  unfold selectA
  rw [fld_place o h (a := 25) (n := 6) (by decide), fld_place o h (a := 10) (n := 5) (by decide)]
  exact congrArg some ((congr (congr (congr (rfl : Instr.slotq = Instr.slotq) (ofNat_field (y := z_) (fld_field o h 0 (by decide)))) (ofNat_field (y := d_) (fld_field o h 1 (by decide)))) (ofNat_field (y := a_) (fld_field o h 2 (by decide)))))

theorem RoundTrip.vwid (z_ : BitVec 1) (d_ : BitVec 5) (c_ : BitVec 10) : RoundTrip.Statement (.vwid z_ d_ c_) := by
  refine RoundTrip.ofA rfl ?_
  have o : layoutOk 0x7A001C00 [(31, 1), (20, 5), (0, 10)] = true := by decide
  have h : Fits [z_.toNat, d_.toNat, c_.toNat] [(31, 1), (20, 5), (0, 10)] := ⟨z_.isLt, d_.isLt, c_.isLt, trivial⟩
  show selectA (place 0x7A001C00 (fieldsOf [z_.toNat, d_.toNat, c_.toNat] [(31, 1), (20, 5), (0, 10)])) = _
  unfold selectA
  rw [fld_place o h (a := 25) (n := 6) (by decide), fld_place o h (a := 10) (n := 5) (by decide)]
  exact congrArg some ((congr (congr (congr (rfl : Instr.vwid = Instr.vwid) (ofNat_field (y := z_) (fld_field o h 0 (by decide)))) (ofNat_field (y := d_) (fld_field o h 1 (by decide)))) (ofNat_field (y := c_) (fld_field o h 2 (by decide)))))

theorem RoundTrip.rdtk (z_ : BitVec 1) (d_ : BitVec 5) : RoundTrip.Statement (.rdtk z_ d_) := by
  refine RoundTrip.ofA rfl ?_
  have o : layoutOk 0x7A002000 [(31, 1), (20, 5)] = true := by decide
  have h : Fits [z_.toNat, d_.toNat] [(31, 1), (20, 5)] := ⟨z_.isLt, d_.isLt, trivial⟩
  show selectA (place 0x7A002000 (fieldsOf [z_.toNat, d_.toNat] [(31, 1), (20, 5)])) = _
  unfold selectA
  rw [fld_place o h (a := 25) (n := 6) (by decide), fld_place o h (a := 10) (n := 5) (by decide)]
  exact congrArg some ((congr (congr (rfl : Instr.rdtk = Instr.rdtk) (ofNat_field (y := z_) (fld_field o h 0 (by decide)))) (ofNat_field (y := d_) (fld_field o h 1 (by decide)))))

theorem RoundTrip.sbsr (z_ : BitVec 1) (d_ : BitVec 5) (a_ : BitVec 5) : RoundTrip.Statement (.sbsr z_ d_ a_) := by
  refine RoundTrip.ofA rfl ?_
  have o : layoutOk 0x7A002400 [(31, 1), (20, 5), (15, 5)] = true := by decide
  have h : Fits [z_.toNat, d_.toNat, a_.toNat] [(31, 1), (20, 5), (15, 5)] := ⟨z_.isLt, d_.isLt, a_.isLt, trivial⟩
  show selectA (place 0x7A002400 (fieldsOf [z_.toNat, d_.toNat, a_.toNat] [(31, 1), (20, 5), (15, 5)])) = _
  unfold selectA
  rw [fld_place o h (a := 25) (n := 6) (by decide), fld_place o h (a := 10) (n := 5) (by decide)]
  exact congrArg some ((congr (congr (congr (rfl : Instr.sbsr = Instr.sbsr) (ofNat_field (y := z_) (fld_field o h 0 (by decide)))) (ofNat_field (y := d_) (fld_field o h 1 (by decide)))) (ofNat_field (y := a_) (fld_field o h 2 (by decide)))))

theorem RoundTrip.duskDrain (z_ : BitVec 1) (d_ : BitVec 5) (a_ : BitVec 5) : RoundTrip.Statement (.duskDrain z_ d_ a_) := by
  refine RoundTrip.ofA rfl ?_
  have o : layoutOk 0x7C000001 [(31, 1), (20, 5), (15, 5)] = true := by decide
  have h : Fits [z_.toNat, d_.toNat, a_.toNat] [(31, 1), (20, 5), (15, 5)] := ⟨z_.isLt, d_.isLt, a_.isLt, trivial⟩
  show selectA (place 0x7C000001 (fieldsOf [z_.toNat, d_.toNat, a_.toNat] [(31, 1), (20, 5), (15, 5)])) = _
  unfold selectA
  rw [fld_place o h (a := 25) (n := 6) (by decide), fld_place o h (a := 0) (n := 10) (by decide)]
  exact congrArg some ((congr (congr (congr (rfl : Instr.duskDrain = Instr.duskDrain) (ofNat_field (y := z_) (fld_field o h 0 (by decide)))) (ofNat_field (y := d_) (fld_field o h 1 (by decide)))) (ofNat_field (y := a_) (fld_field o h 2 (by decide)))))

theorem RoundTrip.duskRelease (z_ : BitVec 1) (d_ : BitVec 5) (a_ : BitVec 5) : RoundTrip.Statement (.duskRelease z_ d_ a_) := by
  refine RoundTrip.ofA rfl ?_
  have o : layoutOk 0x7C000000 [(31, 1), (20, 5), (15, 5)] = true := by decide
  have h : Fits [z_.toNat, d_.toNat, a_.toNat] [(31, 1), (20, 5), (15, 5)] := ⟨z_.isLt, d_.isLt, a_.isLt, trivial⟩
  show selectA (place 0x7C000000 (fieldsOf [z_.toNat, d_.toNat, a_.toNat] [(31, 1), (20, 5), (15, 5)])) = _
  unfold selectA
  rw [fld_place o h (a := 25) (n := 6) (by decide), fld_place o h (a := 0) (n := 10) (by decide)]
  exact congrArg some ((congr (congr (congr (rfl : Instr.duskRelease = Instr.duskRelease) (ofNat_field (y := z_) (fld_field o h 0 (by decide)))) (ofNat_field (y := d_) (fld_field o h 1 (by decide)))) (ofNat_field (y := a_) (fld_field o h 2 (by decide)))))

theorem RoundTrip.lcmw (z_ : BitVec 1) (d_ : BitVec 5) (a_ : BitVec 5) (b_ : BitVec 5) : RoundTrip.Statement (.lcmw z_ d_ a_ b_) := by
  refine RoundTrip.ofA rfl ?_
  have o : layoutOk 0x7C000100 [(31, 1), (20, 5), (15, 5), (10, 5)] = true := by decide
  have h : Fits [z_.toNat, d_.toNat, a_.toNat, b_.toNat] [(31, 1), (20, 5), (15, 5), (10, 5)] := ⟨z_.isLt, d_.isLt, a_.isLt, b_.isLt, trivial⟩
  show selectA (place 0x7C000100 (fieldsOf [z_.toNat, d_.toNat, a_.toNat, b_.toNat] [(31, 1), (20, 5), (15, 5), (10, 5)])) = _
  unfold selectA
  rw [fld_place o h (a := 25) (n := 6) (by decide), fld_place o h (a := 0) (n := 10) (by decide)]
  exact congrArg some ((congr (congr (congr (congr (rfl : Instr.lcmw = Instr.lcmw) (ofNat_field (y := z_) (fld_field o h 0 (by decide)))) (ofNat_field (y := d_) (fld_field o h 1 (by decide)))) (ofNat_field (y := a_) (fld_field o h 2 (by decide)))) (ofNat_field (y := b_) (fld_field o h 3 (by decide)))))

theorem RoundTrip.scan (z_ : BitVec 1) (d_ : BitVec 5) (a_ : BitVec 5) : RoundTrip.Statement (.scan z_ d_ a_) := by
  refine RoundTrip.ofA rfl ?_
  have o : layoutOk 0x7C000200 [(31, 1), (20, 5), (15, 5)] = true := by decide
  have h : Fits [z_.toNat, d_.toNat, a_.toNat] [(31, 1), (20, 5), (15, 5)] := ⟨z_.isLt, d_.isLt, a_.isLt, trivial⟩
  show selectA (place 0x7C000200 (fieldsOf [z_.toNat, d_.toNat, a_.toNat] [(31, 1), (20, 5), (15, 5)])) = _
  unfold selectA
  rw [fld_place o h (a := 25) (n := 6) (by decide), fld_place o h (a := 0) (n := 10) (by decide)]
  exact congrArg some ((congr (congr (congr (rfl : Instr.scan = Instr.scan) (ofNat_field (y := z_) (fld_field o h 0 (by decide)))) (ofNat_field (y := d_) (fld_field o h 1 (by decide)))) (ofNat_field (y := a_) (fld_field o h 2 (by decide)))))

theorem RoundTrip.rep (c_ : BitVec 8) (m_ : BitVec 6) (t_ : BitVec 3) : RoundTrip.Statement (.rep c_ m_ t_) := by
  refine RoundTrip.ofA rfl ?_
  have o : layoutOk 0x7E000000 [(17, 8), (11, 6), (8, 3)] = true := by decide
  have h : Fits [c_.toNat, m_.toNat, t_.toNat] [(17, 8), (11, 6), (8, 3)] := ⟨c_.isLt, m_.isLt, t_.isLt, trivial⟩
  show selectA (place 0x7E000000 (fieldsOf [c_.toNat, m_.toNat, t_.toNat] [(17, 8), (11, 6), (8, 3)])) = _
  unfold selectA
  rw [fld_place o h (a := 25) (n := 6) (by decide)]
  exact congrArg some ((congr (congr (congr (rfl : Instr.rep = Instr.rep) (ofNat_field (y := c_) (fld_field o h 0 (by decide)))) (ofNat_field (y := m_) (fld_field o h 1 (by decide)))) (ofNat_field (y := t_) (fld_field o h 2 (by decide)))))

theorem RoundTrip.nopv : RoundTrip.Statement (.nopv) := by
  refine RoundTrip.ofB rfl ?_
  have o : layoutOk 0x00000000 [] = true := by decide
  have h : Fits [] [] := trivial
  show selectB (place 0x00000000 (fieldsOf [] [])) = _
  unfold selectB
  rw [fld_place o h (a := 26) (n := 6) (by decide)]
  rfl

theorem RoundTrip.vadd (d_ : BitVec 4) (a_ : BitVec 4) (b_ : BitVec 4) (g_ : BitVec 3) (f_ : BitVec 4) (r_ : BitVec 3) (p_ : BitVec 4) : RoundTrip.Statement (.vadd d_ a_ b_ g_ f_ r_ p_) := by
  refine RoundTrip.ofB rfl ?_
  have o : layoutOk 0x04000000 [(22, 4), (18, 4), (14, 4), (11, 3), (7, 4), (4, 3), (0, 4)] = true := by decide
  have h : Fits [d_.toNat, a_.toNat, b_.toNat, g_.toNat, f_.toNat, r_.toNat, p_.toNat] [(22, 4), (18, 4), (14, 4), (11, 3), (7, 4), (4, 3), (0, 4)] := ⟨d_.isLt, a_.isLt, b_.isLt, g_.isLt, f_.isLt, r_.isLt, p_.isLt, trivial⟩
  show selectB (place 0x04000000 (fieldsOf [d_.toNat, a_.toNat, b_.toNat, g_.toNat, f_.toNat, r_.toNat, p_.toNat] [(22, 4), (18, 4), (14, 4), (11, 3), (7, 4), (4, 3), (0, 4)])) = _
  unfold selectB
  rw [fld_place o h (a := 26) (n := 6) (by decide)]
  exact congrArg some ((congr (congr (congr (congr (congr (congr (congr (rfl : Instr.vadd = Instr.vadd) (ofNat_field (y := d_) (fld_field o h 0 (by decide)))) (ofNat_field (y := a_) (fld_field o h 1 (by decide)))) (ofNat_field (y := b_) (fld_field o h 2 (by decide)))) (ofNat_field (y := g_) (fld_field o h 3 (by decide)))) (ofNat_field (y := f_) (fld_field o h 4 (by decide)))) (ofNat_field (y := r_) (fld_field o h 5 (by decide)))) (ofNat_field (y := p_) (fld_field o h 6 (by decide)))))

theorem RoundTrip.vsub (d_ : BitVec 4) (a_ : BitVec 4) (b_ : BitVec 4) (g_ : BitVec 3) (f_ : BitVec 4) (r_ : BitVec 3) (p_ : BitVec 4) : RoundTrip.Statement (.vsub d_ a_ b_ g_ f_ r_ p_) := by
  refine RoundTrip.ofB rfl ?_
  have o : layoutOk 0x08000000 [(22, 4), (18, 4), (14, 4), (11, 3), (7, 4), (4, 3), (0, 4)] = true := by decide
  have h : Fits [d_.toNat, a_.toNat, b_.toNat, g_.toNat, f_.toNat, r_.toNat, p_.toNat] [(22, 4), (18, 4), (14, 4), (11, 3), (7, 4), (4, 3), (0, 4)] := ⟨d_.isLt, a_.isLt, b_.isLt, g_.isLt, f_.isLt, r_.isLt, p_.isLt, trivial⟩
  show selectB (place 0x08000000 (fieldsOf [d_.toNat, a_.toNat, b_.toNat, g_.toNat, f_.toNat, r_.toNat, p_.toNat] [(22, 4), (18, 4), (14, 4), (11, 3), (7, 4), (4, 3), (0, 4)])) = _
  unfold selectB
  rw [fld_place o h (a := 26) (n := 6) (by decide)]
  exact congrArg some ((congr (congr (congr (congr (congr (congr (congr (rfl : Instr.vsub = Instr.vsub) (ofNat_field (y := d_) (fld_field o h 0 (by decide)))) (ofNat_field (y := a_) (fld_field o h 1 (by decide)))) (ofNat_field (y := b_) (fld_field o h 2 (by decide)))) (ofNat_field (y := g_) (fld_field o h 3 (by decide)))) (ofNat_field (y := f_) (fld_field o h 4 (by decide)))) (ofNat_field (y := r_) (fld_field o h 5 (by decide)))) (ofNat_field (y := p_) (fld_field o h 6 (by decide)))))

theorem RoundTrip.vmul (d_ : BitVec 4) (a_ : BitVec 4) (b_ : BitVec 4) (g_ : BitVec 3) (f_ : BitVec 4) (r_ : BitVec 3) (p_ : BitVec 4) : RoundTrip.Statement (.vmul d_ a_ b_ g_ f_ r_ p_) := by
  refine RoundTrip.ofB rfl ?_
  have o : layoutOk 0x0C000000 [(22, 4), (18, 4), (14, 4), (11, 3), (7, 4), (4, 3), (0, 4)] = true := by decide
  have h : Fits [d_.toNat, a_.toNat, b_.toNat, g_.toNat, f_.toNat, r_.toNat, p_.toNat] [(22, 4), (18, 4), (14, 4), (11, 3), (7, 4), (4, 3), (0, 4)] := ⟨d_.isLt, a_.isLt, b_.isLt, g_.isLt, f_.isLt, r_.isLt, p_.isLt, trivial⟩
  show selectB (place 0x0C000000 (fieldsOf [d_.toNat, a_.toNat, b_.toNat, g_.toNat, f_.toNat, r_.toNat, p_.toNat] [(22, 4), (18, 4), (14, 4), (11, 3), (7, 4), (4, 3), (0, 4)])) = _
  unfold selectB
  rw [fld_place o h (a := 26) (n := 6) (by decide)]
  exact congrArg some ((congr (congr (congr (congr (congr (congr (congr (rfl : Instr.vmul = Instr.vmul) (ofNat_field (y := d_) (fld_field o h 0 (by decide)))) (ofNat_field (y := a_) (fld_field o h 1 (by decide)))) (ofNat_field (y := b_) (fld_field o h 2 (by decide)))) (ofNat_field (y := g_) (fld_field o h 3 (by decide)))) (ofNat_field (y := f_) (fld_field o h 4 (by decide)))) (ofNat_field (y := r_) (fld_field o h 5 (by decide)))) (ofNat_field (y := p_) (fld_field o h 6 (by decide)))))

theorem RoundTrip.vfma (d_ : BitVec 4) (a_ : BitVec 4) (b_ : BitVec 4) (g_ : BitVec 3) (f_ : BitVec 4) (r_ : BitVec 3) (p_ : BitVec 4) : RoundTrip.Statement (.vfma d_ a_ b_ g_ f_ r_ p_) := by
  refine RoundTrip.ofB rfl ?_
  have o : layoutOk 0x10000000 [(22, 4), (18, 4), (14, 4), (11, 3), (7, 4), (4, 3), (0, 4)] = true := by decide
  have h : Fits [d_.toNat, a_.toNat, b_.toNat, g_.toNat, f_.toNat, r_.toNat, p_.toNat] [(22, 4), (18, 4), (14, 4), (11, 3), (7, 4), (4, 3), (0, 4)] := ⟨d_.isLt, a_.isLt, b_.isLt, g_.isLt, f_.isLt, r_.isLt, p_.isLt, trivial⟩
  show selectB (place 0x10000000 (fieldsOf [d_.toNat, a_.toNat, b_.toNat, g_.toNat, f_.toNat, r_.toNat, p_.toNat] [(22, 4), (18, 4), (14, 4), (11, 3), (7, 4), (4, 3), (0, 4)])) = _
  unfold selectB
  rw [fld_place o h (a := 26) (n := 6) (by decide)]
  exact congrArg some ((congr (congr (congr (congr (congr (congr (congr (rfl : Instr.vfma = Instr.vfma) (ofNat_field (y := d_) (fld_field o h 0 (by decide)))) (ofNat_field (y := a_) (fld_field o h 1 (by decide)))) (ofNat_field (y := b_) (fld_field o h 2 (by decide)))) (ofNat_field (y := g_) (fld_field o h 3 (by decide)))) (ofNat_field (y := f_) (fld_field o h 4 (by decide)))) (ofNat_field (y := r_) (fld_field o h 5 (by decide)))) (ofNat_field (y := p_) (fld_field o h 6 (by decide)))))

theorem RoundTrip.vfms (d_ : BitVec 4) (a_ : BitVec 4) (b_ : BitVec 4) (g_ : BitVec 3) (f_ : BitVec 4) (r_ : BitVec 3) (p_ : BitVec 4) : RoundTrip.Statement (.vfms d_ a_ b_ g_ f_ r_ p_) := by
  refine RoundTrip.ofB rfl ?_
  have o : layoutOk 0x14000000 [(22, 4), (18, 4), (14, 4), (11, 3), (7, 4), (4, 3), (0, 4)] = true := by decide
  have h : Fits [d_.toNat, a_.toNat, b_.toNat, g_.toNat, f_.toNat, r_.toNat, p_.toNat] [(22, 4), (18, 4), (14, 4), (11, 3), (7, 4), (4, 3), (0, 4)] := ⟨d_.isLt, a_.isLt, b_.isLt, g_.isLt, f_.isLt, r_.isLt, p_.isLt, trivial⟩
  show selectB (place 0x14000000 (fieldsOf [d_.toNat, a_.toNat, b_.toNat, g_.toNat, f_.toNat, r_.toNat, p_.toNat] [(22, 4), (18, 4), (14, 4), (11, 3), (7, 4), (4, 3), (0, 4)])) = _
  unfold selectB
  rw [fld_place o h (a := 26) (n := 6) (by decide)]
  exact congrArg some ((congr (congr (congr (congr (congr (congr (congr (rfl : Instr.vfms = Instr.vfms) (ofNat_field (y := d_) (fld_field o h 0 (by decide)))) (ofNat_field (y := a_) (fld_field o h 1 (by decide)))) (ofNat_field (y := b_) (fld_field o h 2 (by decide)))) (ofNat_field (y := g_) (fld_field o h 3 (by decide)))) (ofNat_field (y := f_) (fld_field o h 4 (by decide)))) (ofNat_field (y := r_) (fld_field o h 5 (by decide)))) (ofNat_field (y := p_) (fld_field o h 6 (by decide)))))

theorem RoundTrip.vmin (d_ : BitVec 4) (a_ : BitVec 4) (b_ : BitVec 4) (g_ : BitVec 3) (f_ : BitVec 4) (p_ : BitVec 7) : RoundTrip.Statement (.vmin d_ a_ b_ g_ f_ p_) := by
  refine RoundTrip.ofB rfl ?_
  have o : layoutOk 0x18000000 [(22, 4), (18, 4), (14, 4), (11, 3), (7, 4), (0, 7)] = true := by decide
  have h : Fits [d_.toNat, a_.toNat, b_.toNat, g_.toNat, f_.toNat, p_.toNat] [(22, 4), (18, 4), (14, 4), (11, 3), (7, 4), (0, 7)] := ⟨d_.isLt, a_.isLt, b_.isLt, g_.isLt, f_.isLt, p_.isLt, trivial⟩
  show selectB (place 0x18000000 (fieldsOf [d_.toNat, a_.toNat, b_.toNat, g_.toNat, f_.toNat, p_.toNat] [(22, 4), (18, 4), (14, 4), (11, 3), (7, 4), (0, 7)])) = _
  unfold selectB
  rw [fld_place o h (a := 26) (n := 6) (by decide)]
  exact congrArg some ((congr (congr (congr (congr (congr (congr (rfl : Instr.vmin = Instr.vmin) (ofNat_field (y := d_) (fld_field o h 0 (by decide)))) (ofNat_field (y := a_) (fld_field o h 1 (by decide)))) (ofNat_field (y := b_) (fld_field o h 2 (by decide)))) (ofNat_field (y := g_) (fld_field o h 3 (by decide)))) (ofNat_field (y := f_) (fld_field o h 4 (by decide)))) (ofNat_field (y := p_) (fld_field o h 5 (by decide)))))

theorem RoundTrip.vmax (d_ : BitVec 4) (a_ : BitVec 4) (b_ : BitVec 4) (g_ : BitVec 3) (f_ : BitVec 4) (p_ : BitVec 7) : RoundTrip.Statement (.vmax d_ a_ b_ g_ f_ p_) := by
  refine RoundTrip.ofB rfl ?_
  have o : layoutOk 0x1C000000 [(22, 4), (18, 4), (14, 4), (11, 3), (7, 4), (0, 7)] = true := by decide
  have h : Fits [d_.toNat, a_.toNat, b_.toNat, g_.toNat, f_.toNat, p_.toNat] [(22, 4), (18, 4), (14, 4), (11, 3), (7, 4), (0, 7)] := ⟨d_.isLt, a_.isLt, b_.isLt, g_.isLt, f_.isLt, p_.isLt, trivial⟩
  show selectB (place 0x1C000000 (fieldsOf [d_.toNat, a_.toNat, b_.toNat, g_.toNat, f_.toNat, p_.toNat] [(22, 4), (18, 4), (14, 4), (11, 3), (7, 4), (0, 7)])) = _
  unfold selectB
  rw [fld_place o h (a := 26) (n := 6) (by decide)]
  exact congrArg some ((congr (congr (congr (congr (congr (congr (rfl : Instr.vmax = Instr.vmax) (ofNat_field (y := d_) (fld_field o h 0 (by decide)))) (ofNat_field (y := a_) (fld_field o h 1 (by decide)))) (ofNat_field (y := b_) (fld_field o h 2 (by decide)))) (ofNat_field (y := g_) (fld_field o h 3 (by decide)))) (ofNat_field (y := f_) (fld_field o h 4 (by decide)))) (ofNat_field (y := p_) (fld_field o h 5 (by decide)))))

theorem RoundTrip.vabs (d_ : BitVec 4) (a_ : BitVec 4) (g_ : BitVec 3) (f_ : BitVec 4) (p_ : BitVec 7) : RoundTrip.Statement (.vabs d_ a_ g_ f_ p_) := by
  refine RoundTrip.ofB rfl ?_
  have o : layoutOk 0x20000000 [(22, 4), (18, 4), (11, 3), (7, 4), (0, 7)] = true := by decide
  have h : Fits [d_.toNat, a_.toNat, g_.toNat, f_.toNat, p_.toNat] [(22, 4), (18, 4), (11, 3), (7, 4), (0, 7)] := ⟨d_.isLt, a_.isLt, g_.isLt, f_.isLt, p_.isLt, trivial⟩
  show selectB (place 0x20000000 (fieldsOf [d_.toNat, a_.toNat, g_.toNat, f_.toNat, p_.toNat] [(22, 4), (18, 4), (11, 3), (7, 4), (0, 7)])) = _
  unfold selectB
  rw [fld_place o h (a := 26) (n := 6) (by decide)]
  exact congrArg some ((congr (congr (congr (congr (congr (rfl : Instr.vabs = Instr.vabs) (ofNat_field (y := d_) (fld_field o h 0 (by decide)))) (ofNat_field (y := a_) (fld_field o h 1 (by decide)))) (ofNat_field (y := g_) (fld_field o h 2 (by decide)))) (ofNat_field (y := f_) (fld_field o h 3 (by decide)))) (ofNat_field (y := p_) (fld_field o h 4 (by decide)))))

theorem RoundTrip.vneg (d_ : BitVec 4) (a_ : BitVec 4) (g_ : BitVec 3) (f_ : BitVec 4) (p_ : BitVec 7) : RoundTrip.Statement (.vneg d_ a_ g_ f_ p_) := by
  refine RoundTrip.ofB rfl ?_
  have o : layoutOk 0x24000000 [(22, 4), (18, 4), (11, 3), (7, 4), (0, 7)] = true := by decide
  have h : Fits [d_.toNat, a_.toNat, g_.toNat, f_.toNat, p_.toNat] [(22, 4), (18, 4), (11, 3), (7, 4), (0, 7)] := ⟨d_.isLt, a_.isLt, g_.isLt, f_.isLt, p_.isLt, trivial⟩
  show selectB (place 0x24000000 (fieldsOf [d_.toNat, a_.toNat, g_.toNat, f_.toNat, p_.toNat] [(22, 4), (18, 4), (11, 3), (7, 4), (0, 7)])) = _
  unfold selectB
  rw [fld_place o h (a := 26) (n := 6) (by decide)]
  exact congrArg some ((congr (congr (congr (congr (congr (rfl : Instr.vneg = Instr.vneg) (ofNat_field (y := d_) (fld_field o h 0 (by decide)))) (ofNat_field (y := a_) (fld_field o h 1 (by decide)))) (ofNat_field (y := g_) (fld_field o h 2 (by decide)))) (ofNat_field (y := f_) (fld_field o h 3 (by decide)))) (ofNat_field (y := p_) (fld_field o h 4 (by decide)))))

theorem RoundTrip.vcmp (d_ : BitVec 3) (a_ : BitVec 4) (b_ : BitVec 4) (g_ : BitVec 3) (f_ : BitVec 4) (c_ : BitVec 7) : RoundTrip.Statement (.vcmp d_ a_ b_ g_ f_ c_) := by
  refine RoundTrip.ofB rfl ?_
  have o : layoutOk 0x28000000 [(22, 3), (18, 4), (14, 4), (11, 3), (7, 4), (0, 7)] = true := by decide
  have h : Fits [d_.toNat, a_.toNat, b_.toNat, g_.toNat, f_.toNat, c_.toNat] [(22, 3), (18, 4), (14, 4), (11, 3), (7, 4), (0, 7)] := ⟨d_.isLt, a_.isLt, b_.isLt, g_.isLt, f_.isLt, c_.isLt, trivial⟩
  show selectB (place 0x28000000 (fieldsOf [d_.toNat, a_.toNat, b_.toNat, g_.toNat, f_.toNat, c_.toNat] [(22, 3), (18, 4), (14, 4), (11, 3), (7, 4), (0, 7)])) = _
  unfold selectB
  rw [fld_place o h (a := 26) (n := 6) (by decide)]
  exact congrArg some ((congr (congr (congr (congr (congr (congr (rfl : Instr.vcmp = Instr.vcmp) (ofNat_field (y := d_) (fld_field o h 0 (by decide)))) (ofNat_field (y := a_) (fld_field o h 1 (by decide)))) (ofNat_field (y := b_) (fld_field o h 2 (by decide)))) (ofNat_field (y := g_) (fld_field o h 3 (by decide)))) (ofNat_field (y := f_) (fld_field o h 4 (by decide)))) (ofNat_field (y := c_) (fld_field o h 5 (by decide)))))

theorem RoundTrip.vsel (d_ : BitVec 4) (a_ : BitVec 4) (b_ : BitVec 4) (g_ : BitVec 3) : RoundTrip.Statement (.vsel d_ a_ b_ g_) := by
  refine RoundTrip.ofB rfl ?_
  have o : layoutOk 0x2C000000 [(22, 4), (18, 4), (14, 4), (11, 3)] = true := by decide
  have h : Fits [d_.toNat, a_.toNat, b_.toNat, g_.toNat] [(22, 4), (18, 4), (14, 4), (11, 3)] := ⟨d_.isLt, a_.isLt, b_.isLt, g_.isLt, trivial⟩
  show selectB (place 0x2C000000 (fieldsOf [d_.toNat, a_.toNat, b_.toNat, g_.toNat] [(22, 4), (18, 4), (14, 4), (11, 3)])) = _
  unfold selectB
  rw [fld_place o h (a := 26) (n := 6) (by decide)]
  exact congrArg some ((congr (congr (congr (congr (rfl : Instr.vsel = Instr.vsel) (ofNat_field (y := d_) (fld_field o h 0 (by decide)))) (ofNat_field (y := a_) (fld_field o h 1 (by decide)))) (ofNat_field (y := b_) (fld_field o h 2 (by decide)))) (ofNat_field (y := g_) (fld_field o h 3 (by decide)))))

theorem RoundTrip.vand (d_ : BitVec 4) (a_ : BitVec 4) (b_ : BitVec 4) (g_ : BitVec 3) : RoundTrip.Statement (.vand d_ a_ b_ g_) := by
  refine RoundTrip.ofB rfl ?_
  have o : layoutOk 0x30000000 [(22, 4), (18, 4), (14, 4), (11, 3)] = true := by decide
  have h : Fits [d_.toNat, a_.toNat, b_.toNat, g_.toNat] [(22, 4), (18, 4), (14, 4), (11, 3)] := ⟨d_.isLt, a_.isLt, b_.isLt, g_.isLt, trivial⟩
  show selectB (place 0x30000000 (fieldsOf [d_.toNat, a_.toNat, b_.toNat, g_.toNat] [(22, 4), (18, 4), (14, 4), (11, 3)])) = _
  unfold selectB
  rw [fld_place o h (a := 26) (n := 6) (by decide)]
  exact congrArg some ((congr (congr (congr (congr (rfl : Instr.vand = Instr.vand) (ofNat_field (y := d_) (fld_field o h 0 (by decide)))) (ofNat_field (y := a_) (fld_field o h 1 (by decide)))) (ofNat_field (y := b_) (fld_field o h 2 (by decide)))) (ofNat_field (y := g_) (fld_field o h 3 (by decide)))))

theorem RoundTrip.vor (d_ : BitVec 4) (a_ : BitVec 4) (b_ : BitVec 4) (g_ : BitVec 3) : RoundTrip.Statement (.vor d_ a_ b_ g_) := by
  refine RoundTrip.ofB rfl ?_
  have o : layoutOk 0x34000000 [(22, 4), (18, 4), (14, 4), (11, 3)] = true := by decide
  have h : Fits [d_.toNat, a_.toNat, b_.toNat, g_.toNat] [(22, 4), (18, 4), (14, 4), (11, 3)] := ⟨d_.isLt, a_.isLt, b_.isLt, g_.isLt, trivial⟩
  show selectB (place 0x34000000 (fieldsOf [d_.toNat, a_.toNat, b_.toNat, g_.toNat] [(22, 4), (18, 4), (14, 4), (11, 3)])) = _
  unfold selectB
  rw [fld_place o h (a := 26) (n := 6) (by decide)]
  exact congrArg some ((congr (congr (congr (congr (rfl : Instr.vor = Instr.vor) (ofNat_field (y := d_) (fld_field o h 0 (by decide)))) (ofNat_field (y := a_) (fld_field o h 1 (by decide)))) (ofNat_field (y := b_) (fld_field o h 2 (by decide)))) (ofNat_field (y := g_) (fld_field o h 3 (by decide)))))

theorem RoundTrip.vxor (d_ : BitVec 4) (a_ : BitVec 4) (b_ : BitVec 4) (g_ : BitVec 3) : RoundTrip.Statement (.vxor d_ a_ b_ g_) := by
  refine RoundTrip.ofB rfl ?_
  have o : layoutOk 0x38000000 [(22, 4), (18, 4), (14, 4), (11, 3)] = true := by decide
  have h : Fits [d_.toNat, a_.toNat, b_.toNat, g_.toNat] [(22, 4), (18, 4), (14, 4), (11, 3)] := ⟨d_.isLt, a_.isLt, b_.isLt, g_.isLt, trivial⟩
  show selectB (place 0x38000000 (fieldsOf [d_.toNat, a_.toNat, b_.toNat, g_.toNat] [(22, 4), (18, 4), (14, 4), (11, 3)])) = _
  unfold selectB
  rw [fld_place o h (a := 26) (n := 6) (by decide)]
  exact congrArg some ((congr (congr (congr (congr (rfl : Instr.vxor = Instr.vxor) (ofNat_field (y := d_) (fld_field o h 0 (by decide)))) (ofNat_field (y := a_) (fld_field o h 1 (by decide)))) (ofNat_field (y := b_) (fld_field o h 2 (by decide)))) (ofNat_field (y := g_) (fld_field o h 3 (by decide)))))

theorem RoundTrip.vnot (d_ : BitVec 4) (a_ : BitVec 4) (g_ : BitVec 3) : RoundTrip.Statement (.vnot d_ a_ g_) := by
  refine RoundTrip.ofB rfl ?_
  have o : layoutOk 0x3C000000 [(22, 4), (18, 4), (11, 3)] = true := by decide
  have h : Fits [d_.toNat, a_.toNat, g_.toNat] [(22, 4), (18, 4), (11, 3)] := ⟨d_.isLt, a_.isLt, g_.isLt, trivial⟩
  show selectB (place 0x3C000000 (fieldsOf [d_.toNat, a_.toNat, g_.toNat] [(22, 4), (18, 4), (11, 3)])) = _
  unfold selectB
  rw [fld_place o h (a := 26) (n := 6) (by decide)]
  exact congrArg some ((congr (congr (congr (rfl : Instr.vnot = Instr.vnot) (ofNat_field (y := d_) (fld_field o h 0 (by decide)))) (ofNat_field (y := a_) (fld_field o h 1 (by decide)))) (ofNat_field (y := g_) (fld_field o h 2 (by decide)))))

theorem RoundTrip.vshl (d_ : BitVec 4) (a_ : BitVec 4) (b_ : BitVec 4) (g_ : BitVec 3) (f_ : BitVec 4) (p_ : BitVec 7) : RoundTrip.Statement (.vshl d_ a_ b_ g_ f_ p_) := by
  refine RoundTrip.ofB rfl ?_
  have o : layoutOk 0x40000000 [(22, 4), (18, 4), (14, 4), (11, 3), (7, 4), (0, 7)] = true := by decide
  have h : Fits [d_.toNat, a_.toNat, b_.toNat, g_.toNat, f_.toNat, p_.toNat] [(22, 4), (18, 4), (14, 4), (11, 3), (7, 4), (0, 7)] := ⟨d_.isLt, a_.isLt, b_.isLt, g_.isLt, f_.isLt, p_.isLt, trivial⟩
  show selectB (place 0x40000000 (fieldsOf [d_.toNat, a_.toNat, b_.toNat, g_.toNat, f_.toNat, p_.toNat] [(22, 4), (18, 4), (14, 4), (11, 3), (7, 4), (0, 7)])) = _
  unfold selectB
  rw [fld_place o h (a := 26) (n := 6) (by decide)]
  exact congrArg some ((congr (congr (congr (congr (congr (congr (rfl : Instr.vshl = Instr.vshl) (ofNat_field (y := d_) (fld_field o h 0 (by decide)))) (ofNat_field (y := a_) (fld_field o h 1 (by decide)))) (ofNat_field (y := b_) (fld_field o h 2 (by decide)))) (ofNat_field (y := g_) (fld_field o h 3 (by decide)))) (ofNat_field (y := f_) (fld_field o h 4 (by decide)))) (ofNat_field (y := p_) (fld_field o h 5 (by decide)))))

theorem RoundTrip.vshr (d_ : BitVec 4) (a_ : BitVec 4) (b_ : BitVec 4) (g_ : BitVec 3) (f_ : BitVec 4) (p_ : BitVec 7) : RoundTrip.Statement (.vshr d_ a_ b_ g_ f_ p_) := by
  refine RoundTrip.ofB rfl ?_
  have o : layoutOk 0x44000000 [(22, 4), (18, 4), (14, 4), (11, 3), (7, 4), (0, 7)] = true := by decide
  have h : Fits [d_.toNat, a_.toNat, b_.toNat, g_.toNat, f_.toNat, p_.toNat] [(22, 4), (18, 4), (14, 4), (11, 3), (7, 4), (0, 7)] := ⟨d_.isLt, a_.isLt, b_.isLt, g_.isLt, f_.isLt, p_.isLt, trivial⟩
  show selectB (place 0x44000000 (fieldsOf [d_.toNat, a_.toNat, b_.toNat, g_.toNat, f_.toNat, p_.toNat] [(22, 4), (18, 4), (14, 4), (11, 3), (7, 4), (0, 7)])) = _
  unfold selectB
  rw [fld_place o h (a := 26) (n := 6) (by decide)]
  exact congrArg some ((congr (congr (congr (congr (congr (congr (rfl : Instr.vshr = Instr.vshr) (ofNat_field (y := d_) (fld_field o h 0 (by decide)))) (ofNat_field (y := a_) (fld_field o h 1 (by decide)))) (ofNat_field (y := b_) (fld_field o h 2 (by decide)))) (ofNat_field (y := g_) (fld_field o h 3 (by decide)))) (ofNat_field (y := f_) (fld_field o h 4 (by decide)))) (ofNat_field (y := p_) (fld_field o h 5 (by decide)))))

theorem RoundTrip.vsra (d_ : BitVec 4) (a_ : BitVec 4) (b_ : BitVec 4) (g_ : BitVec 3) (f_ : BitVec 4) (p_ : BitVec 7) : RoundTrip.Statement (.vsra d_ a_ b_ g_ f_ p_) := by
  refine RoundTrip.ofB rfl ?_
  have o : layoutOk 0x48000000 [(22, 4), (18, 4), (14, 4), (11, 3), (7, 4), (0, 7)] = true := by decide
  have h : Fits [d_.toNat, a_.toNat, b_.toNat, g_.toNat, f_.toNat, p_.toNat] [(22, 4), (18, 4), (14, 4), (11, 3), (7, 4), (0, 7)] := ⟨d_.isLt, a_.isLt, b_.isLt, g_.isLt, f_.isLt, p_.isLt, trivial⟩
  show selectB (place 0x48000000 (fieldsOf [d_.toNat, a_.toNat, b_.toNat, g_.toNat, f_.toNat, p_.toNat] [(22, 4), (18, 4), (14, 4), (11, 3), (7, 4), (0, 7)])) = _
  unfold selectB
  rw [fld_place o h (a := 26) (n := 6) (by decide)]
  exact congrArg some ((congr (congr (congr (congr (congr (congr (rfl : Instr.vsra = Instr.vsra) (ofNat_field (y := d_) (fld_field o h 0 (by decide)))) (ofNat_field (y := a_) (fld_field o h 1 (by decide)))) (ofNat_field (y := b_) (fld_field o h 2 (by decide)))) (ofNat_field (y := g_) (fld_field o h 3 (by decide)))) (ofNat_field (y := f_) (fld_field o h 4 (by decide)))) (ofNat_field (y := p_) (fld_field o h 5 (by decide)))))

theorem RoundTrip.vcvt (d_ : BitVec 4) (a_ : BitVec 4) (h_ : BitVec 4) (g_ : BitVec 3) (f_ : BitVec 4) (r_ : BitVec 3) (s_ : BitVec 4) : RoundTrip.Statement (.vcvt d_ a_ h_ g_ f_ r_ s_) := by
  refine RoundTrip.ofB rfl ?_
  have o : layoutOk 0x4C000000 [(22, 4), (18, 4), (14, 4), (11, 3), (7, 4), (4, 3), (0, 4)] = true := by decide
  have h : Fits [d_.toNat, a_.toNat, h_.toNat, g_.toNat, f_.toNat, r_.toNat, s_.toNat] [(22, 4), (18, 4), (14, 4), (11, 3), (7, 4), (4, 3), (0, 4)] := ⟨d_.isLt, a_.isLt, h_.isLt, g_.isLt, f_.isLt, r_.isLt, s_.isLt, trivial⟩
  show selectB (place 0x4C000000 (fieldsOf [d_.toNat, a_.toNat, h_.toNat, g_.toNat, f_.toNat, r_.toNat, s_.toNat] [(22, 4), (18, 4), (14, 4), (11, 3), (7, 4), (4, 3), (0, 4)])) = _
  unfold selectB
  rw [fld_place o h (a := 26) (n := 6) (by decide)]
  exact congrArg some ((congr (congr (congr (congr (congr (congr (congr (rfl : Instr.vcvt = Instr.vcvt) (ofNat_field (y := d_) (fld_field o h 0 (by decide)))) (ofNat_field (y := a_) (fld_field o h 1 (by decide)))) (ofNat_field (y := h_) (fld_field o h 2 (by decide)))) (ofNat_field (y := g_) (fld_field o h 3 (by decide)))) (ofNat_field (y := f_) (fld_field o h 4 (by decide)))) (ofNat_field (y := r_) (fld_field o h 5 (by decide)))) (ofNat_field (y := s_) (fld_field o h 6 (by decide)))))

theorem RoundTrip.vperm (d_ : BitVec 4) (a_ : BitVec 4) (b_ : BitVec 4) (g_ : BitVec 3) (f_ : BitVec 4) : RoundTrip.Statement (.vperm d_ a_ b_ g_ f_) := by
  refine RoundTrip.ofB rfl ?_
  have o : layoutOk 0x50000000 [(22, 4), (18, 4), (14, 4), (11, 3), (7, 4)] = true := by decide
  have h : Fits [d_.toNat, a_.toNat, b_.toNat, g_.toNat, f_.toNat] [(22, 4), (18, 4), (14, 4), (11, 3), (7, 4)] := ⟨d_.isLt, a_.isLt, b_.isLt, g_.isLt, f_.isLt, trivial⟩
  show selectB (place 0x50000000 (fieldsOf [d_.toNat, a_.toNat, b_.toNat, g_.toNat, f_.toNat] [(22, 4), (18, 4), (14, 4), (11, 3), (7, 4)])) = _
  unfold selectB
  rw [fld_place o h (a := 26) (n := 6) (by decide)]
  exact congrArg some ((congr (congr (congr (congr (congr (rfl : Instr.vperm = Instr.vperm) (ofNat_field (y := d_) (fld_field o h 0 (by decide)))) (ofNat_field (y := a_) (fld_field o h 1 (by decide)))) (ofNat_field (y := b_) (fld_field o h 2 (by decide)))) (ofNat_field (y := g_) (fld_field o h 3 (by decide)))) (ofNat_field (y := f_) (fld_field o h 4 (by decide)))))

theorem RoundTrip.vbcast (d_ : BitVec 4) (a_ : BitVec 5) (g_ : BitVec 3) (f_ : BitVec 4) : RoundTrip.Statement (.vbcast d_ a_ g_ f_) := by
  refine RoundTrip.ofB rfl ?_
  have o : layoutOk 0x54000000 [(22, 4), (18, 4), (6, 1), (11, 3), (7, 4)] = true := by decide
  have h : Fits [d_.toNat, fld a_.toNat 0 4, fld a_.toNat 4 1, g_.toNat, f_.toNat] [(22, 4), (18, 4), (6, 1), (11, 3), (7, 4)] := ⟨d_.isLt, fld_lt _ _ _, fld_lt _ _ _, g_.isLt, f_.isLt, trivial⟩
  show selectB (place 0x54000000 (fieldsOf [d_.toNat, fld a_.toNat 0 4, fld a_.toNat 4 1, g_.toNat, f_.toNat] [(22, 4), (18, 4), (6, 1), (11, 3), (7, 4)])) = _
  unfold selectB
  rw [fld_place o h (a := 26) (n := 6) (by decide)]
  exact congrArg some ((congr (congr (congr (congr (rfl : Instr.vbcast = Instr.vbcast) (ofNat_field (y := d_) (fld_field o h 0 (by decide)))) (ofNat_parts a_ (fld_field o h 2 (by decide)) (fld_field o h 1 (by decide)))) (ofNat_field (y := g_) (fld_field o h 3 (by decide)))) (ofNat_field (y := f_) (fld_field o h 4 (by decide)))))

theorem RoundTrip.vextr (v_ : BitVec 4) (a_ : BitVec 5) (b_ : BitVec 5) (f_ : BitVec 4) (e_ : BitVec 1) : RoundTrip.Statement (.vextr v_ a_ b_ f_ e_) := by
  refine RoundTrip.ofB rfl ?_
  have o : layoutOk 0x58000000 [(22, 4), (18, 4), (6, 1), (14, 4), (5, 1), (7, 4), (0, 1)] = true := by decide
  have h : Fits [v_.toNat, fld a_.toNat 0 4, fld a_.toNat 4 1, fld b_.toNat 0 4, fld b_.toNat 4 1, f_.toNat, e_.toNat] [(22, 4), (18, 4), (6, 1), (14, 4), (5, 1), (7, 4), (0, 1)] := ⟨v_.isLt, fld_lt _ _ _, fld_lt _ _ _, fld_lt _ _ _, fld_lt _ _ _, f_.isLt, e_.isLt, trivial⟩
  show selectB (place 0x58000000 (fieldsOf [v_.toNat, fld a_.toNat 0 4, fld a_.toNat 4 1, fld b_.toNat 0 4, fld b_.toNat 4 1, f_.toNat, e_.toNat] [(22, 4), (18, 4), (6, 1), (14, 4), (5, 1), (7, 4), (0, 1)])) = _
  unfold selectB
  rw [fld_place o h (a := 26) (n := 6) (by decide)]
  exact congrArg some ((congr (congr (congr (congr (congr (rfl : Instr.vextr = Instr.vextr) (ofNat_field (y := v_) (fld_field o h 0 (by decide)))) (ofNat_parts a_ (fld_field o h 2 (by decide)) (fld_field o h 1 (by decide)))) (ofNat_parts b_ (fld_field o h 4 (by decide)) (fld_field o h 3 (by decide)))) (ofNat_field (y := f_) (fld_field o h 5 (by decide)))) (ofNat_field (y := e_) (fld_field o h 6 (by decide)))))

theorem RoundTrip.vins (v_ : BitVec 4) (a_ : BitVec 5) (b_ : BitVec 5) (f_ : BitVec 4) : RoundTrip.Statement (.vins v_ a_ b_ f_) := by
  refine RoundTrip.ofB rfl ?_
  have o : layoutOk 0x5C000000 [(22, 4), (18, 4), (6, 1), (14, 4), (5, 1), (7, 4)] = true := by decide
  have h : Fits [v_.toNat, fld a_.toNat 0 4, fld a_.toNat 4 1, fld b_.toNat 0 4, fld b_.toNat 4 1, f_.toNat] [(22, 4), (18, 4), (6, 1), (14, 4), (5, 1), (7, 4)] := ⟨v_.isLt, fld_lt _ _ _, fld_lt _ _ _, fld_lt _ _ _, fld_lt _ _ _, f_.isLt, trivial⟩
  show selectB (place 0x5C000000 (fieldsOf [v_.toNat, fld a_.toNat 0 4, fld a_.toNat 4 1, fld b_.toNat 0 4, fld b_.toNat 4 1, f_.toNat] [(22, 4), (18, 4), (6, 1), (14, 4), (5, 1), (7, 4)])) = _
  unfold selectB
  rw [fld_place o h (a := 26) (n := 6) (by decide)]
  exact congrArg some ((congr (congr (congr (congr (rfl : Instr.vins = Instr.vins) (ofNat_field (y := v_) (fld_field o h 0 (by decide)))) (ofNat_parts a_ (fld_field o h 2 (by decide)) (fld_field o h 1 (by decide)))) (ofNat_parts b_ (fld_field o h 4 (by decide)) (fld_field o h 3 (by decide)))) (ofNat_field (y := f_) (fld_field o h 5 (by decide)))))

theorem RoundTrip.vmov (d_ : BitVec 4) (a_ : BitVec 4) (g_ : BitVec 3) : RoundTrip.Statement (.vmov d_ a_ g_) := by
  refine RoundTrip.ofB rfl ?_
  have o : layoutOk 0x60000000 [(22, 4), (18, 4), (11, 3)] = true := by decide
  have h : Fits [d_.toNat, a_.toNat, g_.toNat] [(22, 4), (18, 4), (11, 3)] := ⟨d_.isLt, a_.isLt, g_.isLt, trivial⟩
  show selectB (place 0x60000000 (fieldsOf [d_.toNat, a_.toNat, g_.toNat] [(22, 4), (18, 4), (11, 3)])) = _
  unfold selectB
  rw [fld_place o h (a := 26) (n := 6) (by decide)]
  exact congrArg some ((congr (congr (congr (rfl : Instr.vmov = Instr.vmov) (ofNat_field (y := d_) (fld_field o h 0 (by decide)))) (ofNat_field (y := a_) (fld_field o h 1 (by decide)))) (ofNat_field (y := g_) (fld_field o h 2 (by decide)))))

theorem RoundTrip.viota (d_ : BitVec 4) (g_ : BitVec 3) (f_ : BitVec 4) (x_ : BitVec 1) : RoundTrip.Statement (.viota d_ g_ f_ x_) := by
  refine RoundTrip.ofB rfl ?_
  have o : layoutOk 0x64000000 [(22, 4), (11, 3), (7, 4), (0, 1)] = true := by decide
  have h : Fits [d_.toNat, g_.toNat, f_.toNat, x_.toNat] [(22, 4), (11, 3), (7, 4), (0, 1)] := ⟨d_.isLt, g_.isLt, f_.isLt, x_.isLt, trivial⟩
  show selectB (place 0x64000000 (fieldsOf [d_.toNat, g_.toNat, f_.toNat, x_.toNat] [(22, 4), (11, 3), (7, 4), (0, 1)])) = _
  unfold selectB
  rw [fld_place o h (a := 26) (n := 6) (by decide)]
  exact congrArg some ((congr (congr (congr (congr (rfl : Instr.viota = Instr.viota) (ofNat_field (y := d_) (fld_field o h 0 (by decide)))) (ofNat_field (y := g_) (fld_field o h 1 (by decide)))) (ofNat_field (y := f_) (fld_field o h 2 (by decide)))) (ofNat_field (y := x_) (fld_field o h 3 (by decide)))))

theorem RoundTrip.vord (d_ : BitVec 4) (a_ : BitVec 4) (g_ : BitVec 3) (f_ : BitVec 4) (x_ : BitVec 1) : RoundTrip.Statement (.vord d_ a_ g_ f_ x_) := by
  refine RoundTrip.ofB rfl ?_
  have o : layoutOk 0x68000000 [(22, 4), (18, 4), (11, 3), (7, 4), (0, 1)] = true := by decide
  have h : Fits [d_.toNat, a_.toNat, g_.toNat, f_.toNat, x_.toNat] [(22, 4), (18, 4), (11, 3), (7, 4), (0, 1)] := ⟨d_.isLt, a_.isLt, g_.isLt, f_.isLt, x_.isLt, trivial⟩
  show selectB (place 0x68000000 (fieldsOf [d_.toNat, a_.toNat, g_.toNat, f_.toNat, x_.toNat] [(22, 4), (18, 4), (11, 3), (7, 4), (0, 1)])) = _
  unfold selectB
  rw [fld_place o h (a := 26) (n := 6) (by decide)]
  exact congrArg some ((congr (congr (congr (congr (congr (rfl : Instr.vord = Instr.vord) (ofNat_field (y := d_) (fld_field o h 0 (by decide)))) (ofNat_field (y := a_) (fld_field o h 1 (by decide)))) (ofNat_field (y := g_) (fld_field o h 2 (by decide)))) (ofNat_field (y := f_) (fld_field o h 3 (by decide)))) (ofNat_field (y := x_) (fld_field o h 4 (by decide)))))

theorem RoundTrip.vdig (d_ : BitVec 4) (a_ : BitVec 4) (g_ : BitVec 3) (f_ : BitVec 4) (w_ : BitVec 2) (s_ : BitVec 5) : RoundTrip.Statement (.vdig d_ a_ g_ f_ w_ s_) := by
  refine RoundTrip.ofB rfl ?_
  have o : layoutOk 0x6C000000 [(22, 4), (18, 4), (11, 3), (7, 4), (5, 2), (0, 5)] = true := by decide
  have h : Fits [d_.toNat, a_.toNat, g_.toNat, f_.toNat, w_.toNat, s_.toNat] [(22, 4), (18, 4), (11, 3), (7, 4), (5, 2), (0, 5)] := ⟨d_.isLt, a_.isLt, g_.isLt, f_.isLt, w_.isLt, s_.isLt, trivial⟩
  show selectB (place 0x6C000000 (fieldsOf [d_.toNat, a_.toNat, g_.toNat, f_.toNat, w_.toNat, s_.toNat] [(22, 4), (18, 4), (11, 3), (7, 4), (5, 2), (0, 5)])) = _
  unfold selectB
  rw [fld_place o h (a := 26) (n := 6) (by decide)]
  exact congrArg some ((congr (congr (congr (congr (congr (congr (rfl : Instr.vdig = Instr.vdig) (ofNat_field (y := d_) (fld_field o h 0 (by decide)))) (ofNat_field (y := a_) (fld_field o h 1 (by decide)))) (ofNat_field (y := g_) (fld_field o h 2 (by decide)))) (ofNat_field (y := f_) (fld_field o h 3 (by decide)))) (ofNat_field (y := w_) (fld_field o h 4 (by decide)))) (ofNat_field (y := s_) (fld_field o h 5 (by decide)))))

theorem RoundTrip.vhadd (v_ : BitVec 4) (a_ : BitVec 4) (b_ : BitVec 4) (g_ : BitVec 3) (f_ : BitVec 4) (x_ : BitVec 1) : RoundTrip.Statement (.vhadd v_ a_ b_ g_ f_ x_) := by
  refine RoundTrip.ofB rfl ?_
  have o : layoutOk 0x70000000 [(22, 4), (18, 4), (14, 4), (11, 3), (7, 4), (0, 1)] = true := by decide
  have h : Fits [v_.toNat, a_.toNat, b_.toNat, g_.toNat, f_.toNat, x_.toNat] [(22, 4), (18, 4), (14, 4), (11, 3), (7, 4), (0, 1)] := ⟨v_.isLt, a_.isLt, b_.isLt, g_.isLt, f_.isLt, x_.isLt, trivial⟩
  show selectB (place 0x70000000 (fieldsOf [v_.toNat, a_.toNat, b_.toNat, g_.toNat, f_.toNat, x_.toNat] [(22, 4), (18, 4), (14, 4), (11, 3), (7, 4), (0, 1)])) = _
  unfold selectB
  rw [fld_place o h (a := 26) (n := 6) (by decide)]
  exact congrArg some ((congr (congr (congr (congr (congr (congr (rfl : Instr.vhadd = Instr.vhadd) (ofNat_field (y := v_) (fld_field o h 0 (by decide)))) (ofNat_field (y := a_) (fld_field o h 1 (by decide)))) (ofNat_field (y := b_) (fld_field o h 2 (by decide)))) (ofNat_field (y := g_) (fld_field o h 3 (by decide)))) (ofNat_field (y := f_) (fld_field o h 4 (by decide)))) (ofNat_field (y := x_) (fld_field o h 5 (by decide)))))

theorem RoundTrip.pwhile (d_ : BitVec 3) (a_ : BitVec 5) (b_ : BitVec 5) (g_ : BitVec 3) (f_ : BitVec 4) (n_ : BitVec 1) : RoundTrip.Statement (.pwhile d_ a_ b_ g_ f_ n_) := by
  refine RoundTrip.ofB rfl ?_
  have o : layoutOk 0x80000000 [(22, 3), (18, 4), (6, 1), (14, 4), (5, 1), (11, 3), (7, 4), (0, 1)] = true := by decide
  have h : Fits [d_.toNat, fld a_.toNat 0 4, fld a_.toNat 4 1, fld b_.toNat 0 4, fld b_.toNat 4 1, g_.toNat, f_.toNat, n_.toNat] [(22, 3), (18, 4), (6, 1), (14, 4), (5, 1), (11, 3), (7, 4), (0, 1)] := ⟨d_.isLt, fld_lt _ _ _, fld_lt _ _ _, fld_lt _ _ _, fld_lt _ _ _, g_.isLt, f_.isLt, n_.isLt, trivial⟩
  show selectB (place 0x80000000 (fieldsOf [d_.toNat, fld a_.toNat 0 4, fld a_.toNat 4 1, fld b_.toNat 0 4, fld b_.toNat 4 1, g_.toNat, f_.toNat, n_.toNat] [(22, 3), (18, 4), (6, 1), (14, 4), (5, 1), (11, 3), (7, 4), (0, 1)])) = _
  unfold selectB
  rw [fld_place o h (a := 26) (n := 6) (by decide)]
  exact congrArg some ((congr (congr (congr (congr (congr (congr (rfl : Instr.pwhile = Instr.pwhile) (ofNat_field (y := d_) (fld_field o h 0 (by decide)))) (ofNat_parts a_ (fld_field o h 2 (by decide)) (fld_field o h 1 (by decide)))) (ofNat_parts b_ (fld_field o h 4 (by decide)) (fld_field o h 3 (by decide)))) (ofNat_field (y := g_) (fld_field o h 5 (by decide)))) (ofNat_field (y := f_) (fld_field o h 6 (by decide)))) (ofNat_field (y := n_) (fld_field o h 7 (by decide)))))

theorem RoundTrip.pand (d_ : BitVec 3) (a_ : BitVec 3) (b_ : BitVec 3) (g_ : BitVec 3) : RoundTrip.Statement (.pand d_ a_ b_ g_) := by
  refine RoundTrip.ofB rfl ?_
  have o : layoutOk 0x84000000 [(22, 3), (18, 3), (14, 3), (11, 3)] = true := by decide
  have h : Fits [d_.toNat, a_.toNat, b_.toNat, g_.toNat] [(22, 3), (18, 3), (14, 3), (11, 3)] := ⟨d_.isLt, a_.isLt, b_.isLt, g_.isLt, trivial⟩
  show selectB (place 0x84000000 (fieldsOf [d_.toNat, a_.toNat, b_.toNat, g_.toNat] [(22, 3), (18, 3), (14, 3), (11, 3)])) = _
  unfold selectB
  rw [fld_place o h (a := 26) (n := 6) (by decide)]
  exact congrArg some ((congr (congr (congr (congr (rfl : Instr.pand = Instr.pand) (ofNat_field (y := d_) (fld_field o h 0 (by decide)))) (ofNat_field (y := a_) (fld_field o h 1 (by decide)))) (ofNat_field (y := b_) (fld_field o h 2 (by decide)))) (ofNat_field (y := g_) (fld_field o h 3 (by decide)))))

theorem RoundTrip.por (d_ : BitVec 3) (a_ : BitVec 3) (b_ : BitVec 3) (g_ : BitVec 3) : RoundTrip.Statement (.por d_ a_ b_ g_) := by
  refine RoundTrip.ofB rfl ?_
  have o : layoutOk 0x88000000 [(22, 3), (18, 3), (14, 3), (11, 3)] = true := by decide
  have h : Fits [d_.toNat, a_.toNat, b_.toNat, g_.toNat] [(22, 3), (18, 3), (14, 3), (11, 3)] := ⟨d_.isLt, a_.isLt, b_.isLt, g_.isLt, trivial⟩
  show selectB (place 0x88000000 (fieldsOf [d_.toNat, a_.toNat, b_.toNat, g_.toNat] [(22, 3), (18, 3), (14, 3), (11, 3)])) = _
  unfold selectB
  rw [fld_place o h (a := 26) (n := 6) (by decide)]
  exact congrArg some ((congr (congr (congr (congr (rfl : Instr.por = Instr.por) (ofNat_field (y := d_) (fld_field o h 0 (by decide)))) (ofNat_field (y := a_) (fld_field o h 1 (by decide)))) (ofNat_field (y := b_) (fld_field o h 2 (by decide)))) (ofNat_field (y := g_) (fld_field o h 3 (by decide)))))

theorem RoundTrip.pxor (d_ : BitVec 3) (a_ : BitVec 3) (b_ : BitVec 3) (g_ : BitVec 3) : RoundTrip.Statement (.pxor d_ a_ b_ g_) := by
  refine RoundTrip.ofB rfl ?_
  have o : layoutOk 0x8C000000 [(22, 3), (18, 3), (14, 3), (11, 3)] = true := by decide
  have h : Fits [d_.toNat, a_.toNat, b_.toNat, g_.toNat] [(22, 3), (18, 3), (14, 3), (11, 3)] := ⟨d_.isLt, a_.isLt, b_.isLt, g_.isLt, trivial⟩
  show selectB (place 0x8C000000 (fieldsOf [d_.toNat, a_.toNat, b_.toNat, g_.toNat] [(22, 3), (18, 3), (14, 3), (11, 3)])) = _
  unfold selectB
  rw [fld_place o h (a := 26) (n := 6) (by decide)]
  exact congrArg some ((congr (congr (congr (congr (rfl : Instr.pxor = Instr.pxor) (ofNat_field (y := d_) (fld_field o h 0 (by decide)))) (ofNat_field (y := a_) (fld_field o h 1 (by decide)))) (ofNat_field (y := b_) (fld_field o h 2 (by decide)))) (ofNat_field (y := g_) (fld_field o h 3 (by decide)))))

theorem RoundTrip.pnot (d_ : BitVec 3) (a_ : BitVec 3) (g_ : BitVec 3) : RoundTrip.Statement (.pnot d_ a_ g_) := by
  refine RoundTrip.ofB rfl ?_
  have o : layoutOk 0x90000000 [(22, 3), (18, 3), (11, 3)] = true := by decide
  have h : Fits [d_.toNat, a_.toNat, g_.toNat] [(22, 3), (18, 3), (11, 3)] := ⟨d_.isLt, a_.isLt, g_.isLt, trivial⟩
  show selectB (place 0x90000000 (fieldsOf [d_.toNat, a_.toNat, g_.toNat] [(22, 3), (18, 3), (11, 3)])) = _
  unfold selectB
  rw [fld_place o h (a := 26) (n := 6) (by decide)]
  exact congrArg some ((congr (congr (congr (rfl : Instr.pnot = Instr.pnot) (ofNat_field (y := d_) (fld_field o h 0 (by decide)))) (ofNat_field (y := a_) (fld_field o h 1 (by decide)))) (ofNat_field (y := g_) (fld_field o h 2 (by decide)))))

theorem RoundTrip.pcnt (p_ : BitVec 3) (d_ : BitVec 5) (g_ : BitVec 3) (f_ : BitVec 4) : RoundTrip.Statement (.pcnt p_ d_ g_ f_) := by
  refine RoundTrip.ofB rfl ?_
  have o : layoutOk 0x94000000 [(22, 3), (18, 4), (6, 1), (11, 3), (7, 4)] = true := by decide
  have h : Fits [p_.toNat, fld d_.toNat 0 4, fld d_.toNat 4 1, g_.toNat, f_.toNat] [(22, 3), (18, 4), (6, 1), (11, 3), (7, 4)] := ⟨p_.isLt, fld_lt _ _ _, fld_lt _ _ _, g_.isLt, f_.isLt, trivial⟩
  show selectB (place 0x94000000 (fieldsOf [p_.toNat, fld d_.toNat 0 4, fld d_.toNat 4 1, g_.toNat, f_.toNat] [(22, 3), (18, 4), (6, 1), (11, 3), (7, 4)])) = _
  unfold selectB
  rw [fld_place o h (a := 26) (n := 6) (by decide)]
  exact congrArg some ((congr (congr (congr (congr (rfl : Instr.pcnt = Instr.pcnt) (ofNat_field (y := p_) (fld_field o h 0 (by decide)))) (ofNat_parts d_ (fld_field o h 2 (by decide)) (fld_field o h 1 (by decide)))) (ofNat_field (y := g_) (fld_field o h 3 (by decide)))) (ofNat_field (y := f_) (fld_field o h 4 (by decide)))))

theorem RoundTrip.pfirst (d_ : BitVec 3) (a_ : BitVec 3) (g_ : BitVec 3) (f_ : BitVec 4) : RoundTrip.Statement (.pfirst d_ a_ g_ f_) := by
  refine RoundTrip.ofB rfl ?_
  have o : layoutOk 0x98000000 [(22, 3), (18, 3), (11, 3), (7, 4)] = true := by decide
  have h : Fits [d_.toNat, a_.toNat, g_.toNat, f_.toNat] [(22, 3), (18, 3), (11, 3), (7, 4)] := ⟨d_.isLt, a_.isLt, g_.isLt, f_.isLt, trivial⟩
  show selectB (place 0x98000000 (fieldsOf [d_.toNat, a_.toNat, g_.toNat, f_.toNat] [(22, 3), (18, 3), (11, 3), (7, 4)])) = _
  unfold selectB
  rw [fld_place o h (a := 26) (n := 6) (by decide)]
  exact congrArg some ((congr (congr (congr (congr (rfl : Instr.pfirst = Instr.pfirst) (ofNat_field (y := d_) (fld_field o h 0 (by decide)))) (ofNat_field (y := a_) (fld_field o h 1 (by decide)))) (ofNat_field (y := g_) (fld_field o h 2 (by decide)))) (ofNat_field (y := f_) (fld_field o h 3 (by decide)))))

theorem RoundTrip.pset (d_ : BitVec 3) (g_ : BitVec 3) (f_ : BitVec 4) (k_ : BitVec 7) : RoundTrip.Statement (.pset d_ g_ f_ k_) := by
  refine RoundTrip.ofB rfl ?_
  have o : layoutOk 0x9C000000 [(22, 3), (11, 3), (7, 4), (0, 7)] = true := by decide
  have h : Fits [d_.toNat, g_.toNat, f_.toNat, k_.toNat] [(22, 3), (11, 3), (7, 4), (0, 7)] := ⟨d_.isLt, g_.isLt, f_.isLt, k_.isLt, trivial⟩
  show selectB (place 0x9C000000 (fieldsOf [d_.toNat, g_.toNat, f_.toNat, k_.toNat] [(22, 3), (11, 3), (7, 4), (0, 7)])) = _
  unfold selectB
  rw [fld_place o h (a := 26) (n := 6) (by decide)]
  exact congrArg some ((congr (congr (congr (congr (rfl : Instr.pset = Instr.pset) (ofNat_field (y := d_) (fld_field o h 0 (by decide)))) (ofNat_field (y := g_) (fld_field o h 1 (by decide)))) (ofNat_field (y := f_) (fld_field o h 2 (by decide)))) (ofNat_field (y := k_) (fld_field o h 3 (by decide)))))

theorem RoundTrip.vtod (d_ : BitVec 3) (v_ : BitVec 4) (g_ : BitVec 2) (f_ : BitVec 4) (r_ : BitVec 3) : RoundTrip.Statement (.vtod d_ v_ g_ f_ r_) := by
  refine RoundTrip.ofB rfl ?_
  have o : layoutOk 0xA0000000 [(22, 3), (18, 4), (11, 2), (7, 4), (4, 3)] = true := by decide
  have h : Fits [d_.toNat, v_.toNat, g_.toNat, f_.toNat, r_.toNat] [(22, 3), (18, 4), (11, 2), (7, 4), (4, 3)] := ⟨d_.isLt, v_.isLt, g_.isLt, f_.isLt, r_.isLt, trivial⟩
  show selectB (place 0xA0000000 (fieldsOf [d_.toNat, v_.toNat, g_.toNat, f_.toNat, r_.toNat] [(22, 3), (18, 4), (11, 2), (7, 4), (4, 3)])) = _
  unfold selectB
  rw [fld_place o h (a := 26) (n := 6) (by decide)]
  exact congrArg some ((congr (congr (congr (congr (congr (rfl : Instr.vtod = Instr.vtod) (ofNat_field (y := d_) (fld_field o h 0 (by decide)))) (ofNat_field (y := v_) (fld_field o h 1 (by decide)))) (ofNat_field (y := g_) (fld_field o h 2 (by decide)))) (ofNat_field (y := f_) (fld_field o h 3 (by decide)))) (ofNat_field (y := r_) (fld_field o h 4 (by decide)))))

theorem RoundTrip.dtov (v_ : BitVec 4) (a_ : BitVec 3) (g_ : BitVec 2) (f_ : BitVec 4) (r_ : BitVec 3) : RoundTrip.Statement (.dtov v_ a_ g_ f_ r_) := by
  refine RoundTrip.ofB rfl ?_
  have o : layoutOk 0xA4000000 [(22, 4), (18, 3), (11, 2), (7, 4), (4, 3)] = true := by decide
  have h : Fits [v_.toNat, a_.toNat, g_.toNat, f_.toNat, r_.toNat] [(22, 4), (18, 3), (11, 2), (7, 4), (4, 3)] := ⟨v_.isLt, a_.isLt, g_.isLt, f_.isLt, r_.isLt, trivial⟩
  show selectB (place 0xA4000000 (fieldsOf [v_.toNat, a_.toNat, g_.toNat, f_.toNat, r_.toNat] [(22, 4), (18, 3), (11, 2), (7, 4), (4, 3)])) = _
  unfold selectB
  rw [fld_place o h (a := 26) (n := 6) (by decide)]
  exact congrArg some ((congr (congr (congr (congr (congr (rfl : Instr.dtov = Instr.dtov) (ofNat_field (y := v_) (fld_field o h 0 (by decide)))) (ofNat_field (y := a_) (fld_field o h 1 (by decide)))) (ofNat_field (y := g_) (fld_field o h 2 (by decide)))) (ofNat_field (y := f_) (fld_field o h 3 (by decide)))) (ofNat_field (y := r_) (fld_field o h 4 (by decide)))))

theorem RoundTrip.dadd (d_ : BitVec 3) (a_ : BitVec 3) (b_ : BitVec 3) (g_ : BitVec 2) (r_ : BitVec 3) : RoundTrip.Statement (.dadd d_ a_ b_ g_ r_) := by
  refine RoundTrip.ofB rfl ?_
  have o : layoutOk 0xA8000780 [(22, 3), (18, 3), (14, 3), (11, 2), (4, 3)] = true := by decide
  have h : Fits [d_.toNat, a_.toNat, b_.toNat, g_.toNat, r_.toNat] [(22, 3), (18, 3), (14, 3), (11, 2), (4, 3)] := ⟨d_.isLt, a_.isLt, b_.isLt, g_.isLt, r_.isLt, trivial⟩
  show selectB (place 0xA8000780 (fieldsOf [d_.toNat, a_.toNat, b_.toNat, g_.toNat, r_.toNat] [(22, 3), (18, 3), (14, 3), (11, 2), (4, 3)])) = _
  unfold selectB
  rw [fld_place o h (a := 26) (n := 6) (by decide), fld_place o h (a := 0) (n := 4) (by decide)]
  exact congrArg some ((congr (congr (congr (congr (congr (rfl : Instr.dadd = Instr.dadd) (ofNat_field (y := d_) (fld_field o h 0 (by decide)))) (ofNat_field (y := a_) (fld_field o h 1 (by decide)))) (ofNat_field (y := b_) (fld_field o h 2 (by decide)))) (ofNat_field (y := g_) (fld_field o h 3 (by decide)))) (ofNat_field (y := r_) (fld_field o h 4 (by decide)))))

theorem RoundTrip.dsub (d_ : BitVec 3) (a_ : BitVec 3) (b_ : BitVec 3) (g_ : BitVec 2) (r_ : BitVec 3) : RoundTrip.Statement (.dsub d_ a_ b_ g_ r_) := by
  refine RoundTrip.ofB rfl ?_
  have o : layoutOk 0xA8000781 [(22, 3), (18, 3), (14, 3), (11, 2), (4, 3)] = true := by decide
  have h : Fits [d_.toNat, a_.toNat, b_.toNat, g_.toNat, r_.toNat] [(22, 3), (18, 3), (14, 3), (11, 2), (4, 3)] := ⟨d_.isLt, a_.isLt, b_.isLt, g_.isLt, r_.isLt, trivial⟩
  show selectB (place 0xA8000781 (fieldsOf [d_.toNat, a_.toNat, b_.toNat, g_.toNat, r_.toNat] [(22, 3), (18, 3), (14, 3), (11, 2), (4, 3)])) = _
  unfold selectB
  rw [fld_place o h (a := 26) (n := 6) (by decide), fld_place o h (a := 0) (n := 4) (by decide)]
  exact congrArg some ((congr (congr (congr (congr (congr (rfl : Instr.dsub = Instr.dsub) (ofNat_field (y := d_) (fld_field o h 0 (by decide)))) (ofNat_field (y := a_) (fld_field o h 1 (by decide)))) (ofNat_field (y := b_) (fld_field o h 2 (by decide)))) (ofNat_field (y := g_) (fld_field o h 3 (by decide)))) (ofNat_field (y := r_) (fld_field o h 4 (by decide)))))

theorem RoundTrip.dscl (d_ : BitVec 3) (s_ : BitVec 5) (g_ : BitVec 2) : RoundTrip.Statement (.dscl d_ s_ g_) := by
  refine RoundTrip.ofB rfl ?_
  have o : layoutOk 0xAC000780 [(22, 3), (17, 5), (11, 2)] = true := by decide
  have h : Fits [d_.toNat, s_.toNat, g_.toNat] [(22, 3), (17, 5), (11, 2)] := ⟨d_.isLt, s_.isLt, g_.isLt, trivial⟩
  show selectB (place 0xAC000780 (fieldsOf [d_.toNat, s_.toNat, g_.toNat] [(22, 3), (17, 5), (11, 2)])) = _
  unfold selectB
  rw [fld_place o h (a := 26) (n := 6) (by decide), fld_place o h (a := 0) (n := 4) (by decide)]
  exact congrArg some ((congr (congr (congr (rfl : Instr.dscl = Instr.dscl) (ofNat_field (y := d_) (fld_field o h 0 (by decide)))) (ofNat_field (y := s_) (fld_field o h 1 (by decide)))) (ofNat_field (y := g_) (fld_field o h 2 (by decide)))))

theorem RoundTrip.dsetn (d_ : BitVec 3) (s_ : BitVec 5) (g_ : BitVec 2) : RoundTrip.Statement (.dsetn d_ s_ g_) := by
  refine RoundTrip.ofB rfl ?_
  have o : layoutOk 0xAC000781 [(22, 3), (17, 5), (11, 2)] = true := by decide
  have h : Fits [d_.toNat, s_.toNat, g_.toNat] [(22, 3), (17, 5), (11, 2)] := ⟨d_.isLt, s_.isLt, g_.isLt, trivial⟩
  show selectB (place 0xAC000781 (fieldsOf [d_.toNat, s_.toNat, g_.toNat] [(22, 3), (17, 5), (11, 2)])) = _
  unfold selectB
  rw [fld_place o h (a := 26) (n := 6) (by decide), fld_place o h (a := 0) (n := 4) (by decide)]
  exact congrArg some ((congr (congr (congr (rfl : Instr.dsetn = Instr.dsetn) (ofNat_field (y := d_) (fld_field o h 0 (by decide)))) (ofNat_field (y := s_) (fld_field o h 1 (by decide)))) (ofNat_field (y := g_) (fld_field o h 2 (by decide)))))

theorem RoundTrip.dneg (d_ : BitVec 3) (a_ : BitVec 3) (g_ : BitVec 2) : RoundTrip.Statement (.dneg d_ a_ g_) := by
  refine RoundTrip.ofB rfl ?_
  have o : layoutOk 0xB0000780 [(22, 3), (18, 3), (11, 2)] = true := by decide
  have h : Fits [d_.toNat, a_.toNat, g_.toNat] [(22, 3), (18, 3), (11, 2)] := ⟨d_.isLt, a_.isLt, g_.isLt, trivial⟩
  show selectB (place 0xB0000780 (fieldsOf [d_.toNat, a_.toNat, g_.toNat] [(22, 3), (18, 3), (11, 2)])) = _
  unfold selectB
  rw [fld_place o h (a := 26) (n := 6) (by decide), fld_place o h (a := 0) (n := 4) (by decide)]
  exact congrArg some ((congr (congr (congr (rfl : Instr.dneg = Instr.dneg) (ofNat_field (y := d_) (fld_field o h 0 (by decide)))) (ofNat_field (y := a_) (fld_field o h 1 (by decide)))) (ofNat_field (y := g_) (fld_field o h 2 (by decide)))))

theorem RoundTrip.dmov (d_ : BitVec 3) (a_ : BitVec 3) (g_ : BitVec 2) : RoundTrip.Statement (.dmov d_ a_ g_) := by
  refine RoundTrip.ofB rfl ?_
  have o : layoutOk 0xB0000781 [(22, 3), (18, 3), (11, 2)] = true := by decide
  have h : Fits [d_.toNat, a_.toNat, g_.toNat] [(22, 3), (18, 3), (11, 2)] := ⟨d_.isLt, a_.isLt, g_.isLt, trivial⟩
  show selectB (place 0xB0000781 (fieldsOf [d_.toNat, a_.toNat, g_.toNat] [(22, 3), (18, 3), (11, 2)])) = _
  unfold selectB
  rw [fld_place o h (a := 26) (n := 6) (by decide), fld_place o h (a := 0) (n := 4) (by decide)]
  exact congrArg some ((congr (congr (congr (rfl : Instr.dmov = Instr.dmov) (ofNat_field (y := d_) (fld_field o h 0 (by decide)))) (ofNat_field (y := a_) (fld_field o h 1 (by decide)))) (ofNat_field (y := g_) (fld_field o h 2 (by decide)))))

theorem RoundTrip.dcos (s_ : BitVec 5) (a_ : BitVec 3) (b_ : BitVec 3) (g_ : BitVec 2) (r_ : BitVec 3) : RoundTrip.Statement (.dcos s_ a_ b_ g_ r_) := by
  refine RoundTrip.ofB rfl ?_
  have o : layoutOk 0xB4000780 [(21, 5), (18, 3), (14, 3), (11, 2), (4, 3)] = true := by decide
  have h : Fits [s_.toNat, a_.toNat, b_.toNat, g_.toNat, r_.toNat] [(21, 5), (18, 3), (14, 3), (11, 2), (4, 3)] := ⟨s_.isLt, a_.isLt, b_.isLt, g_.isLt, r_.isLt, trivial⟩
  show selectB (place 0xB4000780 (fieldsOf [s_.toNat, a_.toNat, b_.toNat, g_.toNat, r_.toNat] [(21, 5), (18, 3), (14, 3), (11, 2), (4, 3)])) = _
  unfold selectB
  rw [fld_place o h (a := 26) (n := 6) (by decide), fld_place o h (a := 0) (n := 4) (by decide)]
  exact congrArg some ((congr (congr (congr (congr (congr (rfl : Instr.dcos = Instr.dcos) (ofNat_field (y := s_) (fld_field o h 0 (by decide)))) (ofNat_field (y := a_) (fld_field o h 1 (by decide)))) (ofNat_field (y := b_) (fld_field o h 2 (by decide)))) (ofNat_field (y := g_) (fld_field o h 3 (by decide)))) (ofNat_field (y := r_) (fld_field o h 4 (by decide)))))

theorem RoundTrip.dnrm (s_ : BitVec 5) (a_ : BitVec 3) (g_ : BitVec 2) (r_ : BitVec 3) : RoundTrip.Statement (.dnrm s_ a_ g_ r_) := by
  refine RoundTrip.ofB rfl ?_
  have o : layoutOk 0xB4000781 [(21, 5), (18, 3), (11, 2), (4, 3)] = true := by decide
  have h : Fits [s_.toNat, a_.toNat, g_.toNat, r_.toNat] [(21, 5), (18, 3), (11, 2), (4, 3)] := ⟨s_.isLt, a_.isLt, g_.isLt, r_.isLt, trivial⟩
  show selectB (place 0xB4000781 (fieldsOf [s_.toNat, a_.toNat, g_.toNat, r_.toNat] [(21, 5), (18, 3), (11, 2), (4, 3)])) = _
  unfold selectB
  rw [fld_place o h (a := 26) (n := 6) (by decide), fld_place o h (a := 0) (n := 4) (by decide)]
  exact congrArg some ((congr (congr (congr (congr (rfl : Instr.dnrm = Instr.dnrm) (ofNat_field (y := s_) (fld_field o h 0 (by decide)))) (ofNat_field (y := a_) (fld_field o h 1 (by decide)))) (ofNat_field (y := g_) (fld_field o h 2 (by decide)))) (ofNat_field (y := r_) (fld_field o h 3 (by decide)))))

theorem RoundTrip.dren (d_ : BitVec 3) (a_ : BitVec 3) (g_ : BitVec 2) (r_ : BitVec 3) : RoundTrip.Statement (.dren d_ a_ g_ r_) := by
  refine RoundTrip.ofB rfl ?_
  have o : layoutOk 0xB8000780 [(22, 3), (18, 3), (11, 2), (4, 3)] = true := by decide
  have h : Fits [d_.toNat, a_.toNat, g_.toNat, r_.toNat] [(22, 3), (18, 3), (11, 2), (4, 3)] := ⟨d_.isLt, a_.isLt, g_.isLt, r_.isLt, trivial⟩
  show selectB (place 0xB8000780 (fieldsOf [d_.toNat, a_.toNat, g_.toNat, r_.toNat] [(22, 3), (18, 3), (11, 2), (4, 3)])) = _
  unfold selectB
  rw [fld_place o h (a := 26) (n := 6) (by decide)]
  exact congrArg some ((congr (congr (congr (congr (rfl : Instr.dren = Instr.dren) (ofNat_field (y := d_) (fld_field o h 0 (by decide)))) (ofNat_field (y := a_) (fld_field o h 1 (by decide)))) (ofNat_field (y := g_) (fld_field o h 2 (by decide)))) (ofNat_field (y := r_) (fld_field o h 3 (by decide)))))

theorem RoundTrip.dlerp (d_ : BitVec 3) (a_ : BitVec 3) (b_ : BitVec 3) (g_ : BitVec 2) (r_ : BitVec 3) (t_ : BitVec 4) : RoundTrip.Statement (.dlerp d_ a_ b_ g_ r_ t_) := by
  refine RoundTrip.ofB rfl ?_
  have o : layoutOk 0xBC000780 [(22, 3), (18, 3), (14, 3), (11, 2), (4, 3), (0, 4)] = true := by decide
  have h : Fits [d_.toNat, a_.toNat, b_.toNat, g_.toNat, r_.toNat, t_.toNat] [(22, 3), (18, 3), (14, 3), (11, 2), (4, 3), (0, 4)] := ⟨d_.isLt, a_.isLt, b_.isLt, g_.isLt, r_.isLt, t_.isLt, trivial⟩
  show selectB (place 0xBC000780 (fieldsOf [d_.toNat, a_.toNat, b_.toNat, g_.toNat, r_.toNat, t_.toNat] [(22, 3), (18, 3), (14, 3), (11, 2), (4, 3), (0, 4)])) = _
  unfold selectB
  rw [fld_place o h (a := 26) (n := 6) (by decide)]
  exact congrArg some ((congr (congr (congr (congr (congr (congr (rfl : Instr.dlerp = Instr.dlerp) (ofNat_field (y := d_) (fld_field o h 0 (by decide)))) (ofNat_field (y := a_) (fld_field o h 1 (by decide)))) (ofNat_field (y := b_) (fld_field o h 2 (by decide)))) (ofNat_field (y := g_) (fld_field o h 3 (by decide)))) (ofNat_field (y := r_) (fld_field o h 4 (by decide)))) (ofNat_field (y := t_) (fld_field o h 5 (by decide)))))

theorem RoundTrip.vdiv (d_ : BitVec 4) (a_ : BitVec 4) (b_ : BitVec 4) (g_ : BitVec 3) (f_ : BitVec 4) (r_ : BitVec 3) : RoundTrip.Statement (.vdiv d_ a_ b_ g_ f_ r_) := by
  refine RoundTrip.ofB rfl ?_
  have o : layoutOk 0xC0000000 [(22, 4), (18, 4), (14, 4), (11, 3), (7, 4), (4, 3)] = true := by decide
  have h : Fits [d_.toNat, a_.toNat, b_.toNat, g_.toNat, f_.toNat, r_.toNat] [(22, 4), (18, 4), (14, 4), (11, 3), (7, 4), (4, 3)] := ⟨d_.isLt, a_.isLt, b_.isLt, g_.isLt, f_.isLt, r_.isLt, trivial⟩
  show selectB (place 0xC0000000 (fieldsOf [d_.toNat, a_.toNat, b_.toNat, g_.toNat, f_.toNat, r_.toNat] [(22, 4), (18, 4), (14, 4), (11, 3), (7, 4), (4, 3)])) = _
  unfold selectB
  rw [fld_place o h (a := 26) (n := 6) (by decide)]
  exact congrArg some ((congr (congr (congr (congr (congr (congr (rfl : Instr.vdiv = Instr.vdiv) (ofNat_field (y := d_) (fld_field o h 0 (by decide)))) (ofNat_field (y := a_) (fld_field o h 1 (by decide)))) (ofNat_field (y := b_) (fld_field o h 2 (by decide)))) (ofNat_field (y := g_) (fld_field o h 3 (by decide)))) (ofNat_field (y := f_) (fld_field o h 4 (by decide)))) (ofNat_field (y := r_) (fld_field o h 5 (by decide)))))

theorem RoundTrip.vsqrt (d_ : BitVec 4) (a_ : BitVec 4) (g_ : BitVec 3) (f_ : BitVec 4) (r_ : BitVec 3) : RoundTrip.Statement (.vsqrt d_ a_ g_ f_ r_) := by
  refine RoundTrip.ofB rfl ?_
  have o : layoutOk 0xC4000000 [(22, 4), (18, 4), (11, 3), (7, 4), (4, 3)] = true := by decide
  have h : Fits [d_.toNat, a_.toNat, g_.toNat, f_.toNat, r_.toNat] [(22, 4), (18, 4), (11, 3), (7, 4), (4, 3)] := ⟨d_.isLt, a_.isLt, g_.isLt, f_.isLt, r_.isLt, trivial⟩
  show selectB (place 0xC4000000 (fieldsOf [d_.toNat, a_.toNat, g_.toNat, f_.toNat, r_.toNat] [(22, 4), (18, 4), (11, 3), (7, 4), (4, 3)])) = _
  unfold selectB
  rw [fld_place o h (a := 26) (n := 6) (by decide)]
  exact congrArg some ((congr (congr (congr (congr (congr (rfl : Instr.vsqrt = Instr.vsqrt) (ofNat_field (y := d_) (fld_field o h 0 (by decide)))) (ofNat_field (y := a_) (fld_field o h 1 (by decide)))) (ofNat_field (y := g_) (fld_field o h 2 (by decide)))) (ofNat_field (y := f_) (fld_field o h 3 (by decide)))) (ofNat_field (y := r_) (fld_field o h 4 (by decide)))))

theorem RoundTrip.vrcp (d_ : BitVec 4) (a_ : BitVec 4) (g_ : BitVec 3) (f_ : BitVec 4) (r_ : BitVec 3) : RoundTrip.Statement (.vrcp d_ a_ g_ f_ r_) := by
  refine RoundTrip.ofB rfl ?_
  have o : layoutOk 0xC8000000 [(22, 4), (18, 4), (11, 3), (7, 4), (4, 3)] = true := by decide
  have h : Fits [d_.toNat, a_.toNat, g_.toNat, f_.toNat, r_.toNat] [(22, 4), (18, 4), (11, 3), (7, 4), (4, 3)] := ⟨d_.isLt, a_.isLt, g_.isLt, f_.isLt, r_.isLt, trivial⟩
  show selectB (place 0xC8000000 (fieldsOf [d_.toNat, a_.toNat, g_.toNat, f_.toNat, r_.toNat] [(22, 4), (18, 4), (11, 3), (7, 4), (4, 3)])) = _
  unfold selectB
  rw [fld_place o h (a := 26) (n := 6) (by decide), fld_place o h (a := 0) (n := 4) (by decide)]
  exact congrArg some ((congr (congr (congr (congr (congr (rfl : Instr.vrcp = Instr.vrcp) (ofNat_field (y := d_) (fld_field o h 0 (by decide)))) (ofNat_field (y := a_) (fld_field o h 1 (by decide)))) (ofNat_field (y := g_) (fld_field o h 2 (by decide)))) (ofNat_field (y := f_) (fld_field o h 3 (by decide)))) (ofNat_field (y := r_) (fld_field o h 4 (by decide)))))

theorem RoundTrip.vrsq (d_ : BitVec 4) (a_ : BitVec 4) (g_ : BitVec 3) (f_ : BitVec 4) (r_ : BitVec 3) : RoundTrip.Statement (.vrsq d_ a_ g_ f_ r_) := by
  refine RoundTrip.ofB rfl ?_
  have o : layoutOk 0xC8000001 [(22, 4), (18, 4), (11, 3), (7, 4), (4, 3)] = true := by decide
  have h : Fits [d_.toNat, a_.toNat, g_.toNat, f_.toNat, r_.toNat] [(22, 4), (18, 4), (11, 3), (7, 4), (4, 3)] := ⟨d_.isLt, a_.isLt, g_.isLt, f_.isLt, r_.isLt, trivial⟩
  show selectB (place 0xC8000001 (fieldsOf [d_.toNat, a_.toNat, g_.toNat, f_.toNat, r_.toNat] [(22, 4), (18, 4), (11, 3), (7, 4), (4, 3)])) = _
  unfold selectB
  rw [fld_place o h (a := 26) (n := 6) (by decide), fld_place o h (a := 0) (n := 4) (by decide)]
  exact congrArg some ((congr (congr (congr (congr (congr (rfl : Instr.vrsq = Instr.vrsq) (ofNat_field (y := d_) (fld_field o h 0 (by decide)))) (ofNat_field (y := a_) (fld_field o h 1 (by decide)))) (ofNat_field (y := g_) (fld_field o h 2 (by decide)))) (ofNat_field (y := f_) (fld_field o h 3 (by decide)))) (ofNat_field (y := r_) (fld_field o h 4 (by decide)))))

theorem RoundTrip.vexp2 (d_ : BitVec 4) (a_ : BitVec 4) (g_ : BitVec 3) (f_ : BitVec 4) (r_ : BitVec 3) : RoundTrip.Statement (.vexp2 d_ a_ g_ f_ r_) := by
  refine RoundTrip.ofB rfl ?_
  have o : layoutOk 0xCC000000 [(22, 4), (18, 4), (11, 3), (7, 4), (4, 3)] = true := by decide
  have h : Fits [d_.toNat, a_.toNat, g_.toNat, f_.toNat, r_.toNat] [(22, 4), (18, 4), (11, 3), (7, 4), (4, 3)] := ⟨d_.isLt, a_.isLt, g_.isLt, f_.isLt, r_.isLt, trivial⟩
  show selectB (place 0xCC000000 (fieldsOf [d_.toNat, a_.toNat, g_.toNat, f_.toNat, r_.toNat] [(22, 4), (18, 4), (11, 3), (7, 4), (4, 3)])) = _
  unfold selectB
  rw [fld_place o h (a := 26) (n := 6) (by decide), fld_place o h (a := 0) (n := 4) (by decide)]
  exact congrArg some ((congr (congr (congr (congr (congr (rfl : Instr.vexp2 = Instr.vexp2) (ofNat_field (y := d_) (fld_field o h 0 (by decide)))) (ofNat_field (y := a_) (fld_field o h 1 (by decide)))) (ofNat_field (y := g_) (fld_field o h 2 (by decide)))) (ofNat_field (y := f_) (fld_field o h 3 (by decide)))) (ofNat_field (y := r_) (fld_field o h 4 (by decide)))))

theorem RoundTrip.vlog2 (d_ : BitVec 4) (a_ : BitVec 4) (g_ : BitVec 3) (f_ : BitVec 4) (r_ : BitVec 3) : RoundTrip.Statement (.vlog2 d_ a_ g_ f_ r_) := by
  refine RoundTrip.ofB rfl ?_
  have o : layoutOk 0xCC000001 [(22, 4), (18, 4), (11, 3), (7, 4), (4, 3)] = true := by decide
  have h : Fits [d_.toNat, a_.toNat, g_.toNat, f_.toNat, r_.toNat] [(22, 4), (18, 4), (11, 3), (7, 4), (4, 3)] := ⟨d_.isLt, a_.isLt, g_.isLt, f_.isLt, r_.isLt, trivial⟩
  show selectB (place 0xCC000001 (fieldsOf [d_.toNat, a_.toNat, g_.toNat, f_.toNat, r_.toNat] [(22, 4), (18, 4), (11, 3), (7, 4), (4, 3)])) = _
  unfold selectB
  rw [fld_place o h (a := 26) (n := 6) (by decide), fld_place o h (a := 0) (n := 4) (by decide)]
  exact congrArg some ((congr (congr (congr (congr (congr (rfl : Instr.vlog2 = Instr.vlog2) (ofNat_field (y := d_) (fld_field o h 0 (by decide)))) (ofNat_field (y := a_) (fld_field o h 1 (by decide)))) (ofNat_field (y := g_) (fld_field o h 2 (by decide)))) (ofNat_field (y := f_) (fld_field o h 3 (by decide)))) (ofNat_field (y := r_) (fld_field o h 4 (by decide)))))

theorem RoundTrip.vsin (d_ : BitVec 4) (a_ : BitVec 4) (g_ : BitVec 3) (f_ : BitVec 4) (r_ : BitVec 3) : RoundTrip.Statement (.vsin d_ a_ g_ f_ r_) := by
  refine RoundTrip.ofB rfl ?_
  have o : layoutOk 0xD0000000 [(22, 4), (18, 4), (11, 3), (7, 4), (4, 3)] = true := by decide
  have h : Fits [d_.toNat, a_.toNat, g_.toNat, f_.toNat, r_.toNat] [(22, 4), (18, 4), (11, 3), (7, 4), (4, 3)] := ⟨d_.isLt, a_.isLt, g_.isLt, f_.isLt, r_.isLt, trivial⟩
  show selectB (place 0xD0000000 (fieldsOf [d_.toNat, a_.toNat, g_.toNat, f_.toNat, r_.toNat] [(22, 4), (18, 4), (11, 3), (7, 4), (4, 3)])) = _
  unfold selectB
  rw [fld_place o h (a := 26) (n := 6) (by decide), fld_place o h (a := 0) (n := 4) (by decide)]
  exact congrArg some ((congr (congr (congr (congr (congr (rfl : Instr.vsin = Instr.vsin) (ofNat_field (y := d_) (fld_field o h 0 (by decide)))) (ofNat_field (y := a_) (fld_field o h 1 (by decide)))) (ofNat_field (y := g_) (fld_field o h 2 (by decide)))) (ofNat_field (y := f_) (fld_field o h 3 (by decide)))) (ofNat_field (y := r_) (fld_field o h 4 (by decide)))))

theorem RoundTrip.vcos (d_ : BitVec 4) (a_ : BitVec 4) (g_ : BitVec 3) (f_ : BitVec 4) (r_ : BitVec 3) : RoundTrip.Statement (.vcos d_ a_ g_ f_ r_) := by
  refine RoundTrip.ofB rfl ?_
  have o : layoutOk 0xD0000001 [(22, 4), (18, 4), (11, 3), (7, 4), (4, 3)] = true := by decide
  have h : Fits [d_.toNat, a_.toNat, g_.toNat, f_.toNat, r_.toNat] [(22, 4), (18, 4), (11, 3), (7, 4), (4, 3)] := ⟨d_.isLt, a_.isLt, g_.isLt, f_.isLt, r_.isLt, trivial⟩
  show selectB (place 0xD0000001 (fieldsOf [d_.toNat, a_.toNat, g_.toNat, f_.toNat, r_.toNat] [(22, 4), (18, 4), (11, 3), (7, 4), (4, 3)])) = _
  unfold selectB
  rw [fld_place o h (a := 26) (n := 6) (by decide), fld_place o h (a := 0) (n := 4) (by decide)]
  exact congrArg some ((congr (congr (congr (congr (congr (rfl : Instr.vcos = Instr.vcos) (ofNat_field (y := d_) (fld_field o h 0 (by decide)))) (ofNat_field (y := a_) (fld_field o h 1 (by decide)))) (ofNat_field (y := g_) (fld_field o h 2 (by decide)))) (ofNat_field (y := f_) (fld_field o h 3 (by decide)))) (ofNat_field (y := r_) (fld_field o h 4 (by decide)))))

theorem RoundTrip.vtanh (d_ : BitVec 4) (a_ : BitVec 4) (g_ : BitVec 3) (f_ : BitVec 4) (r_ : BitVec 3) : RoundTrip.Statement (.vtanh d_ a_ g_ f_ r_) := by
  refine RoundTrip.ofB rfl ?_
  have o : layoutOk 0xD4000000 [(22, 4), (18, 4), (11, 3), (7, 4), (4, 3)] = true := by decide
  have h : Fits [d_.toNat, a_.toNat, g_.toNat, f_.toNat, r_.toNat] [(22, 4), (18, 4), (11, 3), (7, 4), (4, 3)] := ⟨d_.isLt, a_.isLt, g_.isLt, f_.isLt, r_.isLt, trivial⟩
  show selectB (place 0xD4000000 (fieldsOf [d_.toNat, a_.toNat, g_.toNat, f_.toNat, r_.toNat] [(22, 4), (18, 4), (11, 3), (7, 4), (4, 3)])) = _
  unfold selectB
  rw [fld_place o h (a := 26) (n := 6) (by decide)]
  exact congrArg some ((congr (congr (congr (congr (congr (rfl : Instr.vtanh = Instr.vtanh) (ofNat_field (y := d_) (fld_field o h 0 (by decide)))) (ofNat_field (y := a_) (fld_field o h 1 (by decide)))) (ofNat_field (y := g_) (fld_field o h 2 (by decide)))) (ofNat_field (y := f_) (fld_field o h 3 (by decide)))) (ofNat_field (y := r_) (fld_field o h 4 (by decide)))))

theorem RoundTrip.vred (d_ : BitVec 4) (a_ : BitVec 4) (g_ : BitVec 3) (f_ : BitVec 4) (r_ : BitVec 3) (p_ : BitVec 4) : RoundTrip.Statement (.vred d_ a_ g_ f_ r_ p_) := by
  refine RoundTrip.ofB rfl ?_
  have o : layoutOk 0xD8000000 [(22, 4), (18, 4), (11, 3), (7, 4), (4, 3), (0, 4)] = true := by decide
  have h : Fits [d_.toNat, a_.toNat, g_.toNat, f_.toNat, r_.toNat, p_.toNat] [(22, 4), (18, 4), (11, 3), (7, 4), (4, 3), (0, 4)] := ⟨d_.isLt, a_.isLt, g_.isLt, f_.isLt, r_.isLt, p_.isLt, trivial⟩
  show selectB (place 0xD8000000 (fieldsOf [d_.toNat, a_.toNat, g_.toNat, f_.toNat, r_.toNat, p_.toNat] [(22, 4), (18, 4), (11, 3), (7, 4), (4, 3), (0, 4)])) = _
  unfold selectB
  rw [fld_place o h (a := 26) (n := 6) (by decide)]
  exact congrArg some ((congr (congr (congr (congr (congr (congr (rfl : Instr.vred = Instr.vred) (ofNat_field (y := d_) (fld_field o h 0 (by decide)))) (ofNat_field (y := a_) (fld_field o h 1 (by decide)))) (ofNat_field (y := g_) (fld_field o h 2 (by decide)))) (ofNat_field (y := f_) (fld_field o h 3 (by decide)))) (ofNat_field (y := r_) (fld_field o h 4 (by decide)))) (ofNat_field (y := p_) (fld_field o h 5 (by decide)))))

theorem RoundTrip.imm32 (i_ : BitVec 26) : RoundTrip.Statement (.imm32 i_) := by
  refine RoundTrip.ofB rfl ?_
  have o : layoutOk 0xF8000000 [(0, 26)] = true := by decide
  have h : Fits [i_.toNat] [(0, 26)] := ⟨i_.isLt, trivial⟩
  show selectB (place 0xF8000000 (fieldsOf [i_.toNat] [(0, 26)])) = _
  unfold selectB
  rw [fld_place o h (a := 26) (n := 6) (by decide)]
  exact congrArg some ((congr (rfl : Instr.imm32 = Instr.imm32) (ofNat_field (y := i_) (fld_field o h 0 (by decide)))))

theorem RoundTrip.lnop : RoundTrip.Statement (.lnop) := by
  refine RoundTrip.ofL rfl ?_
  have o : layoutOk 0x00000000 [] = true := by decide
  have h : Fits [] [] := trivial
  show selectL (place 0x00000000 (fieldsOf [] [])) = _
  unfold selectL
  rw [fld_place o h (a := 26) (n := 6) (by decide)]
  rfl

theorem RoundTrip.lldk (d_ : BitVec 4) : RoundTrip.Statement (.lldk d_) := by
  refine RoundTrip.ofL rfl ?_
  have o : layoutOk 0x04000000 [(22, 4)] = true := by decide
  have h : Fits [d_.toNat] [(22, 4)] := ⟨d_.isLt, trivial⟩
  show selectL (place 0x04000000 (fieldsOf [d_.toNat] [(22, 4)])) = _
  unfold selectL
  rw [fld_place o h (a := 26) (n := 6) (by decide)]
  exact congrArg some ((congr (rfl : Instr.lldk = Instr.lldk) (ofNat_field (y := d_) (fld_field o h 0 (by decide)))))

theorem RoundTrip.lcnt (d_ : BitVec 4) : RoundTrip.Statement (.lcnt d_) := by
  refine RoundTrip.ofL rfl ?_
  have o : layoutOk 0x08000000 [(22, 4)] = true := by decide
  have h : Fits [d_.toNat] [(22, 4)] := ⟨d_.isLt, trivial⟩
  show selectL (place 0x08000000 (fieldsOf [d_.toNat] [(22, 4)])) = _
  unfold selectL
  rw [fld_place o h (a := 26) (n := 6) (by decide)]
  exact congrArg some ((congr (rfl : Instr.lcnt = Instr.lcnt) (ofNat_field (y := d_) (fld_field o h 0 (by decide)))))

theorem RoundTrip.lhis (d_ : BitVec 4) : RoundTrip.Statement (.lhis d_) := by
  refine RoundTrip.ofL rfl ?_
  have o : layoutOk 0x0C000000 [(22, 4)] = true := by decide
  have h : Fits [d_.toNat] [(22, 4)] := ⟨d_.isLt, trivial⟩
  show selectL (place 0x0C000000 (fieldsOf [d_.toNat] [(22, 4)])) = _
  unfold selectL
  rw [fld_place o h (a := 26) (n := 6) (by decide)]
  exact congrArg some ((congr (rfl : Instr.lhis = Instr.lhis) (ofNat_field (y := d_) (fld_field o h 0 (by decide)))))

theorem RoundTrip.lbia (d_ : BitVec 4) : RoundTrip.Statement (.lbia d_) := by
  refine RoundTrip.ofL rfl ?_
  have o : layoutOk 0x10000000 [(22, 4)] = true := by decide
  have h : Fits [d_.toNat] [(22, 4)] := ⟨d_.isLt, trivial⟩
  show selectL (place 0x10000000 (fieldsOf [d_.toNat] [(22, 4)])) = _
  unfold selectL
  rw [fld_place o h (a := 26) (n := 6) (by decide)]
  exact congrArg some ((congr (rfl : Instr.lbia = Instr.lbia) (ofNat_field (y := d_) (fld_field o h 0 (by decide)))))

theorem RoundTrip.lban (d_ : BitVec 4) (a_ : BitVec 4) : RoundTrip.Statement (.lban d_ a_) := by
  refine RoundTrip.ofL rfl ?_
  have o : layoutOk 0x14000000 [(22, 4), (18, 4)] = true := by decide
  have h : Fits [d_.toNat, a_.toNat] [(22, 4), (18, 4)] := ⟨d_.isLt, a_.isLt, trivial⟩
  show selectL (place 0x14000000 (fieldsOf [d_.toNat, a_.toNat] [(22, 4), (18, 4)])) = _
  unfold selectL
  rw [fld_place o h (a := 26) (n := 6) (by decide)]
  exact congrArg some ((congr (congr (rfl : Instr.lban = Instr.lban) (ofNat_field (y := d_) (fld_field o h 0 (by decide)))) (ofNat_field (y := a_) (fld_field o h 1 (by decide)))))

theorem RoundTrip.ladd (d_ : BitVec 4) (a_ : BitVec 4) (b_ : BitVec 4) : RoundTrip.Statement (.ladd d_ a_ b_) := by
  refine RoundTrip.ofL rfl ?_
  have o : layoutOk 0x18000000 [(22, 4), (18, 4), (14, 4)] = true := by decide
  have h : Fits [d_.toNat, a_.toNat, b_.toNat] [(22, 4), (18, 4), (14, 4)] := ⟨d_.isLt, a_.isLt, b_.isLt, trivial⟩
  show selectL (place 0x18000000 (fieldsOf [d_.toNat, a_.toNat, b_.toNat] [(22, 4), (18, 4), (14, 4)])) = _
  unfold selectL
  rw [fld_place o h (a := 26) (n := 6) (by decide)]
  exact congrArg some ((congr (congr (congr (rfl : Instr.ladd = Instr.ladd) (ofNat_field (y := d_) (fld_field o h 0 (by decide)))) (ofNat_field (y := a_) (fld_field o h 1 (by decide)))) (ofNat_field (y := b_) (fld_field o h 2 (by decide)))))

theorem RoundTrip.lsub (d_ : BitVec 4) (a_ : BitVec 4) (b_ : BitVec 4) : RoundTrip.Statement (.lsub d_ a_ b_) := by
  refine RoundTrip.ofL rfl ?_
  have o : layoutOk 0x1C000000 [(22, 4), (18, 4), (14, 4)] = true := by decide
  have h : Fits [d_.toNat, a_.toNat, b_.toNat] [(22, 4), (18, 4), (14, 4)] := ⟨d_.isLt, a_.isLt, b_.isLt, trivial⟩
  show selectL (place 0x1C000000 (fieldsOf [d_.toNat, a_.toNat, b_.toNat] [(22, 4), (18, 4), (14, 4)])) = _
  unfold selectL
  rw [fld_place o h (a := 26) (n := 6) (by decide)]
  exact congrArg some ((congr (congr (congr (rfl : Instr.lsub = Instr.lsub) (ofNat_field (y := d_) (fld_field o h 0 (by decide)))) (ofNat_field (y := a_) (fld_field o h 1 (by decide)))) (ofNat_field (y := b_) (fld_field o h 2 (by decide)))))

theorem RoundTrip.lmul (d_ : BitVec 4) (a_ : BitVec 4) (b_ : BitVec 4) : RoundTrip.Statement (.lmul d_ a_ b_) := by
  refine RoundTrip.ofL rfl ?_
  have o : layoutOk 0x20000000 [(22, 4), (18, 4), (14, 4)] = true := by decide
  have h : Fits [d_.toNat, a_.toNat, b_.toNat] [(22, 4), (18, 4), (14, 4)] := ⟨d_.isLt, a_.isLt, b_.isLt, trivial⟩
  show selectL (place 0x20000000 (fieldsOf [d_.toNat, a_.toNat, b_.toNat] [(22, 4), (18, 4), (14, 4)])) = _
  unfold selectL
  rw [fld_place o h (a := 26) (n := 6) (by decide)]
  exact congrArg some ((congr (congr (congr (rfl : Instr.lmul = Instr.lmul) (ofNat_field (y := d_) (fld_field o h 0 (by decide)))) (ofNat_field (y := a_) (fld_field o h 1 (by decide)))) (ofNat_field (y := b_) (fld_field o h 2 (by decide)))))

theorem RoundTrip.lsel (d_ : BitVec 4) (a_ : BitVec 4) (b_ : BitVec 4) (c_ : BitVec 4) : RoundTrip.Statement (.lsel d_ a_ b_ c_) := by
  refine RoundTrip.ofL rfl ?_
  have o : layoutOk 0x24000000 [(22, 4), (18, 4), (14, 4), (0, 4)] = true := by decide
  have h : Fits [d_.toNat, a_.toNat, b_.toNat, c_.toNat] [(22, 4), (18, 4), (14, 4), (0, 4)] := ⟨d_.isLt, a_.isLt, b_.isLt, c_.isLt, trivial⟩
  show selectL (place 0x24000000 (fieldsOf [d_.toNat, a_.toNat, b_.toNat, c_.toNat] [(22, 4), (18, 4), (14, 4), (0, 4)])) = _
  unfold selectL
  rw [fld_place o h (a := 26) (n := 6) (by decide)]
  exact congrArg some ((congr (congr (congr (congr (rfl : Instr.lsel = Instr.lsel) (ofNat_field (y := d_) (fld_field o h 0 (by decide)))) (ofNat_field (y := a_) (fld_field o h 1 (by decide)))) (ofNat_field (y := b_) (fld_field o h 2 (by decide)))) (ofNat_field (y := c_) (fld_field o h 3 (by decide)))))

theorem RoundTrip.lcmp (d_ : BitVec 4) (a_ : BitVec 4) (b_ : BitVec 4) (c_ : BitVec 3) : RoundTrip.Statement (.lcmp d_ a_ b_ c_) := by
  refine RoundTrip.ofL rfl ?_
  have o : layoutOk 0x28000000 [(22, 4), (18, 4), (14, 4), (0, 3)] = true := by decide
  have h : Fits [d_.toNat, a_.toNat, b_.toNat, c_.toNat] [(22, 4), (18, 4), (14, 4), (0, 3)] := ⟨d_.isLt, a_.isLt, b_.isLt, c_.isLt, trivial⟩
  show selectL (place 0x28000000 (fieldsOf [d_.toNat, a_.toNat, b_.toNat, c_.toNat] [(22, 4), (18, 4), (14, 4), (0, 3)])) = _
  unfold selectL
  rw [fld_place o h (a := 26) (n := 6) (by decide)]
  exact congrArg some ((congr (congr (congr (congr (rfl : Instr.lcmp = Instr.lcmp) (ofNat_field (y := d_) (fld_field o h 0 (by decide)))) (ofNat_field (y := a_) (fld_field o h 1 (by decide)))) (ofNat_field (y := b_) (fld_field o h 2 (by decide)))) (ofNat_field (y := c_) (fld_field o h 3 (by decide)))))

theorem RoundTrip.lmax (d_ : BitVec 4) (a_ : BitVec 4) (b_ : BitVec 4) : RoundTrip.Statement (.lmax d_ a_ b_) := by
  refine RoundTrip.ofL rfl ?_
  have o : layoutOk 0x2C000000 [(22, 4), (18, 4), (14, 4)] = true := by decide
  have h : Fits [d_.toNat, a_.toNat, b_.toNat] [(22, 4), (18, 4), (14, 4)] := ⟨d_.isLt, a_.isLt, b_.isLt, trivial⟩
  show selectL (place 0x2C000000 (fieldsOf [d_.toNat, a_.toNat, b_.toNat] [(22, 4), (18, 4), (14, 4)])) = _
  unfold selectL
  rw [fld_place o h (a := 26) (n := 6) (by decide)]
  exact congrArg some ((congr (congr (congr (rfl : Instr.lmax = Instr.lmax) (ofNat_field (y := d_) (fld_field o h 0 (by decide)))) (ofNat_field (y := a_) (fld_field o h 1 (by decide)))) (ofNat_field (y := b_) (fld_field o h 2 (by decide)))))

theorem RoundTrip.lmin (d_ : BitVec 4) (a_ : BitVec 4) (b_ : BitVec 4) : RoundTrip.Statement (.lmin d_ a_ b_) := by
  refine RoundTrip.ofL rfl ?_
  have o : layoutOk 0x30000000 [(22, 4), (18, 4), (14, 4)] = true := by decide
  have h : Fits [d_.toNat, a_.toNat, b_.toNat] [(22, 4), (18, 4), (14, 4)] := ⟨d_.isLt, a_.isLt, b_.isLt, trivial⟩
  show selectL (place 0x30000000 (fieldsOf [d_.toNat, a_.toNat, b_.toNat] [(22, 4), (18, 4), (14, 4)])) = _
  unfold selectL
  rw [fld_place o h (a := 26) (n := 6) (by decide)]
  exact congrArg some ((congr (congr (congr (rfl : Instr.lmin = Instr.lmin) (ofNat_field (y := d_) (fld_field o h 0 (by decide)))) (ofNat_field (y := a_) (fld_field o h 1 (by decide)))) (ofNat_field (y := b_) (fld_field o h 2 (by decide)))))

theorem RoundTrip.lscl (d_ : BitVec 4) (a_ : BitVec 4) (k_ : BitVec 9) : RoundTrip.Statement (.lscl d_ a_ k_) := by
  refine RoundTrip.ofL rfl ?_
  have o : layoutOk 0x34000000 [(22, 4), (18, 4), (0, 9)] = true := by decide
  have h : Fits [d_.toNat, a_.toNat, k_.toNat] [(22, 4), (18, 4), (0, 9)] := ⟨d_.isLt, a_.isLt, k_.isLt, trivial⟩
  show selectL (place 0x34000000 (fieldsOf [d_.toNat, a_.toNat, k_.toNat] [(22, 4), (18, 4), (0, 9)])) = _
  unfold selectL
  rw [fld_place o h (a := 26) (n := 6) (by decide)]
  exact congrArg some ((congr (congr (congr (rfl : Instr.lscl = Instr.lscl) (ofNat_field (y := d_) (fld_field o h 0 (by decide)))) (ofNat_field (y := a_) (fld_field o h 1 (by decide)))) (ofNat_field (y := k_) (fld_field o h 2 (by decide)))))

theorem RoundTrip.lclp (d_ : BitVec 4) (a_ : BitVec 4) (b_ : BitVec 4) : RoundTrip.Statement (.lclp d_ a_ b_) := by
  refine RoundTrip.ofL rfl ?_
  have o : layoutOk 0x38000000 [(22, 4), (18, 4), (14, 4)] = true := by decide
  have h : Fits [d_.toNat, a_.toNat, b_.toNat] [(22, 4), (18, 4), (14, 4)] := ⟨d_.isLt, a_.isLt, b_.isLt, trivial⟩
  show selectL (place 0x38000000 (fieldsOf [d_.toNat, a_.toNat, b_.toNat] [(22, 4), (18, 4), (14, 4)])) = _
  unfold selectL
  rw [fld_place o h (a := 26) (n := 6) (by decide)]
  exact congrArg some ((congr (congr (congr (rfl : Instr.lclp = Instr.lclp) (ofNat_field (y := d_) (fld_field o h 0 (by decide)))) (ofNat_field (y := a_) (fld_field o h 1 (by decide)))) (ofNat_field (y := b_) (fld_field o h 2 (by decide)))))

theorem RoundTrip.lpen (d_ : BitVec 4) (a_ : BitVec 4) (b_ : BitVec 4) (k_ : BitVec 3) : RoundTrip.Statement (.lpen d_ a_ b_ k_) := by
  refine RoundTrip.ofL rfl ?_
  have o : layoutOk 0x3C000000 [(22, 4), (18, 4), (14, 4), (0, 3)] = true := by decide
  have h : Fits [d_.toNat, a_.toNat, b_.toNat, k_.toNat] [(22, 4), (18, 4), (14, 4), (0, 3)] := ⟨d_.isLt, a_.isLt, b_.isLt, k_.isLt, trivial⟩
  show selectL (place 0x3C000000 (fieldsOf [d_.toNat, a_.toNat, b_.toNat, k_.toNat] [(22, 4), (18, 4), (14, 4), (0, 3)])) = _
  unfold selectL
  rw [fld_place o h (a := 26) (n := 6) (by decide)]
  exact congrArg some ((congr (congr (congr (congr (rfl : Instr.lpen = Instr.lpen) (ofNat_field (y := d_) (fld_field o h 0 (by decide)))) (ofNat_field (y := a_) (fld_field o h 1 (by decide)))) (ofNat_field (y := b_) (fld_field o h 2 (by decide)))) (ofNat_field (y := k_) (fld_field o h 3 (by decide)))))

theorem RoundTrip.ltopk (a_ : BitVec 4) : RoundTrip.Statement (.ltopk a_) := by
  refine RoundTrip.ofL rfl ?_
  have o : layoutOk 0x40000000 [(18, 4)] = true := by decide
  have h : Fits [a_.toNat] [(18, 4)] := ⟨a_.isLt, trivial⟩
  show selectL (place 0x40000000 (fieldsOf [a_.toNat] [(18, 4)])) = _
  unfold selectL
  rw [fld_place o h (a := 26) (n := 6) (by decide)]
  exact congrArg some ((congr (rfl : Instr.ltopk = Instr.ltopk) (ofNat_field (y := a_) (fld_field o h 0 (by decide)))))

theorem RoundTrip.lmov (d_ : BitVec 4) (a_ : BitVec 4) : RoundTrip.Statement (.lmov d_ a_) := by
  refine RoundTrip.ofL rfl ?_
  have o : layoutOk 0x44000000 [(22, 4), (18, 4)] = true := by decide
  have h : Fits [d_.toNat, a_.toNat] [(22, 4), (18, 4)] := ⟨d_.isLt, a_.isLt, trivial⟩
  show selectL (place 0x44000000 (fieldsOf [d_.toNat, a_.toNat] [(22, 4), (18, 4)])) = _
  unfold selectL
  rw [fld_place o h (a := 26) (n := 6) (by decide)]
  exact congrArg some ((congr (congr (rfl : Instr.lmov = Instr.lmov) (ofNat_field (y := d_) (fld_field o h 0 (by decide)))) (ofNat_field (y := a_) (fld_field o h 1 (by decide)))))

theorem RoundTrip.limmConst (d_ : BitVec 4) (k_ : BitVec 3) : RoundTrip.Statement (.limmConst d_ k_) := by
  refine RoundTrip.ofL rfl ?_
  have o : layoutOk 0x48002000 [(22, 4), (0, 3)] = true := by decide
  have h : Fits [d_.toNat, k_.toNat] [(22, 4), (0, 3)] := ⟨d_.isLt, k_.isLt, trivial⟩
  show selectL (place 0x48002000 (fieldsOf [d_.toNat, k_.toNat] [(22, 4), (0, 3)])) = _
  unfold selectL
  rw [fld_place o h (a := 26) (n := 6) (by decide), fld_place o h (a := 13) (n := 1) (by decide)]
  exact congrArg some ((congr (congr (rfl : Instr.limmConst = Instr.limmConst) (ofNat_field (y := d_) (fld_field o h 0 (by decide)))) (ofNat_field (y := k_) (fld_field o h 1 (by decide)))))

theorem RoundTrip.limmValue (d_ : BitVec 4) (v_ : BitVec 13) : RoundTrip.Statement (.limmValue d_ v_) := by
  refine RoundTrip.ofL rfl ?_
  have o : layoutOk 0x48000000 [(22, 4), (0, 13)] = true := by decide
  have h : Fits [d_.toNat, v_.toNat] [(22, 4), (0, 13)] := ⟨d_.isLt, v_.isLt, trivial⟩
  show selectL (place 0x48000000 (fieldsOf [d_.toNat, v_.toNat] [(22, 4), (0, 13)])) = _
  unfold selectL
  rw [fld_place o h (a := 26) (n := 6) (by decide), fld_place o h (a := 13) (n := 1) (by decide)]
  exact congrArg some ((congr (congr (rfl : Instr.limmValue = Instr.limmValue) (ofNat_field (y := d_) (fld_field o h 0 (by decide)))) (ofNat_field (y := v_) (fld_field o h 1 (by decide)))))

theorem RoundTrip.lhalt : RoundTrip.Statement (.lhalt) := by
  refine RoundTrip.ofL rfl ?_
  have o : layoutOk 0xFC000000 [] = true := by decide
  have h : Fits [] [] := trivial
  show selectL (place 0xFC000000 (fieldsOf [] [])) = _
  unfold selectL
  rw [fld_place o h (a := 26) (n := 6) (by decide)]
  rfl

theorem RoundTrip.cld (t_ : Nat) (q_ : Nat) : RoundTrip.Statement (.cld t_ q_) := RoundTrip.ofN rfl rfl

theorem RoundTrip.cldSectorReply (t_ : Nat) (k_ : Nat) (sec_ : Nat) : RoundTrip.Statement (.cldSectorReply t_ k_ sec_) := RoundTrip.ofN rfl rfl

theorem RoundTrip.wld (t_ : Nat) (q_ : Nat) : RoundTrip.Statement (.wld t_ q_) := RoundTrip.ofN rfl rfl

theorem RoundTrip.ald (t_ : Nat) (q_ : Nat) : RoundTrip.Statement (.ald t_ q_) := RoundTrip.ofN rfl rfl

theorem RoundTrip.ast (t_ : Nat) (q_ : Nat) : RoundTrip.Statement (.ast t_ q_) := RoundTrip.ofN rfl rfl

theorem RoundTrip.czr (t_ : Nat) (q_ : Nat) : RoundTrip.Statement (.czr t_ q_) := RoundTrip.ofN rfl rfl

theorem RoundTrip.crd (t_ : Nat) (q_ : Nat) : RoundTrip.Statement (.crd t_ q_) := RoundTrip.ofN rfl rfl

theorem RoundTrip.cvt (t_ : Nat) (q_ : Nat) : RoundTrip.Statement (.cvt t_ q_) := RoundTrip.ofN rfl rfl

theorem RoundTrip.cpy (t_ : Nat) (q_ : Nat) : RoundTrip.Statement (.cpy t_ q_) := RoundTrip.ofN rfl rfl

theorem RoundTrip.gth (t_ : Nat) (q_ : Nat) : RoundTrip.Statement (.gth t_ q_) := RoundTrip.ofN rfl rfl

theorem RoundTrip.sct (t_ : Nat) (q_ : Nat) : RoundTrip.Statement (.sct t_ q_) := RoundTrip.ofN rfl rfl

theorem RoundTrip.xfr (t_ : Nat) (q_ : Nat) : RoundTrip.Statement (.xfr t_ q_) := RoundTrip.ofN rfl rfl

theorem RoundTrip.fill (t_ : Nat) (q_ : Nat) : RoundTrip.Statement (.fill t_ q_) := RoundTrip.ofN rfl rfl

theorem RoundTrip.tdsc (t_ : Nat) (q_ : Nat) : RoundTrip.Statement (.tdsc t_ q_) := RoundTrip.ofN rfl rfl

theorem RoundTrip.smx (t_ : Nat) (q_ : Nat) : RoundTrip.Statement (.smx t_ q_) := RoundTrip.ofN rfl rfl

theorem RoundTrip.save (t_ : Nat) (q_ : Nat) : RoundTrip.Statement (.save t_ q_) := RoundTrip.ofN rfl rfl

theorem RoundTrip.rstr (t_ : Nat) (q_ : Nat) : RoundTrip.Statement (.rstr t_ q_) := RoundTrip.ofN rfl rfl

theorem RoundTrip.completionPost (t_ : Nat) (q_ : Nat) (k_ : Nat) : RoundTrip.Statement (.completionPost t_ q_ k_) := RoundTrip.ofN rfl rfl

theorem RoundTrip.launch (die_ : Nat) (sg_ : Nat) (g_ : Nat) (ep_ : Nat) (hdr_ : BitVec 512) (list_ : List (BitVec 32)) : RoundTrip.Statement (.launch die_ sg_ g_ ep_ hdr_ list_) := RoundTrip.ofN rfl rfl

theorem RoundTrip.dispatch (die_ : Nat) : RoundTrip.Statement (.dispatch die_) := RoundTrip.ofN rfl rfl

theorem RoundTrip.taskRetire (lid_ : Nat) (t_ : Nat) : RoundTrip.Statement (.taskRetire lid_ t_) := RoundTrip.ofN rfl rfl

theorem RoundTrip.preemptThaw (core_ : Nat) : RoundTrip.Statement (.preemptThaw core_) := RoundTrip.ofN rfl rfl

theorem RoundTrip.requestArrival (rid_ : Nat) (j_ : Nat) : RoundTrip.Statement (.requestArrival rid_ j_) := RoundTrip.ofN rfl rfl

theorem RoundTrip.longLatencyResult (th_ : Nat) (k_ : Nat) : RoundTrip.Statement (.longLatencyResult th_ k_) := RoundTrip.ofN rfl rfl

theorem RoundTrip.refusal (rid_ : Nat) : RoundTrip.Statement (.refusal rid_) := RoundTrip.ofN rfl rfl

theorem RoundTrip.retryLimit (rid_ : Nat) : RoundTrip.Statement (.retryLimit rid_) := RoundTrip.ofN rfl rfl

theorem RoundTrip.drainedResend (rid_ : Nat) : RoundTrip.Statement (.drainedResend rid_) := RoundTrip.ofN rfl rfl

theorem RoundTrip.deferredTrap (th_ : Nat) : RoundTrip.Statement (.deferredTrap th_) := RoundTrip.ofN rfl rfl

theorem RoundTrip.spawnArrival (rid_ : Nat) : RoundTrip.Statement (.spawnArrival rid_) := RoundTrip.ofN rfl rfl

theorem RoundTrip.spawnAnswer (rid_ : Nat) : RoundTrip.Statement (.spawnAnswer rid_) := RoundTrip.ofN rfl rfl

theorem RoundTrip.spawnCountRefresh (die_ : Nat) : RoundTrip.Statement (.spawnCountRefresh die_) := RoundTrip.ofN rfl rfl

theorem RoundTrip.rcallArrival (rid_ : Nat) : RoundTrip.Statement (.rcallArrival rid_) := RoundTrip.ofN rfl rfl

theorem RoundTrip.rcallReply (rid_ : Nat) : RoundTrip.Statement (.rcallReply rid_) := RoundTrip.ofN rfl rfl

theorem RoundTrip.faultRecord (rid_ : Nat) : RoundTrip.Statement (.faultRecord rid_) := RoundTrip.ofN rfl rfl

theorem RoundTrip.rcallTimeout (th_ : Nat) (call_ : Nat) : RoundTrip.Statement (.rcallTimeout th_ call_) := RoundTrip.ofN rfl rfl

theorem RoundTrip.migrArrival (rid_ : Nat) : RoundTrip.Statement (.migrArrival rid_) := RoundTrip.ofN rfl rfl

theorem RoundTrip.migrAnswer (rid_ : Nat) : RoundTrip.Statement (.migrAnswer rid_) := RoundTrip.ofN rfl rfl

theorem RoundTrip.parkedArrivalStart (core_ : Nat) : RoundTrip.Statement (.parkedArrivalStart core_) := RoundTrip.ofN rfl rfl

theorem RoundTrip.sendArrival (rid_ : Nat) : RoundTrip.Statement (.sendArrival rid_) := RoundTrip.ofN rfl rfl

theorem RoundTrip.redArrival (rid_ : Nat) : RoundTrip.Statement (.redArrival rid_) := RoundTrip.ofN rfl rfl

theorem RoundTrip.inboxWrite (rid_ : Nat) : RoundTrip.Statement (.inboxWrite rid_) := RoundTrip.ofN rfl rfl

theorem RoundTrip.barrierHomeApply (rids_ : List Nat) : RoundTrip.Statement (.barrierHomeApply rids_) := RoundTrip.ofN rfl rfl

theorem RoundTrip.barrierPoll (th_ : Nat) : RoundTrip.Statement (.barrierPoll th_) := RoundTrip.ofN rfl rfl

theorem RoundTrip.walkComplete (port_ : Nat) (slot_ : Nat) : RoundTrip.Statement (.walkComplete port_ slot_) := RoundTrip.ofN rfl rfl

theorem RoundTrip.streamFaultTimeout (port_ : Nat) (slot_ : Nat) : RoundTrip.Statement (.streamFaultTimeout port_ slot_) := RoundTrip.ofN rfl rfl

theorem RoundTrip.fltpop (port_ : Nat) : RoundTrip.Statement (.fltpop port_) := RoundTrip.ofN rfl rfl

theorem RoundTrip.fltrspReplay (port_ : Nat) (tag_ : Nat) : RoundTrip.Statement (.fltrspReplay port_ tag_) := RoundTrip.ofN rfl rfl

theorem RoundTrip.fltrspFail (port_ : Nat) (tag_ : Nat) : RoundTrip.Statement (.fltrspFail port_ tag_) := RoundTrip.ofN rfl rfl

theorem RoundTrip.tinvPage (port_ : Nat) (ctx_ : Nat) (vpn_ : Nat) : RoundTrip.Statement (.tinvPage port_ ctx_ vpn_) := RoundTrip.ofN rfl rfl

theorem RoundTrip.tinvAll (port_ : Nat) (ctx_ : Nat) : RoundTrip.Statement (.tinvAll port_ ctx_) := RoundTrip.ofN rfl rfl

theorem RoundTrip.invalidationDone (port_ : Nat) : RoundTrip.Statement (.invalidationDone port_) := RoundTrip.ofN rfl rfl

theorem RoundTrip.ctxbaseWrite (v_ : BitVec 64) : RoundTrip.Statement (.ctxbaseWrite v_) := RoundTrip.ofN rfl rfl

theorem RoundTrip.stkownWrite (port_ : Nat) (v_ : BitVec 64) : RoundTrip.Statement (.stkownWrite port_ v_) := RoundTrip.ofN rfl rfl

theorem RoundTrip.ownerWrite (t_ : Nat) (v_ : BitVec 64) : RoundTrip.Statement (.ownerWrite t_ v_) := RoundTrip.ofN rfl rfl

theorem RoundTrip.scrubDone (t_ : Nat) : RoundTrip.Statement (.scrubDone t_) := RoundTrip.ofN rfl rfl

theorem RoundTrip.errpop (port_ : Nat) : RoundTrip.Statement (.errpop port_) := RoundTrip.ofN rfl rfl

theorem RoundTrip.registerWrite (port_ : Nat) (off_ : Nat) (v_ : BitVec 64) : RoundTrip.Statement (.registerWrite port_ off_ v_) := RoundTrip.ofN rfl rfl

theorem RoundTrip.treeld (die_ : Nat) (v_ : BitVec 64) : RoundTrip.Statement (.treeld die_ v_) := RoundTrip.ofN rfl rfl

theorem RoundTrip.clgo (die_ : Nat) (v_ : BitVec 64) : RoundTrip.Statement (.clgo die_ v_) := RoundTrip.ofN rfl rfl

theorem RoundTrip.collectiveDone (die_ : Nat) (k_ : Nat) : RoundTrip.Statement (.collectiveDone die_ k_) := RoundTrip.ofN rfl rfl

theorem RoundTrip.budgetPeriod (die_ : Nat) (measured_ : Nat) (inlet_ : Nat) (junction_ : Nat) : RoundTrip.Statement (.budgetPeriod die_ measured_ inlet_ junction_) := RoundTrip.ofN rfl rfl

theorem RoundTrip.hotPagePeriod (port_ : Nat) : RoundTrip.Statement (.hotPagePeriod port_) := RoundTrip.ofN rfl rfl

theorem RoundTrip.rfmpb (port_ : Nat) (bank_ : Nat) (level_ : Nat) : RoundTrip.Statement (.rfmpb port_ bank_ level_) := RoundTrip.ofN rfl rfl

theorem RoundTrip.starve (die_ : Nat) (node_ : Nat) : RoundTrip.Statement (.starve die_ node_) := RoundTrip.ofN rfl rfl

theorem RoundTrip.packetReassembled (die_ : Nat) (node_ : Nat) (tag_ : Nat) (accept_ : Bool) : RoundTrip.Statement (.packetReassembled die_ node_ tag_ accept_) := RoundTrip.ofN rfl rfl

theorem RoundTrip.bridgeForward (link_ : Nat) : RoundTrip.Statement (.bridgeForward link_) := RoundTrip.ofN rfl rfl

theorem RoundTrip.linkFlitReceive (link_ : Nat) (crcOk_ : Bool) : RoundTrip.Statement (.linkFlitReceive link_ crcOk_) := RoundTrip.ofN rfl rfl

theorem RoundTrip.linkReplay (link_ : Nat) (expected_ : Nat) : RoundTrip.Statement (.linkReplay link_ expected_) := RoundTrip.ofN rfl rfl

theorem RoundTrip.linkRetrain (link_ : Nat) : RoundTrip.Statement (.linkRetrain link_) := RoundTrip.ofN rfl rfl

theorem RoundTrip.linkRetrainDone (link_ : Nat) (ok_ : Bool) : RoundTrip.Statement (.linkRetrainDone link_ ok_) := RoundTrip.ofN rfl rfl

theorem RoundTrip.linkdown (link_ : Nat) : RoundTrip.Statement (.linkdown link_) := RoundTrip.ofN rfl rfl

theorem RoundTrip.inboundRequest (die_ : Nat) (ep_ : Nat) (ctx_ : Nat) (va_ : BitVec 64) (size_ : Nat) (write_ : Bool) (ord_ : Bool) (rel_ : Bool) (data_ : BitVec 512) : RoundTrip.Statement (.inboundRequest die_ ep_ ctx_ va_ size_ write_ ord_ rel_ data_) := RoundTrip.ofN rfl rfl

theorem RoundTrip.fabricGrant (lo_ : Nat) (hi_ : Nat) : RoundTrip.Statement (.fabricGrant lo_ hi_) := RoundTrip.ofN rfl rfl

theorem RoundTrip.fabricRevoke (lo_ : Nat) (hi_ : Nat) : RoundTrip.Statement (.fabricRevoke lo_ hi_) := RoundTrip.ofN rfl rfl

theorem RoundTrip.bind (rid_ : Nat) (j_ : Nat) : RoundTrip.Statement (.bind rid_ j_) := RoundTrip.ofN rfl rfl

theorem RoundTrip.unbind (rid_ : Nat) (j_ : Nat) : RoundTrip.Statement (.unbind rid_ j_) := RoundTrip.ofN rfl rfl

theorem RoundTrip.logitStore (rid_ : Nat) (j_ : Nat) : RoundTrip.Statement (.logitStore rid_ j_) := RoundTrip.ofN rfl rfl

theorem RoundTrip.chunkRun (win_ : Nat) (chunk_ : Nat) : RoundTrip.Statement (.chunkRun win_ chunk_) := RoundTrip.ofN rfl rfl

theorem RoundTrip.samplerResend (win_ : Nat) : RoundTrip.Statement (.samplerResend win_) := RoundTrip.ofN rfl rfl

theorem RoundTrip.drainComplete (t_ : Nat) : RoundTrip.Statement (.drainComplete t_) := RoundTrip.ofN rfl rfl

theorem RoundTrip.scanBlockDone (t_ : Nat) (same_ : Bool) : RoundTrip.Statement (.scanBlockDone t_ same_) := RoundTrip.ofN rfl rfl

theorem RoundTrip.scanAbort (t_ : Nat) : RoundTrip.Statement (.scanAbort t_) := RoundTrip.ofN rfl rfl

theorem RoundTrip.scanClearDone (t_ : Nat) : RoundTrip.Statement (.scanClearDone t_) := RoundTrip.ofN rfl rfl

theorem RoundTrip.wear (sg_ : Nat) (drift_ : Nat) (hours_ : Nat) (pred_ : Nat) : RoundTrip.Statement (.wear sg_ drift_ hours_ pred_) := RoundTrip.ofN rfl rfl

theorem RoundTrip.dawn (ok_ : Bool) : RoundTrip.Statement (.dawn ok_) := RoundTrip.ofN rfl rfl

theorem RoundTrip.firmwareImage (image_ : List (BitVec 8)) (sigR_ : List (BitVec 8)) (sigS_ : List (BitVec 8)) (keyR_ : List (BitVec 8)) (keyS_ : List (BitVec 8)) (secVer_ : Nat) (entry_ : BitVec 48) : RoundTrip.Statement (.firmwareImage image_ sigR_ sigS_ keyR_ keyS_ secVer_ entry_) := RoundTrip.ofN rfl rfl

theorem RoundTrip.attestationQuote (nonce_ : List (BitVec 8)) : RoundTrip.Statement (.attestationQuote nonce_) := RoundTrip.ofN rfl rfl

theorem RoundTrip.managementQuery (item_ : Nat) : RoundTrip.Statement (.managementQuery item_) := RoundTrip.ofN rfl rfl

theorem RoundTrip.refresh (port_ : Nat) (bank_ : Nat) : RoundTrip.Statement (.refresh port_ bank_) := RoundTrip.ofN rfl rfl

theorem RoundTrip.hopCycle (die_ : Nat) : RoundTrip.Statement (.hopCycle die_) := RoundTrip.ofN rfl rfl

theorem RoundTrip.linkAcknowledge (link_ : Nat) (upto_ : Nat) : RoundTrip.Statement (.linkAcknowledge link_ upto_) := RoundTrip.ofN rfl rfl

theorem RoundTrip.collectiveValueReceived (die_ : Nat) (k_ : Nat) (child_ : Nat) (data_ : List (BitVec 8)) : RoundTrip.Statement (.collectiveValueReceived die_ k_ child_ data_) := RoundTrip.ofN rfl rfl

theorem RoundTrip.frameCopyDone (port_ : Nat) : RoundTrip.Statement (.frameCopyDone port_) := RoundTrip.ofN rfl rfl

theorem RoundTrip.allocation (die_ : Nat) (frames_ : Nat) : RoundTrip.Statement (.allocation die_ frames_) := RoundTrip.ofN rfl rfl

end Sys2Proof.Laws
end

