-- ==== Sys2Proof/Tests/Witnesses.lean ====
section
/-! SUPPORT. Witnesses: for every statement with hypotheses, a concrete state and operands that meet all of them together,
each clause at a boundary of its range. -/

namespace Sys2Proof.Tests

set_option Elab.async false

open Sys2Proof Sys2Proof.Machine

/-! ## States to stand on -/

/-- A thread of context 0 at position 0 of core 0, issuing a bundle at 0x100. -/
def base : State :=
  { State.reset.startThread 0 Thread.none (Workspace.fresh 0x108 false) with iss := { Issue.none with pc := 0x100, bundle := 0x77, word := 0x77 } }

/-- With a change to the issuing thread's registers. -/
def onWs (f : Workspace → Workspace) (s : State) : State := s.upd f

/-- With scalar register r holding x. -/
def withS (r : BitVec 5) (x : BitVec 64) (s : State) : State := s.upd fun w => w.setS r x

/-- With a change to the issuing thread. -/
def onMe (f : Thread → Thread) (s : State) : State := s.modMe f

/-- With the issuing thread's bundle held on request 9. -/
def held9 (s : State) : State := onMe (fun t => { t with park := .held 9 0 (Workspace.fresh 0 false) }) s

/-- With IMM26 in slot B. -/
def withImm (m : BitVec 26) (s : State) : State := { s with iss := { s.iss with imm := some m } }

/-- With the answer of a held bundle. -/
def withAnswer (a : Answer) (s : State) : State := { s with iss := { s.iss with answer := some a } }

/-- With a translation of page `vpn` to `frame` in tile 0's cache. -/
def withPage (vpn : Nat) (pte : BitVec 64) (frame : Nat) (s : State) : State :=
  s.modTile 0 fun t => { t with tlb := ⟨s.me.ctx, vpn, pte, frame⟩ :: t.tlb }

/-- With the line of a key in its home's slice. -/
def withLine (k : Nat) (s : State) : State :=
  s.modPort (memPort k) fun p => { p with lines := ⟨k / 128, 3, 15, false, none, false, []⟩ :: p.lines }

/-- The issuing thread moved to thread `th`. -/
def onCore (th : Nat) (f : Thread → Thread) : State :=
  { State.reset.startThread th (f Thread.none) (Workspace.fresh 0x108 false) with cur := th, iss := { Issue.none with pc := 0x100, bundle := 0x77, word := 0x77 } }

/-- A supervisor of core 0. -/
def super : State := onCore 15 fun t => { t with pos := 15, kind := .super }

/-- The first byte of core 0's scratchpad beyond its workspaces, and an address of it. -/
def pad0 : Nat := 3 * 2 ^ 46 + 0xA000

/-- A decoder's answer, read off its option. -/
theorem ok_of_some {ε α : Type} {x : Except ε α} {a : α} (h : x.toOption = some a) : x = .ok a := by
  cases x <;> simp_all [Except.toOption]

/-- A request of thread `th`. -/
def reqOf (s : State) (rid th : Nat) (kind : ReqKind) (ps : List Part) : Req := { s.newReq th ⟨0x100, 0x77, false, 1⟩ kind ps false with rid := rid, legs := ps.map Part.node }

/-- With a request in the network. -/
def withReq (r : Req) (s : State) : State := { s with net := s.net ++ [r], nextRid := r.rid + 1 }

/-- Positions from `lo` below `hi` of core l occupied, each by the thread of its window. -/
def filled (l lo hi : Nat) (s : State) : State :=
  (List.range' lo (hi - lo)).foldl (fun s p => s.setThr (l * 20 + p) { Thread.none with occ := true, pos := p }) s

/-! ## Words -/

theorem witness_WordsRoundTrip : WellFormed (.bfx 1 31 31 63 0) = true ∧ slotOf (.bfx 1 31 31 63 0) = .a ∧ WellFormed (.vcvt 15 0 1 7 1 0 2) = true ∧
    slotOf (.vcvt 15 0 1 7 1 0 2) = .b ∧ WellFormed (.lcmp 15 15 15 5) = true ∧ slotOf (.lcmp 15 15 15 5) = .logit := by decide +kernel

theorem witness_WordsHaveOneMeaning : decodeA 0x12208EA0 = .ok (.bfx 0 2 1 7 20) ∧ decodeB 0 = .ok .nopv ∧ decodeL 0 = .ok .lnop := ⟨ok_of_some (by decide +kernel), ok_of_some (by decide +kernel), ok_of_some (by decide +kernel)⟩

theorem witness_BundlesRoundTrip : WellFormed (.addi 0 1 1 3) = true ∧ WellFormed (.imm32 5) = true ∧ slotOf (.addi 0 1 1 3) = .a ∧
    slotOf (.imm32 5) = .b ∧ checkPair (.addi 0 1 1 3) (.imm32 5) = .ok ⟨.addi 0 1 1 3, .imm32 5⟩ := ⟨by decide +kernel, by decide +kernel, by decide +kernel, by decide +kernel, ok_of_some (by decide +kernel)⟩

theorem witness_NopWords : [0, 1, 2 ^ 31, 2 ^ 31 + 2 ^ 25 - 1].all (fun w => decide (w < 2 ^ 32 ∧ fld w 25 6 = 0)) = true ∧
    [0, 1, 2 ^ 26 - 1].all (fun w => decide (w < 2 ^ 32 ∧ fld w 26 6 = 0)) = true := by decide +kernel

/-! ## Scalar instructions, branches -/

theorem witness_ScalarArithmetic : base.iss.imm = none ∧ (withImm 0x3FFFFF base).iss.imm = some 0x3FFFFF := by decide +kernel

theorem witness_ScalarLogicAndOrder : base.iss.imm = none ∧ (0x3FF : Nat) = (0x3FF : BitVec 10).toNat ∧ (withImm 0x3FFFFF base).iss.imm = some 0x3FFFFF ∧
    (0x3FF : BitVec 10).toNat + (0x3FFFFF : BitVec 26).toNat % 2 ^ 22 * 1024 = 0xFFFFFFFF := by decide +kernel

theorem witness_ScalarShiftsAndBits : WellFormed (.bfx 0 1 1 63 0) = true ∧ WellFormed (.bfi 0 1 1 0 63) = true ∧
    (63 : BitVec 6).toNat + ((0 : BitVec 6).toNat + 1) ≤ 64 ∧ 64 < (63 : BitVec 6).toNat + ((1 : BitVec 6).toNat + 1) := by decide +kernel

theorem witness_AddressesAndWideImmediates : ((withImm 63 base).immN (0x3FF : BitVec 10)).toNat = 65535 ∧ leaMax base.lcore = 65535 ∧
    leaMax base.lcore < ((withImm 64 base).immN (0 : BitVec 10)).toNat ∧ isStack base.lcore = false ∧ base.lcore < 27648 ∧
    (let s := onCore (27648 * 20) id
     isStack s.lcore = true ∧ ((withImm 255 s).immN (0x3FF : BitVec 10)).toNat ≤ leaMax s.lcore) ∧ (0x3FFFFF : BitVec 26).toNat < 2 ^ 22 := by decide +kernel

theorem witness_BranchesAndJumps : WellFormed (.bcc 0 5 1 2 0x200) = true ∧ WellFormed (.bccz 1 0 1 0x1FF) = true ∧
    ((withS 3 0x7FFFFFFFFFF8 base).rS 3).toNat % 8 = 0 ∧ ((withS 3 0x104 base).rS 3).toNat % 8 ≠ 0 ∧
    condOf 2 (-1) 0 ∧ ¬ condOf 4 (-1) 0 := by
  refine ⟨by decide +kernel, by decide +kernel, by decide +kernel, by decide +kernel, ?_, ?_⟩ <;> simp [condOf]

/-- A thread that waits at its EXIT. -/
def exiting : State := onMe (fun t => { t with park := .exit ⟨0x100, 0x77, false, 1⟩ }) base

/-- A supervisor of core 0 that waits at its EXIT. -/
def superExiting : State := super.modThr 15 fun t => { t with park := .exit ⟨0x100, 0x77, false, 1⟩ }

/-- A thread has reached the end of its EXIT's wait. -/
def exitReady (s : State) (th : Nat) (inl : Bool) (pos15 : Bool) : Bool :=
  decide ((s.thr th).park = .exit ⟨0x100, 0x77, false, 1⟩ ∧ s.settled th = true ∧ (s.thr th).held = [] ∧ (s.getWs th).inl = inl ∧
    (s.thr th).caller = none ∧ ((s.thr th).pos = 15 ↔ pos15 = true))

theorem witness_ExitEnds :
    (let s := onMe (fun t => { t with pend := [⟨⟨0, 0, false, 0⟩, .value, some 5, false, [], [], 0, none⟩] }) exiting
     (s.thr 0).park = .exit ⟨0x100, 0x77, false, 1⟩ ∧ s.settled 0 = false) ∧
    (let s := onMe (fun t => { t with held := [⟨cEcc, 0, none, ⟨0x100, 0x77, false, 1⟩⟩] }) exiting
     (s.thr 0).park = .exit ⟨0x100, 0x77, false, 1⟩ ∧ s.settled 0 = true ∧ (s.thr 0).held ≠ []) ∧
    exitReady exiting 0 false false = true ∧ exitReady (onWs (fun w => w.setInl true) exiting) 0 true false = true ∧
    exitReady superExiting 15 false true = true ∧
    (let s := onMe (fun t => { t with kind := .callee, caller := some ⟨160, 7, 3⟩ }) exiting
     (s.thr 0).park = .exit ⟨0x100, 0x77, false, 1⟩ ∧ s.settled 0 = true ∧ (s.thr 0).held = [] ∧ (s.getWs 0).inl = false ∧ (s.thr 0).caller.isSome = true) := by decide +kernel

/-- A REP at 0x100 whose page is mapped at frame 0, with the bundle to repeat at 0x108. -/
def repeating (bundle : Nat) : State := (withLine 0x100 (withPage 0 1 0 base)).wrN 0x108 8 bundle

theorem witness_Repeats :
    (let s := repeating 0x0210840400000000
     let u := { s with upsets := [0x21] }
     s.reach ((s.iss.pc + 8).setWidth 64) 8 .fetch = .at_ 0x108 1 ∧ s.homeReady (fetchPart 0x108 0x108 1) = true ∧ s.bad 0x108 8 = false ∧
       repRefused 0x38 (s.rdN 0x108 8) = false ∧ repRefused 7 (s.rdN 0x108 8) = true ∧
       u.reach ((s.iss.pc + 8).setWidth 64) 8 .fetch = .at_ 0x108 1 ∧ u.homeReady (fetchPart 0x108 0x108 1) = true ∧ u.bad 0x108 8 = true) ∧
    (let s := repeating 0x7E05810000000000
     s.reach ((s.iss.pc + 8).setWidth 64) 8 .fetch = .at_ 0x108 1 ∧ repRefused 0 (s.rdN 0x108 8) = true) ∧
    (let s := withPage 0 1 0 base
     s.reach ((s.iss.pc + 8).setWidth 64) 8 .fetch = .at_ 0x108 1 ∧ s.homeReady (fetchPart 0x108 0x108 1) = false) ∧
    (let s := withPage 0 (1 + 2 ^ 7) 0 base
     s.reach ((s.iss.pc + 8).setWidth 64) 8 .fetch = .trap ⟨8, cAccess, 5, some 0x108⟩) ∧
    ((Workspace.fresh 0 false).repJ = (Workspace.fresh 0 false).repN) ∧
    (let w := (Workspace.fresh 0 false).setTsF 3 56 8 255
     w.repJ ≠ w.repN) := by decide +kernel

/-! ## Loads and stores -/

/-- s1 at the last `n` bytes of the own scratchpad, s2 a value with its sign bits set. -/
def atPad (n : Nat) : State := withS 2 0x8899AABBCCDDEEFF (withS 1 (BitVec.ofNat 64 (3 * 2 ^ 46 + 0x10000 - n)) base)

/-- s1 at 8 of global memory, whose page is mapped to frame 3. -/
def atHbm : State := withS 2 0x8899AABBCCDDEEFF (withS 1 8 (withPage 0 1 3 base))

/-- The four ways in which `trapsAt` traps, each at an address in s1: not aligned; in no address form; of a page whose walk has failed; of a
page that forbids the access. -/
def trapWit (size : Nat) (k : AccKind) : Bool :=
  let clear (s : State) : Bool := decide (s.ctx0Trap (s.rS 1) size k = none)
  let odd := withS 1 (BitVec.ofNat 64 (pad0 + 1)) base
  let bare := withS 1 (BitVec.ofNat 64 (2 ^ 47)) base
  let hole := withS 1 (BitVec.ofNat 64 (3 * 2 ^ 46 + 0x40000)) base
  let page := withS 1 (BitVec.ofNat 64 (5 * 65536)) base
  let fault := onMe (fun t => { t with walk := .failed 5 2 }) page
  let forbid := withPage 5 (1 + 2 ^ 6 + 2 ^ 7 + 2 ^ 10) 3 page
  clear odd && clear bare && clear hole && clear page && clear fault && clear forbid
    && (size == 1 || (odd.rS 1).toNat % size != 0) && (bare.rS 1).toNat % size == 0 && fld (bare.rS 1).toNat 46 2 == 2
    && (hole.rS 1).toNat % size == 0 && fld (hole.rS 1).toNat 46 2 == 3 && (onchip hole.lcore (hole.rS 1).toNat size).isNone
    && (page.rS 1).toNat % size == 0 && fld (page.rS 1).toNat 48 16 == 0 && decide (fld (page.rS 1).toNat 46 2 < 2)
    && (k.isWord || (decide (fault.tlbFind fault.lcore fault.me.ctx 5 = none ∧ fault.me.walk = .failed 5 2)
      && ((match k with | .load | .lanes false _ _ => true | _ => false) || match forbid.tlbFind forbid.lcore forbid.me.ctx 5 with | some e => (pageForbids e.pte k).isSome | none => false)))

/-- The three ways of `readsElse`: behind an earlier store to the parts ps; one of ps with an uncorrectable error; and where the parts qs, not
made at once, have a slot. `hit` and `hit'` tell that the operands lead to them. -/
def elseWit (kind : ReqKind) (s far : State) (ps qs : List Part) (hit hit' : State → Bool) : Bool :=
  let s := onMe (fun t => { t with seq := 5 }) s
  let busy := withReq (reqOf s 9 s.cur .store ps) s
  let bad := { s with upsets := ps.map fun p => p.key / 8 }
  let free (s : State) (ps : List Part) : Bool := s.me.spec.isNone && !s.blockBusy s.cur s.issSrc (s.ownParts ps)
  hit busy && busy.me.spec.isNone && busy.blockBusy busy.cur busy.issSrc (busy.ownParts ps)
    && hit bad && free bad ps && ((bad.ownParts ps).find? fun p => bad.bad p.key p.len).isSome
    && hit' far && free far qs && (far.ownParts qs).all (fun p => !far.bad p.key p.len) && (kind != .load || !far.direct qs false) && !far.noSlot qs

theorem witness_ScalarLoads : [1, 2, 4, 8].all (fun n => trapWit n .load) = true ∧ [1, 2, 4, 8].all (fun n =>
      let key := 3 * 2 ^ 46 + 0x10000 - n
      elseWit .load (atPad n) atHbm [onePart key ((atPad n).rS 1) 0 n 0 0] [onePart 0x30008 8 1 n 0 0]
        (fun s => decide (s.reach (s.rS 1 + s.immS (0 : BitVec 10)) n .load = .at_ key 0))
        fun s => decide (s.reach (s.rS 1 + s.immS (0 : BitVec 10)) n .load = .at_ 0x30008 1)) = true ∧ [1, 2, 4, 8].all (fun n =>
      let s := atPad n
      let ps := [onePart (3 * 2 ^ 46 + 0x10000 - n) (s.rS 1 + s.immS (0 : BitVec 10)) 0 n 0 0]
      decide (s.reach (s.rS 1 + s.immS (0 : BitVec 10)) n .load = .at_ (3 * 2 ^ 46 + 0x10000 - n) 0 ∧ s.direct ps false = true ∧ s.me.spec = none ∧
        ∀ p ∈ ps, s.gone s.me.ctx s.me.lid p.key = false ∧ s.bad p.key p.len = false)) = true := by decide +kernel

/-- A thread of context 3 with s1 at tile 0's OWNER. -/
def strange : State := withS 1 (BitVec.ofNat 64 (spaceKey 0 4 0xFF00)) (onMe (fun t => { t with ctx := 3 }) base)

theorem witness_ScalarStores : [1, 2, 4, 8].all (fun n => trapWit n .store) = true ∧
    (strange.ctx0Trap (strange.rS 1 + strange.immS (0 : BitVec 10)) 8 .store).isSome = true ∧ [1, 2, 4, 8].all (fun n =>
      let s := atPad n
      let key := 3 * 2 ^ 46 + 0x10000 - n
      let ps := [onePart key (s.rS 1 + s.immS (0 : BitVec 10)) 0 n 0 ((s.rS 2).toNat % 256 ^ n)]
      decide (s.reach (s.rS 1 + s.immS (0 : BitVec 10)) n .store = .at_ key 0 ∧ ownerKey key = false ∧ pageKey key = false ∧ s.direct ps true = true ∧
        s.me.spec = none ∧ ∀ p ∈ ps, s.gone s.me.ctx s.me.lid p.key = false)) = true ∧
    (let s := atHbm
     let ps := [onePart 0x30008 8 1 8 0 0x8899AABBCCDDEEFF]
     s.reach (s.rS 1 + s.immS (0 : BitVec 10)) 8 .store = .at_ 0x30008 1 ∧ ownerKey 0x30008 = false ∧ pageKey 0x30008 = false ∧ s.leaves ps) := by
  unfold State.leaves; decide +kernel

/-- Where the own group's port core has its page of registers, and where tile 0 has OWNER. -/
def page0 (off : Nat) : Nat := padKey 32 0 + 5 * 2 ^ 26 + off

theorem witness_RegisterStores : [page0 0x58, page0 0x60, page0 0x68, spaceKey 0 4 0xFF00].all (fun key =>
      let s := withS 2 5 (withS 1 (BitVec.ofNat 64 key) base)
      decide (s.me.spec = none ∧ s.reach (s.rS 1 + s.immS (0 : BitVec 10)) 8 .store = .at_ key 0 ∧
        s.noSlot [onePart key (s.rS 1 + s.immS (0 : BitVec 10)) 0 8 0 5] = false ∧ s.iss.answer = none)) = true ∧
    (pageKey (page0 0x58) = true ∧ treeKey (page0 0x58) = false) ∧ treeKey (page0 0x60) = true ∧ treeKey (page0 0x68) = true ∧
    ownerKey (spaceKey 0 4 0xFF00) = true ∧
    (let s := withAnswer ⟨none, 0, page0 0x60⟩ (withS 2 5 (withS 1 (BitVec.ofNat 64 (page0 0x60)) base))
     s.reach (s.rS 1 + s.immS (0 : BitVec 10)) 8 .store = .at_ (page0 0x60) 0 ∧ s.iss.answer = some ⟨none, 0, page0 0x60⟩) ∧
    (let x : Answer := ⟨some (cTreeBad, 1, none), 0, page0 0x60⟩
     (withAnswer x base).iss.answer = some x ∧ x.fail = some (cTreeBad, 1, none)) := by decide +kernel

/-- s1 at the last 64 bytes of the own scratchpad; p1 has bytes 0, 5 and 63 active, p2 none, p3 lanes 0 and 15 of 4 bytes. -/
def vecState : State := onWs (fun w => ((w.setP 1 0x8000000000000021).setP 3 0xF00000000000000F).setV 3 (BitVec.ofNat 512 (0x11223344 + 2 ^ 480 * 0x55667788))) (atPad 64)

/-- The same with s1 at 64 of global memory. -/
def vecFar : State := withS 1 64 (withPage 0 1 3 vecState)

theorem witness_VectorLoad : trapWit 64 (laneKind false 0x8000000000000021) = true ∧ vecState.rP 1 = 0x8000000000000021 ∧
    (let s := withS 1 (BitVec.ofNat 64 (2 ^ 47)) vecState
     s.rP 2 = 0 ∧ (s.addrTrap (s.rS 1 + s.immS (0 : BitVec 8)) 64 .load).isSome = true) ∧
    (let key := 3 * 2 ^ 46 + 0xFFC0
     let ps := vecParts key (vecState.rS 1) 0 (vecState.rP 1) 0
     elseWit .load vecState vecFar ps (vecParts 0x30040 64 1 (vecFar.rP 1) 0)
       (fun s => decide (s.reach (s.rS 1 + s.immS (0 : BitVec 8)) 64 (laneKind false (s.rP 1)) = .at_ key 0 ∧ s.rP 1 ≠ 0))
       (fun s => decide (s.reach (s.rS 1 + s.immS (0 : BitVec 8)) 64 (laneKind false (s.rP 1)) = .at_ 0x30040 1 ∧ s.rP 1 ≠ 0)) = true) ∧ let s := vecState
    (s.reach (s.rS 1 + s.immS (0 : BitVec 8)) 64 (laneKind false (s.rP 1)) = .at_ (3 * 2 ^ 46 + 0xFFC0) 0 ∧ s.rP 1 ≠ 0 ∧
      s.atOnce (vecParts (3 * 2 ^ 46 + 0xFFC0) (s.rS 1 + s.immS (0 : BitVec 8)) 0 (s.rP 1) 0) false) ∧
    s.rP 2 = 0 ∧ s.addrTrap (s.rS 1 + s.immS (0 : BitVec 8)) 64 .load = none := by
  unfold State.atOnce; decide +kernel

/-- s1 at tile 0's OWNER, with the bytes of p4, 256 or more, or those of p5, active. -/
def vecOwner : State := onWs (fun w => (w.setP 4 256).setP 5 0xFF) (withS 1 (BitVec.ofNat 64 (spaceKey 0 4 0xFF00)) vecState)

theorem witness_VectorStore : trapWit 64 (laneKind true 0x8000000000000021) = true ∧
    (let s := vecOwner
     let va := s.rS 1 + s.immS (0 : BitVec 8)
     let key := spaceKey 0 4 0xFF00
     va.toNat % 64 = 0 ∧ fld va.toNat 46 18 = 3 ∧ s.me.ctx = 0 ∧ onchip s.lcore va.toNat 64 = some key ∧ key < stackBase ∧ spaceOf key = 4 ∧ offOf key = 0xFF00 ∧
       256 ≤ (s.rP 4).toNat ∧
     s.reach va 64 (laneKind true (s.rP 5)) = .at_ key 0 ∧ s.rP 5 ≠ 0 ∧ ownerKey key = true ∧ s.me.spec = none ∧ s.iss.answer = none ∧
       s.noSlot (vecParts key va 0 (s.rP 5) (s.rV 3)) = false) ∧
    (let s := vecFar
     s.reach (s.rS 1 + s.immS (0 : BitVec 8)) 64 (laneKind true (s.rP 1)) = .at_ 0x30040 1 ∧ s.rP 1 ≠ 0 ∧ s.leaves (vecParts 0x30040 (s.rS 1 + s.immS (0 : BitVec 8)) 1 (s.rP 1) (s.rV 3))) ∧
    let s := vecState
    (s.reach (s.rS 1 + s.immS (0 : BitVec 8)) 64 (laneKind true (s.rP 1)) = .at_ (3 * 2 ^ 46 + 0xFFC0) 0 ∧ ownerKey (3 * 2 ^ 46 + 0xFFC0) = false ∧ s.rP 1 ≠ 0 ∧
      s.atOnce (vecParts (3 * 2 ^ 46 + 0xFFC0) (s.rS 1 + s.immS (0 : BitVec 8)) 0 (s.rP 1) (s.rV 3)) true) ∧
    s.rP 2 = 0 ∧ s.addrTrap (s.rS 1 + s.immS (0 : BitVec 8)) 64 .store = none ∧
    (let u := withS 1 (BitVec.ofNat 64 (2 ^ 47)) s
     u.rP 2 = 0 ∧ (u.addrTrap (u.rS 1 + u.immS (0 : BitVec 8)) 64 .store).isSome = true) := by
  unfold State.atOnce State.leaves; decide +kernel

/-- s1 in the own scratchpad, stride −8 in s2; indices 0 and −1 in v4. -/
def stepState : State :=
  onWs (fun w => ((w.setP 3 0xF00000000000000F).setV 4 (BitVec.ofNat 512 (2 ^ 480 * 0xFFFFFFFF))).setVtag 4 7) (withS 2 (-8) (withS 1 0xC0000000F000 base))

/-- The parts of the active lanes 0 and 15 at stride −8, and at the indices 0 and −1. -/
def stridedParts : List Part := [onePart 0xC0000000F000 0xC0000000F000 0 4 0 0, onePart 0xC0000000EF88 0xC0000000EF88 0 4 60 0]
def indexedParts : List Part := [onePart 0xC0000000F000 0xC0000000F000 0 4 0 0, onePart 0xC0000000EFFC 0xC0000000EFFC 0 4 60 0]
def scatteredParts : List Part := [onePart 0xC0000000F000 0xC0000000F000 0 4 0 0, onePart 0xC0000000EFFC 0xC0000000EFFC 0 4 60 0xFFFFFFFF]

/-- The same in global memory, on a page mapped to frame 3; and an element at tile 0's OWNER. -/
def stepFar : State := withS 1 0x1000 (withPage 0 1 3 stepState)
def stepFarParts : List Part := [onePart 0x31000 0x1000 1 4 0 0, onePart 0x30F88 0xF88 1 4 60 0]
def indexFarParts : List Part := [onePart 0x31000 0x1000 1 4 0 0, onePart 0x30FFC 0xFFC 1 4 60 0]
def scatterFarParts : List Part := [onePart 0x31000 0x1000 1 4 0 0, onePart 0x30FFC 0xFFC 1 4 60 0xFFFFFFFF]
def ownerParts : List Part :=
  [onePart (spaceKey 0 4 0xFF00) (BitVec.ofNat 64 (spaceKey 0 4 0xFF00)) 0 4 0 0]

theorem witness_StridedAndIndexed : trapWit 4 .load = true ∧ trapWit 4 .store = true ∧
    (let s := stepState
     activeVas (s.rP 3) 4 (fun i => s.rS 1 + BitVec.ofNat 64 i * s.rS 2) = [(0, s.rS 1)] ++ (15, 0xC0000000EF88) :: [] ∧
     activeVas (s.rP 3) 4 (s.idxVa 1 4 4) = [(0, s.rS 1)] ++ (15, 0xC0000000EFFC) :: [] ∧
     s.reach (s.rS 1) 4 .load = .at_ 0xC0000000F000 0 ∧ s.reach (s.rS 1) 4 .store = .at_ 0xC0000000F000 0 ∧ s.src.vtag 4 = intTag 4 ∧ s.src.vtag 5 ≠ intTag 4) ∧
    (let step (ps : List Part) (s : State) : Bool :=
       decide ((s.elemReach .load 4 0 (activeVas (s.rP 3) 4 fun i => s.rS 1 + BitVec.ofNat 64 i * s.rS 2)).toOption = some ps ∧ ps ≠ [])
     let idx (ps : List Part) (s : State) : Bool := decide ((s.elemReach .load 4 0 (activeVas (s.rP 3) 4 (s.idxVa 1 4 4))).toOption = some ps ∧ ps ≠ [])
     elseWit .load stepState stepFar stridedParts stepFarParts (step stridedParts) (step stepFarParts) = true ∧
     elseWit .load stepState stepFar indexedParts indexFarParts (idx indexedParts) (idx indexFarParts) = true) ∧ let s := stepState
    (WellFormed (.vlds 0 5 1 3 7 2) = true ∧ s.elemReach .load 4 0 (activeVas (s.rP 3) 4 fun i => s.rS 1 + BitVec.ofNat 64 i * s.rS 2) = .ok stridedParts ∧
      s.atOnce stridedParts false) ∧
    (WellFormed (.vgth 0 5 1 3 7 4) = true ∧ s.src.vtag 4 = intTag 4 ∧
      s.elemReach .load 4 0 (activeVas (s.rP 3) 4 (s.idxVa 1 4 4)) = .ok indexedParts ∧ s.atOnce indexedParts false) ∧
    WellFormed (.vsct 0 4 1 3 7 4) = true ∧ s.src.vtag 4 = intTag 4 ∧
      s.elemReach .store 4 (s.rV 4) (activeVas (s.rP 3) 4 (s.idxVa 1 4 4)) = .ok scatteredParts ∧ s.atOnce scatteredParts true ∧
      (∀ p ∈ scatteredParts, ownerKey p.key = false) ∧
      stepFar.elemReach .store 4 (stepFar.rV 4) (activeVas (stepFar.rP 3) 4 (stepFar.idxVa 1 4 4)) = .ok scatterFarParts ∧ scatterFarParts ≠ [] ∧ stepFar.leaves scatterFarParts := by
  unfold State.atOnce State.leaves
  exact ⟨by decide +kernel, by decide +kernel, by decide +kernel, by decide +kernel, ⟨by decide +kernel, ok_of_some (by decide +kernel), by decide +kernel⟩, ⟨by decide +kernel, by decide +kernel, ok_of_some (by decide +kernel), by decide +kernel⟩, by decide +kernel, by decide +kernel,
    ok_of_some (by decide +kernel), by decide +kernel, by decide +kernel, ok_of_some (by decide +kernel), by decide +kernel, by decide +kernel⟩

/-- One lane active at tile 0's OWNER: the bundle waits for its answer, and then stores what is left, which is nothing. -/
def ownerLane : State := onWs (fun w => (w.setP 3 0xF).setVtag 4 7) (withS 1 (BitVec.ofNat 64 (spaceKey 0 4 0xFF00)) base)

theorem witness_ScatterToOwner : (let s := ownerLane
    s.elemReach .store 4 (s.rV 4) (activeVas (s.rP 3) 4 (s.idxVa 1 4 4)) = .ok ownerParts ∧ s.src.vtag 4 = intTag 4 ∧
      (∃ p ∈ ownerParts, ownerKey p.key = true) ∧ s.me.spec = none ∧ s.noSlot ownerParts = false ∧ s.iss.answer = none) ∧
    (let s := withAnswer ⟨none, 0, spaceKey 0 4 0xFF00⟩ ownerLane
     s.elemReach .store 4 (s.rV 4) (activeVas (s.rP 3) 4 (s.idxVa 1 4 4)) = .ok ownerParts ∧ s.noSlot ownerParts = false ∧
      s.iss.answer = some ⟨none, 0, spaceKey 0 4 0xFF00⟩ ∧ s.atOnce (ownerParts.filter fun q => !ownerKey q.key) true) := by
  unfold State.atOnce
  exact ⟨⟨ok_of_some (by decide +kernel), by decide +kernel⟩, ok_of_some (by decide +kernel), by decide +kernel⟩

/-! ## Words, atomics, watches, fences -/

theorem witness_WordAndAtomicRequests : trapWit 4 (.word false) = true ∧ trapWit 4 (.word true) = true ∧ trapWit 4 .atomic = true ∧ trapWit 8 .atomic = true ∧
    base.me.spec = none ∧
    (let key := 3 * 2 ^ 46 + 0xFFFC
     let s := atPad 4
     let t := withS 1 (BitVec.ofNat 64 (padKey 1 0xA000)) base
     let far := fun (x : State) => decide (x.reach (x.rS 1 + x.immS (0 : BitVec 9)) 4 (.word false) = .at_ (padKey 1 0xA000) 0)
     let near := fun (x : State) => decide (x.reach (x.rS 1 + x.immS (0 : BitVec 9)) 4 (.word false) = .at_ key 0)
     elseWit (.ldv 5) s t [onePart key (s.rS 1) 0 4 0 0] [onePart (padKey 1 0xA000) (t.rS 1) 0 4 0 0] near far = true ∧
     elseWit .ldfe s t [onePart key (s.rS 1) 0 4 0 0] [onePart (padKey 1 0xA000) (t.rS 1) 0 4 0 0] near far = true ∧
     [0, 1].all (fun w => elseWit (.amo 0 0) (atPad (atomicSize w)) atHbm [onePart (3 * 2 ^ 46 + 0x10000 - atomicSize w) ((atPad (atomicSize w)).rS 1) 0 (atomicSize w) 0 0]
       [onePart 0x30008 8 1 (atomicSize w) 0 0] (fun x => decide (x.reach (x.rS 1) (atomicSize w) .atomic = .at_ (3 * 2 ^ 46 + 0x10000 - atomicSize w) 0))
       fun x => decide (x.reach (x.rS 1) (atomicSize w) .atomic = .at_ 0x30008 1)) = true) ∧ let s := atPad 4
    let key := 3 * 2 ^ 46 + 0xFFFC
    s.me.spec = none ∧ s.reach (s.rS 1 + s.immS (0 : BitVec 10)) 4 (.word true) = .at_ key 0 ∧
      s.noSlot [onePart key (s.rS 1 + s.immS (0 : BitVec 9)) 0 4 0 0] = false ∧
      (s.reach (s.rS 1) (atomicSize 0) .atomic = .at_ key 0 ∧ s.noSlot [onePart key (s.rS 1) 0 (atomicSize 0) 0 0] = false) ∧
      (atHbm.reach (atHbm.rS 1) (atomicSize 1) .atomic = .at_ 0x30008 1 ∧ atHbm.noSlot [onePart 0x30008 (atHbm.rS 1) 1 (atomicSize 1) 0 0] = false) ∧
      (s.earlier s.cur s.me.seq = [] ∧ (let u := withReq (reqOf s 9 0 .store [onePart key 0 0 4 0 0]) (onMe (fun t => { t with seq := 5 }) s)
        u.earlier u.cur u.me.seq ≠ [] ∧ u.iss.stalled = false ∧ u.iss.stage = 0)) := by decide +kernel

/-- The word at 0xA000 of core 0's scratchpad, as a part with data 5. -/
def wordPart : Part := onePart pad0 (BitVec.ofNat 64 pad0) 0 4 0 5

/-- Request 9 of thread 0 for that word, which stands full or empty, and whose bundle waits for the answer. -/
def wordReq (kind : ReqKind) : Req := reqOf base 9 0 kind [wordPart]
def wordState (kind : ReqKind) (full : Bool) (net : List Req) : State :=
  let s := withReq (wordReq kind) ((held9 base).modTag (pad0 / 4) fun g => { g with full := full })
  { s with net := s.net ++ net }

/-- An LDV that waits for version 1 of the word `w`. -/
def parkedLdv (w : Nat) : Req := { reqOf base 8 1 (.ldv 1) [onePart (4 * w) (BitVec.ofNat 64 (4 * w)) 0 4 0 0] with st := .parked 0 }

/-- A request of one part may be performed at its home. -/
def isDue (s : State) (r : Req) (p : Part) : Bool :=
  decide (s.req 9 = some r ∧ r.rid = 9 ∧ (∀ q ∈ s.net, q.rid = 9 → q = r) ∧ r.parts[0]? = some p ∧ r.st = .inflight ∧ s.mayArrive r 0 = true ∧ s.homeReady p = true ∧
    s.homeCheck r p = .ok ∧ r.parts = [p])

theorem witness_VersionReclaim :
    (isDue (wordState (.vrcl 8) true []) (wordReq (.vrcl 8)) wordPart = true ∧ (wordState (.vrcl 8) true []).holds (wordReq (.vrcl 8)) = true ∧ isPad wordPart.key = true) ∧
    (let q := parkedLdv (pad0 / 4 + 1)
     let s := wordState (.vrcl 8) true [q]
     isDue s (wordReq (.vrcl 8)) wordPart = true ∧ q ∈ s.net ∧ q.isParked = true ∧ q.kind = .ldv 1 ∧ wordPart.key / 4 ≤ q.word ∧ q.word < wordPart.key / 4 + 8 / 4) ∧
    (let q := parkedLdv (pad0 / 4 + 2)
     isDue (wordState (.vrcl 8) true [q]) (wordReq (.vrcl 8)) wordPart = true ∧ wordPart.key / 4 + 8 / 4 ≤ q.word) ∧
    (wordPart.key % 4 = 0 ∧ wordPart.len = 4 ∧ wordPart.mask = BitVec.allOnes 64 ∧ wordPart.pte = 0) ∧
    isDue (wordState .stv true []) (wordReq .stv) wordPart = true ∧
    ([(ReqKind.stfe, false), (.stfe, true), (.ldfe, true), (.ldfe, false)].all fun x =>
      let s := wordState x.1 x.2 []
      isDue s (wordReq x.1) wordPart && (s.tag (pad0 / 4)).full == x.2 && s.net.all (fun q => !q.isParked) && (wordReq x.1).lcore == coreOfKey pad0
        && !s.bad pad0 4) = true ∧
    (let s := withS 2 0x6000 (withS 1 (BitVec.ofNat 64 pad0) base)
     s.iss.answer = none ∧ (s.rS 2).toNat % 4 = 0 ∧ 4 ≤ (s.rS 2).toNat ∧ (s.rS 2).toNat ≤ 65536 ∧ s.reach (s.rS 1) 4 .reclaim = .at_ pad0 0 ∧
      offOf pad0 + (s.rS 2).toNat ≤ 65536 ∧ crosses s.me (offOf pad0) (s.rS 2).toNat 0x8000 0xA000 = false ∧ s.noSlot [onePart pad0 (s.rS 1) 0 4 0 0] = false) ∧
    (let s := withAnswer ⟨none, 0, pad0⟩ base
     s.iss.answer = some ⟨none, 0, pad0⟩) ∧
    (let s := withS 2 0x6004 (withS 1 (BitVec.ofNat 64 pad0) base)
     s.iss.answer = none ∧ (s.rS 2).toNat % 4 = 0 ∧ 4 ≤ (s.rS 2).toNat ∧ (s.rS 2).toNat ≤ 65536 ∧ s.vaTrap (s.rS 1) 4 .reclaim = none ∧ fld (s.rS 1).toNat 46 2 = 3 ∧
      65536 < fld (s.rS 1).toNat 0 26 + (s.rS 2).toNat) ∧
    (withS 2 2 base).iss.answer = none ∧ [2, 0, 65540].all (fun n => decide (((withS 2 n base).rS 2).toNat % 4 ≠ 0 ∨ ((withS 2 n base).rS 2).toNat < 4 ∨
      65536 < ((withS 2 n base).rS 2).toNat)) = true := by decide +kernel

/-- s1 at the word at 0xA000, with `n` other words of the core watched. -/
def watching (n : Nat) : State :=
  (withS 1 (BitVec.ofNat 64 pad0) base).modCore 0 fun c => { c with watches := (List.range n).map fun i => (pad0 / 4 + 1 + i, 1) }

theorem witness_Watching : trapWit 4 (.word false) = true ∧
    (let s := withS 1 (BitVec.ofNat 64 (padKey 1 0xA000)) base
     s.me.spec = none ∧ s.vaTrap (s.rS 1) 4 (.word false) = none ∧ fld (s.rS 1).toNat 46 2 = 3 ∧ s.notOwn (s.rS 1) = true) ∧ let s := watching 63
    let t := watching 64
    let u := (watching 5).modCore 0 fun c => { c with watches := (pad0 / 4, 0) :: c.watches }
    let v := (watching 5).modCore 0 fun c => { c with watches := (pad0 / 4, 1) :: c.watches }
    (s.reach (s.rS 1) 4 (.word false) = .at_ pad0 0 ∧ coreOfKey pad0 = s.lcore ∧ s.me.spec = none ∧
      ((s.core s.lcore).watches.find? fun x => x.1 == pad0 / 4) = none ∧ (s.core s.lcore).watches.length < 64) ∧
    (t.reach (t.rS 1) 4 (.word false) = .at_ pad0 0 ∧ coreOfKey pad0 = t.lcore ∧ t.me.spec = none ∧
      ((t.core t.lcore).watches.find? fun x => x.1 == pad0 / 4) = none ∧ 64 ≤ (t.core t.lcore).watches.length) ∧
    (v.reach (v.rS 1) 4 (.word false) = .at_ pad0 0 ∧ v.me.spec = none ∧ ((v.core v.lcore).watches.find? fun x => x.1 == pad0 / 4) = some (pad0 / 4, 1) ∧ v.cur ≠ 1) ∧
    (u.reach (u.rS 1) 4 (.word false) = .at_ pad0 0 ∧ coreOfKey pad0 = u.lcore ∧ (pad0 / 4, u.cur) ∈ (u.core u.lcore).watches) ∧
    (pad0 / 4, v.cur) ∉ (v.core v.lcore).watches := by decide +kernel

theorem witness_FencesAndHints : ((1 : BitVec 2) ≠ 0 ∧ (2 : BitVec 2) ≠ 0 ∧ (3 : BitVec 2) ≠ 0) ∧
    (let port := portOfChan (chanOf (0x30008 / 65536))
     let s := atHbm.modPort port fun p => { p with lines := [⟨0x30008 / 128, 3, 15, false, none, false, []⟩] }
     s.reach (s.rS 1) 1 .load = .at_ 0x30008 1 ∧ (∃ x ∈ (s.port port).lines, x.line = 0x30008 / 128) ∧ s.upsets = [] ∧
       (∀ x ∈ (atHbm.port port).lines, x.line ≠ 0x30008 / 128) ∧ ∀ m ∈ (atHbm.port port).misses, m.line = 0x30008 / 128 → m.near = true) ∧
    (atHbm.reach (atHbm.rS 1) 1 .load = .at_ 0x30008 1 ∧ isHbm 0x30008 = true ∧ (1 : BitVec 64).getLsbD 9 = false) ∧
    (let s := withS 1 8 (withPage 0 0x201 3 base)
     s.reach (s.rS 1) 1 .load = .at_ 0x30008 0x201 ∧ (0x201 : BitVec 64).getLsbD 9 = true) ∧
    ((atPad 1).reach ((atPad 1).rS 1) 1 .load = .at_ (3 * 2 ^ 46 + 0xFFFF) 0 ∧ isHbm (3 * 2 ^ 46 + 0xFFFF) = false) ∧
    (let s := withS 1 (BitVec.ofNat 64 (2 ^ 47)) base
     s.reach (s.rS 1) 1 .load = .trap (trapAccess 16 (s.rS 1))) ∧
    (let s := withS 1 8 base
     s.reach (s.rS 1) 1 .load = .walk 0) := by decide +kernel

/-! ## Spawned threads, calls, migration -/

/-- With all of core 0's request slots taken by loads of thread 5 from global memory. -/
def slotless (s : State) : State :=
  { s with net := s.net ++ (List.range 32).map fun i => reqOf s (100 + i) 5 .load [onePart (65536 * i) 0 1 8 0 0], nextRid := 200 }

/-- With both links out of die 0 down. -/
def severed (s : State) : State := (s.modLink 0 fun x => { x with up := false }).modLink 2 fun x => { x with up := false }

/-- The first tile core of die 1. -/
def farCore : Nat := 4608

theorem witness_SpawnSends : base.me.spec = none ∧
    (let s := withS 4 3 base
     isTileCore (s.rS 4).toNat = true ∧ s.mayCall s.me.ctx (s.rS 4).toNat = true ∧ s.routable (dieOfCore s.lcore) (dieOfCore (s.rS 4).toNat) = true ∧
       sameTile s.lcore 3 = true) ∧
    (let s := withS 4 4 base
     isTileCore (s.rS 4).toNat = true ∧ s.routable (dieOfCore s.lcore) (dieOfCore (s.rS 4).toNat) = true ∧ sameTile s.lcore 4 = false ∧ s.slotsFull s.lcore = false) ∧
    (let s := slotless (withS 4 4 base)
     isTileCore (s.rS 4).toNat = true ∧ s.mayCall s.me.ctx (s.rS 4).toNat = true ∧ s.routable (dieOfCore s.lcore) (dieOfCore (s.rS 4).toNat) = true ∧
       (s.rS 4).toNat < noThread ∧ sameTile s.lcore (s.rS 4).toNat = false ∧ s.slotsFull s.lcore = true) ∧
    (let s := severed (withS 4 (BitVec.ofNat 64 farCore) base)
     isTileCore (s.rS 4).toNat = true ∧ s.mayCall s.me.ctx (s.rS 4).toNat = true ∧ s.routable (dieOfCore s.lcore) (dieOfCore (s.rS 4).toNat) = false) ∧
    [33, 28032, 0x10000000000000000 - 1].all (fun n => !namesCore ((withS 4 (BitVec.ofNat 64 n) base).rS 4).toNat) = true ∧
    (let s := withS 4 27648 base
     namesCore (s.rS 4).toNat = true ∧ (isTileCore (s.rS 4).toNat && s.mayCall s.me.ctx (s.rS 4).toNat) = false) ∧
    (let s := withS 4 0 (onMe (fun t => { t with ctx := 1 }) base)
     s.me.spec = none ∧ namesCore (s.rS 4).toNat = true ∧ (isTileCore (s.rS 4).toNat && s.mayCall s.me.ctx (s.rS 4).toNat) = false) := by decide +kernel

theorem witness_CallSends :
    (let s := withS 4 0xFFFF (withPage 0 1 0 base)
     s.me.spec = none ∧ s.nearest (s.rS 4) = .at_ (portOfGroup 0) 0 ∧ s.mayCall s.me.ctx (portOfGroup 0) = true ∧
       s.routable (dieOfCore s.lcore) (dieOfCore (portOfGroup 0)) = true ∧ s.slotsFull s.lcore = false) ∧
    (let s := slotless (withS 4 0xFFFF (withPage 0 1 0 base))
     s.nearest (s.rS 4) = .at_ (portOfGroup 0) 0 ∧ s.mayCall s.me.ctx (portOfGroup 0) = true ∧ sameTile s.lcore (portOfGroup 0) = false ∧ s.slotsFull s.lcore = true) ∧
    [2 ^ 48, 2 ^ 47, 3 * 2 ^ 46 + 29000 * 2 ^ 26].all (fun x =>
      decide (fld x 48 16 ≠ 0 ∨ fld x 46 2 = 2 ∨ (fld x 46 2 = 3 ∧ onchip base.lcore x 1 = none))) = true ∧
    fld (2 ^ 47 - 1) 48 16 = 0 ∧ fld (2 ^ 47 - 1) 46 2 = 1 ∧
    (let s := onCore (27696 * 20) id
     [3 * 2 ^ 46 + 15 * 2 ^ 31, 3 * 2 ^ 46 + 15 * 2 ^ 31 + 2 ^ 18 - 1].all (fun x => match onchip s.lcore x 1 with | some key => decide (stackBase ≤ key) | none => false) = true) ∧
    (let s := withS 4 (BitVec.ofNat 64 (2 ^ 46 - 1)) base
     fld (2 ^ 46 - 1) 46 18 = 0 ∧ s.tlbFind s.lcore s.me.ctx ((2 ^ 46 - 1) / 65536) = none ∧ s.me.walk = .none ∧
       (onMe (fun t => { t with walk := .failed 0 1 }) s).me.walk = .failed (0xFFFF / 65536) 1) ∧
    (let s := severed (withS 4 (BitVec.ofNat 64 (padKey farCore 0)) base)
     s.nearest (s.rS 4) = .at_ farCore 0 ∧ s.mayCall s.me.ctx farCore = true ∧ s.routable (dieOfCore s.lcore) (dieOfCore farCore) = false) ∧
    (let s := withS 4 (BitVec.ofNat 64 (padKey 4 0)) (onMe (fun t => { t with ctx := 1 }) base)
     s.me.spec = none ∧ s.nearest (s.rS 4) = .at_ 4 0 ∧ s.mayCall s.me.ctx 4 = false) := by decide +kernel

/-- A callee of thread 25's call 7. -/
def calleeState : State := onMe (fun t => { t with kind := .callee, caller := some ⟨25, 7, 0⟩ }) base

theorem witness_ReturnsAndMigrations : calleeState.me.caller.isSome = true ∧ base.me.caller = none ∧
    (let s := withS 4 (BitVec.ofNat 64 (padKey 4 0)) base
     s.me.spec = none ∧ s.nearest (s.rS 4) = .at_ 4 0 ∧ s.mayCall s.me.ctx 4 = true ∧ s.routable (dieOfCore s.lcore) (dieOfCore 4) = true ∧ s.me.pos ≠ 15 ∧ s.me.part = false) ∧
    (let s := withS 4 0xFFFF (withPage 0 0x201 0 base)
     s.me.spec = none ∧ s.nearest (s.rS 4) = .at_ 27648 1 ∧ s.me.pos ≠ 15 ∧ s.me.part = false) ∧
    (let s := slotless (onMe (fun t => { t with park := .migrWait (BitVec.ofNat 64 (padKey 4 0)) ⟨0x100, 0, false, 0⟩ }) base)
     s.settled 0 = true ∧ { s with cur := 0 }.nearest (BitVec.ofNat 64 (padKey 4 0)) = .at_ 4 0 ∧ 4 ≠ coreOfTh 0 ∧ sameTile (coreOfTh 0) 4 = false ∧ s.slotsFull (coreOfTh 0) = true) ∧
    (let s := withPage 0 0x201 0 (onMe (fun t => { t with park := .migrWait 0xFFFF ⟨0x100, 0, false, 0⟩ }) base)
     s.settled 0 = true ∧ { s with cur := 0 }.nearest 0xFFFF = .at_ 27648 1) ∧
    (let s := onMe (fun t => { t with ctx := 1, park := .migrWait (BitVec.ofNat 64 (padKey 4 0)) ⟨0x100, 0, false, 0⟩ }) base
     s.settled 0 = true ∧ { s with cur := 0 }.nearest (BitVec.ofNat 64 (padKey 4 0)) = .at_ 4 0 ∧ s.mayCall (s.thr 0).ctx 4 = false) ∧
    (let s := severed (onMe (fun t => { t with park := .migrWait (BitVec.ofNat 64 (padKey farCore 0)) ⟨0x100, 0, false, 0⟩ }) base)
     s.settled 0 = true ∧ { s with cur := 0 }.nearest (BitVec.ofNat 64 (padKey farCore 0)) = .at_ farCore 0 ∧ s.mayCall (s.thr 0).ctx farCore = true ∧
       s.routable (dieOfCore (coreOfTh 0)) (dieOfCore farCore) = false) ∧
    super.me.pos = 15 ∧ (let s := onMe (fun t => { t with part := true }) base
      s.me.pos ≠ 15 ∧ s.me.part = true) ∧
    (let s := onMe (fun t => { t with park := .rret 24 0 8 0 }) calleeState
     (s.thr 0).park = .rret 24 0 8 0 ∧ s.settled 0 = true ∧ (s.thr 0).held = [] ∧ (s.thr 0).caller = some ⟨25, 7, 0⟩) ∧
    [(padKey 4 0, 4), (padKey 0 5, 0)].all (fun x =>
      let s := onMe (fun t => { t with park := .migrWait (BitVec.ofNat 64 x.1) ⟨0x100, 0, false, 0⟩ }) base
      decide ((s.thr 0).park = .migrWait (BitVec.ofNat 64 x.1) ⟨0x100, 0, false, 0⟩ ∧ s.settled 0 = true ∧ (s.thr 0).held = [] ∧
        { s with cur := 0 }.nearest (BitVec.ofNat 64 x.1) = .at_ x.2 0)) = true := by decide +kernel

/-- A SPAWN of thread 0 to core 4, as a request. -/
def spawnReq : Req := reqOf base 9 0 (.spawn 4 0x500 (List.replicate 8 3) true) []

theorem witness_SpawnedThreads :
    (let s := withReq spawnReq base
     s.isDue 9 spawnReq ∧ (4 : Nat) ≠ noThread ∧ s.unitTakes spawnReq 4 ∧ spawnReq.part = false ∧ s.openPositions 4 = List.range 15) ∧
    (let s := withReq spawnReq (filled 4 0 15 base)
     s.isDue 9 spawnReq ∧ s.unitTakes spawnReq 4 ∧ spawnReq.part = false ∧ s.openPositions 4 = []) ∧
    (let r := reqOf base 9 0 (.spawn noThread 0x500 [] true) []
     (withReq r base).isDue 9 r) ∧
    [(0, false), (1, false), (0, true)].all (fun x =>
      let r := { spawnReq with st := .answered none (BitVec.ofNat 64 x.1) }
      let s := withReq r (onWs (fun w => w.setInl x.2) (onMe (fun t => { t with park := .answer 9 }) base))
      decide (s.req 9 = some r ∧ (∀ q ∈ s.net, q.rid = 9 → q = r) ∧ (s.thr r.th).park = .answer 9 ∧ s.answerOut 9 = false ∧ (s.thr r.th).frozen = false ∧
        (s.getWs r.th).inl = x.2)) = true := by
  unfold State.isDue State.isReq State.unitTakes; decide +kernel

/-- An RCALL of thread 0 to core 4, sent, with its timer of 100 µs running since TICK 0. -/
def callReq : Req := reqOf base 9 0 (.rcall 4 (BitVec.ofNat 64 (padKey 4 0)) 0x500 [1, 2] (List.replicate 7 (0x3F80, 4))) []
def calling : State :=
  onMe (fun t => { t with
    calls := [⟨9, ⟨0x100, 0x77, false, 1⟩, 5, 2, 0, 1, 0, 160000, true⟩]
    pend := [⟨⟨0x100, 0x77, false, 1⟩, .value, some 9, false, [.s 5, .s 6, .v 0], [], 0, none⟩] }) base

theorem witness_RemoteCalls :
    (let s := withReq callReq calling
     s.isDue 9 callReq ∧ s.callRuns callReq = true ∧ s.unitTakes callReq 4 ∧ s.openPositions 4 = List.range 15) ∧
    [reqOf calling 20 80 (.reply 0 9 [1] []) [], reqOf calling 20 80 (.faultRec 0 9 4 4 none) []].all (fun r =>
      let s := withReq r calling
      decide (s.req 20 = some r ∧ r.rid = 20 ∧ (∀ q ∈ s.net, q.rid = 20 → q = r) ∧ s.dueAtUnit r = true ∧ s.refuses (padKey (coreOfTh 0) 0) = false ∧
        (s.liveCall 0 9).isSome = true ∧ (withReq r base).liveCall 0 9 = none)) = true ∧
    (let s := { calling with tick := 160001 }
     ((s.thr 0).calls.find? fun x => x.rid == 9) = some ⟨9, ⟨0x100, 0x77, false, 1⟩, 5, 2, 0, 1, 0, 160000, true⟩ ∧ 0 + 160000 < s.tick) := by
  unfold State.isDue State.isReq State.unitTakes; decide +kernel

theorem witness_Migrations :
    (let r := reqOf base 9 0 (.migr 4) []
     let s := withReq r (filled 4 0 14 base)
     s.isDue 9 r ∧ s.unitTakes r 4 ∧ s.migrWaits r = false ∧ s.openPositions 4 = [14]) ∧
    (let r := reqOf base 9 0 (.migr 4) []
     let s := withReq r (onMe (fun t => { t with frz := true }) base)
     s.isReq 9 r ∧ s.migrWaits r = true) ∧
    (let r := { reqOf base 9 0 (.migr 4) [] with st := .answered none 1 }
     (withReq r base).isReq 9 r ∧ (withReq r base).answerOut 9 = false) ∧
    (let r := { callReq with st := .parked 3 }
     let s := withReq r calling
     s.oldestArrival 4 = some r ∧ s.unitTakes r 4 ∧ s.openPositions 4 = List.range 15) ∧
    (let r := { callReq with st := .parked 3, ctx := 1 }
     let s := withReq r calling
     s.oldestArrival 4 = some r ∧ s.openPositions 4 ≠ [] ∧ s.refuses (padKey 4 0) = false ∧ s.mayCall r.ctx 4 = false) ∧
    (let r := { callReq with st := .parked 3, lid := 5, ctx := 1 }
     let s := withReq r (calling.modTile 1 fun t => { t with ctx := 1 })
     s.oldestArrival 4 = some r ∧ s.refuses (padKey 4 0) = false ∧ s.mayCall r.ctx 4 = true ∧ isTileCore 4 = true ∧ s.gone r.ctx r.lid (padKey 4 0) = true) := by
  unfold State.isDue State.isReq State.unitTakes; decide +kernel

/-! ## Barriers, speculation, messages, queues, semaphores -/

/-- s1 at the last object of the own scratchpad. -/
def atObject : State := withS 1 0xC0000000FFF0 base

theorem witness_BarrierForms : trapWit 16 .atomic = true ∧ (atObject.iss.answer = none ∧ atObject.me.spec = none ∧ atObject.reach (atObject.rS 1) 16 .atomic = .at_ 0xC0000000FFF0 0 ∧
      atObject.noSlot [onePart 0xC0000000FFF0 (atObject.rS 1) 0 16 0 0] = false ∧ atObject.noSlot [onePart 0xC0000000FFF4 (atObject.rS 1) 0 8 0 0] = false) ∧
    (withAnswer ⟨none, 3, 0xC0000000FFF0⟩ base).iss.answer = some ⟨none, 3, 0xC0000000FFF0⟩ ∧ (⟨none, 3, 0xC0000000FFF0⟩ : Answer).fail = none ∧
    (withAnswer ⟨some (0x0E, 0, none), 0, 0xC0000000FFF0⟩ base).iss.answer = some ⟨some (0x0E, 0, none), 0, 0xC0000000FFF0⟩ := by decide +kernel

/-- An operation at the object, with these members and arrivals, and phase 7. -/
def barrierPart : Part := onePart 0xC0000000FFF0 0xC0000000FFF0 0 16 0 0
def barrierReq (op : Nat) : Req := reqOf base 9 0 (.barrier op) [barrierPart]
def barrierState (op members arrived : Nat) : State :=
  withReq (barrierReq op) (((((held9 base).wrN 0xC0000000FFF0 4 members).wrN 0xC0000000FFF4 4 arrived).wrN 0xC0000000FFF8 4 7).wrN 0xC0000000FFFC 4 5)

theorem witness_BarrierHome :
    [(0, 0, 0), (0, 0xFFFFFFFE, 3), (1, 3, 2), (1, 1, 0), (2, 3, 2), (2, 4, 2), (3, 2, 1), (0, 0xFFFFFFFF, 1), (1, 0, 0), (2, 0, 0), (3, 0, 0)].all (fun x =>
      let s := barrierState x.1 x.2.1 x.2.2
      let b := s.barrierAt barrierPart.key
      decide (s.req 9 = some (barrierReq x.1) ∧ (barrierReq x.1).rid = 9 ∧ (∀ q ∈ s.net, q.rid = 9 → q = barrierReq x.1) ∧ s.dueAtUnit (barrierReq x.1) = true ∧ s.holds (barrierReq x.1) = true ∧
        (barrierReq x.1).parts = [barrierPart] ∧ s.homeReady barrierPart = true ∧ s.mergeBad barrierPart.key 16 (BitVec.allOnes 64) barrierPart.pte = false ∧
        ((List.range 16).all fun j => fixedBits (barrierPart.key + j) == 0) = true ∧ s.homeCheck (barrierReq x.1) barrierPart = .ok ∧
        s.bad barrierPart.key 16 = false ∧ barrierPart.key < fabricBase ∧ barrierPart.key % 16 = 0 ∧ (b.members ≠ 0 → b.arrived ≠ b.members) ∧
        ((x.1 = 0 ∧ b.members ≠ 0xFFFFFFFF) ∨ (b.members ≠ 0 ∧ x.1 ≠ 0) ∨ (x.1 = 0 ∧ b.members = 0xFFFFFFFF) ∨ (x.1 ∈ [1, 2, 3] ∧ b.members = 0)))) = true ∧
    [7, 6].all (fun ph =>
      let src : Src := ⟨0x100, 0, false, 1⟩
      let s := onMe (fun t => { t with park := .phase 0xC0000000FFF0 0xC0000000FFF0 (BitVec.ofNat 32 ph) 3 src }) (barrierState 2 4 2)
      let p := onePart 0xC0000000FFF0 0xC0000000FFF0 0 16 0 0
      decide ((s.thr 0).park = .phase 0xC0000000FFF0 0xC0000000FFF0 (BitVec.ofNat 32 ph) 3 src ∧ (s.thr 0).frozen = false ∧ (s.thr 0).walking = false ∧ s.pollReach 0 0xC0000000FFF0 0xC0000000FFF0 = .at_ 0xC0000000FFF0 0 ∧ s.homeReady p = true ∧
        s.homeCheck (s.newReq 0 src .load [p] false) p = .ok ∧ s.bad 0xC0000000FFF0 16 = false)) = true ∧
    (let s := onMe (fun t => { t with park := .phase 0x12340 0x20000 7 3 ⟨0x100, 0, false, 1⟩ }) base
     (s.thr 0).frozen = false ∧ (s.thr 0).walking = false ∧ s.pollReach 0 0x12340 0x20000 = .walk 2) := by
  decide +kernel

/-- Four operations of one cycle at the object: a LEAVE of thread 2, GBARs of threads 0 and 1, and a JOIN of thread 3. -/
def groupReq (k op : Nat) : Req := reqOf base (9 + k) k (.barrier op) [barrierPart]
def groupState : State :=
  let s := (List.range 4).foldl (fun s k => s.setThr k { Thread.none with occ := true, pos := k, park := .held (9 + k) 0 (Workspace.fresh 0 false) }) (barrierState 0 3 0)
  { s with net := [groupReq 2 1, groupReq 0 2, groupReq 1 2, groupReq 3 0] }

theorem witness_BarrierGroup : (groupState.net.map (·.rid)).Nodup ∧
    (∀ r ∈ groupState.net, groupState.req r.rid = some r ∧ (∀ q ∈ groupState.net, q.rid = r.rid → q = r) ∧ groupState.dueAtUnit r = true ∧ groupState.holds r = true ∧
      r.parts = [barrierPart] ∧ groupState.homeReady barrierPart = true ∧ groupState.homeCheck r barrierPart = .ok) ∧
    groupState.bad barrierPart.key 16 = false ∧
    ([groupReq 2 1] ++ [groupReq 0 2, groupReq 1 2] ++ [groupReq 3 0]).Perm groupState.net ∧
    ∀ g ∈ [[groupReq 2 1], [groupReq 0 2, groupReq 1 2], [groupReq 3 0]], g.Pairwise fun r q => groupState.tid r.th < groupState.tid q.th := by decide +kernel

/-- Within a speculation. -/
def specState (sp : Spec) : State := onMe (fun t => { t with spec := some sp }) (atPad 8)

/-- A word that a speculation logs. -/
def logged (k : Nat) (m : BitVec 8) : Nat × BitVec 64 × BitVec 8 := (k / 8, 0x1122334455667788, m)
/-- A committed word of core 4's scratchpad. -/
def commitPart (n : Nat) : Part := specPart [] (logged (padKey 4 0xFFF0 + 8 * n) 0xFF)

theorem witness_Speculations : base.me.spec = none ∧ base.me.speculates = false ∧ (specState ⟨[], [], [], false, false⟩).me.speculates = true ∧
    (let s := onMe (fun t => { t with spec := some ⟨[], [], [], false, false⟩ }) vecState
     s.rP 1 ≠ 0 ∧ s.reach (s.rS 1 + s.immS (0 : BitVec 8)) 64 (laneKind true (s.rP 1)) = .at_ (3 * 2 ^ 46 + 0xFFC0) 0 ∧
       s.ctx0Trap (s.rS 1) 16 .atomic = none ∧ s.ctx0Trap (s.rS 1 + s.immS (0 : BitVec 10)) 4 (.word true) = none ∧ s.ctx0Trap (s.rS 1) (atomicSize 1) .atomic = none ∧
       s.iss.answer = none ∧ s.me.pos ≠ 15 ∧ s.me.part = false) ∧
    (let s := onMe (fun t => { t with spec := some ⟨[], [], [], false, false⟩ }) stepState
     s.src.vtag 4 = intTag 4 ∧ (s.elemReach .store 4 (s.rV 4) (activeVas (s.rP 3) 4 (s.idxVa 1 4 4))).toOption = some scatteredParts) ∧
    (let s := (withS 11 0x0D00000000000000 (onCore 20 fun t => { t with spec := some ⟨[], [], [], false, false⟩ }))
     s.me.speculates = true ∧ s.drives 1 = true ∧ tcwAssigned (s.tcwAt 8).op = true ∧ tcwResOk (s.tcwAt 8) = true ∧ tcwRounds (s.tcwAt 8).op = false ∧
       (tcwQueues (s.tcwAt 8).op).contains 1 = true ∧ tcwLimOk (s.tcwAt 8) = true) ∧
    (let s := specState ⟨[], [], [], false, false⟩
     s.me.spec.isSome = true ∧ s.reach (s.rS 1 + s.immS (0 : BitVec 10)) 8 .store = .at_ (3 * 2 ^ 46 + 0xFFF8) 0) ∧
    [(⟨[], [], [], false, true⟩ : Spec), ⟨[], [], [], true, false⟩, ⟨[], [(5, 1)], [], false, false⟩].all (fun sp =>
      decide (((specState sp).thr 0).spec = some sp ∧ (specState sp).earlier 0 2 = [] ∧
        (((specState sp).commitNow 0 4 ⟨0x100, 0, false, 1⟩).getWs 0).getS 4 ≠ 1)) = true ∧
    [0x81, 0xFF].all (fun m => let sp : Spec := ⟨[logged (3 * 2 ^ 46 + 0xFFF8) m], [(padKey 0 0xFFF8 / 4, 0)], [], false, false⟩
     let s := specState sp
     let p := specPart sp.pages (logged (3 * 2 ^ 46 + 0xFFF8) m)
     decide ((s.thr 0).spec = some sp ∧ s.earlier 0 2 = [] ∧ (s.net = [] ∧ s.ports.all (fun x => x.2.passed.isEmpty) = true) ∧ p.alone = false ∧ p.pte.getLsbD 10 = false ∧
      pageKey p.key = false ∧ isLocalKey (coreOfTh 0) p.key = true ∧ wsOf p.key = none ∧ s.blockBusy 0 ⟨0x100, 0, false, 1⟩ [p] = false ∧
      s.homeCheck (s.newReq 0 ⟨0x100, 0, false, 1⟩ .commit [p] false) p = .ok ∧ ((s.commitNow 0 4 ⟨0x100, 0, false, 1⟩).getWs 0).getS 4 = 1)) = true ∧
    ((specState ⟨[], [(padKey 0 0xFFF8 / 4, 0)], [], false, false⟩).commitNow 0 4 ⟨0x100, 0, false, 1⟩).thr 0 = { (specState ⟨[], [], [], false, false⟩).thr 0 with spec := none, park := .over } ∧
    [id, slotless].all (fun f => let sp : Spec := ⟨[logged (padKey 4 0xFFF8) 0xFF], [], [], false, false⟩
     let s := f (specState sp)
     let p := specPart sp.pages (logged (padKey 4 0xFFF8) 0xFF)
     decide ((s.thr 0).spec = some sp ∧ s.earlier 0 2 = [] ∧ (∀ q ∈ s.net, q.rid ≠ s.nextRid) ∧ s.ports.all (fun x => x.2.passed.isEmpty) = true ∧ p.alone = false ∧
      p.pte.getLsbD 10 = false ∧ pageKey p.key = false ∧ isLocalKey (coreOfTh 0) p.key = false)) = true ∧
    (base.slotsFull 0 = false ∧ (slotless base).slotsFull 0 = true) ∧
    (let src : Src := ⟨0x100, 0, false, 1⟩
     [base, withReq (reqOf base 9 0 .store [commitPart 0]) base].map (fun b => let s := onMe (fun t => { t with park := .applied 4 src [] }) b
       ((s.thr 0).park == .applied 4 src [], (s.earlier 0 2).length)) = [(true, 0), (true, 1)]) ∧
    (let r := reqOf base 9 0 .commit [commitPart 0, commitPart 1]
     let s := withReq r base
     (s.req 9 = some r ∧ r.rid = 9 ∧ ∀ q ∈ s.net, q.rid = 9 → q = r) ∧ s.dueAtUnit r = true ∧ s.homeCheck r (commitPart 0) = .ok ∧
      ∀ q ∈ r.parts, s.homeReady q = true ∧ q.key < fabricBase ∧ pageKey q.key = false ∧ q.pte.getLsbD 10 = false ∧ s.mergeBad q.key q.len q.mask q.pte = false) := by decide +kernel

/-- A message to position 3 of core 4, whose thread has launch 0, with `n` messages in its queue. -/
def sendPart : Part := ⟨padKey 4 0, 0, 0, 0, 0, 0, 0, false⟩
def sendReq (lid : BitVec 32) : Req := { reqOf base 9 0 (.send 67 0 1 2) [sendPart] with lid := lid }
def sendState (n : Nat) (lid : BitVec 32) : State :=
  withReq (sendReq lid) ((filled 4 3 4 base).modCore 4 fun c => { c with msgs := (List.range n).map fun i => ⟨3, BitVec.ofNat 64 i, 0, 0⟩ })

theorem witness_Messages :
    [base, slotless base].all (fun b => let s := withS 1 67 b
     decide (s.me.spec = none ∧ namesCore ((s.rS 1).toNat / 16) = true ∧ s.me.ctx = 0 ∧ s.routable (dieOfCore s.lcore) (dieOfCore ((s.rS 1).toNat / 16)) = true)) = true ∧
    (withS 1 67 base).slotsFull 0 = false ∧ (slotless base).slotsFull 0 = true ∧
    (let s := withS 1 67 (onMe (fun t => { t with ctx := 2 }) (base.modTile 1 fun t => { t with ctx := 2 }))
     s.me.spec = none ∧ s.ownerOf ((s.rS 1).toNat / 16) = some s.me.ctx.toNat ∧ s.slotsFull s.lcore = false) ∧
    (let s := withS 1 67 (onMe (fun t => { t with ctx := 2 }) base)
     namesCore ((s.rS 1).toNat / 16) = true ∧ s.me.ctx ≠ 0 ∧ s.ownerOf ((s.rS 1).toNat / 16) ≠ some s.me.ctx.toNat) ∧
    namesCore (((withS 1 (33 * 16) base).rS 1).toNat / 16) = false ∧
    (let s := severed (withS 1 (BitVec.ofNat 64 (farCore * 16)) base)
     namesCore ((s.rS 1).toNat / 16) = true ∧ s.me.ctx = 0 ∧ s.routable (dieOfCore s.lcore) (dieOfCore ((s.rS 1).toNat / 16)) = false) ∧
    [3, 4].all (fun n =>
      let s := sendState n 0
      let r := sendReq 0
      decide (s.req 9 = some r ∧ r.rid = 9 ∧ (∀ q ∈ s.net, q.rid = 9 → q = r) ∧ s.dueAtUnit r = true ∧ (∀ q ∈ s.net, ¬ q.rid < 9) ∧ s.homeCheck r sendPart = .ok ∧
        (83 ∈ s.threadsOn (67 / 16) ∧ (s.thr 83).pos = 67 % 16 ∧ (s.thr 83).lid = r.lid) ∧ ((s.core (67 / 16)).msgs.filter fun m => m.pos == 67 % 16).length = n)) = true ∧
    (let s := sendState 0 5
     let r := sendReq 5
     s.req 9 = some r ∧ (∀ q ∈ s.net, q.rid = 9 → q = r) ∧ s.dueAtUnit r = true ∧ s.homeCheck r sendPart = .ok ∧
      ∀ k ∈ s.threadsOn (67 / 16), (s.thr k).pos = 67 % 16 → (s.thr k).lid ≠ r.lid) := by decide +kernel

/-- s1 at a record of the own scratchpad with its in-box, s2 all ones. -/
def mergeState : State := withS 2 (BitVec.allOnes 64) (withS 1 0xC0000000FF00 base)
def mergeReq (next : BitVec 64) (vec : Bool) : Req :=
  reqOf base 9 0 (.pmrg next vec (List.replicate 18 0xFFFFFFFF)) [onePart 0xC0000000FF80 0xC0000000FF80 0 4 0 0, onePart 0xC0000000FF00 0xC0000000FF00 0 128 0 0]
def inboxPart : Part := ⟨0xC0000000FF80, 0xC0000000FF80, 4, 0, 0xF, 0, 0, false⟩
def inboxReq (vec : Bool) : Req := reqOf base 9 0 (.inbox 0 0xFF80 (List.replicate (if vec then 128 else 64) 0x3F) vec) [inboxPart]

theorem witness_MergesAlongLines :
    ((withS 1 0xC0000000FF01 base).rS 1).toNat % 128 ≠ 0 ∧
    (let s := withS 2 33 mergeState
     s.rS 2 ≠ BitVec.allOnes 64 ∧ namesCore (s.rS 2).toNat = false) ∧
    [1, 4].all (fun n => let s := withS 2 n mergeState
     decide (s.rS 2 ≠ BitVec.allOnes 64 ∧ namesCore (s.rS 2).toNat = true ∧ isPort (s.rS 2).toNat = false ∧ s.me.ctx = 0 ∧
       s.routable (dieOfCore s.lcore) (dieOfCore (s.rS 2).toNat) = true ∧ s.slotsFull s.lcore = false ∧ s.net = [] ∧ s.me.pend = [])) = true ∧
    mergeState.blockBusy mergeState.cur mergeState.issSrc [onePart 0xC0000000FF00 (mergeState.rS 1) 0 256 0 0] = false ∧
    mergeState.relHolds mergeState.cur mergeState.me.seq = false ∧ (∀ j < 64, fixedBits (0xC0000000FF80 + j) = 0) ∧
    (mergeState.recordKey (mergeState.rS 1) = .ok 0xC0000000FF00 ∧ mergeState.rS 2 = BitVec.allOnes 64 ∧ mergeState.bad 0xC0000000FF00 128 = false ∧
      (∀ q ∈ mergeState.net, q.isParked = false) ∧ mergeState.me.pend.all (fun p => p.rid != some mergeState.nextRid) = true) ∧
    ([(BitVec.allOnes 64, false), (4, true)].all (fun x => let r := mergeReq x.1 x.2
      decide (r.kind = .pmrg x.1 x.2 (List.replicate 18 0xFFFFFFFF) ∧ r.parts.head?.map (·.key) = some 0xC0000000FF80 ∧ r.rid < (withReq r base).nextRid)) = true ∧
      128 ≤ 0xC0000000FF80 ∧ 0xC0000000FF80 < fabricBase ∧ 0xC0000000FF80 % 128 = 0 ∧ isPad 0xC0000000FF80 = true ∧ wsOf 0xC0000000FF80 = none ∧
      wsOf (0xC0000000FF80 - 128) = none ∧ base.bad 0xC0000000FF80 128 = false) ∧
    [false, true].all (fun v => let r := inboxReq v
     let s := withReq r base
     decide (s.req 9 = some r ∧ r.rid = 9 ∧ (∀ q ∈ s.net, q.rid = 9 → q = r) ∧ s.dueAtUnit r = true ∧ s.homeCheck r inboxPart = .ok ∧
      isHbm inboxPart.key = false ∧ inboxPart.key < fabricBase ∧ inboxPart.key % 128 = 0 ∧ isPad inboxPart.key = true ∧ inboxPart.pte = 0 ∧
      (s.tag (inboxPart.key / 4)).full = false ∧ ((List.range 128).all fun j => fixedBits (inboxPart.key + j) == 0) = true ∧ (∀ q ∈ s.net, q.isParked = false))) = true := by
  exact ⟨by decide +kernel, by decide +kernel, by decide +kernel, by decide +kernel, by decide +kernel, by decide +kernel, ⟨ok_of_some (by decide +kernel), by decide +kernel, by decide +kernel, by decide +kernel, by decide +kernel⟩, by decide +kernel, by decide +kernel⟩

/-- The TCW of a TDSC in s8 to s11 of core 1, which drives queue 1, with `n` commands queued. -/
def tdscCmd (th cid : Nat) : Cmd := ⟨0x0D * 2 ^ 248, 1, cid, th, 0, 0, 0, th / 20, 0, false, 0, 0, 1, none, false, 0, []⟩
def pushState (n : Nat) : State :=
  (withS 11 0x0D00000000000000 (onCore 20 id)).modTile 0 fun t => { t with queues := t.queues.set 1 ((List.range n).map (tdscCmd 20)) }

theorem witness_CommandQueues :
    [15, 16].all (fun n =>
      let s := pushState n
      decide (s.me.spec = none ∧ s.pushTrap (s.tcwAt 8) 1 = none ∧ (tdscCmd 20 0).w = s.tcwAt 8 ∧ (tdscCmd 20 0).part = s.me.part ∧
        (s.tile s.myT).pushFull 1 (tdscCmd 20 0).toEvq = (n == 16))) = true ∧
    ((pushState 0).drives 0 = false ∧ (pushState 0).drives 1 = true) ∧ (pushState 0).me.spec = none ∧ tcwAssigned ((pushState 0).tcwAt 12).op = false ∧ tcwAssigned ((withS 15 0x1200000000000000 (pushState 0)).tcwAt 12).op = false ∧
    ((pushState 0).drives 1 = true ∧ (pushState 0).me.barredQueue 1 = false) ∧
    (let s := onMe (fun t => { t with part := true }) (onCore 60 id)
     s.drives 0 = true ∧ s.me.barredQueue 0 = true) ∧ coreOf (pushState 0).lcore ≠ 0 ∧ isTileCore base.lcore = true ∧ coreOf base.lcore = 0 ∧ base.drives 1 = false := by decide +kernel

def semPart (n : Nat) : Part := onePart (spaceKey 0 4 (0x200 + 4 * n)) 0 0 4 0 0
def semvReq : Req := reqOf base 9 0 (.semv 15) [semPart 15]
/-- Semaphore 15 holds `v`, and thread 20 waits for it or not. -/
def semState (v : BitVec 32) (waits : Bool) : State :=
  withReq semvReq ((held9 base).modTile 0 fun t => { t with sem := t.sem.set 15 v, semq := if waits then [(20, 15)] else [] })

theorem witness_SemaphoresAndCounts :
    [(1, false), (0, false), (0xFFFFFFFF, false), (7, true)].all (fun x =>
      let s := semState x.1 x.2
      decide (isTileCore s.lcore = true ∧ s.me.barredIndex 15 = false ∧ s.iss.answer = none ∧ s.noSlot [semPart 15] = false ∧
        ((s.tile s.myT).sem[15] = x.1) ∧ s.req 9 = some semvReq ∧ (∀ q ∈ s.net, q.rid = 9 → q = semvReq) ∧ s.dueAtUnit semvReq = true ∧ s.holds semvReq = true ∧ 20 ≠ semvReq.th ∧
        isHbm (semPart 15).key = false ∧ (semPart 15).key < fabricBase ∧ s.homeCheck semvReq (semPart 15) = .ok ∧
        (s.tile s.myT).semq = if x.2 then [(20, 15)] else [])) = true ∧
    (withAnswer ⟨none, 0, 0⟩ base).iss.answer = some ⟨none, 0, 0⟩ ∧
    (isTileCore (onCore (27648 * 20) id).lcore = false ∧ (onCore (27648 * 20) id).iss.answer = none) ∧
    (let s := onMe (fun t => { t with part := true }) (onCore 40 id)
     isTileCore s.lcore = true ∧ [0, 11, 12, 15].map s.me.barredIndex = [true, true, false, false] ∧ coreOf s.lcore = 2 ∧ s.me.part = true ∧ ((withS 1 65 s).rS 1).toNat ≤ 65) ∧
    [0, 63, 64, 65, 66].all (fun n =>
      let s := withS 1 (BitVec.ofNat 64 n) (onCore 40 id)
      decide (isTileCore s.lcore = true ∧ coreOf s.lcore = 2 ∧ s.me.part = false ∧ (s.rS 1).toNat = n)) = true := by decide +kernel

/-! ## Control registers, traps, the supervisor, drain and scan -/

theorem witness_ControlRegisters : ((withS 1 5 base).rS 1).toNat % 8 < 6 ∧ 6 ≤ ((withS 1 6 base).rS 1).toNat % 8 ∧ 6 ≤ ((withS 1 7 base).rS 1).toNat % 8 := by decide +kernel

theorem witness_LanesAndTicks : [(3 : BitVec 10), 5, 8, 1023].all (fun c => decide (c ∉ [(0 : BitVec 10), 1, 2, 4])) = true := by decide +kernel

theorem witness_TrapsTaken : (base.thr 0).caller = none ∧ (base.thr 0).pos ≠ 15 ∧ (super.thr 15).caller = none ∧ (super.thr 15).pos = 15 ∧
    (let s := super.modPort 32 fun p => { p with errlog := List.replicate 63 0 }
     coreOfTh 15 < 2 ^ 16 ∧ (s.port (portOf (coreOfTh 15))).errlog.length < 64 ∧ (s.thr 15).pos = 15 ∧ (s.thr 15).caller = none) ∧
    (calleeState.thr 0).caller = some ⟨25, 7, 0⟩ ∧ calleeState.me.caller = some ⟨25, 7, 0⟩ ∧ (remoteNo (.spawn 0 0 1 0 0 0 0) || remoteNo .nopv) = true ∧
    (let s := onCore (27648 * 20) id
     s.me.caller = none ∧ isStack s.lcore = true) := by decide +kernel

/-- A trapped thread with the record's PC at `pc`. -/
def trappedState (pc : BitVec 256) : State := onWs (fun w => { w with trap := pc <<< 96 }) (onMe (fun t => { t with trapped := true, rte := some 3 }) base)

theorem witness_TrapsAndReturns : base.me.caller = none ∧
    (let s := trappedState 0x7000
     (s.thr 0).trapped = true ∧ (s.thr 0).rte = some 3 ∧ (s.thr 0).held = [] ∧ (s.getWs 0).repAct = false) ∧
    (0x7E05810000000000 : Nat) < 2 ^ 64 ∧ fld 0x7E05810000000000 26 6 ≠ 0x3E ∧ (0x16100278F8048D15 : Nat) < 2 ^ 64 ∧ fld 0x16100278F8048D15 26 6 = 0x3E := by decide +kernel

/-- The supervisor of core 0, with a thread at position 14, and s1 = n. -/
def supState (n : Nat) (f : Thread → Thread) (pc : BitVec 256) : State :=
  ((withS 1 (BitVec.ofNat 64 n) super).setThr 14 (f { Thread.none with occ := true, pos := 14 })).setWs 14 { Workspace.fresh 0 false with trap := pc <<< 96 }

theorem witness_SupervisorForms :
    [(true, false, 8), (true, false, 9), (false, false, 0), (false, true, 0)].all (fun x =>
      let s := supState 14 (fun t => { t with trapped := x.1, frz := !x.2.1, frzTo := some x.2.1 }) x.2.2
      decide (s.me.ctx = 0 ∧ (s.rS 1).toNat < 15 ∧ (s.rS 1).toNat ≠ s.me.pos ∧ s.threadAt s.lcore (s.rS 1).toNat = some 14 ∧ (s.thr 14).trapped = x.1 ∧
        (s.thr 14).frzNext = x.2.1 ∧ 14 ∈ s.threadsOn 0 ∧ (s.thr 14).pos = 14 ∧ (recPc (s.getWs 14).trap).toNat % 8 = x.2.2.toNat % 8)) = true ∧
    (let s := supState 0 id 0
     s.me.ctx = 0 ∧ (s.rS 1).toNat < 15 ∧ (s.rS 1).toNat ≠ s.me.pos ∧ s.threadAt s.lcore (s.rS 1).toNat = none) ∧
    (onMe (fun t => { t with ctx := 1 }) super).me.ctx ≠ 0 ∧
    (let s := supState 15 id 0
     s.me.ctx = 0 ∧ 15 ≤ (s.rS 1).toNat) ∧
    (let s := withS 1 0 base
     s.me.ctx = 0 ∧ (s.rS 1).toNat = s.me.pos ∧ s.me.pos ≠ 15) ∧
    (let s := super.modCore 0 fun c => { c with trapq := [5, 6] }
     s.me.ctx = 0 ∧ s.me.pos = 15 ∧ (s.core s.lcore).trapq = 5 :: [6]) ∧
    (super.me.ctx = 0 ∧ super.me.pos = 15 ∧ (super.core super.lcore).trapq = []) ∧
    15 < ((supState 16 id 0).rS 1).toNat ∧ ((supState 15 id 0).rS 1).toNat ≤ 15 ∧ (supState 15 id 0).threadAt 0 15 = some 15 ∧ (supState 0 id 0).threadAt 0 0 = none ∧
    (let s := onMe (fun t => { t with ctx := 1 }) (supState 14 id 0)
     (s.rS 1).toNat ≤ 15 ∧ s.threadAt s.lcore (s.rS 1).toNat = some 14 ∧ s.me.ctx ≠ 0 ∧ (s.thr 14).ctx ≠ s.me.ctx) ∧
    (let s := onMe (fun t => { t with ctx := 1 }) (supState 14 (fun t => { t with ctx := 1 }) 0)
     s.me.ctx ≠ 0 ∧ s.threadAt s.lcore (s.rS 1).toNat = some 14 ∧ (s.thr 14).ctx = s.me.ctx) := by decide +kernel

/-- The supervisor of core 0, with tile `x` in a drain state, under scan or not. -/
def drainState (x n : Nat) (d : Drain) (scan : Bool) : State :=
  (withS 1 (BitVec.ofNat 64 n) super).modTile x fun t => { t with drain := d, scan := if scan then some ⟨4, 1, 0, 0, none, false, 15, 0⟩ else none }

theorem witness_DrainAndScanForms :
    [(Drain.no, false), (.draining [(15, 1)], false), (.drained, false), (.drained, true)].all (fun x =>
      let s := drainState 6143 6143 x.1 x.2
      decide (s.me.ctx = 0 ∧ (s.rS 1).toNat ≤ 6143 ∧ (isTileCore s.lcore = true → (s.rS 1).toNat ≠ s.myT) ∧ (s.tile 6143).drain = x.1 ∧
        (s.tile 6143).scan.isSome = x.2 ∧ s.iss.answer = none ∧ s.me.speculates = false)) = true ∧
    (let home := padKey (portOfGroup (6143 / 128 * 16)) 0 + 5 * 2 ^ 26
     (drainState 6143 6143 .drained false).noSlot [onePart home (BitVec.ofNat 64 home) 0 2 0 0] = false) ∧
    (withAnswer ⟨none, 7, 0⟩ super).iss.answer = some ⟨none, 7, 0⟩ ∧
    [(Drain.no, false), (.drained, false), (.drained, true)].all (fun x =>
      let s := drainState 1 4 x.1 x.2
      decide (s.me.ctx = 0 ∧ isTileCore (s.rS 1).toNat = true ∧ tOf (s.rS 1).toNat = 1 ∧ (s.tile 1).drain = x.1 ∧ (s.tile 1).scan.isSome = x.2)) = true ∧
    (let s := onMe (fun t => { t with ctx := 1 }) super
     s.me.ctx ≠ 0 ∧ s.iss.answer = none) := by decide +kernel

/-! ## Vectors, predicates, special functions, directions -/

/-- Flags that seven bits determine. -/
theorem raisedBy_of {n : Nat} {act : Nat → Bool} {f : Nat → Nat × Flags} {fl : Flags}
    (h : ∀ j < 7, fl.getLsbD j = true ↔ ∃ i < n, act i = true ∧ (f i).2.getLsbD j = true) : raisedBy n act f fl := by
  intro j
  by_cases hj : j < 7
  · exact h j hj
  · constructor
    · intro k; rw [BitVec.getLsbD_of_ge _ _ (by omega)] at k; cases k
    · rintro ⟨i, _, _, k⟩; rw [BitVec.getLsbD_of_ge _ _ (by omega)] at k; cases k

/-- v1 and v2 hold elements `x` and `y` in every lane of 4 bytes with the tag `f`, p1 the lanes 0 and 15, FLAGS `e`. -/
def lanes (f : BitVec 4) (x y : Nat) (e : BitVec 15) : State :=
  onWs (fun w => (((((w.setV 1 (ofElems 4 (List.replicate 16 x))).setVtag 1 f).setV 2 (ofElems 4 (List.replicate 16 y))).setVtag 2 f).setP 1 0xF00000000000000F).setFlags e) base

/-- The largest F32 added to itself overflows: OF and NX. -/
def addMax (s : State) (i : Nat) : Nat × Flags := FF.add (ffOf 1) 0 (s.chunkIf 0 i) (elemN (s.rV 1) 4 i) (elemN (s.rV 2) 4 i)

theorem witness_VectorArithmetic :
    (let s := lanes 7 0x7FFFFFFF 1 0
     s.src.vtag 1 = 7 ∧ s.src.vtag 2 = 7 ∧ Fmt.isFloat 7 = false ∧ s.src.enabled 0 = 0) ∧
    raisedBy 16 (activeEl ((lanes 7 0x7FFFFFFF 1 0).rP 1) 4) (fun i => (elemN ((lanes 7 0x7FFFFFFF 1 0).rV 1) 4 i, 0)) 0 ∧
    (let s := lanes 1 0x7F7FFFFF 0x7F7FFFFF 0
     s.src.vtag 1 = 1 ∧ s.src.vtag 2 = 1 ∧ Fmt.isFloat 1 = true ∧ s.src.enabled (flOF ||| flNX) = 0 ∧
       raisedBy 16 (activeEl (s.rP 1) 4) (addMax s) (flOF ||| flNX)) ∧
    (let s := lanes 1 0x7F7FFFFF 0x7F7FFFFF 0x7F00
     s.src.enabled (flOF ||| flNX) ≠ 0 ∧ raisedBy 16 (activeEl (s.rP 1) 4) (addMax s) (flOF ||| flNX)) ∧
    (lanes 7 0 0 0).src.vtag 1 ≠ 6 :=
  ⟨by decide +kernel, raisedBy_of (by decide +kernel), ⟨by decide +kernel, by decide +kernel, by decide +kernel, by decide +kernel, raisedBy_of (by decide +kernel)⟩,
    ⟨by decide +kernel, raisedBy_of (by decide +kernel)⟩, by decide +kernel⟩

theorem witness_VectorMoves : (lanes 1 1 2 0).src.vtag 2 = (lanes 1 1 2 0).src.vtag 1 ∧ (lanes 7 1 2 0).src.vtag 2 = intTag (Fmt.size 1) ∧
    raisedBy 16 (activeEl ((lanes 7 1 2 0).rP 1) 4) (fun i => (i, 0)) 0 :=
  ⟨by decide +kernel, by decide +kernel, raisedBy_of (by decide +kernel)⟩

/-- A signalling NaN compared raises NV. -/
def compareNans (s : State) (i : Nat) : Nat × Flags :=
  (((ffOf 1).compare 5 (elemN (s.rV 1) 4 i) (elemN (s.rV 2) 4 i)).1.toNat, ((ffOf 1).compare 5 (elemN (s.rV 1) 4 i) (elemN (s.rV 2) 4 i)).2)

/-- The largest F32 brought to F16 overflows. -/
def narrowMax (s : State) (j : Nat) : Nat × Flags := convElem 1 2 0 (s.chunkIf 0 j) (elemN (s.rV 1) 4 j)

theorem witness_VectorElements :
    (WellFormed (.vshl 3 1 2 1 7 0) = true ∧ WellFormed (.vshl 3 1 0 1 7 95) = true ∧ (0 : BitVec 7).getLsbD 6 = false ∧ (95 : BitVec 7).getLsbD 6 = true ∧
      (lanes 7 0x80000000 32 0).src.vtag 1 = 7 ∧ (lanes 7 0x80000000 32 0).src.vtag 2 = 7) ∧
    (WellFormed (.vcmp 3 1 2 1 1 5) = true ∧ (lanes 1 0x7F800001 0x7F800001 0).src.vtag 1 = 1 ∧ (lanes 1 0x7F800001 0x7F800001 0).src.vtag 2 = 1) ∧
    raisedBy 16 (activeEl ((lanes 1 0x7F800001 0x7F800001 0).rP 1) 4) (compareNans (lanes 1 0x7F800001 0x7F800001 0)) flNV ∧
    (WellFormed (.vcvt 3 1 0 1 2 0 1) = true ∧ WellFormed (.vcvt 3 1 1 1 2 0 1) = true ∧ (lanes 1 0x7F7FFFFF 0 0).src.vtag 1 = 1) ∧
    raisedBy 16 (fun j => activeEl ((lanes 1 0x7F7FFFFF 0 0).rP 0) 2 (16 + j)) (narrowMax (lanes 1 0x7F7FFFFF 0 0)) (flOF ||| flNX) :=
  ⟨by decide +kernel, by decide +kernel, raisedBy_of (by decide +kernel), by decide +kernel, raisedBy_of (by decide +kernel)⟩

/-- A histogram: v1 holds indices, v2 increments, v0 the base. -/
def histState (base_ idx : Nat) : State := onWs (fun w => (w.setV 0 (BitVec.ofNat 512 base_)).setVtag 0 7) (lanes 7 idx 0xFFFFFFFF 0)

theorem witness_HistogramAdds :
    (let s := histState 0xFFC0 15
     let act := (List.range 16).filter fun i => activeEl (s.rP 1) 4 i
     let bin := fun i => elemN (s.rV 0) 4 0 + 4 * elemN (s.rV 1) 4 i
     s.src.vtag 1 = 7 ∧ s.src.vtag 2 = 7 ∧ s.src.vtag 0 = 7 ∧ elemN (s.rV 0) 4 0 % 4 = 0 ∧ act = [0, 15] ∧ (∀ i ∈ act, bin i + 4 ≤ 65536) ∧
       (∀ i ∈ act, crosses s.me (bin i) 4 0x8000 0xA000 = false) ∧ s.me.spec = none ∧ s.relHolds s.cur s.me.seq = false ∧
       (∀ i ∈ act, s.gone s.me.ctx s.me.lid (padKey s.lcore (bin i)) = false ∧ s.bad (padKey s.lcore (bin i)) 4 = false) ∧
       (∀ r ∈ s.net, r.th ≠ s.cur ∧ r.isParked = false) ∧ namesCore s.lcore = true ∧ (∀ o ∈ [0xA000, 0xFFFC], ∀ j < 4, fixedBits (padKey s.lcore o + j) = 0)) ∧
    elemN ((histState 0xFFC2 15).rV 0) 4 0 % 4 ≠ 0 ∧
    (let s := histState 0xFFC0 16
     elemN (s.rV 0) 4 0 % 4 = 0 ∧ activeEl (s.rP 1) 4 15 = true ∧ 65536 < elemN (s.rV 0) 4 0 + 4 * elemN (s.rV 1) 4 15 + 4) := by decide +kernel

theorem witness_SpecialFunctions : (lanes 1 0x3F800000 0 0).src.vtag 1 = 1 ∧ (lanes 1 0x3F800000 0 0).src.vtag 2 = 1 ∧ (lanes 7 3 0 0).src.vtag 1 = 7 ∧
    Fmt.isFloat 7 = false := by decide +kernel

/-- Directional registers 0 to 3 carry DQ; register 0 holds a direction of norm `n`, register 1 the zero vector. -/
def dirState (n : BitVec 32) : State :=
  onWs (fun w => ((((((w.setDtag 0 15).setDtag 1 15).setDtag 2 15).setDtag 3 15).setD 0 (BitVec.ofNat 512 0x4000)).setN 0 n).setN 1 0x80000000) base

theorem witness_Directions :
    (let s := dirState 0
     s.dirTag 0 0 = none ∧ s.dirTag 0 2 = none ∧ s.vtagTrap [(1, 1)] = some ⟨6, cFormat, 1 + 0x1000, none⟩ ∧ (lanes 1 0 0 0).vtagTrap [(1, 1), (2, 1)] = none ∧
       (s.rDir 0 0).isZero = false ∧ (s.rDir 1 0).isZero = true) ∧
    [(0x7FFFFFFE, 1, 0), (0x7FFFFFFE, 2, 1), (0x80000001, -1, 2)].all (fun (x : BitVec 32 × Int × Nat) =>
      let s := withS 4 (BitVec.ofInt 64 x.2.1) (dirState x.1)
      let n := (s.rDir 0 0).n + ((s.rS 4).setWidth 32).toInt
      decide (s.dirTag 0 0 = none ∧ (s.rDir 0 0).isZero = false ∧ (x.2.2 = 0 → -(2 ^ 31) < n ∧ n < 2 ^ 31) ∧ (x.2.2 = 1 → 2 ^ 31 ≤ n) ∧ (x.2.2 = 2 → n ≤ -(2 ^ 31)))) = true ∧
    (let s := withS 4 0x80000000 (dirState 0)
     s.dirTag 0 0 = none ∧ (s.rS 4).setWidth 32 = (0x80000000 : BitVec 32)) ∧
    (let s := withS 4 5 (dirState 0)
     (s.rS 4).setWidth 32 ≠ (0x80000000 : BitVec 32) ∧ s.dirTag 1 0 = none ∧ (s.rDir 1 0).isZero = true ∧ (s.rDir 0 0).isZero = false) := by decide +kernel

/-! ## The Vesper filter -/

def zeros : Vector (BitVec 32) 32 := Vector.replicate 32 0
/-- A run of chunk 1, and its window. -/
def runOf (failed : Bool) (offer : Option (Vector (BitVec 32) 32)) : LRun :=
  ⟨1, Vector.replicate 16 zeros, zeros, Vector.replicate 32 0, 0, 0, Vector.replicate 32 0, Vector.replicate 8 0, 0, offer, false, failed⟩
def bindingOf (run : Option LRun) : Binding :=
  ⟨0, 0, 0, 0, false, 65536, false, 96, 4, [], 0x10000, 0x500, 4, 7, 3, 0x20000, Vector.replicate 8 0, 0xFF800000, 0, 0, 0, [], 0, [], [], [0], none, run⟩
def logitState (run : Option LRun) : State := { State.reset.setBinding 0x20000 (some (bindingOf run)) with curWin := 0x20000 }

theorem witness_LogitInstructions :
    [runOf true none, runOf false none, runOf false (some zeros)].all (fun r =>
      let s := logitState (some r)
      decide (s.binding s.curWin = some (bindingOf (some r)) ∧ (bindingOf (some r)).run = some r ∧
        ((bindingOf (some r)).ran.length + 1) * 32 < (bindingOf (some r)).vocab)) = true := by decide +kernel

/-- Page tables at 0 that map page `v` of context 0 to `leaf`. -/
def tabled (v : Nat) (leaf : Nat) (s : State) : State :=
  (((((s.wrN 0 8 0x10000).wrN 16 8 1).wrN 0x10000 8 0x20031).wrN 0x20000 8 0x30031)).wrN (0x30000 + 8 * v) 8 leaf

/-- With memory ready for a part: its lines stand in their slice, or have been served past it. -/
def served (p : Part) (s : State) : State :=
  s.modPort (memPort p.key) fun q => { q with direct := linesOf p.key p.len, lines := (linesOf p.key p.len).map fun l => ⟨l, 3, 15, false, none, false, []⟩ }

/-- A store of 4 bytes to a window's page at 0x20000. -/
def windowPart (off : Nat) (v : Nat) : Part := onePart (0x20000 + off) (BitVec.ofNat 64 (0x50000 + off)) 0x601 4 0 v
def windowReq (off v : Nat) : Req := reqOf base 9 0 .store [windowPart off v]
def windowState (off v : Nat) (s : State) : State := served (windowPart off v) (withReq (windowReq off v) s)

theorem witness_LogitWindows_stores :
    [(0x1000 + 4 * 32 - 4, 0x3F800000), (0x1000 + 4 * 96 - 4, 0x3F800000)].all (fun x =>
      let p := windowPart x.1 x.2
      let r := windowReq x.1 x.2
      let s := windowState x.1 x.2 (base.setBinding 0x20000 (some (bindingOf none)))
      isDue s r p && decide (r.kind = .store ∧ p.pte.getLsbD 10 = true ∧ isHbm p.key = true ∧ p.key + p.len ≤ 2 ^ 47 ∧
        s.bindValue p ≠ some 0 ∧ s.bindValue p ≠ some 1 ∧ s.mergeBad p.key p.len p.mask p.pte = false ∧ s.binding (windowOf p).1 = some (bindingOf none)
        ∧ (windowState x.1 x.2 base).binding (windowOf p).1 = none)) = true ∧
    (let p := { windowPart 0x1000 0x3F800000 with pte := 0xE01 }
     let r := reqOf base 9 0 .store [p]
     let s := served p (withReq r { base with upsets := [p.key / 8 + 1] })
     isDue s r p = true ∧ p.pte.getLsbD 10 = true ∧ p.key + p.len ≤ 2 ^ 47 ∧ s.bindValue p ≠ some 0 ∧ s.bindValue p ≠ some 1 ∧
       s.mergeBad p.key p.len p.mask p.pte = true) ∧
    (let p := windowPart 0x30 0
     let r := windowReq 0x30 0
     let s := windowState 0x30 0 (base.setBinding 0x20000 (some (bindingOf none)))
     isDue s r p = true ∧ r.kind = .store ∧ p.pte.getLsbD 10 = true ∧ isHbm p.key = true ∧ p.key + p.len ≤ 2 ^ 47 ∧ s.bindValue p = some 0 ∧ s.upsets = [] ∧
       s.binding (windowOf p).1 = some (bindingOf none)) := by decide +kernel

/-- A store of 1 to BIND of the window at 0x100000, whose header names 96 tokens, K 4 and a program of one word on page 1, tables on the
NEAR page 2 and an entry on page 3. -/
def bindPart : Part := onePart 0x100030 0x50030 0x601 4 0 1
def bindReq : Req := reqOf base 9 0 .store [bindPart]
def bindState : State :=
  served bindPart (withReq bindReq (((((((tabled 1 0x50001 base).wrN 0x30010 8 0x60201).wrN 0x30018 8 0x70001).wrN 0x100000 4 96).wrN 0x100004 4 0x104).wrN 0x100008 8 0x10000).wrN 0x100010 8 0x20000
    |>.wrN 0x100018 8 0x30000))

theorem witness_LogitWindows_bind :
    let s := bindState
    let u := (s.windowStored bindReq 0 bindPart).setBinding 0x100000 none
    let h := fun (o n : Nat) => u.rdN (0x100000 + o) n
    s.upsets = [] ∧ isDue s bindReq bindPart = true ∧ s.bindValue bindPart = some 1 ∧ windowOf bindPart = (0x100000, 65536) ∧
    (h 0 4 = 96 ∧ h 4 4 = 0x104 ∧ h 8 8 = 0x10000 ∧ h 0x10 8 = 0x20000 ∧ h 0x18 8 = 0x30000) ∧
    (chanOf ((0x100000 + 65536 - 1) / 65536) / 64 = chanOf (0x100000 / 65536) / 64 ∧ u.bindingsOn (chanOf (0x100000 / 65536) / 64) < 1024) ∧
    u.filterBytes 0 0x10000 .load 4 = some [0, 0, 0, 0] ∧ (u.filterBytes 0 0x30000 .fetch 8).isSome = true ∧ u.nearPages 0 0x20000 (tableBytes 96) = true ∧
    (words32 [0, 0, 0, 0] = [0] ∧ (decodeL 0).toOption = some .lnop) ∧ headerBad 0 0x104 0x10000 0x20000 0x30000 65536 = some 0 := by decide +kernel

theorem witness_LogitWindows_runs :
    [([0], 4), ([0, 2], portOfGroup 0)].all (fun (x : List Nat × Nat) =>
      let b := { bindingOf none with cur := [(1, BitVec.allOnes 32)], ran := x.1, sampler := x.2 }
      let s := base.setBinding 0x20000 (some b)
      decide (s.binding 0x20000 = some b ∧ b.run = none ∧ b.waiting = none ∧ b.prog.length ≤ 64 ∧ 32 * 1 < b.vocab ∧ 1 ∉ b.ran ∧ Store.get 0 b.cur 1 = BitVec.allOnes 32 ∧
        ((b.ran.length + 1) * 32 < b.vocab ↔ x.1 = [0]) ∧ (x.1 = [0] ∨ isTileCore b.sampler = false) ∧ s.upsets = [] ∧ isHbm (0x20000 + 0x2F) = true)) = true ∧
    ([0, 15] : List Nat).all (fun n : Nat =>
      let b : Binding := { bindingOf none with waiting := some 5 }
      let s : State := { (filled 4 0 n base).setBinding 0x20000 (some b) with tick := 1029 }
      decide (s.binding 0x20000 = some b ∧ b.waiting = some 5 ∧ 5 + 1024 ≤ s.tick ∧ s.upsets = [] ∧ isTileCore b.sampler = true ∧ s.ownerOf b.sampler = some b.ctx.toNat ∧
        s.refuses (padKey b.sampler 0) = false ∧ b.part = false ∧ s.openPositions b.sampler = List.range' n (15 - n) ∧ isHbm (0x20000 + 0x2F) = true)) = true := by decide +kernel

/-! ## Requests, translation, registers, ownership -/

/-- A request of thread 0 for one part, at its home. -/
def homeReq (kind : ReqKind) (p : Part) : Req := reqOf base 9 0 kind [p]
def homeState (kind : ReqKind) (p : Part) (s : State) : State := let s := withReq (homeReq kind p) s; if isHbm p.key then served p s else s
def hbmPart (len : Nat) : Part := onePart (2 ^ 47 - len) 0x50000 1 len 0 0x11
def padPart : Part := onePart (3 * 2 ^ 46 + 0xFFFC) 0 0 4 0 0
/-- What makes part 0 of the request due at its home. -/
def dueNow (s : State) (r : Req) (p : Part) : Bool :=
  decide (s.req 9 = some r ∧ r.rid = 9 ∧ (∀ q ∈ s.net, q.rid = 9 → q = r) ∧ r.parts = [p] ∧ r.parts[0]? = some p ∧ r.st = .inflight ∧ s.mayArrive r 0 = true ∧
    s.homeReady p = true ∧ s.homeCheck r p = .ok)

theorem due_now {s : State} {r : Req} {p : Part} (h : dueNow s r p = true) : s.partDue 9 0 r p := by
  simp only [dueNow, decide_eq_true_eq] at h
  exact ⟨⟨h.1, h.2.1, h.2.2.1⟩, h.2.2.2.2.1, h.2.2.2.2.2.1, h.2.2.2.2.2.2.1, h.2.2.2.2.2.2.2.1, h.2.2.2.2.2.2.2.2⟩

theorem witness_RequestsAtHomes_homes :
    [(ReqKind.load, hbmPart 8), (.store, hbmPart 8), (.amo 0 5, hbmPart 4), (.amo 9 5, hbmPart 8), (.amoc 0 5, hbmPart 8), (.red 0 5, hbmPart 4), (.red 7 5, hbmPart 8)].all (fun x =>
      let s := homeState x.1 x.2 base
      dueNow s (homeReq x.1 x.2) x.2 && decide (x.2.key < fabricBase ∧ s.bad x.2.key x.2.len = false ∧ (s.thr 0).spec = none ∧ isHbm x.2.key = true ∧
        x.2.key + x.2.len ≤ 2 ^ 47 ∧ x.2.pte.getLsbD 10 = false ∧ s.mergeBad x.2.key x.2.len x.2.mask x.2.pte = false ∧ s.mergeBad x.2.key x.2.len (BitVec.allOnes 64) x.2.pte = false ∧ x.2.len ∈ [4, 8] ∧
        s.dueAtUnit (homeReq x.1 x.2) = true ∧ s.freePositions (redHome x.2.key) ≠ [] ∧ (s.port (redHome x.2.key)).reds = [])) = true ∧
    (let s := homeState (.red 0 5) (hbmPart 4) (filled (redHome (hbmPart 4).key) 0 15 base)
     dueNow s (homeReq (.red 0 5) (hbmPart 4)) (hbmPart 4) = true ∧ s.dueAtUnit (homeReq (.red 0 5) (hbmPart 4)) = true ∧ s.freePositions (redHome (hbmPart 4).key) = []) ∧
    [((31 : BitVec 6), true), (32, false)].all (fun x =>
      let s := homeState (.ldv 0) padPart (base.modTag (padPart.key / 4) fun t => { t with ver := x.1 })
      dueNow s (homeReq (.ldv 0) padPart) padPart && decide (isPad padPart.key = true ∧ s.bad padPart.key 4 = false ∧
        decide (((s.tag (padPart.key / 4)).ver - 0).toNat < 32) = x.2 ∧ (homeReq (.ldv 0) padPart).lcore = coreOfKey padPart.key)) = true ∧
    (let s := homeState .ldfe padPart (base.modTag (padPart.key / 4) fun t => { t with full := true })
     dueNow s (homeReq .ldfe padPart) padPart = true ∧ (s.tag (padPart.key / 4)).full = true ∧ ∀ q ∈ s.net, q.isParked = false) := by decide +kernel

/-- A ready result of thread 0, and one that has failed. -/
def pendOf (flags : Flags) (fail : Option Failure) : Pend := ⟨⟨0x100, 0x77, false, 1⟩, .value, none, true, [.s 5], [.s 5 9], flags, fail⟩
def ecc : Failure := ⟨0x10, 3, none, ⟨0x100, 0x77, false, 1⟩⟩

theorem witness_RequestsAtHomes_results :
    [pendOf 4 none, pendOf 0 none, pendOf 0 (some ecc)].all (fun p =>
      let s := onMe (fun t => { t with pend := [p] }) base
      decide ((s.thr 0).pend[0]? = some p ∧ landsNext (s.thr 0).pend p = true ∧ p.kind = .value ∧ p.ready = true ∧ p.rid.any s.answerOut = false ∧ (s.getWs 0).enabled p.flags = 0 ∧
        (s.thr 0).occ = true ∧ (s.thr 0).caller = none)) = true ∧ ecc.cause ≠ 0x02 ∧
    (let s := onMe (fun t => { t with held := [ecc] }) base
     s.dueToIssue 0 = true ∧ (s.thr 0).held = ecc :: [] ∧ (s.thr 0).trapped = false ∧ (s.thr 0).caller = none) ∧
    [1023, 1024].all (fun n =>
      let r := { homeReq .ldfe padPart with st := .refused, refusals := n }
      let s := withReq r (onMe (fun t => { t with pend := [{ pendOf 0 none with rid := some 9, ready := false }] }) base)
      decide (s.req 9 = some r ∧ r.rid = 9 ∧ (∀ q ∈ s.net, q.rid = 9 → q = r) ∧ r.isRefused = true ∧ s.answerOut 9 = false ∧ r.kind.retryCode = some 2 ∧ s.waitsFrozen r = false ∧
        (r.refusals < s.retryLimOf r ↔ n = 1023) ∧ (s.thr r.th).pend.any (fun q => q.rid = some 9) = true)) = true ∧
    (let r := { homeReq .load padPart with st := .drained 6 }
     let s := withReq r { base with tick := 1030 }
     s.req 9 = some r ∧ r.rid = 9 ∧ (∀ q ∈ s.net, q.rid = 9 → q = r) ∧ r.st = .drained 6 ∧ s.answerOut 9 = false ∧ s.waitsFrozen r = false ∧ 6 + 1024 ≤ s.tick) := by decide +kernel

theorem witness_RequestsAtHomes_no_call (p : Part) : (∀ l v e a w, (homeReq .ldfe p).kind ≠ .rcall l v e a w) ∧ ∀ l v e a w, (homeReq .load p).kind ≠ .rcall l v e a w := by
  constructor <;> intro l v e a w h <;> cases h

/-- A walk of page 5 for thread 0 at port core 32, and a fault posted for a stream of tile 0. -/
def walkState (leaf : Nat) : State :=
  (onMe (fun t => { t with walk := .waiting 5 }) (tabled 5 leaf base)).modPort 32 fun p => { p with walks := [⟨63, 0, 5, 0, [.thread 0], none, false⟩] }
def faultStreamOf : Stream := ⟨tdscCmd 20 3, 0, 0, 0, [], [], [], [], 0, 0, false, false, 0, some (5, 1), none⟩
def faultState (tick : Nat) : State :=
  { (base.modPort 32 fun p => { p with walks := [⟨63, 0, 5, 0, [.stream 0 3], some (1, 7), false⟩], fltq := [63] }).modTile 0 fun t =>
      { t with streams := [faultStreamOf] } with tick := tick }
/-- A store of `v` to a register of port core 32's page. -/
def regPart (port off : Nat) (v : BitVec 64) : Part := onePart (pageBase port + off) (BitVec.ofNat 64 (pageBase port + off)) 0 8 0 v.toNat
def regReq (port off : Nat) (v : BitVec 64) : Req := homeReq .store (regPart port off v)
def regState (port off : Nat) (v : BitVec 64) (s : State) : State := withReq (regReq port off v) s

theorem witness_TranslationAndOwnership_walks :
    ((walkState 0x40001).walkAt 32 63 = some ⟨63, 0, 5, 0, [.thread 0], none, false⟩ ∧ ((walkState 0x40001).thr 0).walk = .waiting 5 ∧
      ((walkState 0x40001).walkPage 0 5).toOption = some (0x40001, 4, 0x30028)) ∧
    ((walkState 0x40001).walkReads 0 5).find? (fun x => !(walkState 0x40001).memReady x.1 x.2 0) = some (0, 32) ∧
    [walkState 0x40001, walkState 0].all (fun s => let u := ((s.walkReads 0 5).map (·.1)).foldl (fun u k => withLine k u) s
      decide (∀ x ∈ u.walkReads 0 5, u.memReady x.1 x.2 0 = true)) = true ∧
    (match (walkState 0).walkPage 0 5 with | .error n => n == 1 | .ok _ => false) = true ∧
    (let s := faultState (7 + 1000 * Config.cyclesPerUs)
     s.faultAt 32 63 = some ⟨63, 0, 5, 0, [.stream 0 3], some (1, 7), false⟩ ∧ ((s.tile 0).streams.find? fun y => y.cmd.cid == 3) = some faultStreamOf ∧
       faultStreamOf.stall = some (5, 1) ∧ faultStreamOf.cmd.w.op ≠ 1 ∧ faultStreamOf.err = 0 ∧ 7 + 1000 * Config.cyclesPerUs ≤ s.tick) ∧
    [(2, BitVec.ofNat 64 (63 * 256 + 2)), (1, BitVec.ofNat 64 (63 * 256 + 1))].all (fun x =>
      let s := regState 32 0x30 x.2 (faultState 8)
      decide (isPort 32 = true ∧ s.pageStore 32 0x30 (fun v => getF v 0 2 == x.1 && getF v 8 6 == 63) = some (regReq 32 0x30 x.2, 0, regPart 32 0x30 x.2, x.2) ∧
        s.homeCheck (regReq 32 0x30 x.2) (regPart 32 0x30 x.2) = .ok)) = true := by decide +kernel

/-- A load of a register of port core 32's page. -/
def readReq (off : Nat) : Req := homeReq .load (regPart 32 off 0)

theorem witness_TranslationAndOwnership_registers :
    [0x48, 0x28].all (fun off =>
      let s := withReq (readReq off) (base.modPort 32 fun p => { p with errlog := [5, 6], fltq := [63] })
      dueNow s (readReq off) (regPart 32 off 0) && decide ((readReq off).kind = .load ∧ (regPart 32 off 0).len = 8 ∧ (s.thr 0).spec = none ∧ s.bad (regPart 32 off 0).key 8 = false ∧
        (regPart 32 off 0).key = pageBase 32 + off ∧ s.pageLoadDue 32 off = some (9, 0) ∧ (s.port 32).errlog = 5 :: [6] ∧ (s.port 32).dropped = 0 ∧
        (s.port 32).fltq = 63 :: [])) = true ∧
    [(0, BitVec.ofNat 64 (3 * 2 ^ 56 + 7 * 65536)), (1, BitVec.ofNat 64 (2 ^ 62 + 3 * 2 ^ 56))].all (fun x =>
      let s := regState 32 0x38 x.2 base
      decide ((s.port 32).tinv = none ∧ s.homeCheck (regReq 32 0x38 x.2) (regPart 32 0x38 x.2) = .ok ∧
        s.pageStore 32 0x38 (fun v => getF v 62 1 == x.1 && getF v 56 6 == 3 && (x.1 == 1 || getF v 16 32 == 7)) = some (regReq 32 0x38 x.2, 0, regPart 32 0x38 x.2, x.2) ∧
        getF x.2 62 1 = x.1 ∧ getF x.2 56 6 = 3 ∧ (x.1 = 0 → getF x.2 16 32 = 7))) = true ∧
    (let s := base.modPort 32 fun p => { p with tinv := some (3, false, 7) }
     (s.port 32).tinv = some (3, false, 7) ∧ s.tinvOpen 3 false 7 = false ∧ ∀ k ∈ s.tiles, k.2.streams = []) ∧
    [0x20, 0x40, 0x00, 0x08, 0x10].all (fun off =>
      let s := regState 32 off 0x5555 base
      decide (portOfGroup 0 = 32 ∧ isPort 32 = true ∧ stackOfPort 32 = some 27648 ∧ s.ordinaryOn 27648 = [] ∧
        s.pageStore 32 off (· == 0x5555) = some (regReq 32 off 0x5555, 0, regPart 32 off 0x5555, 0x5555) ∧
        s.homeCheck (regReq 32 off 0x5555) (regPart 32 off 0x5555) = .ok)) = true := by decide +kernel

/-- A store of context 3 to OWNER of tile `t`. -/
def ownPart (t : Nat) : Part := onePart (spaceKey t 4 0xFF00) (BitVec.ofNat 64 (spaceKey t 4 0xFF00)) 0 8 0 3
def ownReq (t : Nat) : Req := homeReq .owner (ownPart t)

theorem witness_TranslationAndOwnership_owners :
    [(0, false), (1, true)].all (fun x =>
      let s := withReq (ownReq x.1) base
      decide (Memory.wf s.mem = true ∧ s.ownerStore x.1 3 = some (ownReq x.1, 0, ownPart x.1) ∧ s.homeCheck (ownReq x.1) (ownPart x.1) = .ok ∧ s.tileFree x.1 = x.2 ∧
        offOf (ownPart x.1).key = 0xFF00 ∧ (ownPart x.1).mask.getLsbD 0 = true ∧ (3 : BitVec 64).setWidth 6 ≠ (s.tile x.1).ctx)) = true := by decide +kernel

/-! ## Tile commands -/

/-- A command of core q's role in tile 0, granted. -/
def cmdOf (q : Nat) (w : Nat) : Cmd := ⟨BitVec.ofNat 256 w, q, 3, q * 20, 0, 0, 0, q, 0, false, 0, 0, 1, none, true, 0, []⟩
/-- A descriptor. -/
def descOf (base_ rows cols pitch fmt anch expb : Nat) : BitVec 256 :=
  BitVec.ofNat 256 (expb * 2 ^ 212 + base_ * 2 ^ 144 + rows * 2 ^ 128 + cols * 2 ^ 112 + pitch * 2 ^ 88 + fmt * 2 ^ 84 + anch * 2 ^ 83)
/-- A channel's slice with the lines of the two keys on frame 5, those from the first and that of the second. -/
def warm (s : State) : State :=
  s.modPort (memPort 0x50000) fun q => { q with lines := ((List.range 8).map fun i => ⟨0x50000 / 128 + i, 3, 15, false, none, false, []⟩) ++ [⟨0x5FF80 / 128, 3, 15, false, none, false, []⟩] }
/-- Tile 0 with command c at the head of its queue, descriptors 1 to 3, and page 5 of context 0 at frame 5. -/
def engState (c : Cmd) (d1 d2 d3 : BitVec 256) : State :=
  withPage 5 1 5 ((warm base).modTile 0 fun t => { t with
    queues := modAt t.queues c.q fun _ => [c]
    desc := ((t.desc.set 1 d1).set 2 d2).set 3 d3 })
/-- Once it has left its queue. -/
def leftQueue (c : Cmd) (s : State) : State := s.modTile 0 fun x => { x with queues := modAt x.queues c.q fun l => l.drop 1 }
def headNow (s : State) (op : Nat) (c : Cmd) : Bool :=
  decide ((s.tile 0).queues.toList.getD c.q [] = [c] ∧ c.w.op = op ∧ s.mayStart 0 c = true)

/-- The pages that the start of a command of tile 0 looks at are translated. -/
def known (s : State) (c : Cmd) (l : List Nat) : Bool := l.all fun v => s.pageKnown 0 c v
/-- None is: the first of them is asked for. -/
def asked (s : State) (c : Cmd) (l : List Nat) : Bool :=
  let s := s.modTile 0 fun t => { t with tlb := [] }
  l == [] || (l.find? fun v => !s.pageKnown 0 c v).isSome

theorem heads_of {s : State} {op : Nat} {c : Cmd} (h : headNow s op c = true) : s.heads 0 c.q op c (leftQueue c s) := by
  simp only [headNow, decide_eq_true_eq] at h
  exact ⟨⟨[], h.1⟩, rfl, h.2.1, h.2.2, rfl⟩

def res0 (off : Nat) : Nat := spaceKey 0 1 off
def act0 (off : Nat) : Nat := spaceKey 0 2 off
def acc0 (off : Nat) : Nat := spaceKey 0 3 off

theorem witness_TileCommands_tdsc_czr :
    (let c := cmdOf 1 (0x0D * 2 ^ 248 + 15 * 2 ^ 70)
     headNow (engState c 0 0 0) 0x0D c = true ∧ c.barred (c.w.f 73 70) = false) ∧
    (let c := { cmdOf 1 (0x0D * 2 ^ 248 + 12 * 2 ^ 70) with cls := 2 }
     headNow (engState c 0 0 0) 0x0D c = true ∧ c.barred (c.w.f 73 70) = true) ∧
    (let c := cmdOf 3 (5 * 2 ^ 248 + 0x10000 * 2 ^ 128)
     headNow (engState c 0 0 0) 5 c = true ∧ c.crosses (c.w.f 79 64) (c.w.f 144 128) 0xE000 0x10000 = false ∧ c.w.f 144 128 % 16 = 0) ∧
    (let c := { cmdOf 3 (5 * 2 ^ 248 + 0x20 * 2 ^ 128 + 0xDFF0 * 2 ^ 64) with cls := 3 }
     headNow (engState c 0 0 0) 5 c = true ∧ c.crosses (c.w.f 79 64) (c.w.f 144 128) 0xE000 0x10000 = true) := by decide +kernel

/-- WLD, ALD and AST of two rows of 16 bytes between page 5 and a buffer; GTH and SCT of two table rows; CPY and FILL. -/
def shapedCmd (op : Nat) : Cmd := cmdOf 1 (op * 2 ^ 248 + 0x50000 * 2 ^ 144 + 64 * 2 ^ 120 + 1 * 2 ^ 116 + 2 * 2 ^ 112)
def shapedBuf (op : Nat) : Nat := if op = 2 then res0 0x3FFB0 else act0 0x1FFB0
def moveState (op rows : Nat) : State := engState (shapedCmd op) (descOf (shapedBuf op) rows 8 64 2 0 0) (descOf (act0 0) 1 2 64 7 0 0) 0
def cpyCmd (dst : Nat) : Cmd := cmdOf 1 (8 * 2 ^ 248 + act0 0 * 2 ^ 144 + dst * 2 ^ 80 + 72 * 2 ^ 20)
def fillCmd (dst : Nat) : Cmd := cmdOf 1 (0x0C * 2 ^ 248 + 0x1122334455667788 * 2 ^ 128 + dst * 2 ^ 80 + 72 * 2 ^ 20)

theorem witness_TileCommands_copies :
    [2, 3, 4].all (fun op => [0, 2].all fun rows =>
      let c := shapedCmd op
      let u := leftQueue c (moveState op rows)
      let d := (u.tile 0).getDesc (c.w.f 119 116)
      known (moveState op rows) c ((moveState op rows).shapedPages 0 c) && asked (moveState op rows) c ((moveState op rows).shapedPages 0 c) && headNow (moveState op rows) op c && decide ((u.shapedStatus 0 c d ≠ 0 ↔ rows = 0) ∧
        (rows = 2 → (u.movePieces 0 c (hintOf c.w 115) (.start c d 0 0) (shapedPieces c.w d)).2.2 = .fin))) = true ∧
    [9, 0x0A].all (fun op => [0, 2].all fun rows =>
      let c := shapedCmd op
      let u := leftQueue c (moveState op rows)
      let d := (u.tile 0).getDesc (c.w.f 119 116)
      let ix := (u.tile 0).getDesc (c.w.f 115 112)
      known (moveState op rows) c ((moveState op rows).rowPages 0 c) && asked (moveState op rows) c ((moveState op rows).rowPages 0 c) && headNow (moveState op rows) op c && decide ((u.tableStatus 0 c d ix ≠ 0 ↔ rows = 0) ∧
        (∀ k ∈ rowsOf d, u.indexBad ix k = false) ∧
        (rows = 2 → (u.movePieces 0 c none (.start c d ix 0) (u.tablePieces c.w d ix)).2.2 = .fin))) = true ∧
    [9, 0x0A].all (fun op =>
      let c := shapedCmd op
      let s := { moveState op 2 with upsets := [act0 0 / 8] }
      let u := leftQueue c s
      let d := (u.tile 0).getDesc (c.w.f 119 116)
      let ix := (u.tile 0).getDesc (c.w.f 115 112)
      let v := u.logUnc (dBase ix) c.ctx.toNat
      known s c (s.rowPages 0 c) && headNow s op c && decide (u.tableStatus 0 c d ix = 0 ∧ (∃ k ∈ rowsOf d, u.indexBad ix k = true) ∧
        (v.movePieces 0 c none { Stream.start c d ix 0 with err := 0x10 } (v.tablePieces c.w d ix)).2.2 = .fin)) = true ∧
    [(act0 0x1FFB0, 0), (act0 64, 6), (act0 0x1FFC0, 6), (acc0 0, 7)].all (fun x =>
      let c := cpyCmd x.1
      let s := engState c 0 0 0
      known s c (cpyPages c) && headNow s 8 c && decide ((leftQueue c s).cpyStatus 0 c = x.2 ∧ inTile 0 (c.w.f 191 144) = true ∧ inTile 0 x.1 = true ∧ s.upsets = [] ∧
        (x.2 = 0 → ((leftQueue c s).movePieces 0 c (hintOf c.w 79) (.start c 0 0 0) (cpyPieces c.w)).2.2 = .fin))) = true ∧
    [(act0 0x1FFB0, 0), (0x5FFB0, 0), (act0 0x1FFC0, 6), (acc0 0, 7)].all (fun x =>
      let c := fillCmd x.1
      let s := engState c 0 0 0
      known s c (fillPages c) && asked s c (fillPages c) && headNow s 0x0C c && decide ((leftQueue c s).fillStatus 0 c = x.2 ∧ (x.1 = act0 0x1FFB0 → inTile 0 x.1 = true) ∧ x.1 % 8 = 0 ∧
        (x.2 = 0 → ((leftQueue c s).movePieces 0 c none (.start c 0 0 0) (fillPieces c.w)).2.2 = .fin))) = true := by decide +kernel

/-- XFR of two rows into tile 1. -/
def xfrCmd : Cmd := cmdOf 1 (0x0B * 2 ^ 248 + spaceKey 1 2 0x1FFB0 * 2 ^ 144 + 64 * 2 ^ 120 + 1 * 2 ^ 116)
def xfrState (rows : Nat) : State := engState xfrCmd (descOf (act0 0) rows 8 64 2 0 0) 0 0

theorem witness_TileCommands_xfr :
    [0, 2].all (fun rows =>
      let c := xfrCmd
      let s := xfrState rows
      let u := leftQueue c s
      let d := (u.tile 0).getDesc (c.w.f 119 116)
      headNow s 0x0B c && decide ((u.xfrStatus 0 c d ≠ 0 ↔ rows = 0) ∧ s.upsets = [] ∧ (dRows d ≤ 1 ∨ rowBytes d ≤ c.w.f 143 120) ∧
        ∀ r < dRows d, u.peerStatus 0 c (c.w.f 191 144 + r * c.w.f 143 120) (rowBytes d) = none ∧ u.refuses (c.w.f 191 144 + r * c.w.f 143 120) = false)) = true := by
  decide +kernel

/-- CRD, SMX and CVT between descriptors 1 and 2; CLD of 2 sectors with descriptors 1 to 3. -/
def convCmd (op q : Nat) : Cmd := cmdOf q (op * 2 ^ 248 + 0x3F800000 * 2 ^ 160 + 1 * 2 ^ 124 + 2 * 2 ^ 120)
def crdState (anch rows : Nat) : State := engState (convCmd 6 2) (descOf (acc0 0) rows 2 32 1 anch 0) (descOf (act0 0) rows 2 4 2 0 0) 0
def smxState (rows : Nat) : State := engState (convCmd 0x0E 3) (descOf (acc0 0) rows 32 128 1 0 0) (descOf (acc0 0x2000) rows 2 8 1 0 0) 0
/-- Source BFP-8 with its exponents at page 5, destination F16. -/
def cvtState (rows : Nat) : State := engState (convCmd 7 2) (descOf (act0 0) rows 32 64 14 0 0x5000) (descOf (act0 0x1000) rows 32 64 2 0 0) 0
/-- To BFP-8: the exponents go to page 5. -/
def cvtState' (rows : Nat) : State := engState (convCmd 7 2) (descOf (act0 0) rows 32 128 1 0 0) (descOf (act0 0x1000) rows 32 64 14 0 0x5000) 0

theorem witness_TileCommands_conversions :
    [(0, 0), (0, 2), (1, 1)].all (fun x =>
      let c := convCmd 6 2
      let s := crdState x.1 x.2
      let u := leftQueue c s
      headNow s 6 c && decide ((State.crdStatus 0 c ((u.tile 0).getDesc (c.w.f 127 124)) ((u.tile 0).getDesc (c.w.f 123 120)) ≠ 0 ↔ x.2 = 0) ∧ s.upsets = [])) = true ∧
    [0, 1, 2].all (fun rows =>
      let c := convCmd 0x0E 3
      let s := smxState rows
      let u := leftQueue c s
      headNow s 0x0E c && decide ((State.smxStatus 0 c ((u.tile 0).getDesc (c.w.f 127 124)) ((u.tile 0).getDesc (c.w.f 123 120)) ≠ 0 ↔ rows = 0) ∧ s.upsets = [])) = true ∧
    [(cvtState 0, 6), (cvtState 2, 0), (cvtState' 2, 0)].all (fun x =>
      let c := convCmd 7 2
      let u := leftQueue c x.1
      let S := (u.tile 0).getDesc (c.w.f 127 124)
      let D := (u.tile 0).getDesc (c.w.f 123 120)
      let waits (u : State) : List (Nat × BitVec 64) := u.planeWaits 0 c false (expAddrs S) ++ u.planeWaits 0 c true (expAddrs D)
      let cold := x.1.modPort (memPort (5 * 65536)) fun p => { p with lines := [] }
      let r := u.readExps 0 c (expAddrs S)
      [x.1, cold].all (fun s => known s c (s.cvtPages 0 c) && asked s c (s.cvtPages 0 c) && headNow s 7 c && decide ((leftQueue c s).cvtStatus 0 c S D = x.2)) &&
        decide (x.2 = 0 → waits (leftQueue c cold) ≠ [] ∧ waits u = [] ∧ r.2.2 = .fin ∧ r.1.expsWritable 0 c (expAddrs D) = .fin)) = true ∧
    isBfp (dFmt (descOf (act0 0x1000) 2 32 64 2 0 0)) = false := by decide +kernel

/-- A stream of 2 sectors at 0x50000, of F16 rows of 8 elements 16 bytes apart, into FAST or ANCHORED rows of 2. -/
def cldCmd (anch : Nat) : Cmd := cmdOf 3 (1 * 2 ^ 248 + 0x50000 * 2 ^ 144 + 2 * 2 ^ 128 + 1 * 2 ^ 124 + 2 * 2 ^ 120 + 3 * 2 ^ 116 + 2 * 2 ^ 112 + anch * 2 ^ 111)
def cldState (anch rows : Nat) : State :=
  engState (cldCmd anch) (descOf 0x50000 rows 8 16 2 0 0) (descOf (res0 0) 8 2 4 2 0 0) (descOf (acc0 0) 2 2 32 1 anch 0)

theorem witness_TileCommands_cld :
    [(0, 4), (1, 4), (0, 0)].all (fun x =>
      let c := cldCmd x.1
      let s := cldState x.1 x.2
      let y := (leftQueue c s).tile 0
      headNow s 1 c && decide (State.cldStatus 0 c (y.getDesc (c.w.f 127 124)) (y.getDesc (c.w.f 123 120)) (y.getDesc (c.w.f 119 116)) ≠ 0 ↔ x.2 = 0)) = true := by
  decide +kernel

/-- Page tables at 0 that map pages 16 to 27 of context 0 to the frames 16 to 27, pinned. -/
def areaTables (s : State) : State := (List.range' 16 12).foldl (fun s v => tabled v (0x101 + v * 65536) s) s
def areaFrames0 : List Nat := List.range' 16 12
def saveCmd (op n : Nat) : Cmd := cmdOf 1 (op * 2 ^ 248 + 0x100000 * 2 ^ 144 + n * 2 ^ 128)
def savedState (op : Nat) (valid : Bool) : State :=
  let s := areaTables ((engState (saveCmd op 1) 0 0 0).modTile 1 fun t => { t with drain := .drained, ctx := 5 })
  { (if valid then s.wrN 0x100000 8 (2 ^ 63 + 5 * 2 ^ 32 + 1) else s) with saves := [s.snapshot 1 areaFrames0] }

theorem witness_TileCommands_saves :
    (let c := saveCmd 0x10 1
     let s := savedState 0x10 false
     headNow s 0x10 c = true ∧ (leftQueue c s).saveStart 0 c .store = some (1, areaFrames0) ∧ s.tileBad 1 = false ∧ { s with upsets := [spaceKey 1 2 0 / 8] }.tileBad 1 = true) ∧
    (let c := saveCmd 0x10 0
     let s := engState c 0 0 0
     headNow s 0x10 c = true ∧ (leftQueue c s).saveStart 0 c .store = none) ∧
    (let c := saveCmd 0x11 1
     let s := savedState 0x11 true
     headNow s 0x11 c = true ∧ (leftQueue c s).saveStart 0 c .load = some (1, areaFrames0) ∧ ((leftQueue c s).validSave 1 areaFrames0).isSome = true ∧
       s.areaBad areaFrames0 = false ∧ { s with upsets := [0x100000 / 8] }.areaBad areaFrames0 = true ∧
       (∀ x ∈ s.saves, Memory.wf x.mem = true ∧ Store.wf Thread.none x.threads = true)) ∧
    (let s := savedState 0x11 false
     (leftQueue (saveCmd 0x11 1) s).validSave 1 areaFrames0 = none) := by decide +kernel

/-- A command of queue 1 that is done, with a barrier object at 0x50010 or none, to the event queue or not. -/
def doneCmd (bar : Nat) (evq st : Nat) : Finished := ⟨cmdOf 1 (0x0C * 2 ^ 248 + bar * 2 ^ 192 + evq * 2 ^ 16 + 0xABCD), BitVec.ofNat 8 st, 7, true, false⟩
def doneState (f : Finished) : State := withPage 5 1 5 ((warm base).modTile 0 fun t => { t with finished := [f] })

theorem witness_TileCommands_posts :
    [0, 1].all (fun evq =>
      let f := doneCmd 0 evq 0
      let s := doneState f
      decide (((s.tile 0).finished.filter fun f => f.cmd.q == 1)[0]? = some f ∧ (s.tile 0).purge = false ∧ (s.tile 0).purgeQ3 = false ∧ f.cmd.w.bar = 0 ∧
        f.cmd.toEvq = (evq == 1))) = true ∧
    (let f := doneCmd 0x5001 0 5
     let s := (doneState f).modTile 0 fun t => { t with tlb := [] }
     f.cmd.w.bar < 2 ^ 47 ∧ s.pageKnown 0 f.cmd (f.cmd.w.bar / 65536) = false ∧ (s.tile 0).finished[0]? = some f) ∧
    (let f := doneCmd 0x5001 0 5
     let s := doneState f
     s.pageKnown 0 f.cmd (f.cmd.w.bar / 65536) = true) ∧
    (let f := doneCmd 0x5001 0 5
     let s := doneState f
     let p : Part := ⟨0x50010, 0x50010, 16, 0, 0xFFFF, 1, 0, false⟩
     ((s.tile 0).finished.filter fun f => f.cmd.q == 1)[0]? = some f ∧ f.cmd.w.bar ≠ 0 ∧ barrierBits f.status.toNat f.ovf f.inv ≠ 0 ∧
       s.engTarget 0 f.cmd f.cmd.w.bar 16 true = .at_ 0x50010 1 ∧ isHbm 0x50010 = true ∧ 0x50010 + 16 ≤ 2 ^ 47 ∧ 0x50010 % 16 = 0 ∧
       (1 : BitVec 64).getLsbD 10 = false ∧ s.bad (0x50010 + 12) 4 = false ∧ s.frameHeld 0x50010 = false ∧ s.mergeBad 0x5001C 4 0xF 1 = false ∧ s.memReady 0x50010 16 1 = true ∧ (∀ j < 4, fixedBits (0x5001C + j) = 0) ∧ s.homeCheck (f.cmd.req p) p = .ok) ∧
    (let f := doneCmd (acc0 0 / 16 - acc0 0 / 16 + 0xC0000000FFF) 0 5
     let s := doneState f
     s.engTarget 0 f.cmd f.cmd.w.bar 16 true = .at_ 0xC0000000FFF0 0 ∧ isPad 0xC0000000FFF0 = true) := by decide +kernel

/-- The stream of the contracting load in flight, sector 0 issued. -/
def cldStream (anch : Nat) (done : Nat) (counted : List Nat) : Stream :=
  { Stream.start (cldCmd anch) (descOf 0x50000 4 8 16 2 0 0) (descOf (res0 0) 8 2 4 2 0 0) (descOf (acc0 0) 2 2 32 1 anch 0) with
    pages := [(5, 0x50000, 1)], done := done, counted := counted }
def streamState (y : Stream) : State := withPage 5 1 5 ((warm base).modTile 0 fun t => { t with streams := [y] })

theorem witness_ContractingLoads :
    (let y := cldStream 0 0 []
     let s := streamState y
     (s.tile 0).streams[0]? = some y ∧ y.cmd.w.op = 1 ∧ y.stall = none ∧ 1 < y.live ∧ (∀ x ∈ y.got, x.1 ≠ 1 + 1) ∧ (s.issueTo 0 1 2 y).2.2 = .fin) ∧
    [0, 1].all (fun anch => [(0, [1]), (1, [])].all fun x =>
      let y := cldStream anch 2 x.2
      let s := streamState y
      let sec := x.1
      decide ((s.tile 0).streams[0]? = some y ∧ y.stall = none ∧ y.stop = none ∧ y.err = 0 ∧ sec < y.len ∧ sec < y.done ∧ sec ∉ y.counted ∧
        (∀ g ∈ y.got, g.1 ≠ sec + 1 ∧ g.1 ≠ sec + 2 ∧ g.2.2 = 0) ∧ y.straddles sec = false ∧ s.upsets = [] ∧
        State.cldStatus 0 y.cmd y.sdx y.rdx y.adx = 0 ∧ (s.streamRead 0 y (y.at_ sec) 32 (hintOf y.cmd.w 110)).2 = .data 0 0 ∧ dAnch y.adx = (anch == 1) ∧
        (x.2 = [1] → ∀ i < y.len, i = sec ∨ i ∈ y.counted))) = true := by decide +kernel

/-- A stream of BFP-7 whose element of sector 1 begins in sector 0, which has been read. -/
theorem witness_ContractingLoads_straddle :
    (let y : Stream := { Stream.start (cmdOf 3 (1 * 2 ^ 248 + 0x50000 * 2 ^ 144 + 2 * 2 ^ 128)) (descOf 0x50000 1 64 64 13 0 0x5100) 0 0 with
       got := [(1, 0, 0)] }
     y.straddles 1 = true ∧ (1 : Nat) ≠ 0 ∧ ∃ g ∈ y.got, g.1 = 1) := by decide +kernel

/-! ## Dispatch, recovery and boot -/

/-- With a peer's message alone in the inbox of port n of a die. -/
def brought (die n : Nat) (m : PeerMsg) (s : State) : State := s.modLink (40 + 4 * die + n) fun x => { x with inbox := [m] }
def isBrought (s : State) (die n : Nat) (m : PeerMsg) : Bool :=
  decide (n < 4 ∧ (s.link (40 + 4 * die + n)).inbox.head? = some m ∧ ∀ j < n, (s.link (40 + 4 * die + j)).inbox.head? ≠ some m)

theorem brings_of {s : State} {die n : Nat} {m : PeerMsg} (h : isBrought s die n m = true) :
    s.brings die m (s.modLink (40 + 4 * die + n) fun x => { x with inbox := x.inbox.drop 1 }) := by
  simp only [isBrought, decide_eq_true_eq] at h
  exact ⟨n, h.1, h.2.1, h.2.2, rfl⟩

/-- The device ready; an image at 0x10000 (page 1 of context 0, frame 4) whose entry is at +64. -/
def readyState : State :=
  let s := { tabled 1 0x40001 State.reset with dawn := ⟨5, 0, [], [], 0, 0x800, [], 0, []⟩ }
  ((((s.wrN 0x40000 4 0x4C52494D).wrN 0x40004 4 0x10001).wrN 0x40008 8 64).wrN 0x40010 8 (64 + 64 * 2 ^ 32)).wrN 0x40018 8 128
/-- A header: LAUNCHID, class, list flag, COUNT, LO, HI and a reserved part. -/
def hdrOf (lid cls list count lo hi resv : Nat) : BitVec 512 :=
  BitVec.ofNat 512 (0x10000 + lid * 2 ^ 128 + cls * 2 ^ 288 + list * 2 ^ 296 + count * 2 ^ 304 + lo * 2 ^ 320 + hi * 2 ^ 352 + resv * 2 ^ 384)
/-- A launch of the class on the tiles, queued on die 0. -/
def launchOn (lid : BitVec 32) (cls : BitVec 2) (tiles : List Nat) (dataLen : Nat) : Launch :=
  ⟨lid, 0, 3, 0, cls, [0, 0, 0, 0], 9, 0x10040, 0x10080, dataLen, tiles, .queued, tiles, 0, false⟩
def queued (l : List Launch) (s : State) : State :=
  ({ s with launches := s.launches ++ l } : State).modDie 0 fun d => { d with queue := l.map fun x => x.lid }

theorem witness_launches : (∀ n < 4, (readyState.link (40 + n)).inbox.head? ≠ some (.launch 0 0 3 (hdrOf 7 3 0 0 1 2 0) [])) ∧
    [(0, 0), (5, 3)].all (fun x => isBrought (brought x.1 x.2 (.launch 7 15 3 (hdrOf 7 3 0 0 1 2 0) []) readyState) x.1 x.2 (.launch 7 15 3 (hdrOf 7 3 0 0 1 2 0) [])) = true ∧
    readyState.dawn.stage = 5 ∧ readyState.dawn.hold = 0 ∧ getF (hdrOf 7 0 0 0 0 0 1) 384 128 ≠ 0 ∧
    (match readyState.launchOf 0 3 (hdrOf 7 0 0 0 1 1024 0) [] with | .error e => e == (5, 0xFFFE) | .ok _ => false) = true ∧
    (readyState.launchOf 0 3 (hdrOf 7 3 0 0 1 2 0) []).toOption = some ⟨7, 0, 3, 0, 3, [0, 0, 0, 0], 0, 0x10040, 0x10080, 0, [1, 2], .queued, [1, 2], 0, false⟩ ∧
    [(0, 0, 1), (7, 1, 2)].all (fun x => let h := hdrOf x.1 0 x.2.1 x.2.2 0 0 0
      decide (getF h 384 128 = 0 ∧ getF h 317 3 = 0 ∧ getF h 297 7 = 0 ∧ getF h 320 64 = 0)) = true ∧
    BitVec.ofNat 32 (getF (hdrOf 0 0 0 0 0 0 0) 128 32) = (0 : BitVec 32) ∧ BitVec.ofNat 32 (getF (hdrOf 7 0 1 2 0 0 0) 128 32) = (7 : BitVec 32) ∧
    (∀ x ∈ readyState.launches, x.lid ≠ 7) ∧ ((queued [launchOn 7 0 [1] 0] readyState).launches.any fun x => x.lid == 7) = true ∧
    getF (hdrOf 7 0 1 2 0 0 0) 296 1 = 1 ∧ 1 < getF (hdrOf 7 0 1 2 0 0 0) 304 13 ∧ ([6143, 6144] : List (BitVec 32))[1]? = some 6144 ∧ 6143 < (6144 : BitVec 32).toNat ∧
    ([6143, 6144] : List (BitVec 32))[0]? = some 6143 := by decide +kernel

/-- Tile 1 with a task of launch 5, of class 2, in position 0. -/
def busyTile (cls : BitVec 2) (s : State) : State :=
  { (s.modTile 1 fun t => { t with tasks := [5] }).setThr 80 { Thread.none with occ := true, lid := 5, cls := cls, root := 1 } with
    launches := { launchOn 5 cls [1] 0 with phase := .running } :: s.launches }

theorem witness_dispatch :
    [(0 : BitVec 2), 1, 2, 3].all (fun c =>
      let x := launchOn 7 c [6143, 0] 0
      let s := queued [x] State.reset
      decide ((∀ b ∈ ([0, 1, 2] : List (BitVec 2)), b < c → s.classHead 0 b = none) ∧ s.classHead 0 c = some x ∧ (∀ t ∈ x.tiles, s.tileFree t = true) ∧ x.dataLen = 0 ∧ x.tiles.Nodup)) = true ∧
    (let x := launchOn 7 0 [1] 0
     let y := launchOn 8 3 [2] 0
     let s := queued [x, y] (busyTile 1 State.reset)
     s.classHead 0 0 = some x ∧ s.tileFree 1 = false ∧ 1 ∈ x.tiles ∧ s.mayPreempt x.lid 1 = false ∧ s.classHead 0 1 = none ∧ s.classHead 0 2 = none ∧ s.classHead 0 3 = some y) ∧
    (let x := launchOn 7 0 [1] 64
     let s := queued [x] (busyTile 2 State.reset)
     s.classHead 0 0 = some x ∧ s.tileFree 1 = false ∧ x.dataLen ≠ 0) ∧
    (let x := launchOn 7 0 [1, 2] 0
     let s := queued [x] (busyTile 2 State.reset)
     s.classHead 0 0 = some x ∧ s.tileFree 1 = false ∧ x.dataLen = 0 ∧ (∀ t ∈ x.tiles, s.mayPreempt x.lid t = true) ∧ x.tiles.Nodup ∧
       s.partPlace (lcoreOfT 1 0) x.lid = some (16, 1) ∧ s.partPlace (lcoreOfT 2 0) x.lid = some (16, 0)) ∧
    (let s := queued [launchOn 7 0 [1] 0] (filled 4 1 15 (busyTile 3 State.reset))
     s.partPlace 4 7 = some (16, 0)) := by decide +kernel

/-- Launch 5 runs on tiles `left`; the task of tile 1 has no thread left. -/
def retireState (left : List Nat) : State :=
  { State.reset.modTile 1 (fun t => { t with tasks := [5] }) with launches := [{ launchOn 5 1 [1, 2] 0 with phase := .running, left := left }] }

theorem witness_retirement :
    [[1], [1, 2]].all (fun left =>
      let s := retireState left
      decide ((s.launches.find? fun x => x.lid == BitVec.ofNat 32 5 && x.phase == .running && x.left.contains 1) = some { launchOn 5 1 [1, 2] 0 with phase := .running, left := left } ∧
        s.mayRetire (BitVec.ofNat 32 5) 1 = true)) = true ∧
    (let s := State.reset.setThr 96 { Thread.none with occ := true, part := true }
     96 ∈ s.threadsOn 4 ∧ (s.thr 96).part = true) ∧
    (let s := State.reset.setThr 80 { Thread.none with occ := true, pfrz := true }
     s.threadsOn 4 = [80] ∧ ∀ k ∈ s.threadsOn 4, (s.thr k).part = false) := by decide +kernel

/-- Tile 1 drains for thread 15's DUSK at place 6, and thread 35's at place 2; a request of its own waits at tile 2, one of tile 2's at it. -/
def duskPend (seq : Nat) : Pend := ⟨⟨0x100, 0x77, false, seq⟩, .value, none, false, [.s 3], [.s 3 0], 0, none⟩
def drainingState : State :=
  let p := fun l => onePart (padKey l 0xA000) 0 0 4 0 0
  let mine : Req := { reqOf base 20 80 .ldfe [p 8] with st := .parked 1 }
  let other : Req := { reqOf base 21 160 .ldfe [p 4] with st := .parked 2 }
  let s := (super.modTile 1 fun t => { t with drain := .draining [(15, 6), (35, 2)] }).modMe fun t => { t with pend := [duskPend 6] }
  { (s.setThr 80 { Thread.none with occ := true, sfrz := true, stopped := true }).setThr 35 { Thread.none with occ := true, pos := 15, kind := .super, pend := [duskPend 2] } with
    net := [mine, other] }

theorem witness_drain : let s := drainingState
    (s.tile 1).drain = .draining [(15, 6), (35, 2)] ∧ (s.tile 1).streams = [] ∧ (s.tile 1).finished = [] ∧ s.net.any (s.onItsWay 1) = false ∧ s.answersOut 1 = false ∧
    s.supersDone 1 = true ∧ s.allStopped 1 = true ∧ (s.thr 15).pend = [duskPend 6] ∧ (s.thr 35).pend = [duskPend 2] ∧
    s.net.map (fun r => (r.isParked, ofTile 1 r.lcore, ofTile 1 r.homeCore, r.parts.isEmpty)) = [(true, true, false, false), (true, false, true, false)] := by decide +kernel

/-- An LCMW of tile 1 to a slot, at the map. -/
def mapPart : Part := onePart (padKey 32 0 + 5 * 2 ^ 26) 0 0 2 0 0
def mapState (slot : Nat) (d : Drain) : State := withReq (homeReq (.lcmw 1 slot) mapPart) ((held9 base).modTile 1 fun t => { t with drain := d })

theorem witness_map :
    [(129, Drain.drained, 0), (1, .drained, 0), (130, .drained, 1), (0, .drained, 2), (129, .no, 3)].all (fun x =>
      let s := mapState x.1 x.2.1
      dueNow s (homeReq (.lcmw 1 x.1) mapPart) mapPart && s.holds (homeReq (.lcmw 1 x.1) mapPart) && decide (mapPart.key < fabricBase ∧ s.fenced.contains (sgKeyOfT 1 * 256 + x.1) = false ∧
        ((x.2.2 = 0 ↔ (x.1 ≤ 129 ∧ (s.tile 1).drain = .drained ∧ s.slotTaken 1 x.1 = false)) ∧ (x.2.2 = 1 ↔ 129 < x.1) ∧ (x.2.2 = 2 ↔ s.slotTaken 1 x.1 = true) ∧
          (x.2.2 = 3 ↔ (s.tile 1).drain ≠ .drained)))) = true ∧ (mapState 129 .drained).slotOf 1 ≠ 129 ∧ ofTile 1 0 = false ∧ coreOfTh 0 = 0 := by decide +kernel

/-- Core 4 of tile 1 under scan, for thread 15's SCAN at place 6. -/
def scanOf (block : Nat) (result : Option (BitVec 64)) (aborted : Bool) : ScanSt := ⟨4, 1, block, 1000, result, aborted, 15, 6⟩
def scanState (x : ScanSt) (tick : Nat) : State := { base.modTile 1 fun t => { t with drain := .drained, scan := some x } with tick := tick }

theorem witness_scan :
    [62, 63].all (fun b =>
      let s := scanState (scanOf b none false) (1000 + (b + 1) * 6250)
      decide ((s.tile 1).scan = some (scanOf b none false) ∧ (scanOf b none false).result = none ∧ s.tick ≥ 1000 + (b + 1) * 6250 ∧
        (s.port (portOf (lcoreOfT 1 0))).errlog.length < 64)) = true ∧
    (let s := queued [launchOn 7 0 [1] 0] (scanState (scanOf 5 none false) 2000)
     (s.tile 1).scan = some (scanOf 5 none false) ∧ s.urgent 1 = true) ∧
    [false, true].all (fun a => decide (((scanState (scanOf 5 (some 1) a) 2000).tile 1).scan = some (scanOf 5 (some 1) a))) = true ∧
    ofTile 1 (coreOfTh 15) = false ∧ 4 * 20 + 15 ≠ 15 := by decide +kernel

/-- Supergroup 47 with a last reading of `pred`. -/
def wornState (pred : BitVec 16) : State := { State.reset with wear := [(47, { WearSt.zero with pred := pred })] }

theorem witness_wear_hours (t : Nat) : min (t / (16 * hourCycles)) 0xFFFF + 1 ≠ min (t / (16 * hourCycles)) 0xFFFF ∧ (47 : Nat) < 48 := ⟨by omega, by decide⟩

theorem witness_wear (t : Nat) (h : 24 * hourCycles ≤ t) :
    (let w := Store.get WearSt.zero ({ wornState 6 with tick := t } : State).wear 47
     t ≥ w.at_ + 24 * hourCycles ∧ 6 ≤ w.pred.toNat ∧ (({ wornState 6 with tick := t } : State).port (portOfGroup (47 * 16))).errlog.length < 64) ∧
    t ≥ (Store.get WearSt.zero ({ State.reset with tick := t } : State).wear 47).at_ + 24 * hourCycles := by
  have h1 : Store.get WearSt.zero (wornState 6).wear 47 = { WearSt.zero with pred := 6 } := by decide +kernel
  have h2 : Store.get WearSt.zero State.reset.wear 47 = WearSt.zero := by decide +kernel
  have h3 : ((wornState 6).port (portOfGroup (47 * 16))).errlog.length < 64 := by decide +kernel
  refine ⟨⟨?_, ?_, h3⟩, ?_⟩
  · show t ≥ (Store.get WearSt.zero (wornState 6).wear 47).at_ + _
    rw [h1]; exact Nat.le_trans (Nat.le_of_eq (Nat.zero_add _)) h
  · show 6 ≤ (Store.get WearSt.zero (wornState 6).wear 47).pred.toNat
    rw [h1]; decide
  · show t ≥ (Store.get WearSt.zero State.reset.wear 47).at_ + _
    rw [h2]; exact Nat.le_trans (Nat.le_of_eq (Nat.zero_add _)) h

theorem witness_dawn :
    State.reset.dawn.hold = 0 ∧ State.reset.dawn.stage = 1 ∧
    (let s := { State.reset with dawn := ⟨4, 0, [], [], 0, 0, [], 0, []⟩ }
     s.dawn.hold = 0 ∧ s.dawn.stage = 4 ∧ 4 ≤ s.dawn.stage) ∧
    (let s := brought 0 3 (.firmware [1] [2] [3] [4] [5] 6 0x800) { State.reset with dawn := ⟨2, 0, [], [], 0, 0, [], 0, []⟩ }
     s.dawn.stage = 2 ∧ isBrought s 0 3 (.firmware [1] [2] [3] [4] [5] 6 0x800) = true) ∧
    (let s := brought 0 0 (.firmware [1] [2] [3] [4] [5] 6 0x800) { State.reset with dawn := ⟨3, 4, [], [], 0, 0, [], 0, []⟩ }
     s.dawn.hold ≠ 0 ∧ isBrought s 0 0 (.firmware [1] [2] [3] [4] [5] 6 0x800) = true) ∧ (List.replicate 48 (0 : BitVec 8)).length = 48 ∧ (List.replicate 32 (0 : BitVec 8)).length = 32 := by decide +kernel

/-- Keys, signatures and versions are checked by functions that no proof can see into: whatever they answer, an image meets
one of the cases. -/
theorem witness_images (image sigR sigS keyR keyS : List (BitVec 8)) (secVer : Nat) :
    ¬(Config.sha384 keyR = Config.fusedKeyR ∧ Config.rsaVerify keyR (Config.sha384 image).toList sigR = true) ∨
    ¬(Config.sha384 keyS = Config.fusedKeyS ∧ Config.slhVerify keyS (Config.sha384 image).toList sigS = true) ∨ secVer < Config.fusedMinVersion ∨
    ((Config.sha384 keyR = Config.fusedKeyR ∧ Config.rsaVerify keyR (Config.sha384 image).toList sigR = true) ∧
      (Config.sha384 keyS = Config.fusedKeyS ∧ Config.slhVerify keyS (Config.sha384 image).toList sigS = true) ∧ Config.fusedMinVersion ≤ secVer) := by
  by_cases h1 : Config.sha384 keyR = Config.fusedKeyR ∧ Config.rsaVerify keyR (Config.sha384 image).toList sigR = true
  · by_cases h2 : Config.sha384 keyS = Config.fusedKeyS ∧ Config.slhVerify keyS (Config.sha384 image).toList sigS = true
    · by_cases h3 : secVer < Config.fusedMinVersion
      · exact .inr (.inr (.inl h3))
      · exact .inr (.inr (.inr ⟨h1, h2, by omega⟩))
    · exact .inr (.inl h2)
  · exact .inl h1

/-! ## Collectives, controllers, the fabric and the links -/

/-- A store to a unit's register, whose bundle is held for it: TREELD of slot 3 from VA 0x10000, CLGO of a block there. -/
def unitReq (off : Nat) (v : BitVec 64) : Req := homeReq .page (regPart 32 off v)
def unitState (off : Nat) (v : BitVec 64) (s : State) : State := withReq (unitReq off v) (s.modThr 0 fun t => { t with occ := true, park := .held 9 0 Workspace.zero })
def treeV : BitVec 64 := BitVec.ofNat 64 (3 * 2 ^ 48 + 0x10000)
/-- A table of 2 participants, this one the second; `p1` is its parent. -/
def treeMem (p1 : Nat) : State := ((tabled 1 0x40001 base).wrN 0x40000 8 (2 + 1 * 2 ^ 16)).wrN 0x40008 8 (0xFFFF + p1 * 2 ^ 32)
/-- A block: SRC, DST, 64 bytes, slot 3, OP 1, DONE; slot 3 holds the table. -/
def blockMem (src : Nat) : State :=
  ((((tabled 1 0x40001 base).wrN 0x40000 8 src).wrN 0x40008 8 (padKey 32 0xC000)).wrN 0x40010 16 (64 + 3 * 2 ^ 32 + 2 ^ 40 + padKey 32 0xD000 * 2 ^ 64)).modDie 0 fun d =>
    { d with trees := [(3, [0x10002, 0xFFFF, 0])] }
def collOf (waiting : List Nat) (early : List (Nat × List Byte)) (failed : Bool) : Coll :=
  ⟨3, 1, 0, BitVec.ofNat 64 (padKey 32 0xC000), 64, BitVec.ofNat 64 (padKey 32 0xD000), 0, List.replicate 64 1, waiting, early, none, failed⟩
def collState (c : Coll) : State := State.reset.modDie 0 fun d => { d with colls := [c], trees := [(3, [0x10002, 0xFFFF, 0])] }
/-- The same at the root. -/
def rootState (c : Coll) : State := State.reset.modDie 0 fun d => { d with colls := [c], trees := [(3, [0x2, 0xFFFF, 0])] }

theorem witness_trees :
    (unitPort 0 = 32 ∧ [treeMem 0, treeMem 1].all fun m =>
      let s := unitState 0x60 treeV m
      decide (s.pageStore (unitPort 0) 0x60 (· == treeV) = some (unitReq 0x60 treeV, 0, regPart 32 0x60 treeV, treeV) ∧ s.homeCheck (unitReq 0x60 treeV) (regPart 32 0x60 treeV) = .ok ∧
        (unitReq 0x60 treeV).kind = .page ∧ s.holds (unitReq 0x60 treeV) = true ∧ ∀ c ∈ (s.die 0).colls, c.slot ≠ getF treeV 48 4)) ∧
    ((unitState 0x60 treeV (treeMem 0)).readTree (unitPort 0) (getF treeV 3 45 * 8)).toOption = some [0x10002, 0xFFFF, 0] ∧
    (match (unitState 0x60 treeV (treeMem 1)).readTree (unitPort 0) (getF treeV 3 45 * 8) with | .error e => e == (cTreeBad, 1, 0x10000) | .ok _ => false) = true ∧
    [(0x10000, 0), (0x10010, 0), (0x10000, 1)].all (fun x =>
      let v := BitVec.ofNat 64 x.1
      let s := unitState 0x68 v (blockMem x.2)
      decide (s.pageStore (unitPort 0) 0x68 (· == v) = some (unitReq 0x68 v, 0, regPart 32 0x68 v, v) ∧ s.homeCheck (unitReq 0x68 v) (regPart 32 0x68 v) = .ok ∧
        (unitReq 0x68 v).kind = .page ∧ s.holds (unitReq 0x68 v) = true ∧ (s.die 0).colls.length < 8 ∧ (v.toNat % 32 ≠ 0 ↔ x.1 = 0x10010) ∧
        (x.1 = 0x10000 → (s.unitRead (unitPort 0) v.toNat 8 4).toOption = some [x.2, padKey 32 0xC000, 64 + 3 * 2 ^ 32 + 2 ^ 40, padKey 32 0xD000]) ∧
        (blockBad [x.2, padKey 32 0xC000, 64 + 3 * 2 ^ 32 + 2 ^ 40, padKey 32 0xD000] = (x.2 == 1)) ∧
        ((s.die 0).trees.find? fun t => t.1 == 3) = some (3, [0x10002, 0xFFFF, 0]))) = true := by decide +kernel

theorem witness_busy_collectives :
    (let v := BitVec.ofNat 64 0x10000
     let s := (unitState 0x68 v (blockMem 0)).modDie 0 fun d => { d with colls := List.replicate 8 (collOf [] [] false) }
     s.pageStore (unitPort 0) 0x68 (· == v) = some (unitReq 0x68 v, 0, regPart 32 0x68 v, v) ∧ s.homeCheck (unitReq 0x68 v) (regPart 32 0x68 v) = .ok ∧
       (unitReq 0x68 v).kind = .page ∧ s.holds (unitReq 0x68 v) = true ∧ 8 ≤ (s.die 0).colls.length) ∧
    treeChildren [0x10002, 0xFFFF, 0] = [] ∧ treeSelf [0x10002, 0xFFFF, 0] ≠ 0 := by decide +kernel

/-- A participant's value of n bytes, come at port 3 of die 0. -/
def valueOf (child n : Nat) : PeerMsg := .value 0 child (List.replicate n 2)

theorem witness_collective_values :
    [(collState (collOf [1, 2] [] false), 1, 64), (collState (collOf [1] [] false), 1, 64), (collState (collOf [1, 2] [] false), 2, 64), (collState (collOf [1, 2] [] false), 2, 63),
      (collState (collOf [] [] false), 0, 64), (rootState (collOf [1] [] false), 1, 64)].all (fun x =>
      let s := brought 0 3 (valueOf x.2.1 x.2.2) x.1
      isBrought s 0 3 (valueOf x.2.1 x.2.2) && decide ((s.die 0).colls[0]? = (x.1.die 0).colls[0]? ∧ (s.die 0).colls ≠ [] ∧ ((s.die 0).trees.find? fun t => t.1 == 3).isSome = true)) = true := by
  decide +kernel

theorem witness_collectives :
    (let c := collOf [1, 2] [] false
     ((collState c).die 0).colls[0]? = some c ∧ c.waiting = 1 :: [2] ∧ c.early = [] ∧ (2 : Nat) ∈ [2] ∧ (2 : Nat) ≠ 1 ∧ (List.replicate 64 (2 : Byte)).length = c.len ∧
       (List.replicate 63 (2 : Byte)).length ≠ c.len) ∧
    (let c := collOf [] [] false
     ((collState c).die 0).colls[0]? = some c ∧ (((collState c).die 0).trees.find? fun x => x.1 == c.slot) = some (3, [0x10002, 0xFFFF, 0]) ∧
       treeSelf [0x10002, 0xFFFF, 0] ≠ 0 ∧ c.waiting = [] ∧ (collState c).collEnd 0 c = none) ∧
    (let c := collOf [1] [] true
     (rootState c).collEnd 0 c = some none ∧ onchip (unitPort 0) c.done.toNat 8 = some c.done.toNat ∧ spaceOf c.done.toNat = 0 ∧ c.done.toNat < 2 ^ 48 ∧ fld c.done.toNat 46 2 = 3) ∧
    (let c := collOf [] [] false
     (rootState c).collEnd 0 c = some (some (List.replicate 64 1)) ∧ (List.replicate 64 (1 : Byte)).length = c.len ∧ c.len % 64 = 0 ∧
       onchip (unitPort 0) c.dst.toNat c.len = some c.dst.toNat ∧ onchip (unitPort 0) c.done.toNat 8 = some c.done.toNat ∧ spaceOf c.dst.toNat = 0 ∧ spaceOf c.done.toNat = 0 ∧
       c.dst.toNat < 2 ^ 48 ∧ c.done.toNat < 2 ^ 48 ∧ fld c.dst.toNat 46 2 = 3 ∧ fld c.done.toNat 46 2 = 3 ∧ c.dst.toNat + c.len ≤ c.done.toNat) := by decide +kernel

/-- A command of estimate 256·`tg` at the head of tile 0's queue 1, that waits for budget. -/
def waitCmd (tg waited : Nat) : Cmd := { cmdOf 1 (0x0C * 2 ^ 248 + tg * 2 ^ 236) with granted := false, waited := waited }
def budgetState (c : Cmd) : State := State.reset.modTile 0 fun t => { t with queues := modAt t.queues 1 fun _ => [c] }

theorem witness_budget :
    [(0, 8), (0xFFF, 7), (0, 0)].all (fun x =>
      let c := waitCmd x.1 x.2
      let s : State := { budgetState c with tick := 5 }
      decide (s.waitingCmds 0 = [(0, c, 256 * x.1)] ∧ Store.wf Tile.zero s.tiles = true ∧ hotNext s.inletHot 45 45 = false ∧ (s.die 0).nextAt ≤ s.tick ∧ s.thermal = false ∧
        (((256 * x.1 : Nat) : Int) ≤ moduleBudget 45 / 6 - 0 - (s.die 0).deficit ↔ x.1 = 0))) = true ∧
    (let s := State.reset.modDie 5 fun d => { d with nextAt := 1 }
     s.tick < (s.die 5).nextAt ∧ (s.die 0).nextAt ≤ s.tick) ∧ (∀ d < 6, (State.reset.die d).nextAt ≤ State.reset.tick) ∧
    { State.reset with inletHot := true }.thermal = true ∧ (45 : Nat) < 46 ∧ 40 ≤ 45 - 5 ∧ 45 - 5 < 41 ∧ 105 - 5 < 105 := by decide +kernel

/-- Port core 32 with page 1 of context 0 hot for group 1, MIG_EN set or not, the page pinned or not. -/
def hotState (en : Bool) (leaf : Nat) : State :=
  (tabled 1 leaf State.reset).modPort 32 fun p => { p with hot := [(64, 1, 4096)], hpctl := if en then p.hpctl else 0 }

theorem witness_hot_pages :
    isPort 32 = true ∧ getF ((hotState false 0x40001).port 32).hpctl 63 1 = 0 ∧ portOfChan (chanOf 0x300) = 32 ∧
    [0x3000001, 0x3000101].all (fun leaf =>
      let s := hotState true leaf
      let ok := (s.port 32).hot.filter fun x => x.2.1 < 768 && !((s.port 32).cool.any fun c => c.1 == x.1)
      decide (getF (s.port 32).hpctl 63 1 = 1 ∧ (s.port 32).copy = none ∧ hotBest (32 / 36) ok = some (64, 1, 4096) ∧ getF (s.port 32).hpctl 32 16 ≤ 4096 ∧
        (s.walkPage (hotCtx 64) (hotVpn 64)).toOption = some (leaf, 0x300, 0x30008) ∧ fld leaf 4 2 = 0 ∧ (fld leaf 8 1 = 1 ↔ leaf = 0x3000101))) = true := by decide +kernel

/-- A period begins at each PERIOD µs of TICK, whatever the clock, and not before. -/
theorem witness_hot_period : let s := { hotState true 0x3000001 with tick := 100 * Config.cyclesPerUs }
    (s.port 32).periodAt + max 1 (getF (s.port 32).hpctl 16 16) * Config.cyclesPerUs ≤ s.tick ∧
    let s := (hotState true 0x3000001).modPort 32 fun p => { p with periodAt := 1 }
    s.tick < (s.port 32).periodAt + max 1 (getF (s.port 32).hpctl 16 16) * Config.cyclesPerUs := by decide +kernel

/-- What a search in a cycle does not find is not there. -/
theorem firstFrom_none {n : Nat} {ok : Nat → Bool} : ∀ {k start : Nat}, firstFrom n ok start k = none → ∀ j < k, ok ((start + j) % n) = false
  | 0, _, _, _, hj => by omega
  | k + 1, start, h, j, hj => by
    unfold firstFrom at h
    split at h
    · simp at h
    · cases j with
      | zero => simp_all
      | succ j =>
        have := firstFrom_none h j (by omega)
        rwa [show start + (j + 1) = start + 1 + j by omega]

theorem witness_free_frame : ((hotState true 0x3000001).freeFrame 1).isSome = true := by
  have hf : (hotState true 0x3000001).frameFree (1 + 768 * 1) = true := by decide +kernel
  unfold State.freeFrame
  rw [Option.isSome_map]
  cases h : firstFrom 24576 (fun i => (hotState true 0x3000001).frameFree (1 + 768 * i)) (Config.freeFrame 1 (hotState true 0x3000001).fresh) 24576 with
  | some _ => rfl
  | none =>
    have hn := firstFrom_none h ((24576 + 1 - Config.freeFrame 1 (hotState true 0x3000001).fresh % 24576) % 24576) (Nat.mod_lt _ (by decide))
    rw [show (Config.freeFrame 1 (hotState true 0x3000001).fresh + (24576 + 1 - Config.freeFrame 1 (hotState true 0x3000001).fresh % 24576) % 24576) % 24576 = 1 by omega] at hn
    simp [hf] at hn

/-- Frame 0x300 is being copied to frame 0x301; its leaf stands at 0x30008. -/
def copyOf : FrameCopy := ⟨0, 1, 0x300, 0x301, 0x30008, [(5, 0), (6, 1)]⟩
def copyState (leaf : Nat) : State := ((tabled 1 leaf State.reset).wrN (0x300 * 65536) 8 0x1122334455667788).modPort 32 fun p => { p with copy := some copyOf }

theorem witness_frame_copies :
    (let s := copyState 0x40001
     (s.port 32).copy = some copyOf ∧ fld (s.rdN copyOf.pteAt 8) 16 32 ≠ copyOf.fromFrame) ∧
    (let s := copyState 0x3000101
     (s.port 32).copy = some copyOf ∧ fld (s.rdN copyOf.pteAt 8) 8 1 = 1) ∧
    (let s := copyState 0x3000001
     let c := copyOf
     (s.port 32).copy = some c ∧ fld (s.rdN c.pteAt 8) 0 1 = 1 ∧ fld (s.rdN c.pteAt 8) 8 1 = 0 ∧ getF (s.port (portOfChan (chanOf c.toFrame))).hpctl 0 16 ≠ 0 ∧ fld (s.rdN c.pteAt 8) 16 32 = c.fromFrame ∧ Memory.wf s.mem = true ∧ Store.wf Port.zero s.ports = true ∧
       c.fromFrame < 2 ^ 31 ∧ c.toFrame < 2 ^ 31 ∧ c.fromFrame ≠ c.toFrame ∧ (∀ x ∈ s.mem, x.1 / 65536 ≠ c.toFrame) ∧ c.pteAt % 8 = 0 ∧ c.pteAt < 2 ^ 47 ∧
       c.pteAt / 65536 ≠ c.toFrame ∧ c.pteAt / 65536 ≠ c.fromFrame) := by decide +kernel

/-- Requests of cores 0 and 1 for one bank of core 4's scratchpad, and one for another bank. -/
def meetPart (off : Nat) : Part := onePart (padKey 4 off) (BitVec.ofNat 64 (padKey 4 off)) 0 4 0 7
def meeting : State :=
  { base with net := [reqOf base 9 0 .store [meetPart 0xA000], { reqOf base 10 20 .load [meetPart 0xBFFC] with born := 5 }, { reqOf base 11 40 .load [meetPart 0xC000] with lcore := 2 }] }

/-- A load from global memory whose line stands nowhere, of core 0. -/
def unready : State := withReq (reqOf base 9 0 .load [onePart 0x50000 0x50000 1 8 0 0]) base

theorem witness_conflicts : [true, false].all (fun b => (meeting.claims b [(10, 0), (9, 0), (11, 0)]).map (fun x => (x.1.rid, x.2.1)) == [(10, 0), (9, 0), (11, 0)]) = true ∧
    bankOf (padKey 4 0xA000) = bankOf (padKey 4 0xBFFC) ∧ bankOf (padKey 4 0xA000) ≠ bankOf (padKey 4 0xC000) ∧ outputOf (padKey 4 0xA000) = outputOf (padKey 7 0xC000) ∧
    ((meeting.claims true [(9, 0)]).map fun x => (meeting.servePart x.1 x.2.1).claims true [(9, 0)]) = [[]] ∧
    ((unready.claims false [(9, 0)]).map fun x => (unready.servePart x.1 x.2.1).claims false [(9, 0)] == []) = [false] := by decide +kernel

/-- A controller's queue of two claims, of which the second has been passed n times. -/
def memReqOf (line passed : Nat) : MemReq := ⟨line, false, false, true, ⟨0, line⟩, passed⟩
def queueOf (n : Nat) : Port := { Port.zero with queue := [memReqOf 5 0, memReqOf 7 n] }

theorem witness_controllers :
    (State.reset.pickMem (queueOf 64) = some (memReqOf 7 64) ∧ State.reset.pickMem { queueOf 63 with queue := [memReqOf 5 63] } ≠ none) ∧
    ({ queueOf 63 with rows := [(Config.dramBank 7, Config.dramRow 7)] } : Port).rowHit (memReqOf 7 63) = true ∧
    isPort 32 = true ∧ (let s := State.reset.modPort 32 fun p => { p with queue := [memReqOf 5 64] }
      s.pickMem (s.port 32) = some (memReqOf 5 64)) ∧
    (let s := State.reset.modPort 32 fun p => { p with rfm := [(3, 2)] }
     (s.port 32).rfm = [(3, 2)] ∧ (3, 1) ∉ (s.port 32).rfm) ∧ (State.reset.port 32).rfm = [] := by
  refine ⟨⟨by decide +kernel, ?_⟩, by simp [Port.rowHit, memReqOf], by decide +kernel, by decide +kernel, by decide +kernel, by decide +kernel⟩
  have : (State.reset.pickMem { queueOf 63 with queue := [memReqOf 5 63] }).isSome = true := by
    have hb : ({ queueOf 63 with queue := [memReqOf 5 63] } : Port).bankFree State.reset.tick (Config.dramBank 5) = true := by decide +kernel
    have hr : ({ queueOf 63 with queue := [memReqOf 5 63] } : Port).rowHit (memReqOf 5 63) = false := by decide +kernel
    simp [State.pickMem, memReqOf, State.first] at hb hr ⊢
    simp [hb, hr]
  intro h
  simp [h] at this

/-- A bank with n activations in the sub-window of TICK 0. -/
def activated (n : Nat) : Port := { Port.zero with acts := [⟨3, subWindow 0, [n]⟩] }

theorem witness_levels :
    [(23, 0), (39, 1), (55, 2)].all (fun x =>
      let n := (slideWindow 0 [x.1]).foldl (· + ·) 0
      decide (∃ h : x.2 < (levels Port.zero.mcrfm).length, (levels Port.zero.mcrfm)[x.2] = n + 1)) = true ∧
    (slideWindow 0 [24]).foldl (· + ·) 0 + 1 ∉ levels Port.zero.mcrfm ∧
    (activated 23).acts.find? (fun x => x.bank == 3) = some ⟨3, subWindow 0, [23]⟩ := ⟨by decide +kernel, by decide +kernel, rfl⟩

theorem witness_allocations : (State.reset.die 5).cursor < 128 ∧ State.reset.frameFree (128 * 5 + 0) = true ∧ (128 * 5 + 0) % 768 = 128 * 5 + (State.reset.die 5).cursor ∧
    (let s := State.reset.modDie 0 fun d => { d with cursor := 127 }
     (s.die 0).cursor < 128 ∧ s.frameFree (768 + 127) = true ∧ (768 + 127) % 768 = 128 * 0 + (s.die 0).cursor) := by decide +kernel

/-- A die with one flit, or a packet whole at its endpoint. -/
def flitOf (at_ dst : Nat) : Flit := ⟨2, dst, 9, 0, 1, ⟨5, 0⟩, 0, at_⟩
def flitState (at_ dst : Nat) : State := State.reset.modDie 0 fun d => { d with flits := [flitOf at_ dst] }
/-- Packet 9 carries request 9 from node 2 to node 3. -/
def carried (kind : ReqKind) : State :=
  let s := State.reset.modDie 0 fun d => { d with assemblies := [⟨3, 9, 1, [0]⟩] }
  { withReq { reqOf base 9 0 kind [] with legs := [] } s with packets := [⟨9, .req 9, 2, 3, 1, ⟨5, 0⟩, true, 0⟩] }

theorem witness_mesh :
    [(0, 7), (6, 1), (3, 3)].all (fun x =>
      let s := flitState x.1 x.2
      decide ((s.die 0).flits = [flitOf x.1 x.2] ∧ (s.die 0).inject = [] ∧ (s.die 0).refusals = [] ∧ s.net = [] ∧ s.packets = [] ∧ (s.die 0).assemblies = [])) = true ∧
    (let f : Flit := flitOf 2 7
     let s := State.reset.modDie 0 fun d => { d with inject := [f], starve := [4] }
     (s.die 0).starve ≠ [] ∧ f ∈ (s.die 0).inject ∧ f.at_ ∉ (s.die 0).starve ∧ f.at_ = 2) ∧
    [(64, true), (63, false)].all (fun x =>
      let s := { State.reset.modDie 0 fun d => { d with heads := [(2, flitOf 2 7, 0)] } with tick := x.1 }
      decide ((2, flitOf 2 7, 0) ∈ (s.die 0).heads ∧ (0 + 64 ≤ s.tick ↔ x.2 = true) ∧ ((∀ h ∈ (s.die 0).heads, h.1 = 2 → s.tick < h.2.2 + 64) ↔ x.2 = false))) = true ∧
    [ReqKind.load, .ldfe].all (fun k =>
      let s := carried k
      decide (((s.die 0).assemblies.find? fun a => a.dst == 3 && a.dst < 8 && a.tag == 9 && a.have_.length == a.len) = some ⟨3, 9, 1, [0]⟩ ∧
        (s.packets.find? fun p => p.id == 9) = some ⟨9, .req 9, 2, 3, 1, ⟨5, 0⟩, true, 0⟩ ∧ (s.req 9).any (fun r => r.st == .inflight && r.kind == k) = true)) = true := by decide +kernel

/-- A link with a change, and a packet of n mesh flits to a node. -/
def linkState (k : Nat) (f : Link → Link) : State := State.reset.modLink k f
def packetTo (dst n : Nat) : Packet := ⟨7, .ans 3, 2, dst, n, ⟨5, 0⟩, true, 0⟩

theorem witness_bridges :
    (let s := linkState 0 fun x => { x with farBuf := [packetTo 12 5] }
     isLink 0 = true ∧ (s.link 0).farBuf = packetTo 12 5 :: [] ∧ (0 : Nat) < 14 ∧ farDie 0 = some 1 ∧ s.hopOf 1 12 = some 4 ∧ s.bridgeWaits 0 (packetTo 12 5) = false) ∧
    (let p := fun n : Nat => { packetTo 70 5 with pair := n }
     let s := (linkState 16 fun x => { x with farBuf := [p 2] }).modLink 17 fun x => { x with farBuf := [p 1] }
     isLink 16 = true ∧ (s.link 16).farBuf = p 2 :: [] ∧ s.bridgeWaits 16 (p 2) = true ∧ s.bridgeWaits 17 (p 1) = false) ∧
    [(2038, 0, true), (2039, 0, false), (0, 65536 / 64 - 5, true), (0, 65536 / 64 - 4, false)].all (fun x =>
      let s := linkState 0 fun y => { y with nearBuf := [packetTo 12 5], coming := [packetTo 12 x.2.1], unacked := List.replicate x.1 (0, 0, false), next := 4095 }
      decide ((s.link 0).farBuf = [] ∧ (s.link 0).nearBuf = packetTo 12 5 :: [] ∧ (s.link 0).up = true ∧ (s.link 0).retraining = false ∧
        (((s.link 0).unacked.length + 2 * 5 ≤ 2048 ∧ s.farBytes 0 + 64 * 5 ≤ 65536) ↔ x.2.2 = true))) = true ∧
    (let s := linkState 39 fun y => { y with nearBuf := [packetTo 64 1] }
     isLink 39 = true ∧ (s.link 39).nearBuf = packetTo 64 1 :: [] ∧ (s.link 39).farBuf = [] ∧ (s.link 39).up = true ∧ (s.link 39).retraining = false) := by decide +kernel

theorem witness_links :
    [(4095, true), (4095, false), (3, true)].all (fun x =>
      let s := linkState 0 fun y => { y with wire := [(x.1, 7, x.2)], expect := 4095, coming := [packetTo 12 1] }
      decide ((s.link 0).wire = (x.1, 7, x.2) :: [] ∧ (x.1 = 4095 ↔ x.1 = (s.link 0).expect) ∧ ((s.link 0).coming.find? fun y => y.id == 7) = some (packetTo 12 1))) = true ∧
    (let s := linkState 0 fun y => { y with nak := true, expect := 4, unacked := [(3, 7, false), (4, 7, true)] }
     (s.link 0).nak = true ∧ (s.link 0).retraining = false ∧ (s.link 0).unacked = (3, 7, false) :: [(4, 7, true)] ∧ (3 : Nat) ≠ (s.link 0).expect) ∧
    (let s := linkState 16 fun y => { y with replays := 8 }
     isLink 16 = true ∧ (s.link 16).up = true ∧ (s.link 16).retraining = false ∧ 8 ≤ (s.link 16).replays) ∧
    [0, 2].all (fun n =>
      let s := linkState 0 fun y => { y with retraining := true, retrains := n }
      decide ((s.link 0).retraining = true ∧ (s.link 0).up = true ∧ decide ((s.link 0).retrains + 1 < 3) = (n == 0))) = true ∧
    [(16, packetTo 64 1, some (8 + 17)), (0, packetTo 32 1, some (8 + 2)), (0, packetTo 8 1, none), (0, packetTo 3 1, some 3)].all (fun x =>
      let s := (linkState x.1 fun y => { y with up := false, nearBuf := [x.2.1] }).modLink (otherWay x.1) fun y => { y with up := false }
      decide (isLink x.1 = true ∧ (s.link x.1).up = false ∧ (s.link (otherWay x.1)).up = false ∧ x.2.1 ∈ s.pendingPackets x.1 ∧ s.hopOf (linkDie x.1) x.2.1.dst = x.2.2)) = true ∧
    (let s := (List.range 64).foldl (fun (s : State) k => s.modLink k fun y => { y with up := false, nearBuf := if k = 0 then [packetTo 8 1] else [] }) State.reset
     isLink 0 = true ∧ (s.link 0).up = false ∧ (s.link (otherWay 0)).up = false ∧ packetTo 8 1 ∈ s.pendingPackets 0 ∧ s.hopOf (linkDie 0) 8 = none) := by decide +kernel

/-- Sixteen errors at a TICK are within a millisecond of it. -/
theorem witness_errors : let s := linkState 39 fun y => { y with errors := List.replicate 16 0 }
    isLink 39 = true ∧ (s.link 39).up = true ∧ (s.link 39).retraining = false ∧ 16 ≤ ((s.link 39).errors.filter fun t => s.tick < t + 1000 * Config.cyclesPerUs).length := by
  decide +kernel

/-- An inbound request of endpoint 0, which context 0's entry admits, to a pinned page or to tile 0's first scratchpad. -/
def inOf (va : BitVec 64) (size : Nat) (write : Bool) : Inbound := ⟨5, 0, 0, va, size, write, false, false, 5⟩
def inState (leaf : Nat) (d : Drain) : State := ((tabled 1 leaf base).wrN 16 8 3).wrN (0 + 16) 8 (1 + 2) |>.modTile 0 fun t => { t with drain := d }

theorem witness_inbound :
    base.inbound = [] ∧ base.inTarget (inOf 0x10000 8 false) = .denied ∧
    (let s := inState 0x40101 .no
     s.admits 0 0 = true ∧ s.inTarget (inOf 0x1FFC0 64 true) = .at_ 0x4FFC0 0x40101 ∧ s.frameHeld 0x4FFC0 = false ∧ isHbm 0x4FFC0 = true ∧ 0x4FFC0 + 64 ≤ 2 ^ 47 ∧ s.bad 0x4FFC0 64 = false ∧
       s.mergeBad 0x4FFC0 64 (BitVec.ofNat 64 (2 ^ 64 - 1)) 0x40101 = false ∧ (0x40101 : BitVec 64).getLsbD 10 = false) ∧
    (inState 0x40001 .no).inTarget (inOf 0x10000 8 false) = .denied ∧
    (inState 0x40101 .no).inTarget (inOf (BitVec.ofNat 64 (padKey 0 0xFFC0)) 64 true) = .at_ (padKey 0 0xFFC0) 0 ∧ isPad (padKey 0 0xFFC0) = true ∧ padKey 0 0xFFC0 < fabricBase ∧
    (let s := inState 0x40101 .no
     let m : PeerMsg := .request 0 0 0x1FFC0 64 true false false 5
     isBrought (brought 5 3 m s) 5 3 m = true ∧ (∀ d < 5, ∀ n < 4, ((brought 5 3 m s).link (40 + 4 * d + n)).inbox.head? ≠ some m) ∧
       ((served (onePart 0x4FFC0 0 0x40101 64 0 0) s).memReady 0x4FFC0 64 0x40101 = true)) ∧
    (let s := (inState 0x40101 .no).modPort (memPort 0x4FFC0) fun p => { p with copy := some ⟨0, 1, 4, 0x301, 0x30008, []⟩ }
     s.inTarget (inOf 0x1FFC0 64 true) = .at_ 0x4FFC0 0x40101 ∧ s.frameHeld 0x4FFC0 = true) ∧
    (inState 0x40101 .drained).inTarget (inOf (BitVec.ofNat 64 (padKey 0 0xFFC0)) 64 true) = .drained := by decide +kernel

theorem witness_windows : isBrought (brought 5 3 (.revoke 2 3) State.reset) 5 3 (.revoke 2 3) = true ∧ isBrought (brought 0 0 (.grant 2 3) State.reset) 0 0 (.grant 2 3) = true ∧
    (∀ d < 5, ∀ n < 4, ((brought 5 3 (.revoke 2 3) State.reset).link (40 + 4 * d + n)).inbox.head? ≠ some (.revoke 2 3)) ∧
    State.reset.revokedAt (fabricBase + (2 * 2 ^ 36 - 1)) = false ∧ 2 * 2 ^ 36 ≤ 4 * 2 ^ 36 - 1 ∧ 4 * 2 ^ 36 - 1 < (3 + 1) * 2 ^ 36 := by decide +kernel

/-! ## The machine as a whole -/

/-- Thread 0's turn at a bundle. -/
def turnState (b : Nat) : State := State.reset.withBundle b
def addBundle : Bundle := ⟨.add 0 1 2 3, .nopv⟩

theorem witness_StepRunsTheBundle :
    (let s := turnState 0x0210840400000000
     namesCore 0 = true ∧ s.agenda.head? = some (.turn 0) ∧ s.threadAt 0 (s.core 0).barrel.toNat = some 0 ∧ ((s.turnRound 0).thr 0).frozen = false ∧ (s.thr 0).trapped = false ∧
       (s.thr 0).walking = false ∧ (s.thr 0).park = .none ∧ (s.thr 0).settle = false ∧ (s.thr 0).held = [] ∧ (s.thr 0).rte = none ∧ (s.getWs 0).repAct = false ∧
       getF (s.getWs 0).pc 0 3 = 0 ∧ (s.getWs 0).storedBad = false ∧ (s.atTurn 0 0).reach ((s.getWs 0).pc.setWidth 64) 8 .fetch = .at_ 0 1 ∧
       (s.atTurn 0 0).homeReady (fetchPart 0 ((s.getWs 0).pc.setWidth 64) 1) = true ∧ s.bad 0 8 = false ∧
       s.rdN 0 8 = 0x0210840400000000 ∧ (decodeBundle 0x0210840400000000).toOption = some ⟨.xor 0 1 1 1, .nopv⟩ ∧ (remoteNo (.xor 0 1 1 1) || remoteNo .nopv) = false ∧
       (s.atFetch 0 0 0 1).spaced 0 ⟨.xor 0 1 1 1, .nopv⟩ = true ∧ s.upsets = [] ∧ isImm .nopv = false ∧ ((s.atSlots 0 0 0x0210840400000000 0 1).thr 0).occ = true) ∧
    (decodeBundle 0x0A1082F0F826AF37).toOption = some ⟨.ori 0 1 1 0x2F0, .imm32 0x26AF37⟩ ∧ isImm (.imm32 0x26AF37) = true ∧
    (match decodeBundle 0x8200001F00000000 with | .error e => e.cause.reason != 0 | .ok _ => false) = true ∧
    isEvent (.allocation 0 1) = true ∧
    (let s := State.reset.withLogit 0
     s.agenda = [.logit 0] ∧ { s with agenda := [] }.logitFetch 0 = some .lnop) ∧ State.reset.agenda = [] := by decide +kernel

theorem witness_StepsKeepCanon : State.reset.Canon := by
  constructor <;> decide +kernel

end Sys2Proof.Tests
end

