-- ==== Sys2Proof/Tests/Slice0.lean ====
section
/-! SUPPORT. Tests: ill-formed terms that WellFormed refuses, words written out from the spec's encoding tables, and one
step of single instructions. Expected values are the spec's own examples or computed by hand from its rules. -/

namespace Sys2Proof.Tests

set_option Elab.async false

open Sys2Proof Sys2Proof.Machine

/-! ## Ill-formed terms (R205) -/

/-- Selections that nothing assigns (reason 1). -/
theorem test_unassigned_selections : [Instr.lea 0 1 2 0, .bcc 0 6 1 2 0, .bccz 0 7 1 0, .amo 0 1 2 3 1 9, .amo 0 1 2 3 0 10, .red 0 1 2 0 8,
    .red 0 1 2 1 9, .fence 0 7 1, .fence 0 0 0, .csrr 0 1 16, .csrw 0 1 16, .vadd 1 2 3 0 1 0 1, .vsub 1 2 3 0 6 0 4, .vmul 1 2 3 0 2 0 2,
    .vfma 1 2 3 0 1 0 1, .vfms 1 2 3 0 1 0 2, .vmin 1 2 3 0 6 1, .vmax 1 2 3 0 1 2, .vabs 1 2 0 6 2, .vneg 1 2 0 1 1, .vcmp 1 2 3 0 6 6,
    .vcmp 1 2 3 0 1 8, .vcmp 1 2 3 0 6 16, .vshl 1 2 3 0 7 1, .vshr 1 2 0 0 7 96, .vsra 1 2 3 0 7 32, .vred 1 2 0 1 0 3].all
    (fun i => !i.selOk && !WellFormed i) = true := by decide

/-- Fields that another field leaves unused (reason 2). -/
theorem test_unused_fields : [Instr.spawn 0 1 2 0 0 0 0, .spawn 0 1 2 1 0 1 0, .rret 0 1 1 1 0, .vshl 1 2 1 0 7 64, .vshr 1 2 1 0 7 64, .vsra 1 2 1 0 7 64,
    .vhadd 1 2 1 0 7 0].all (fun i => !i.resOk && !WellFormed i) = true := by decide

/-- Rounding code 7 (reason 4). -/
theorem test_rounding_code_7 : [Instr.vadd 1 2 3 0 1 7 0, .vsub 1 2 3 0 1 7 0, .vmul 1 2 3 0 1 7 0, .vfma 1 2 3 0 1 7 0, .vfms 1 2 3 0 1 7 0,
    .vcvt 1 2 0 0 2 7 1, .vtod 0 0 0 1 7, .dtov 0 0 0 1 7, .dadd 0 1 2 0 7, .dsub 0 1 2 0 7, .dcos 1 2 3 0 7, .dnrm 1 2 0 7, .dren 1 2 0 7,
    .dlerp 1 2 3 0 7 4, .vdiv 1 2 3 0 1 7, .vsqrt 1 2 0 1 7, .vrcp 1 2 0 1 7, .vrsq 1 2 0 1 7, .vexp2 1 2 0 1 7, .vlog2 1 2 0 1 7, .vsin 1 2 0 1 7,
    .vcos 1 2 0 1 7, .vtanh 1 2 0 1 7, .vred 1 2 0 1 7 0].all (fun i => !i.rndOk && !WellFormed i) = true := by decide

/-- Scalar and memory limits (reason 7): each term stands just beyond its limit. -/
theorem test_limits_slotA : [Instr.bfx 0 1 2 63 1, .bfi 0 1 2 32 32, .vld 0 1 2 0 8 0, .vlds 0 1 2 0 0 3, .vgth 0 1 2 0 0 3, .vsct 0 1 2 0 8 3,
    .spawn 0 0 1 9 0 0 0, .spawn 0 31 1 2 0 0 0, .rcall 0 0 1 17 0 0, .rcall 0 20 1 13 0 0, .rcall 0 0 1 0 0 5, .rcall 0 0 1 0 13 4, .rret 0 0 0 9 0,
    .rret 0 25 0 8 0, .rret 0 0 0 0 5, .rret 0 0 13 0 4, .send 0 1 31, .recv 0 30, .csrw 0 1 0, .csrw 0 1 6, .vwid 0 1 3, .vwid 0 1 8].all
    (fun i => !i.limOk && !WellFormed i) = true := by decide

/-- Vector and predicate limits. -/
theorem test_limits_slotB : [Instr.vadd 1 2 3 0 0 0 0, .vadd 1 2 3 0 6 1 0, .vsub 1 2 3 0 4 0 0, .vmul 1 2 3 0 8 0 0, .vfma 1 2 3 0 5 0 0, .vfms 1 2 3 0 4 0 0,
    .vmin 1 2 3 0 4 0, .vmax 1 2 3 0 8 0, .vabs 1 2 0 4 0, .vneg 1 2 0 0 0, .vcmp 1 2 3 0 4 0, .vshl 1 2 3 0 1 0, .vshr 1 2 0 0 5 72, .vsra 1 2 0 0 6 80,
    .vcvt 1 2 0 0 0 0 1, .vcvt 1 2 2 0 1 0 2, .vcvt 1 2 1 0 1 0 7, .vcvt 1 2 4 0 5 0 1, .vred 1 2 0 1 0 9, .vred 1 2 0 6 1 0, .vperm 1 2 3 0 8, .vbcast 1 2 0 0,
    .vextr 1 2 3 8 0, .vins 1 2 3 0, .viota 1 0 1 0, .vord 1 2 0 4 0, .vdig 1 2 0 5 3 1, .vdig 1 2 0 1 0 0, .vhadd 1 2 0 0 1 0, .pwhile 1 2 3 0 0 0,
    .pcnt 1 2 0 8, .pfirst 1 2 0 8, .pset 1 0 8 0, .pset 1 0 1 65].all (fun i => !i.limOk && !WellFormed i) = true := by decide

/-- Directional, special-function and logit limits. -/
theorem test_limits_directions : [Instr.vtod 0 0 0 5 0, .vtod 1 0 1 1 0, .vtod 0 15 0 1 0, .vtod 0 13 2 2 0, .dtov 0 0 0 4 0, .dtov 0 2 2 1 0, .dtov 13 0 2 3 0,
    .dadd 1 0 0 1 0, .dsub 0 3 0 1 0, .dadd 0 0 2 2 0, .dscl 1 0 1, .dsetn 2 0 2, .dneg 3 0 1, .dmov 0 1 1, .dcos 0 1 0 1 0, .dcos 0 0 2 2 0, .dnrm 0 3 1 0,
    .dren 1 0 1 0, .dren 0 1 1 0, .dlerp 0 1 0 1 0 3, .dlerp 1 0 0 1 0 3, .vdiv 1 2 3 0 5 0, .vsqrt 1 2 0 4 0, .vrcp 1 2 0 0 0, .vrsq 1 2 0 8 0,
    .vexp2 1 2 0 7 0, .vlog2 1 2 0 6 0, .vsin 1 2 0 5 0, .vcos 1 2 0 4 0, .vtanh 1 2 0 0 0, .lcmp 1 2 3 6].all
    (fun i => !i.limOk && !WellFormed i) = true := by decide

/-- Their neighbours within the limits are well formed. -/
theorem test_within_limits : [Instr.lea 0 1 1 0, .bcc 0 5 1 2 0, .amo 0 1 2 3 0 9, .amo 0 1 2 3 1 8, .red 0 1 2 0 9, .red 0 1 2 1 7, .fence 0 6 3, .bfx 0 1 2 63 0,
    .bfi 0 1 2 31 32, .spawn 0 24 1 8 0 0 0, .rcall 0 16 1 16 12 4, .rret 0 24 12 8 4, .send 0 1 30, .recv 0 29, .csrw 0 1 15, .vwid 0 1 4, .vadd 1 2 3 0 1 6 0,
    .vsub 1 2 3 0 7 0 3, .vshr 1 2 0 0 5 71, .vcvt 1 2 1 0 1 0 2, .vcvt 1 2 3 0 5 0 1, .pset 1 0 7 64, .vdig 1 2 0 5 3 0, .vtod 4 8 2 1 6, .dtov 12 4 2 2 0,
    .lcmp 1 2 3 5].all WellFormed = true := by decide

/-! ## Words (R190 to R201) -/

/-- Words of slot A, each field at a value of its own, laid out by hand as the encoding tables place the fields (R190 to R201). -/
theorem test_words_slotA_1 : ([
    (0x80000000, .nop 1), (0x83355400, .add 1 19 10 21), (0x83355401, .sub 1 19 10 21), (0x83355402, .and 1 19 10 21),
    (0x83355403, .or 1 19 10 21), (0x83355404, .xor 1 19 10 21), (0x83355405, .shl 1 19 10 21),
    (0x83355406, .shr 1 19 10 21), (0x83355407, .sra 1 19 10 21), (0x83355408, .slt 1 19 10 21),
    (0x83355409, .sltn 1 19 10 21), (0x8335540A, .min 1 19 10 21), (0x8335540B, .max 1 19 10 21),
    (0x8335540C, .minn 1 19 10 21), (0x8335540D, .maxn 1 19 10 21), (0x8335540E, .sel 1 19 10 21)] : List (Nat × Instr)).all (fun x => (decodeA x.1).toOption == some x.2) = true := by
  decide

/-- Words of slot A, each field at a value of its own, laid out by hand as the encoding tables place the fields (R190 to R201). -/
theorem test_words_slotA_2 : ([
    (0x8335000F, .clz 1 19 10), (0x83350010, .popc 1 19 10), (0x85355400, .mul 1 19 10 21),
    (0x85355401, .mulh 1 19 10 21), (0x85355402, .mulhn 1 19 10 21), (0x85355403, .div 1 19 10 21),
    (0x85355404, .divn 1 19 10 21), (0x85355405, .rem 1 19 10 21), (0x85355406, .remn 1 19 10 21),
    (0x873501A5, .addi 1 19 10 421), (0x893501A5, .andi 1 19 10 421), (0x8B3501A5, .ori 1 19 10 421),
    (0x8D3501A5, .xori 1 19 10 421), (0x8F3501A5, .slti 1 19 10 421), (0x91350025, .shli 1 19 10 37),
    (0x91350125, .shri 1 19 10 37)] : List (Nat × Instr)).all (fun x => (decodeA x.1).toOption == some x.2) = true := by
  decide

/-- Words of slot A, each field at a value of its own, laid out by hand as the encoding tables place the fields (R190 to R201). -/
theorem test_words_slotA_3 : ([
    (0x91350225, .srai 1 19 10 37), (0x93350EA0, .bfx 1 19 10 7 20), (0x953542F0, .bfi 1 19 10 33 30),
    (0x973001A5, .limh 1 19 421), (0x993005A5, .lea 1 19 1 421), (0x9B350005, .leap 1 19 10 5),
    (0xA0C555A5, .bcc 1 3 10 21 421), (0xA34501A5, .bccz 1 5 10 421), (0xA40001A5, .jmp 1 421),
    (0xA73001A5, .jal 1 19 421), (0xA8050000, .jr 1 10), (0xAA000000, .exit 1), (0xB13501A5, .ldb 1 19 10 421),
    (0xB33501A5, .ldbz 1 19 10 421), (0xB53501A5, .ldh 1 19 10 421), (0xB73501A5, .ldhz 1 19 10 421)] : List (Nat × Instr)).all (fun x => (decodeA x.1).toOption == some x.2) = true := by
  decide

/-- Words of slot A, each field at a value of its own, laid out by hand as the encoding tables place the fields (R190 to R201). -/
theorem test_words_slotA_4 : ([
    (0xB93501A5, .ldw 1 19 10 421), (0xBB3501A5, .ldwz 1 19 10 421), (0xBD3501A5, .ldd 1 19 10 421),
    (0xBF3501A5, .stb 1 19 10 421), (0xC13501A5, .sth 1 19 10 421), (0xC33501A5, .stw 1 19 10 421),
    (0xC53501A5, .std 1 19 10 421), (0xC6C556A5, .vld 1 12 10 5 6 165), (0xC8C550A5, .vst 1 12 10 5 165),
    (0xCAC55228, .vlds 1 12 10 5 2 5), (0xCCC55790, .vgth 1 12 10 5 7 9), (0xCEC55390, .vsct 1 12 10 5 3 9),
    (0xD13507A5, .ldv 1 19 10 3 421), (0xD33501A5, .stv 1 19 10 421), (0xD53501A5, .ldfe 1 19 10 421),
    (0xD73501A5, .stfe 1 19 10 421)] : List (Nat × Instr)).all (fun x => (decodeA x.1).toOption == some x.2) = true := by
  decide

/-- Words of slot A, each field at a value of its own, laid out by hand as the encoding tables place the fields (R190 to R201). -/
theorem test_words_slotA_5 : ([
    (0xD9355418, .amo 1 19 10 21 1 8), (0xD935551A, .amoc 1 19 10 21 1), (0xDA055417, .red 1 10 21 1 7),
    (0xDC055440, .vrcl 1 10 21), (0xDD350080, .watch 1 19 10), (0xDC0500C0, .unwatch 1 10), (0xDC000100, .wait 1),
    (0xDC050140, .pfh 1 10), (0xDC050193, .tcls 1 10 1 3), (0xDE000016, .fence 1 5 2),
    (0xE0549D55, .spawn 1 5 9 3 1 0 341), (0xE275B5A0, .rcall 1 7 11 13 6 4), (0xE4653B00, .rret 1 6 5 7 3),
    (0xE6050000, .migr 1 10), (0xE8050000, .join 1 10), (0xE8050001, .leave 1 10)] : List (Nat × Instr)).all (fun x => (decodeA x.1).toOption == some x.2) = true := by
  decide

/-- Words of slot A, each field at a value of its own, laid out by hand as the encoding tables place the fields (R190 to R201). -/
theorem test_words_slotA_6 : ([
    (0xE9350002, .gbar 1 19 10), (0xE8050003, .gbard 1 10), (0xE9350004, .gqry 1 19 10), (0xEA000000, .spec 1),
    (0xEB300001, .commit 1 19), (0xEA000002, .abort 1), (0xED355400, .pmrg 1 19 10 21 0 0), (0xEE04F800, .send 1 9 30),
    (0xEFD00001, .recv 1 29), (0xF0300002, .push 1 3 2), (0xF3300002, .pop 1 19 2), (0xF3300102, .fstat 1 19 2),
    (0xF4000003, .semp 1 3), (0xF4000103, .semv 1 3), (0xF7300000, .evpop 1 19), (0xF7350100, .hget 1 19 10)] : List (Nat × Instr)).all (fun x => (decodeA x.1).toOption == some x.2) = true := by
  decide

/-- Words of slot A, each field at a value of its own, laid out by hand as the encoding tables place the fields (R190 to R201). -/
theorem test_words_slotA_7 : ([
    (0xF6000200, .hclr 1), (0xF9300009, .csrr 1 19 9), (0xF805020D, .csrw 1 10 13), (0xFA000005, .trap 1 5),
    (0xFA000405, .brk 1 5), (0xFB350800, .rte 1 19 10 0), (0xFB300C00, .idle 1 19), (0xFB351000, .frz 1 19 10),
    (0xFB351400, .thaw 1 19 10), (0xFB351800, .slotq 1 19 10), (0xFB301C04, .vwid 1 19 4), (0xFB302000, .rdtk 1 19),
    (0xFB352400, .sbsr 1 19 10), (0xFD350001, .duskDrain 1 19 10), (0xFD350000, .duskRelease 1 19 10),
    (0xFD355500, .lcmw 1 19 10 21)] : List (Nat × Instr)).all (fun x => (decodeA x.1).toOption == some x.2) = true := by
  decide

/-- Words of slot A, each field at a value of its own, laid out by hand as the encoding tables place the fields (R190 to R201). -/
theorem test_words_slotA_8 : ([
    (0xFD350200, .scan 1 19 10), (0x7E0B6500, .rep 5 44 5)] : List (Nat × Instr)).all (fun x => (decodeA x.1).toOption == some x.2) = true := by
  decide

/-- Words of slot B, each field at a value of its own, laid out by hand as the encoding tables place the fields (R190 to R201). -/
theorem test_words_slotB_1 : ([
    (0x00000000, .nopv), (0x04E96B03, .vadd 3 10 5 5 6 0 3), (0x08E96950, .vsub 3 10 5 5 2 5 0),
    (0x0CE96A81, .vmul 3 10 5 5 5 0 1), (0x10E969A0, .vfma 3 10 5 5 3 2 0), (0x14E968C0, .vfms 3 10 5 5 1 4 0),
    (0x18E96B82, .vmin 3 10 5 5 7 2), (0x1CE96900, .vmax 3 10 5 5 2 0), (0x20E82A81, .vabs 3 10 5 5 1),
    (0x24E82880, .vneg 3 10 5 1 0), (0x28E96B0D, .vcmp 3 10 5 5 6 13), (0x2CE96800, .vsel 3 10 5 5),
    (0x30E96800, .vand 3 10 5 5), (0x34E96800, .vor 3 10 5 5), (0x38E96800, .vxor 3 10 5 5), (0x3CE82800, .vnot 3 10 5)] : List (Nat × Instr)).all (fun x => (decodeB x.1).toOption == some x.2) = true := by
  decide

/-- Words of slot B, each field at a value of its own, laid out by hand as the encoding tables place the fields (R190 to R201). -/
theorem test_words_slotB_2 : ([
    (0x40E82BCD, .vshl 3 10 0 5 7 77), (0x44E96B00, .vshr 3 10 5 5 6 0), (0x48E82AC7, .vsra 3 10 0 5 5 71),
    (0x4CE82931, .vcvt 3 10 0 5 2 3 1), (0x50E96B00, .vperm 3 10 5 5 6), (0x54E82900, .vbcast 3 10 5 2),
    (0x5B2942A1, .vextr 12 10 21 5 1), (0x5F2940A0, .vins 12 10 21 1), (0x60E82800, .vmov 3 10 5),
    (0x64C02B01, .viota 3 5 6 1), (0x68E82981, .vord 3 10 5 3 1), (0x6CE82BC9, .vdig 3 10 5 7 2 9),
    (0x73296B81, .vhadd 12 10 5 5 7 1), (0x80E96BA1, .pwhile 3 10 21 5 7 1), (0x84C96800, .pand 3 2 5 5),
    (0x88C96800, .por 3 2 5 5)] : List (Nat × Instr)).all (fun x => (decodeB x.1).toOption == some x.2) = true := by
  decide

/-- Words of slot B, each field at a value of its own, laid out by hand as the encoding tables place the fields (R190 to R201). -/
theorem test_words_slotB_3 : ([
    (0x8CC96800, .pxor 3 2 5 5), (0x90C82800, .pnot 3 2 5), (0x954C2940, .pcnt 5 19 5 2),
    (0x98C82800, .pfirst 3 2 5 0), (0x9CC02BC0, .pset 3 5 7 64), (0xA1B008A0, .vtod 6 12 1 1 2),
    (0xA6501130, .dtov 9 4 2 2 3), (0xA8918FB0, .dadd 2 4 6 1 3), (0xA8D5C7D1, .dsub 3 5 7 0 5),
    (0xAD0C1780, .dscl 4 6 2), (0xAD8C0F81, .dsetn 6 6 1), (0xB0980F80, .dneg 2 6 1), (0xB1001781, .dmov 4 0 2),
    (0xB4D18F90, .dcos 6 4 6 1 1), (0xB4D017A1, .dnrm 6 4 2 2), (0xB8980FB0, .dren 2 6 1 3)] : List (Nat × Instr)).all (fun x => (decodeB x.1).toOption == some x.2) = true := by
  decide

/-- Words of slot B, each field at a value of its own, laid out by hand as the encoding tables place the fields (R190 to R201). -/
theorem test_words_slotB_4 : ([
    (0xBC4D87D5, .dlerp 1 3 6 0 5 5), (0xC0E968D0, .vdiv 3 10 5 5 1 5), (0xC4E82910, .vsqrt 3 10 5 2 1),
    (0xC8E829A0, .vrcp 3 10 5 3 2), (0xC8E828B1, .vrsq 3 10 5 1 3), (0xCCE82940, .vexp2 3 10 5 2 4),
    (0xCCE829D1, .vlog2 3 10 5 3 5), (0xD0E82880, .vsin 3 10 5 1 0), (0xD0E82911, .vcos 3 10 5 2 1),
    (0xD4E829A0, .vtanh 3 10 5 3 2), (0xD8E82B89, .vred 3 10 5 7 0 9), (0xFAABCDEF, .imm32 44813807)] : List (Nat × Instr)).all (fun x => (decodeB x.1).toOption == some x.2) = true := by
  decide

/-- Words of logit program, each field at a value of its own, laid out by hand as the encoding tables place the fields (R190 to R201). -/
theorem test_words_logit_1 : ([
    (0x00000000, .lnop), (0x04C00000, .lldk 3), (0x08C00000, .lcnt 3), (0x0CC00000, .lhis 3), (0x10C00000, .lbia 3),
    (0x14E80000, .lban 3 10), (0x18E94000, .ladd 3 10 5), (0x1CE94000, .lsub 3 10 5), (0x20E94000, .lmul 3 10 5),
    (0x24E94005, .lsel 3 10 5 5), (0x28E94005, .lcmp 3 10 5 5), (0x2CE94000, .lmax 3 10 5), (0x30E94000, .lmin 3 10 5),
    (0x34E80005, .lscl 3 10 5), (0x38E94000, .lclp 3 10 5), (0x3CE94005, .lpen 3 10 5 5)] : List (Nat × Instr)).all (fun x => (decodeL x.1).toOption == some x.2) = true := by
  decide

/-- Words of logit program, each field at a value of its own, laid out by hand as the encoding tables place the fields (R190 to R201). -/
theorem test_words_logit_2 : ([
    (0x40280000, .ltopk 10), (0x44E80000, .lmov 3 10), (0x48C02005, .limmConst 3 5), (0x48C0000C, .limmValue 3 12),
    (0xFC000000, .lhalt)] : List (Nat × Instr)).all (fun x => (decodeL x.1).toOption == some x.2) = true := by
  decide


/-! ## Words of the spec's own examples (R192, R205, R212, R225, R251 to R272, R281, R286, R288) -/

/-- Bundles that the chapters print with their assembly. -/
theorem test_spec_bundles : ([
    (0x0231900004400880, ⟨.add 0 3 3 4, .vadd 1 0 0 1 1 0 0⟩), (0x06108345F8000048, ⟨.addi 0 1 1 0x345, .imm32 0x48⟩),
    (0x7E04390000000000, ⟨.rep 2 7 1, .nopv⟩), (0xE2948C00FA820003, ⟨.rcall 1 9 9 3 0 0, .imm32 0x2820003⟩),
    (0x7E05810000000000, ⟨.rep 2 48 1, .nopv⟩), (0x12208EA000000000, ⟨.bfx 0 2 1 7 20, .nopv⟩),
    (0x3851000800000000, ⟨.ldw 0 5 2 8, .nopv⟩), (0x38510000F8000004, ⟨.ldw 0 5 2 0, .imm32 4⟩),
    (0x80000000CC400080, ⟨.nop 1, .vexp2 1 0 0 1 0⟩), (0, ⟨.nop 0, .nopv⟩), (0x8000000000000000, ⟨.nop 1, .nopv⟩)] : List (Nat × Bundle)).all
    (fun x => (decodeBundle x.1).toOption == some x.2) = true := by decide

/-- Words that the chapters print on their own. -/
theorem test_spec_words :
    ([(0x5E000015, .fence 0 5 1), (0x5E000016, .fence 0 5 2), (0xD850991A, .amoc 1 5 1 6 1), (0x60008003, .spawn 0 0 1 0 0 0 3), (0x64300800, .rret 0 3 0 1 0),
      (0x68310002, .gbar 0 3 2), (0x70C00000, .push 0 12 0), (0xF3000000, .pop 1 16 0), (0x74000000, .semp 0 0), (0x74000100, .semv 0 0), (0x7A401C04, .vwid 0 4 4),
      (0x7A00002A, .trap 0 0x2A), (0x7A000405, .brk 0 5), (0x20818BFB, .bcc 0 2 3 2 0x3FB)] : List (Nat × Instr)).all (fun x => (decodeA x.1).toOption == some x.2) = true ∧
    ([(0x62000000, .vmov 8 0 0), (0x804C8381, .pwhile 1 3 2 0 7 1)] : List (Nat × Instr)).all (fun x => (decodeB x.1).toOption == some x.2) = true ∧
    ([(0, .lnop), (0xFC000000, .lhalt)] : List (Nat × Instr)).all (fun x => (decodeL x.1).toOption == some x.2) = true := by decide

/-- The worked cases of R205: a legal pair outside the remote subset, an unaccepted format in slot B, a reserved bit in slot A. -/
theorem test_spec_illegal :
    (decodeBundle 0x74000000A0000100).toOption = some ⟨.semp 0 0, .vtod 0 0 0 2 0⟩ ∧
    (match decodeBundle 0x74000000A0000000 with | .error e => (e.slotB, e.cause.reason) == (true, 7) | .ok _ => false) = true ∧
    (match decodeBundle 0x74000010A0000100 with | .error e => (e.slotB, e.cause.reason) == (false, 2) | .ok _ => false) = true := by decide

/-! ## One step each -/

/-- The state after an instruction. -/
def ran (i : Instr) (s : State) : State := match exec i s with | .next t => t | _ => s
/-- Scalar register r of thread 0. -/
def sReg (r : BitVec 5) (s : State) : BitVec 64 := (s.getWs 0).getS r
/-- Vector register r of thread 0, as a number. -/
def vReg (r : BitVec 4) (s : State) : Nat := ((s.getWs 0).getV r).toNat
/-- What thread 0's pending results will write. -/
def due (s : State) : List RegWrite := (s.thr 0).pend.flatMap fun p => p.writes
/-- CAUSE and INFO of thread 0's trap record. -/
def trapOf (s : State) : Nat × Nat := ((recCause (s.getWs 0).trap).toNat, (recInfo (s.getWs 0).trap).toNat)
/-- With vector register r holding x under a tag. -/
def withV (r : BitVec 4) (x : Nat) (t : BitVec 4) (s : State) : State := s.upd fun w => (w.setV r (BitVec.ofNat 512 x)).setVtag r t
/-- s1 and s2. -/
def ab (x y : Nat) : State := withS 1 (BitVec.ofNat 64 x) (withS 2 (BitVec.ofNat 64 y) base)

/-! ### Scalar -/

theorem test_add_wraps : sReg 3 (ran (.add 0 3 1 2) (ab 0xFFFFFFFFFFFFFFFF 2)) = 1 := by decide +kernel
theorem test_sub_order : sReg 1 (ran (.sub 0 1 1 2) (ab 5 7)) = 0xFFFFFFFFFFFFFFFE := by decide +kernel
theorem test_mulh_signs : sReg 3 (ran (.mulh 0 3 1 2) (ab 0xFFFFFFFFFFFFFFFF 2)) = 0xFFFFFFFFFFFFFFFF ∧ sReg 3 (ran (.mulhn 0 3 1 2) (ab 0xFFFFFFFFFFFFFFFF 2)) = 1 := by decide +kernel
theorem test_div_corners : [(7, 0, 0xFFFFFFFFFFFFFFFF), (0x8000000000000000, 0xFFFFFFFFFFFFFFFF, 0x8000000000000000), (0xFFFFFFFFFFFFFFF9, 2, 0xFFFFFFFFFFFFFFFD)].all
    (fun x => decide (sReg 3 (ran (.div 0 3 1 2) (ab x.1 x.2.1)) = x.2.2)) = true := by decide +kernel
theorem test_rem_corners : [(7, 0, 7), (0xFFFFFFFFFFFFFFF9, 2, 0xFFFFFFFFFFFFFFFF)].all (fun x => decide (sReg 3 (ran (.rem 0 3 1 2) (ab x.1 x.2.1)) = x.2.2)) = true ∧
    sReg 3 (ran (.remn 0 3 1 2) (ab 7 4)) = 3 := by decide +kernel
theorem test_sra_keeps_sign : sReg 3 (ran (.sra 0 3 1 2) (ab 0x8000000000000000 63)) = 0xFFFFFFFFFFFFFFFF ∧ sReg 3 (ran (.shr 0 3 1 2) (ab 0x8000000000000000 63)) = 1 := by decide +kernel
theorem test_slt_sltn : sReg 3 (ran (.slt 0 3 1 2) (ab 0xFFFFFFFFFFFFFFFF 1)) = 1 ∧ sReg 3 (ran (.sltn 0 3 1 2) (ab 0xFFFFFFFFFFFFFFFF 1)) = 0 := by decide +kernel
theorem test_min_minn : sReg 3 (ran (.min 0 3 1 2) (ab 0xFFFFFFFFFFFFFFFF 1)) = 0xFFFFFFFFFFFFFFFF ∧ sReg 3 (ran (.minn 0 3 1 2) (ab 0xFFFFFFFFFFFFFFFF 1)) = 1 := by decide +kernel
theorem test_clz_popc : sReg 3 (ran (.clz 0 3 1) (ab 0 0)) = 64 ∧ sReg 3 (ran (.clz 0 3 1) (ab 1 0)) = 63 ∧ sReg 3 (ran (.popc 0 3 1) (ab 0xF0F 0)) = 8 := by decide +kernel
theorem test_addi_sign : sReg 3 (ran (.addi 0 3 1 0x3FF) (ab 5 0)) = 4 := by decide +kernel
theorem test_ori_natural : sReg 3 (ran (.ori 0 3 1 0x2F0) (withImm 0x26AF37 (ab 0 0))) = 0x9ABCDEF0 := by decide +kernel
theorem test_limh_keeps_low : sReg 1 (ran (.limh 0 1 0x278) (withImm 0x48D15 (ab 0x9ABCDEF0 0))) = 0x123456789ABCDEF0 := by decide +kernel
theorem test_bfx_cause : sReg 2 (ran (.bfx 0 2 1 7 20) (ab 0x0AB12345 0)) = 0xAB := by decide +kernel
theorem test_bfi_keeps : sReg 3 (ran (.bfi 0 3 1 7 8) (withS 3 0xFFFFFFFF (ab 0x112 0))) = 0xFFFF12FF := by decide +kernel
theorem test_lea_own : sReg 3 (ran (.lea 0 3 0 0x100) base) = 0xC00000000100 ∧ sReg 3 (ran (.lea 0 3 1 0x3F8) base) = 0xF8 := by decide +kernel
theorem test_leap_example : let s := withS 4 0xCADB60000100 (onCore 250380 id)
    ((ran (.leap 0 4 4 13) s).getWs 250380).getS 4 = 0xCAD9A0000100 := by decide +kernel
theorem test_bcc_example : ((ran (.bcc 0 2 3 2 0x3FB) (withS 3 1 (ab 0 2))).getWs 0).pc = 0xD8 ∧ ((ran (.bcc 0 2 3 2 0x3FB) (withS 3 2 (ab 0 2))).getWs 0).pc = 0x108 := by decide +kernel
theorem test_jal_links : sReg 3 (ran (.jal 0 3 2) base) = 0x108 ∧ ((ran (.jal 0 3 2) base).getWs 0).pc = 0x110 := by decide +kernel
theorem test_jr_misaligned : trapOf (ran (.jr 0 1) (ab 0x104 0)) = (4, 3) ∧ ((ran (.jr 0 1) (ab 0x208 0)).getWs 0).pc = 0x208 := by decide +kernel
theorem test_vwid_lanes : [(0, 0x40), (1, 64), (2, 32), (4, 16)].all (fun x => decide (sReg 4 (ran (.vwid 0 4 x.1) base) = x.2)) = true := by decide +kernel
theorem test_csrw_mode : trapOf (ran (.csrw 0 1 5) (ab 6 0)) = (1, 6) ∧ ((ran (.csrw 0 1 5) (ab 5 0)).getWs 0).mode = 5 := by decide +kernel

/-! ### Memory -/

theorem test_ldb_sign : sReg 3 (ran (.ldb 0 3 1 0) ((ab pad0 0).wrByte pad0 0x80)) = 0xFFFFFFFFFFFFFF80 ∧ sReg 3 (ran (.ldbz 0 3 1 0) ((ab pad0 0).wrByte pad0 0x80)) = 0x80 := by decide +kernel
theorem test_std_bytes : let s := ran (.std 0 2 1 8) (ab pad0 0x1122334455667788)
    (s.rdByte (pad0 + 8), s.rdByte (pad0 + 15), s.rdByte (pad0 + 16)) = (0x88, 0x11, 0) := by decide +kernel
theorem test_sth_misaligned : trapOf (ran (.sth 0 2 1 1) (ab pad0 0)) = (4, 9) := by decide +kernel

/-! ### Vectors -/

theorem test_vadd_saturates : vReg 3 (ran (.vadd 3 1 2 1 5 0 3) ((withV 1 0xF0 5 (withV 2 0x20 5 base)).upd fun w => w.setP 1 1)) = 0xFF ∧
    vReg 3 (ran (.vadd 3 1 2 1 5 0 1) ((withV 1 0xF0 5 (withV 2 0x20 5 base)).upd fun w => w.setP 1 1)) = 0x10 := by decide +kernel
theorem test_vadd_tags : trapOf (ran (.vadd 3 1 2 0 1 0 0) (withV 1 0 2 (withV 2 0 1 base))) = (3, 1 + 2 * 256 + 1 * 4096) := by decide +kernel
theorem test_vcvt_e4m3 : let s := withV 1 0x43960000 1 base
    (vReg 3 (ran (.vcvt 3 1 0 0 4 0 1) s) % 256, vReg 3 (ran (.vcvt 3 1 0 0 4 2 1) s) % 256, (((ran (.vcvt 3 1 0 0 4 0 1) s).getWs 0).flags).toNat) = (0x79, 0x7A, 1) := by decide +kernel
theorem test_vcvt_part : let s := ran (.vcvt 5 2 1 0 3 0 1) (withV 2 0x3F818000 1 (withV 5 0x1234 3 base))
    vReg 5 s = 0x3F82 * 2 ^ 256 + 0x1234 := by decide +kernel
theorem test_vord_keys : vReg 2 (ran (.vord 2 1 0 2 0) (withV 1 0x3C0000008000C000 2 base)) % 2 ^ 64 = 0xBC0080007FFF3FFF ∧
    vReg 2 (ran (.vord 2 1 0 2 1) (withV 1 0x3C0000008000C000 2 base)) % 2 ^ 64 = 0x43FF7FFF8000C000 := by decide +kernel
theorem test_vdig_example : vReg 2 (ran (.vdig 2 1 0 6 3 12) (withV 1 0xBC00 6 base)) % 65536 = 0xB := by decide +kernel
theorem test_vred_tree : vReg 2 (ran (.vred 2 1 0 1 0 0) (withV 1 0x3F8000003F8000003F8000004B800000 1 base)) % 2 ^ 32 = 0x4B800001 := by decide +kernel
theorem test_pwhile_lanes : (((ran (.pwhile 1 1 2 0 7 1) (ab 5 20)).getWs 0).getP 1).toNat = 2 ^ 60 - 1 := by decide +kernel
theorem test_vcmp_nan : (((ran (.vcmp 1 1 1 0 1 0) (withV 1 0x7FC00000 1 base)).getWs 0).getP 1).getLsbD 0 = false := by decide +kernel

/-! ### Directions, merges, barriers, trees -/

theorem test_vtod_example : due (ran (.vtod 0 1 0 2 0) (withV 1 0x44004200 2 base)) = [.d 0 (BitVec.ofNat 512 0x33332666), .n 0 0x004A4D3C] := by decide +kernel
theorem test_combine_line : combine ⟨0x40400000, 0x3FC00000, []⟩ ⟨0x40A00000, 0x40000000, []⟩ = ⟨0x40A00000, 0x40180000, []⟩ ∧
    combine ⟨0x40A00000, 0x40180000, []⟩ ⟨0x40800000, 0x3F800000, []⟩ = ⟨0x40A00000, 0x40380000, []⟩ := by decide +kernel
theorem test_tree_parents : (([0xFFFF, 0, 0, 1, 3].zipIdx).all fun x => !treeBad 5 x.2 x.1) = true ∧ treeBad 5 3 3 = true ∧ treeBad 5 3 4 = true ∧ treeBad 5 0 0 = true := by decide +kernel

/-! ### System -/

theorem test_trap_code : trapOf (ran (.trap 0 0x2A) base) = (0x14, 0x2A) ∧ trapOf (ran (.brk 0 5) base) = (0x13, 5) := by decide +kernel
theorem test_exit_waits : ((ran (.exit 0) base).thr 0).park = .exit (State.issSrc base) ∧ trapOf (ran (.exit 0) base) = (0, 0) := by decide +kernel
/-- A bundle whose slot A is misaligned (LDD of 1) and whose slot B finds a wrong tag: slot B's trap is the earlier stage. -/
theorem test_trap_stages : (match step (State.reset.withBundle 0x3C30800104C48080) with
    | .next t => (recCause (t.getWs 0).trap, (t.getWs 0).trap.getLsbD 2, (recPc (t.getWs 0).trap)) == (3, true, 0)
    | _ => false) = true := by decide +kernel
/-- A turn runs both slots: ADDI s1 of the widened 0x12345 and PC past the bundle. -/
theorem test_turn_runs : (match step (State.reset.withBundle 0x06108345F8000048) with
    | .next t => ((t.getWs 0).getS 1, (t.getWs 0).pc, (t.thr 0).occ) == (0x12345, 8, true)
    | _ => false) = true := by decide +kernel

/-! ### Draws, budgets, blocks -/

/-- The cumulative weights of the worked draw: two entries of 3.0 and one of 1.0 under a maximum of 3.0. -/
theorem test_cumulative_weights : (cumWeights 0x40400000 0 [⟨5, 0x40400000⟩, ⟨9, 0x40400000⟩, ⟨2, 0x3F800000⟩]).map (fun x => (convFF .v40 .f32 0 0 x).1) = [0x3F800000, 0x40000000, 0x4008A955] := by decide +kernel
/-- A die's thermal switch. -/
theorem test_thermal : (hotNext false 45 45, hotNext false 45 46, hotNext true 45 41, hotNext true 45 40, hotNext true 105 101, hotNext true 105 100) = (false, true, true, false, true, false) := by decide

end Sys2Proof.Tests
end

section
/-! SUPPORT. The words of a bundle (R190): every row's word decodes to it, a word has 32 bits, a pair of words that goes together
decodes as its two words do, and a bundle's bytes hold its word. -/

namespace Sys2Proof.Laws

/-- Every row of the opcode table, by its own lemma. -/
theorem roundTrip (i : Instr) : RoundTrip.Statement i :=
  match i with
  | .nop _ => RoundTrip.nop _ | .add _ _ _ _ => RoundTrip.add _ _ _ _ | .sub _ _ _ _ => RoundTrip.sub _ _ _ _
  | .and _ _ _ _ => RoundTrip.and _ _ _ _ | .or _ _ _ _ => RoundTrip.or _ _ _ _ | .xor _ _ _ _ => RoundTrip.xor _ _ _ _
  | .shl _ _ _ _ => RoundTrip.shl _ _ _ _ | .shr _ _ _ _ => RoundTrip.shr _ _ _ _ | .sra _ _ _ _ => RoundTrip.sra _ _ _ _
  | .slt _ _ _ _ => RoundTrip.slt _ _ _ _ | .sltn _ _ _ _ => RoundTrip.sltn _ _ _ _ | .min _ _ _ _ => RoundTrip.min _ _ _ _
  | .max _ _ _ _ => RoundTrip.max _ _ _ _ | .minn _ _ _ _ => RoundTrip.minn _ _ _ _ | .maxn _ _ _ _ => RoundTrip.maxn _ _ _ _
  | .sel _ _ _ _ => RoundTrip.sel _ _ _ _ | .clz _ _ _ => RoundTrip.clz _ _ _ | .popc _ _ _ => RoundTrip.popc _ _ _
  | .mul _ _ _ _ => RoundTrip.mul _ _ _ _ | .mulh _ _ _ _ => RoundTrip.mulh _ _ _ _ | .mulhn _ _ _ _ => RoundTrip.mulhn _ _ _ _
  | .div _ _ _ _ => RoundTrip.div _ _ _ _ | .divn _ _ _ _ => RoundTrip.divn _ _ _ _ | .rem _ _ _ _ => RoundTrip.rem _ _ _ _
  | .remn _ _ _ _ => RoundTrip.remn _ _ _ _ | .addi _ _ _ _ => RoundTrip.addi _ _ _ _ | .andi _ _ _ _ => RoundTrip.andi _ _ _ _
  | .ori _ _ _ _ => RoundTrip.ori _ _ _ _ | .xori _ _ _ _ => RoundTrip.xori _ _ _ _ | .slti _ _ _ _ => RoundTrip.slti _ _ _ _
  | .shli _ _ _ _ => RoundTrip.shli _ _ _ _ | .shri _ _ _ _ => RoundTrip.shri _ _ _ _ | .srai _ _ _ _ => RoundTrip.srai _ _ _ _
  | .bfx _ _ _ _ _ => RoundTrip.bfx _ _ _ _ _ | .bfi _ _ _ _ _ => RoundTrip.bfi _ _ _ _ _ | .limh _ _ _ => RoundTrip.limh _ _ _
  | .lea _ _ _ _ => RoundTrip.lea _ _ _ _ | .leap _ _ _ _ => RoundTrip.leap _ _ _ _ | .bcc _ _ _ _ _ => RoundTrip.bcc _ _ _ _ _
  | .bccz _ _ _ _ => RoundTrip.bccz _ _ _ _ | .jmp _ _ => RoundTrip.jmp _ _ | .jal _ _ _ => RoundTrip.jal _ _ _
  | .jr _ _ => RoundTrip.jr _ _ | .exit _ => RoundTrip.exit _ | .ldb _ _ _ _ => RoundTrip.ldb _ _ _ _
  | .ldbz _ _ _ _ => RoundTrip.ldbz _ _ _ _ | .ldh _ _ _ _ => RoundTrip.ldh _ _ _ _ | .ldhz _ _ _ _ => RoundTrip.ldhz _ _ _ _
  | .ldw _ _ _ _ => RoundTrip.ldw _ _ _ _ | .ldwz _ _ _ _ => RoundTrip.ldwz _ _ _ _ | .ldd _ _ _ _ => RoundTrip.ldd _ _ _ _
  | .stb _ _ _ _ => RoundTrip.stb _ _ _ _ | .sth _ _ _ _ => RoundTrip.sth _ _ _ _ | .stw _ _ _ _ => RoundTrip.stw _ _ _ _
  | .std _ _ _ _ => RoundTrip.std _ _ _ _ | .vld _ _ _ _ _ _ => RoundTrip.vld _ _ _ _ _ _ | .vst _ _ _ _ _ => RoundTrip.vst _ _ _ _ _
  | .vlds _ _ _ _ _ _ => RoundTrip.vlds _ _ _ _ _ _ | .vgth _ _ _ _ _ _ => RoundTrip.vgth _ _ _ _ _ _
  | .vsct _ _ _ _ _ _ => RoundTrip.vsct _ _ _ _ _ _ | .ldv _ _ _ _ _ => RoundTrip.ldv _ _ _ _ _ | .stv _ _ _ _ => RoundTrip.stv _ _ _ _
  | .ldfe _ _ _ _ => RoundTrip.ldfe _ _ _ _ | .stfe _ _ _ _ => RoundTrip.stfe _ _ _ _ | .amo _ _ _ _ _ _ => RoundTrip.amo _ _ _ _ _ _
  | .amoc _ _ _ _ _ => RoundTrip.amoc _ _ _ _ _ | .red _ _ _ _ _ => RoundTrip.red _ _ _ _ _ | .vrcl _ _ _ => RoundTrip.vrcl _ _ _
  | .watch _ _ _ => RoundTrip.watch _ _ _ | .unwatch _ _ => RoundTrip.unwatch _ _ | .wait _ => RoundTrip.wait _
  | .pfh _ _ => RoundTrip.pfh _ _ | .tcls _ _ _ _ => RoundTrip.tcls _ _ _ _ | .fence _ _ _ => RoundTrip.fence _ _ _
  | .spawn _ _ _ _ _ _ _ => RoundTrip.spawn _ _ _ _ _ _ _ | .rcall _ _ _ _ _ _ => RoundTrip.rcall _ _ _ _ _ _
  | .rret _ _ _ _ _ => RoundTrip.rret _ _ _ _ _ | .migr _ _ => RoundTrip.migr _ _ | .join _ _ => RoundTrip.join _ _
  | .leave _ _ => RoundTrip.leave _ _ | .gbar _ _ _ => RoundTrip.gbar _ _ _ | .gbard _ _ => RoundTrip.gbard _ _
  | .gqry _ _ _ => RoundTrip.gqry _ _ _ | .spec _ => RoundTrip.spec _ | .commit _ _ => RoundTrip.commit _ _ | .abort _ => RoundTrip.abort _
  | .pmrg _ _ _ _ _ _ => RoundTrip.pmrg _ _ _ _ _ _ | .send _ _ _ => RoundTrip.send _ _ _ | .recv _ _ => RoundTrip.recv _ _
  | .push _ _ _ => RoundTrip.push _ _ _ | .pop _ _ _ => RoundTrip.pop _ _ _ | .fstat _ _ _ => RoundTrip.fstat _ _ _
  | .semp _ _ => RoundTrip.semp _ _ | .semv _ _ => RoundTrip.semv _ _ | .evpop _ _ => RoundTrip.evpop _ _
  | .hget _ _ _ => RoundTrip.hget _ _ _ | .hclr _ => RoundTrip.hclr _ | .csrr _ _ _ => RoundTrip.csrr _ _ _
  | .csrw _ _ _ => RoundTrip.csrw _ _ _ | .trap _ _ => RoundTrip.trap _ _ | .brk _ _ => RoundTrip.brk _ _
  | .rte _ _ _ _ => RoundTrip.rte _ _ _ _ | .idle _ _ => RoundTrip.idle _ _ | .frz _ _ _ => RoundTrip.frz _ _ _
  | .thaw _ _ _ => RoundTrip.thaw _ _ _ | .slotq _ _ _ => RoundTrip.slotq _ _ _ | .vwid _ _ _ => RoundTrip.vwid _ _ _
  | .rdtk _ _ => RoundTrip.rdtk _ _ | .sbsr _ _ _ => RoundTrip.sbsr _ _ _ | .duskDrain _ _ _ => RoundTrip.duskDrain _ _ _
  | .duskRelease _ _ _ => RoundTrip.duskRelease _ _ _ | .lcmw _ _ _ _ => RoundTrip.lcmw _ _ _ _ | .scan _ _ _ => RoundTrip.scan _ _ _
  | .rep _ _ _ => RoundTrip.rep _ _ _ | .nopv => RoundTrip.nopv | .vadd _ _ _ _ _ _ _ => RoundTrip.vadd _ _ _ _ _ _ _
  | .vsub _ _ _ _ _ _ _ => RoundTrip.vsub _ _ _ _ _ _ _ | .vmul _ _ _ _ _ _ _ => RoundTrip.vmul _ _ _ _ _ _ _
  | .vfma _ _ _ _ _ _ _ => RoundTrip.vfma _ _ _ _ _ _ _ | .vfms _ _ _ _ _ _ _ => RoundTrip.vfms _ _ _ _ _ _ _
  | .vmin _ _ _ _ _ _ => RoundTrip.vmin _ _ _ _ _ _ | .vmax _ _ _ _ _ _ => RoundTrip.vmax _ _ _ _ _ _
  | .vabs _ _ _ _ _ => RoundTrip.vabs _ _ _ _ _ | .vneg _ _ _ _ _ => RoundTrip.vneg _ _ _ _ _
  | .vcmp _ _ _ _ _ _ => RoundTrip.vcmp _ _ _ _ _ _ | .vsel _ _ _ _ => RoundTrip.vsel _ _ _ _ | .vand _ _ _ _ => RoundTrip.vand _ _ _ _
  | .vor _ _ _ _ => RoundTrip.vor _ _ _ _ | .vxor _ _ _ _ => RoundTrip.vxor _ _ _ _ | .vnot _ _ _ => RoundTrip.vnot _ _ _
  | .vshl _ _ _ _ _ _ => RoundTrip.vshl _ _ _ _ _ _ | .vshr _ _ _ _ _ _ => RoundTrip.vshr _ _ _ _ _ _
  | .vsra _ _ _ _ _ _ => RoundTrip.vsra _ _ _ _ _ _ | .vcvt _ _ _ _ _ _ _ => RoundTrip.vcvt _ _ _ _ _ _ _
  | .vperm _ _ _ _ _ => RoundTrip.vperm _ _ _ _ _ | .vbcast _ _ _ _ => RoundTrip.vbcast _ _ _ _
  | .vextr _ _ _ _ _ => RoundTrip.vextr _ _ _ _ _ | .vins _ _ _ _ => RoundTrip.vins _ _ _ _ | .vmov _ _ _ => RoundTrip.vmov _ _ _
  | .viota _ _ _ _ => RoundTrip.viota _ _ _ _ | .vord _ _ _ _ _ => RoundTrip.vord _ _ _ _ _
  | .vdig _ _ _ _ _ _ => RoundTrip.vdig _ _ _ _ _ _ | .vhadd _ _ _ _ _ _ => RoundTrip.vhadd _ _ _ _ _ _
  | .pwhile _ _ _ _ _ _ => RoundTrip.pwhile _ _ _ _ _ _ | .pand _ _ _ _ => RoundTrip.pand _ _ _ _ | .por _ _ _ _ => RoundTrip.por _ _ _ _
  | .pxor _ _ _ _ => RoundTrip.pxor _ _ _ _ | .pnot _ _ _ => RoundTrip.pnot _ _ _ | .pcnt _ _ _ _ => RoundTrip.pcnt _ _ _ _
  | .pfirst _ _ _ _ => RoundTrip.pfirst _ _ _ _ | .pset _ _ _ _ => RoundTrip.pset _ _ _ _ | .vtod _ _ _ _ _ => RoundTrip.vtod _ _ _ _ _
  | .dtov _ _ _ _ _ => RoundTrip.dtov _ _ _ _ _ | .dadd _ _ _ _ _ => RoundTrip.dadd _ _ _ _ _ | .dsub _ _ _ _ _ => RoundTrip.dsub _ _ _ _ _
  | .dscl _ _ _ => RoundTrip.dscl _ _ _ | .dsetn _ _ _ => RoundTrip.dsetn _ _ _ | .dneg _ _ _ => RoundTrip.dneg _ _ _
  | .dmov _ _ _ => RoundTrip.dmov _ _ _ | .dcos _ _ _ _ _ => RoundTrip.dcos _ _ _ _ _ | .dnrm _ _ _ _ => RoundTrip.dnrm _ _ _ _
  | .dren _ _ _ _ => RoundTrip.dren _ _ _ _ | .dlerp _ _ _ _ _ _ => RoundTrip.dlerp _ _ _ _ _ _
  | .vdiv _ _ _ _ _ _ => RoundTrip.vdiv _ _ _ _ _ _ | .vsqrt _ _ _ _ _ => RoundTrip.vsqrt _ _ _ _ _
  | .vrcp _ _ _ _ _ => RoundTrip.vrcp _ _ _ _ _ | .vrsq _ _ _ _ _ => RoundTrip.vrsq _ _ _ _ _
  | .vexp2 _ _ _ _ _ => RoundTrip.vexp2 _ _ _ _ _ | .vlog2 _ _ _ _ _ => RoundTrip.vlog2 _ _ _ _ _
  | .vsin _ _ _ _ _ => RoundTrip.vsin _ _ _ _ _ | .vcos _ _ _ _ _ => RoundTrip.vcos _ _ _ _ _
  | .vtanh _ _ _ _ _ => RoundTrip.vtanh _ _ _ _ _ | .vred _ _ _ _ _ _ => RoundTrip.vred _ _ _ _ _ _ | .imm32 _ => RoundTrip.imm32 _
  | .lnop => RoundTrip.lnop | .lldk _ => RoundTrip.lldk _ | .lcnt _ => RoundTrip.lcnt _ | .lhis _ => RoundTrip.lhis _
  | .lbia _ => RoundTrip.lbia _ | .lban _ _ => RoundTrip.lban _ _ | .ladd _ _ _ => RoundTrip.ladd _ _ _
  | .lsub _ _ _ => RoundTrip.lsub _ _ _ | .lmul _ _ _ => RoundTrip.lmul _ _ _ | .lsel _ _ _ _ => RoundTrip.lsel _ _ _ _
  | .lcmp _ _ _ _ => RoundTrip.lcmp _ _ _ _ | .lmax _ _ _ => RoundTrip.lmax _ _ _ | .lmin _ _ _ => RoundTrip.lmin _ _ _
  | .lscl _ _ _ => RoundTrip.lscl _ _ _ | .lclp _ _ _ => RoundTrip.lclp _ _ _ | .lpen _ _ _ _ => RoundTrip.lpen _ _ _ _
  | .ltopk _ => RoundTrip.ltopk _ | .lmov _ _ => RoundTrip.lmov _ _ | .limmConst _ _ => RoundTrip.limmConst _ _
  | .limmValue _ _ => RoundTrip.limmValue _ _ | .lhalt => RoundTrip.lhalt | .cld _ _ => RoundTrip.cld _ _
  | .cldSectorReply _ _ _ => RoundTrip.cldSectorReply _ _ _ | .wld _ _ => RoundTrip.wld _ _ | .ald _ _ => RoundTrip.ald _ _
  | .ast _ _ => RoundTrip.ast _ _ | .czr _ _ => RoundTrip.czr _ _ | .crd _ _ => RoundTrip.crd _ _ | .cvt _ _ => RoundTrip.cvt _ _
  | .cpy _ _ => RoundTrip.cpy _ _ | .gth _ _ => RoundTrip.gth _ _ | .sct _ _ => RoundTrip.sct _ _ | .xfr _ _ => RoundTrip.xfr _ _
  | .fill _ _ => RoundTrip.fill _ _ | .tdsc _ _ => RoundTrip.tdsc _ _ | .smx _ _ => RoundTrip.smx _ _ | .save _ _ => RoundTrip.save _ _
  | .rstr _ _ => RoundTrip.rstr _ _ | .completionPost _ _ _ => RoundTrip.completionPost _ _ _
  | .launch _ _ _ _ _ _ => RoundTrip.launch _ _ _ _ _ _ | .dispatch _ => RoundTrip.dispatch _ | .taskRetire _ _ => RoundTrip.taskRetire _ _
  | .preemptThaw _ => RoundTrip.preemptThaw _ | .requestArrival _ _ => RoundTrip.requestArrival _ _
  | .longLatencyResult _ _ => RoundTrip.longLatencyResult _ _ | .refusal _ => RoundTrip.refusal _ | .retryLimit _ => RoundTrip.retryLimit _
  | .drainedResend _ => RoundTrip.drainedResend _ | .deferredTrap _ => RoundTrip.deferredTrap _
  | .spawnArrival _ => RoundTrip.spawnArrival _ | .spawnAnswer _ => RoundTrip.spawnAnswer _
  | .spawnCountRefresh _ => RoundTrip.spawnCountRefresh _ | .rcallArrival _ => RoundTrip.rcallArrival _
  | .rcallReply _ => RoundTrip.rcallReply _ | .faultRecord _ => RoundTrip.faultRecord _ | .rcallTimeout _ _ => RoundTrip.rcallTimeout _ _
  | .migrArrival _ => RoundTrip.migrArrival _ | .migrAnswer _ => RoundTrip.migrAnswer _
  | .parkedArrivalStart _ => RoundTrip.parkedArrivalStart _ | .sendArrival _ => RoundTrip.sendArrival _
  | .redArrival _ => RoundTrip.redArrival _ | .inboxWrite _ => RoundTrip.inboxWrite _ | .barrierHomeApply _ => RoundTrip.barrierHomeApply _
  | .barrierPoll _ => RoundTrip.barrierPoll _ | .walkComplete _ _ => RoundTrip.walkComplete _ _
  | .streamFaultTimeout _ _ => RoundTrip.streamFaultTimeout _ _ | .fltpop _ => RoundTrip.fltpop _
  | .fltrspReplay _ _ => RoundTrip.fltrspReplay _ _ | .fltrspFail _ _ => RoundTrip.fltrspFail _ _
  | .tinvPage _ _ _ => RoundTrip.tinvPage _ _ _ | .tinvAll _ _ => RoundTrip.tinvAll _ _
  | .invalidationDone _ => RoundTrip.invalidationDone _ | .ctxbaseWrite _ => RoundTrip.ctxbaseWrite _
  | .stkownWrite _ _ => RoundTrip.stkownWrite _ _ | .ownerWrite _ _ => RoundTrip.ownerWrite _ _ | .scrubDone _ => RoundTrip.scrubDone _
  | .errpop _ => RoundTrip.errpop _ | .registerWrite _ _ _ => RoundTrip.registerWrite _ _ _ | .treeld _ _ => RoundTrip.treeld _ _
  | .clgo _ _ => RoundTrip.clgo _ _ | .collectiveDone _ _ => RoundTrip.collectiveDone _ _
  | .budgetPeriod _ _ _ _ => RoundTrip.budgetPeriod _ _ _ _ | .hotPagePeriod _ => RoundTrip.hotPagePeriod _
  | .rfmpb _ _ _ => RoundTrip.rfmpb _ _ _ | .starve _ _ => RoundTrip.starve _ _
  | .packetReassembled _ _ _ _ => RoundTrip.packetReassembled _ _ _ _ | .bridgeForward _ => RoundTrip.bridgeForward _
  | .linkFlitReceive _ _ => RoundTrip.linkFlitReceive _ _ | .linkReplay _ _ => RoundTrip.linkReplay _ _
  | .linkRetrain _ => RoundTrip.linkRetrain _ | .linkRetrainDone _ _ => RoundTrip.linkRetrainDone _ _ | .linkdown _ => RoundTrip.linkdown _
  | .inboundRequest _ _ _ _ _ _ _ _ _ => RoundTrip.inboundRequest _ _ _ _ _ _ _ _ _ | .fabricGrant _ _ => RoundTrip.fabricGrant _ _
  | .fabricRevoke _ _ => RoundTrip.fabricRevoke _ _ | .bind _ _ => RoundTrip.bind _ _ | .unbind _ _ => RoundTrip.unbind _ _
  | .logitStore _ _ => RoundTrip.logitStore _ _ | .chunkRun _ _ => RoundTrip.chunkRun _ _ | .samplerResend _ => RoundTrip.samplerResend _
  | .drainComplete _ => RoundTrip.drainComplete _ | .scanBlockDone _ _ => RoundTrip.scanBlockDone _ _
  | .scanAbort _ => RoundTrip.scanAbort _ | .scanClearDone _ => RoundTrip.scanClearDone _ | .wear _ _ _ _ => RoundTrip.wear _ _ _ _
  | .dawn _ => RoundTrip.dawn _ | .firmwareImage _ _ _ _ _ _ _ => RoundTrip.firmwareImage _ _ _ _ _ _ _
  | .attestationQuote _ => RoundTrip.attestationQuote _ | .managementQuery _ => RoundTrip.managementQuery _
  | .refresh _ _ => RoundTrip.refresh _ _ | .hopCycle _ => RoundTrip.hopCycle _ | .linkAcknowledge _ _ => RoundTrip.linkAcknowledge _ _
  | .collectiveValueReceived _ _ _ _ => RoundTrip.collectiveValueReceived _ _ _ _ | .frameCopyDone _ => RoundTrip.frameCopyDone _
  | .allocation _ _ => RoundTrip.allocation _ _

/-! ## A word has 32 bits (R190, R201) -/

/-- A field of a word, of wd bits at lo, adds no more than its greatest value there. -/
theorem place_cons_lt {fixed v lo wd b : Nat} {fs : List (Nat × Nat)} (hv : v < 2 ^ wd)
    (h : place fixed fs < b - (2 ^ wd - 1) * 2 ^ lo) : place fixed ((v, lo) :: fs) < b := by
  have := Nat.mul_le_mul_right (2 ^ lo) (Nat.le_sub_one_of_lt hv)
  simp only [place]
  omega

theorem place_bits_lt {fixed lo wd b : Nat} {x : BitVec wd} {fs : List (Nat × Nat)}
    (h : place fixed fs < b - (2 ^ wd - 1) * 2 ^ lo) : place fixed ((x.toNat, lo) :: fs) < b := place_cons_lt x.isLt h

theorem place_part_lt {fixed lo wd b y k : Nat} {fs : List (Nat × Nat)}
    (h : place fixed fs < b - (2 ^ wd - 1) * 2 ^ lo) : place fixed ((fld y k wd, lo) :: fs) < b := place_cons_lt (fld_lt _ _ _) h

/-- Each field takes its greatest value off the bound; what is left is above the fixed bits. A row that is no word has 0. -/
theorem encode_lt (i : Instr) : encode i < 2 ^ 32 := by
  cases i
  all_goals repeat first | apply place_bits_lt | apply place_part_lt | exact Nat.two_pow_pos 32
  all_goals decide

/-! ## What a word that decodes was selected as -/

theorem checkWord_ok {w : Nat} {i j : Instr} (h : checkWord w i = .ok j) : i = j := by
  simp only [checkWord] at h
  split at h
  · cases h
  split at h
  · cases h
  split at h
  · cases h
  split at h
  · cases h
  exact Except.ok.inj h

theorem selectA_of_decodeA {w : Nat} {i : Instr} (h : decodeA w = .ok i) : selectA w = some i := by
  unfold decodeA at h
  split at h
  · next j hj => rw [hj, checkWord_ok h]
  · cases h

theorem selectB_of_decodeB {w : Nat} {i : Instr} (h : decodeB w = .ok i) : selectB w = some i := by
  unfold decodeB at h
  split at h
  · next j hj => rw [hj, checkWord_ok h]
  · cases h

/-! ## Bundles -/

theorem fld_zero_of_lt {x n : Nat} (h : x < 2 ^ n) : fld x 0 n = x := by
  rw [fld, Nat.pow_zero, Nat.div_one, Nat.mod_eq_of_lt h]

theorem fld_above {x n k : Nat} (h : x < 2 ^ n) : fld x n k = 0 := by
  rw [fld, Nat.div_eq_of_lt h, Nat.zero_mod]

/-- A word whose halves decode and pass the checks between the slots is their bundle's (R190, R205). -/
theorem decodeBundle_halves {w wa wb : Nat} {a b : Instr} {x : Bundle} (upper : fld w 32 32 = wa) (lower : fld w 0 32 = wb)
    (da : decodeA wa = .ok a) (db : decodeB wb = .ok b) (hx : checkPair a b = .ok x) : decodeBundle w = .ok ⟨a, b⟩ := by
  simp only [decodeBundle, upper, lower, da, db, selectA_of_decodeA da, selectB_of_decodeB db, hx]

theorem fld_encodeBundle_upper (x : Bundle) : fld (encodeBundle x) 32 32 = encode x.a :=
  fld_add_self (encode_lt x.a) (fld_above (encode_lt x.b))

theorem fld_encodeBundle_lower (x : Bundle) : fld (encodeBundle x) 0 32 = encode x.b :=
  (fld_add_other (encode_lt x.a) (fld_above (encode_lt x.b)) rfl).trans (fld_zero_of_lt (encode_lt x.b))

/-- A number of n bytes is read back from them. -/
theorem leNat_leBytes : ∀ n w, w < 256 ^ n → leNat (leBytes n w) = w
  | 0, w, h => by simp only [leBytes, leNat]; omega
  | n + 1, w, h => by
    have hd : w / 256 < 256 ^ n := Nat.div_lt_of_lt_mul (by rwa [Nat.pow_succ'] at h)
    simp only [leBytes, leNat, leNat_leBytes n _ hd, BitVec.toNat_ofNat]
    omega

theorem encodeBundle_lt (x : Bundle) : encodeBundle x < 256 ^ 8 :=
  calc encode x.a * 2 ^ 32 + encode x.b
      < encode x.a * 2 ^ 32 + 2 ^ 32 := Nat.add_lt_add_left (encode_lt x.b) _
    _ = (encode x.a + 1) * 2 ^ 32 := (Nat.succ_mul _ _).symm
    _ ≤ 2 ^ 32 * 2 ^ 32 := Nat.mul_le_mul_right _ (encode_lt x.a)
    _ = 256 ^ 8 := by decide

end Sys2Proof.Laws
end

section
open Sys2Proof Sys2Proof.Machine Sys2Proof.Laws

/-- Settles O3: each word decodes in its slot to its instruction, so the pair does; the bundle's bytes hold its word. -/
theorem bundlesRoundTrip : Obligations.BundlesRoundTrip := by
  intro a b x wfa wfb sa sb hx
  have da : decodeA (encode a) = .ok a := by
    have := roundTrip a
    rw [RoundTrip.Statement, sa] at this
    exact this wfa
  have db : decodeB (encode b) = .ok b := by
    have := roundTrip b
    rw [RoundTrip.Statement, sb] at this
    exact this wfb
  have h : decodeBundle (encodeBundle ⟨a, b⟩) = .ok ⟨a, b⟩ := 
    decodeBundle_halves (fld_encodeBundle_upper _) (fld_encodeBundle_lower _) da db hx
  refine ⟨h, ?_⟩
  rw [decodeBytes, leNat_leBytes 8 _ (encodeBundle_lt _)]
  exact h
end

section
/-! SUPPORT. Reads and writes of global memory, what a home's shared operations leave of the state, and how a request of one part
ends. -/

namespace Sys2Proof.Machine

/-! ## Bytes of global memory -/

/-- A byte of global memory is no workspace's. -/
theorem wsOf_hbm {k : Nat} (h : isHbm k = true) : wsOf k = none := by simp [wsOf, isPad, h]

theorem isHbm_of_lt {k : Nat} (h : k < 2 ^ 47) : isHbm k = true := by simpa [isHbm] using h

/-- The memories read alike where the listed bytes and the workspaces are the same. -/
theorem State.bytesKept_of_eq {s t : State} (hm : t.mem = s.mem) (hw : t.ws = s.ws) : s.bytesKept t := fun k => by
  simp only [State.rdByte, State.getWs, hm, hw]

theorem State.rdN_of_bytesKept {s t : State} (h : s.bytesKept t) (k n : Nat) : t.rdN k n = s.rdN k n := by
  induction n generalizing k with
  | zero => rfl
  | succ n ih => simp only [State.rdN, h k, ih]

/-- A number reads back from its bytes. -/
theorem State.rdN_of_bytes {t : State} {n : Nat} : ∀ {key x : Nat}, (∀ i < n, t.rdByte (key + i) = BitVec.ofNat 8 (x / 256 ^ i)) →
    t.rdN key n = x % 256 ^ n := by
  induction n with
  | zero => intro key x _; simp only [State.rdN, Nat.pow_zero, Nat.mod_one]
  | succ n ih =>
    intro key x h
    have h0 : t.rdByte key = BitVec.ofNat 8 x := by simpa using h 0 (Nat.succ_pos n)
    have hn : t.rdN (key + 1) n = x / 256 % 256 ^ n := ih fun i hi => by
      have := h (i + 1) (by omega)
      rw [Nat.div_div_eq_div_mul, ← Nat.pow_succ', Nat.add_assoc, Nat.add_comm 1 i, this]
    rw [State.rdN, h0, hn, Nat.pow_succ', Nat.mod_mul, BitVec.toNat_ofNat]

theorem State.wrByte_of_none (s : State) {k : Nat} (b : Byte) (h : wsOf k = none) : s.wrByte k b = { s with mem := s.mem.write k b } := by
  simp only [State.wrByte, h]

theorem State.rdByte_wrByte_of_none (s : State) {j : Nat} (b : Byte) (h : wsOf j = none) (k : Nat) :
    (s.wrByte j b).rdByte k = if k = j then b else s.rdByte k := by
  rw [State.wrByte_of_none s b h]
  by_cases hk : k = j
  · subst hk
    simp [State.rdByte, h]
  · simp only [State.rdByte, State.getWs, Memory.read_write_other _ _ hk, if_neg hk]

/-- Bytes written to global memory change nothing but the memory. -/
theorem State.putBytes_hbm (s : State) {key n : Nat} (m : BitVec 64) (data : Nat) (h : key + n ≤ 2 ^ 47) :
    ∃ mem, s.putBytes key m data n = { s with mem := mem } := by
  induction n with
  | zero => exact ⟨s.mem, rfl⟩
  | succ n ih =>
    obtain ⟨mem, e⟩ := ih (by omega)
    simp only [State.putBytes, e]
    split
    · exact ⟨_, State.wrByte_of_none _ _ (wsOf_hbm (isHbm_of_lt (by omega)))⟩
    · exact ⟨mem, rfl⟩

theorem State.rdByte_putBytes (s : State) {key n : Nat} (m : BitVec 64) (data : Nat) (h : key + n ≤ 2 ^ 47) (k : Nat) :
    (s.putBytes key m data n).rdByte k =
      if key ≤ k ∧ k < key + n ∧ m.getLsbD (k - key) = true then BitVec.ofNat 8 (data / 256 ^ (k - key)) else s.rdByte k := by
  induction n with
  | zero => rw [if_neg (by omega)]; rfl
  | succ n ih =>
    have hn : wsOf (key + n) = none := wsOf_hbm (isHbm_of_lt (by omega))
    by_cases hk : k = key + n
    · subst hk
      simp only [Nat.add_sub_cancel_left, State.putBytes]
      split
      · next hm => rw [State.rdByte_wrByte_of_none _ _ hn, if_pos rfl, if_pos ⟨by omega, by omega, hm⟩]
      · next hm => rw [ih (by omega), if_neg (by omega), if_neg (fun c => hm c.2.2)]
    · have e : (s.putBytes key m data (n + 1)).rdByte k = (s.putBytes key m data n).rdByte k := by
        simp only [State.putBytes]
        split
        · rw [State.rdByte_wrByte_of_none _ _ hn, if_neg hk]
        · rfl
      rw [e, ih (by omega)]
      have hlt : k < key + (n + 1) ↔ k < key + n := by omega
      simp only [hlt]

/-! ## What the shared operations of a home leave of the state -/

/-- An access that is performed moves slices and hot pages only (R140, R144). -/
theorem State.touch_eq (s : State) (p : Part) (l : Nat) (ctx : BitVec 6) : ∃ ps, s.touch p l ctx = { s with ports := ps } := by
  have hit (u : State) (k : Nat) (n : Bool) : ∃ ps, u.hit k n = { u with ports := ps } := by
    unfold State.hit
    split
    · exact ⟨_, rfl⟩
    · exact ⟨u.ports, rfl⟩
  have count (u : State) (k v : Nat) (e : BitVec 64) : ∃ ps, u.countPage k v e l ctx = { u with ports := ps } := by
    unfold State.countPage
    split
    · exact ⟨_, rfl⟩
    · exact ⟨u.ports, rfl⟩
  obtain ⟨ps, e⟩ := hit s p.key (p.pte.getLsbD 9)
  obtain ⟨qs, f⟩ := count (s.hit p.key (p.pte.getLsbD 9)) p.key p.va.toNat p.pte
  exact ⟨qs, by rw [State.touch, State.touchWith, f, e]⟩

/-- A home's answer is a packet (R128). -/
theorem State.answerFrom_eq (s : State) (r : Req) (node n : Nat) :
    ∃ pk i, s.answerFrom r node n = { s with packets := pk, nextPkt := i } := by
  unfold State.answerFrom
  split
  · exact ⟨s.packets, s.nextPkt, rfl⟩
  · exact ⟨_, _, rfl⟩

theorem State.markDirty_eq (s : State) (key len : Nat) : ∃ ps, s.markDirty key len = { s with ports := ps } := by
  unfold State.markDirty
  split
  · exact ⟨_, rfl⟩
  · exact ⟨s.ports, rfl⟩

theorem State.cleanUnits_eq (s : State) (key len : Nat) (m : BitVec 64) : ∃ us, s.cleanUnits key len m = { s with upsets := us } := by
  unfold State.cleanUnits
  split
  · exact ⟨s.upsets, rfl⟩
  · exact ⟨_, rfl⟩

/-- A store to global memory changes memory, its home's slice and the units in error (R77, R140, R177). -/
theorem State.homeStore_hbm (s : State) (w : Option Nat) {key len : Nat} (m : BitVec 64) (data : Nat) (rel : Bool)
    (hk : isHbm key = true) (h : key + len ≤ 2 ^ 47) :
    ∃ mem ps us, s.homeStore w key len m data rel = { s with mem := mem, ports := ps, upsets := us } ∧
      ∀ k, (s.homeStore w key len m data rel).rdByte k =
        if key ≤ k ∧ k < key + len ∧ m.getLsbD (k - key) = true then BitVec.ofNat 8 (data / 256 ^ (k - key)) else s.rdByte k := by
  have hf : ¬ key ≥ fabricBase := by simp only [fabricBase]; simp only [isHbm, decide_eq_true_eq] at hk; omega
  have e : s.homeStore w key len m data rel = ((s.markDirty key len).putBytes key m data len).cleanUnits key len m := by
    simp [State.homeStore, State.homeWrite, hf, isPad, hk]
  obtain ⟨ps, e1⟩ := s.markDirty_eq key len
  obtain ⟨mem, e2⟩ := State.putBytes_hbm { s with ports := ps } m data h
  obtain ⟨us, e3⟩ := State.cleanUnits_eq (({ s with ports := ps } : State).putBytes key m data len) key len m
  refine ⟨mem, ps, us, by rw [e, e1, e3, e2], fun k => ?_⟩
  rw [e, e1, e3]
  exact State.rdByte_putBytes { s with ports := ps } m data h k

/-! ## Threads -/

theorem State.onlyTh_modThr (s : State) (th : Nat) (f : Thread → Thread) : s.onlyTh (s.modThr th f) th f :=
  ⟨State.thr_modThr_same s th f, fun _ h => State.thr_modThr_other s f h⟩

theorem State.onlyTh.trans {s t u : State} {th : Nat} {f g : Thread → Thread} (h : s.onlyTh t th f) (k : t.onlyTh u th g) :
    s.onlyTh u th (g ∘ f) :=
  ⟨by rw [k.1, h.1, Function.comp], fun j hj => (k.2 j hj).trans (h.2 j hj)⟩

theorem State.onlyTh_of_threads {s t u : State} {th : Nat} {f : Thread → Thread} (h : s.onlyTh t th f) (e : u.threads = t.threads) :
    s.onlyTh u th f := by
  simpa only [State.onlyTh, State.thr, e] using h

/-- The results that wait for a request take what its part has read. -/
def Thread.takes (r : Req) (p : Part) (v : Nat) (x : Thread) : Thread :=
  { x with pend := x.pend.map fun q => if q.rid = some r.rid then { q with writes := q.writes.map (fillWrite r.sext p v) } else q }

/-- The results that wait for a request are ready. -/
def Thread.readied (rid : Nat) (x : Thread) : Thread :=
  { x with pend := x.pend.map fun q => if q.rid = some rid then { q with ready := true } else q }

/-- The results that wait for a request take what its one part has read, and are ready (R25). -/
def Thread.filledBy (r : Req) (p : Part) (v : Nat) (x : Thread) : Thread :=
  { x with pend := x.pend.map fun q => if q.rid = some r.rid then { q with writes := q.writes.map (fillWrite r.sext p v), ready := true } else q }

theorem Thread.readied_comp_takes (r : Req) (p : Part) (v : Nat) : Thread.readied r.rid ∘ Thread.takes r p v = Thread.filledBy r p v := by
  funext x
  simp only [Function.comp, Thread.readied, Thread.takes, Thread.filledBy, List.map_map]
  congr 1
  refine List.map_congr_left fun q _ => ?_
  by_cases h : q.rid = some r.rid <;> simp [h]

/-! ## A request of one part ends -/

/-- A request of one part that holds no bundle leaves the network, and its results are ready (R25). -/
theorem State.partDone_one (s : State) {r : Req} {p : Part} (hp : r.parts = [p]) (hk : r.kind.heldAtIssue = false) :
    ∃ pk i, s.partDone r 0 = (({ s with packets := pk, nextPkt := i } : State).dropReq r.rid).modThr r.th (Thread.readied r.rid) := by
  obtain ⟨pk, i, e⟩ := s.answerFrom_eq r p.node (r.answerBytes p.node)
  refine ⟨pk, i, ?_⟩
  simp only [State.partDone, hp, List.mapIdx_cons, List.mapIdx_nil, if_true, List.all_cons, List.all_nil, Bool.and_true, Bool.true_or,
    List.getElem?_cons_zero, e, State.completeHere, hk, Bool.false_and, Bool.false_eq_true, if_false]
  rfl

/-- What the end of such a request leaves. -/
theorem State.partDone_frame (s : State) {r : Req} {p : Part} (hp : r.parts = [p]) (hk : r.kind.heldAtIssue = false) :
    (s.partDone r 0).net = s.net.filter (fun q => q.rid != r.rid) ∧ (∀ k, (s.partDone r 0).rdByte k = s.rdByte k) ∧
      (s.partDone r 0).tags = s.tags ∧ s.onlyTh (s.partDone r 0) r.th (Thread.readied r.rid) := by
  obtain ⟨pk, i, e⟩ := s.partDone_one hp hk
  rw [e]
  exact ⟨rfl, fun _ => rfl, rfl, State.onlyTh_modThr { s with packets := pk, nextPkt := i } r.th _⟩

end Sys2Proof.Machine
end

section
/-! SUPPORT. What an access leaves once it is performed, and the arrival of a request at its home, by its kind (R159, R250). -/

namespace Sys2Proof.Machine

/-! ## What an access that is performed leaves (R140, R144) -/

section
variable (s : State) (p : Part) (l : Nat) (ctx : BitVec 6)

@[simp] theorem State.touch_mem : (s.touch p l ctx).mem = s.mem := by obtain ⟨_, e⟩ := s.touch_eq p l ctx; rw [e]
@[simp] theorem State.touch_ws : (s.touch p l ctx).ws = s.ws := by obtain ⟨_, e⟩ := s.touch_eq p l ctx; rw [e]
@[simp] theorem State.touch_tags : (s.touch p l ctx).tags = s.tags := by obtain ⟨_, e⟩ := s.touch_eq p l ctx; rw [e]
@[simp] theorem State.touch_upsets : (s.touch p l ctx).upsets = s.upsets := by obtain ⟨_, e⟩ := s.touch_eq p l ctx; rw [e]
@[simp] theorem State.touch_threads : (s.touch p l ctx).threads = s.threads := by obtain ⟨_, e⟩ := s.touch_eq p l ctx; rw [e]
@[simp] theorem State.touch_net : (s.touch p l ctx).net = s.net := by obtain ⟨_, e⟩ := s.touch_eq p l ctx; rw [e]
@[simp] theorem State.touch_arrivals : (s.touch p l ctx).arrivals = s.arrivals := by obtain ⟨_, e⟩ := s.touch_eq p l ctx; rw [e]

@[simp] theorem State.thr_touch (th : Nat) : (s.touch p l ctx).thr th = s.thr th := by simp only [State.thr, State.touch_threads]
@[simp] theorem State.tag_touch (w : Nat) : (s.touch p l ctx).tag w = s.tag w := by simp only [State.tag, State.touch_tags]
@[simp] theorem State.bad_touch (k n : Nat) : (s.touch p l ctx).bad k n = s.bad k n := by simp only [State.bad, State.touch_upsets]
@[simp] theorem State.mergeBad_touch (k n : Nat) (m pte : BitVec 64) : (s.touch p l ctx).mergeBad k n m pte = s.mergeBad k n m pte := by
  simp only [State.mergeBad, State.touch_upsets]

theorem State.bytesKept_touch : s.bytesKept (s.touch p l ctx) := State.bytesKept_of_eq (State.touch_mem ..) (State.touch_ws ..)

@[simp] theorem State.rdByte_touch (k : Nat) : (s.touch p l ctx).rdByte k = s.rdByte k := s.bytesKept_touch p l ctx k
@[simp] theorem State.rdN_touch (k n : Nat) : (s.touch p l ctx).rdN k n = s.rdN k n := State.rdN_of_bytesKept (s.bytesKept_touch p l ctx) k n

@[simp] theorem State.loadByte_touch (k : Nat) : (s.touch p l ctx).loadByte k = s.loadByte k := by
  obtain ⟨_, e⟩ := s.touch_eq p l ctx
  rw [e]
  rfl
@[simp] theorem State.loadN_touch (k n : Nat) : (s.touch p l ctx).loadN k n = s.loadN k n := by
  induction n generalizing k with
  | zero => rfl
  | succ n ih => simp only [State.loadN, State.loadByte_touch, ih]
end

/-! ## Arrival at a home (R159) -/

theorem exec_requestArrival (rid j : Nat) (s : State) : exec (.requestArrival rid j) s = execRequestArrival rid j s := rfl
theorem exec_longLatencyResult (th k : Nat) (s : State) : exec (.longLatencyResult th k) s = execLongLatencyResult th k s := rfl
theorem exec_refusal (rid : Nat) (s : State) : exec (.refusal rid) s = execRefusal rid s := rfl
theorem exec_retryLimit (rid : Nat) (s : State) : exec (.retryLimit rid) s = execRetryLimit rid s := rfl
theorem exec_drainedResend (rid : Nat) (s : State) : exec (.drainedResend rid) s = execDrainedResend rid s := rfl
theorem exec_deferredTrap (th : Nat) (s : State) : exec (.deferredTrap th) s = execDeferredTrap th s := rfl
theorem exec_redArrival (rid : Nat) (s : State) : exec (.redArrival rid) s = execRedArrival rid s := rfl

/-- A store to a LOGIT page or to a register of a port core, which have events of their own (R142, R320). -/
def Req.hasOwnEvent (r : Req) (p : Part) : Bool :=
  (r.kind == .store || r.kind == .stv) && p.pte.getLsbD 10 || (r.kind == .store && pageKey p.key)

section
variable {s : State} {rid j : Nat} {r : Req} {p : Part} (h : s.partDue rid j r p)
include h

theorem State.partDue.req_eq : s.req rid = some r := h.1.1
theorem State.partDue.rid_eq : r.rid = rid := h.1.2.1
theorem State.partDue.ready : s.homeReady p = true := by
  obtain ⟨-, -, -, -, hready, -⟩ := h
  exact hready
theorem State.partDue.check : s.homeCheck r p = .ok := by
  obtain ⟨-, -, -, -, -, hcheck⟩ := h
  exact hcheck
end

theorem State.arrive_due {s : State} {rid : Nat} {r : Req} {p : Part} (h : s.partDue rid 0 r p) (ho : r.hasOwnEvent p = false) :
    s.arrive rid 0 = s.applyPart r 0 p := by
  obtain ⟨⟨hreq, -, -⟩, hp, hst, hmay, hready, -⟩ := h
  simp only [Req.hasOwnEvent, Bool.or_eq_false_iff] at ho
  simp only [State.arrive, hreq, hp, hst, hmay, hready, ho.1, ho.2, beq_self_eq_true, Bool.not_false, Bool.and_self, if_true]

/-- A plain request that is due is applied at its home. -/
theorem exec_requestArrival_due {s : State} {rid : Nat} {r : Req} {p : Part} (h : s.partDue rid 0 r p) (hk : r.kind.plain = true)
    (ho : r.hasOwnEvent p = false) : exec (.requestArrival rid 0) s = .next (s.applyPart r 0 p) := by
  have hc : (r.kind == .commit) = false := by
    rw [beq_eq_false_iff_ne]
    intro e
    rw [e] at hk
    exact Bool.false_ne_true hk
  simp only [exec_requestArrival, execRequestArrival, State.onReq, h.req_eq, hc, hk, State.arrive_due h ho, if_true, Bool.false_eq_true, if_false]

/-- A request that passes its home's check acts there. -/
theorem State.ifHome_ok {s : State} {r : Req} {p : Part} (h : s.homeCheck r p = .ok) (j : Nat) (k : State) : s.ifHome r j p k = k := by
  simp only [State.ifHome, h]

section
variable {s : State} {r : Req} {p : Part} (hf : p.key < fabricBase) (hc : s.homeCheck r p = .ok)
include hf hc

theorem State.applyPart_load (hk : r.kind = .load) (hb : s.bad p.key p.len = false) (hs : (s.thr r.th).spec = none)
    (hr : isHbm p.key = true ∨ spaceOf p.key ≠ 5) :
    s.applyPart r 0 p = ((s.touch p r.lcore r.ctx).fillPend r p (maskedN p.mask (s.loadN p.key p.len) p.len)).partDone r 0 := by
  have hreg : (keyPort p.key && decide (p.key < stackBase) && !isHbm p.key && spaceOf p.key == 5) = false := by
    rcases hr with h | h <;> simp [h]
  have hspec : (s.touch p r.lcore r.ctx).specRead r.th p.key p.len = s.touch p r.lcore r.ctx := by simp [State.specRead, hs]
  simp only [State.applyPart, ge_iff_le, Nat.not_le.mpr hf, if_false, State.ifHome_ok hc, hk, State.bad_touch, hb, hreg, hspec,
    Bool.false_eq_true, State.loadN_touch]

theorem State.applyPart_store (hk : r.kind = .store) (hm : s.mergeBad p.key p.len p.mask p.pte = false) :
    s.applyPart r 0 p = ((s.touch p r.lcore r.ctx).homeStore (some r.th) p.key p.len p.mask p.data.toNat r.rel).partDone r 0 := by
  simp only [State.applyPart, ge_iff_le, Nat.not_le.mpr hf, if_false, State.ifHome_ok hc, hk, State.mergeBad_touch, hm, Bool.false_eq_true]

theorem State.applyPart_ldv {ver : BitVec 6} (hk : r.kind = .ldv ver) (hb : s.bad p.key 4 = false) :
    s.applyPart r 0 p = if ldvHolds (s.tag (p.key / 4)).ver ver
      then ((s.touch p r.lcore r.ctx).fillPend r p (s.rdN p.key 4)).partDone r 0 else (s.touch p r.lcore r.ctx).parkReq r := by
  simp only [State.applyPart, ge_iff_le, Nat.not_le.mpr hf, if_false, State.ifHome_ok hc, hk, State.bad_touch, hb, Bool.false_eq_true,
    State.tag_touch, State.rdN_touch]

theorem State.applyPart_ldfe (hk : r.kind = .ldfe) : s.applyPart r 0 p = (s.touch p r.lcore r.ctx).arriveFe r := by
  simp only [State.applyPart, ge_iff_le, Nat.not_le.mpr hf, if_false, State.ifHome_ok hc, hk]

variable (hb : s.bad p.key p.len = false) (hm : s.mergeBad p.key p.len (BitVec.allOnes 64) p.pte = false)
include hb hm

theorem State.applyPart_amo {op : BitVec 4} {b : BitVec 64} (hk : r.kind = .amo op b) :
    s.applyPart r 0 p = (((s.touch p r.lcore r.ctx).fillPend r p (s.rdN p.key p.len)).homeStore (some r.th) p.key p.len (BitVec.allOnes 64)
      (amoNew op.toNat (8 * p.len) (s.rdN p.key p.len) (b.toNat % 2 ^ (8 * p.len))) false).partDone r 0 := by
  simp only [State.applyPart, ge_iff_le, Nat.not_le.mpr hf, if_false, State.ifHome_ok hc, hk, State.bad_touch, hb, State.mergeBad_touch, hm,
    Bool.or_self, Bool.false_eq_true, State.rdN_touch]

theorem State.applyPart_amoc {c b : BitVec 64} (hk : r.kind = .amoc c b) :
    s.applyPart r 0 p = (((s.touch p r.lcore r.ctx).fillPend r p (s.rdN p.key p.len)).homeStore (some r.th) p.key p.len (BitVec.allOnes 64)
      (if s.rdN p.key p.len = c.toNat % 2 ^ (8 * p.len) then b.toNat % 2 ^ (8 * p.len) else s.rdN p.key p.len) false).partDone r 0 := by
  simp only [State.applyPart, ge_iff_le, Nat.not_le.mpr hf, if_false, State.ifHome_ok hc, hk, State.bad_touch, hb, State.mergeBad_touch, hm,
    Bool.or_self, Bool.false_eq_true, State.rdN_touch]

theorem State.applyPart_red {op : BitVec 4} {b : BitVec 64} (hk : r.kind = .red op b) :
    s.applyPart r 0 p = ((s.touch p r.lcore r.ctx).homeStore (some r.th) p.key p.len (BitVec.allOnes 64)
      (amoNew op.toNat (8 * p.len) (s.rdN p.key p.len) (b.toNat % 2 ^ (8 * p.len))) false).partDone r 0 := by
  simp only [State.applyPart, ge_iff_le, Nat.not_le.mpr hf, if_false, State.ifHome_ok hc, hk, State.bad_touch, hb, State.mergeBad_touch, hm,
    Bool.or_self, Bool.false_eq_true, State.rdN_touch]
end

end Sys2Proof.Machine
end

section
/-! SUPPORT. Loads, stores and atomics of one part at their homes (R25, R250, R251). -/

namespace Sys2Proof.Machine

/-! ## A request of one part is performed and ends -/

theorem State.onlyTh_of_threads_left {s u t : State} {th : Nat} {f : Thread → Thread} (h : u.onlyTh t th f) (e : u.threads = s.threads) :
    s.onlyTh t th f := by
  simpa only [State.onlyTh, State.thr, e] using h

/-- A read of one part: the request leaves the network, its results take the value and are ready (R25), and no byte changes. -/
theorem State.fillPend_partDone (s : State) {r : Req} {p : Part} (hp : r.parts = [p]) (hk : r.kind.heldAtIssue = false) (v : Nat) :
    ((s.fillPend r p v).partDone r 0).net = s.net.filter (fun q => q.rid != r.rid) ∧ s.bytesKept ((s.fillPend r p v).partDone r 0) ∧
      s.onlyTh ((s.fillPend r p v).partDone r 0) r.th (Thread.filledBy r p v) := by
  obtain ⟨hnet, hbytes, -, hth⟩ := (s.fillPend r p v).partDone_frame hp hk
  have h := (State.onlyTh_modThr s r.th (Thread.takes r p v)).trans hth
  rw [Thread.readied_comp_takes] at h
  exact ⟨hnet, hbytes, h⟩

/-- The same of a request that has just arrived. -/
theorem State.touch_fillPend_partDone (s : State) {r : Req} {p : Part} (hp : r.parts = [p]) (hk : r.kind.heldAtIssue = false) (v l : Nat)
    (ctx : BitVec 6) :
    ∃ t, (((s.touch p l ctx).fillPend r p v).partDone r 0) = t ∧ t.net = s.net.filter (fun q => q.rid != r.rid) ∧ s.bytesKept t ∧
      s.onlyTh t r.th (Thread.filledBy r p v) := by
  obtain ⟨hnet, hbytes, hth⟩ := (s.touch p l ctx).fillPend_partDone hp hk v
  exact ⟨_, rfl, by rw [hnet, State.touch_net], fun k => (hbytes k).trans (s.rdByte_touch ..),
    State.onlyTh_of_threads_left hth (s.touch_threads ..)⟩

/-- What the stored bytes of a part leave: byte k of memory after them. -/
def State.afterStore (s : State) (key len : Nat) (m : BitVec 64) (data k : Nat) : Byte :=
  if key ≤ k ∧ k < key + len ∧ m.getLsbD (k - key) = true then BitVec.ofNat 8 (data / 256 ^ (k - key)) else s.rdByte k

theorem State.afterStore_at (s : State) {key len i : Nat} {m : BitVec 64} (data : Nat) (hi : i < len) (hm : m.getLsbD i = true) :
    s.afterStore key len m data (key + i) = BitVec.ofNat 8 (data / 256 ^ i) := by
  rw [State.afterStore, Nat.add_sub_cancel_left, if_pos ⟨Nat.le_add_right .., Nat.add_lt_add_left hi _, hm⟩]

theorem State.afterStore_other (s : State) {key len k : Nat} {m : BitVec 64} (data : Nat)
    (h : ∀ i < len, m.getLsbD i = true → k ≠ key + i) : s.afterStore key len m data k = s.rdByte k :=
  if_neg fun ⟨h1, h2, h3⟩ => h (k - key) (by omega) h3 (by omega)

/-- A write of one part to global memory: the request leaves the network, its results are ready, and its bytes stand in memory. -/
theorem State.homeStore_partDone (s : State) {r : Req} {p : Part} (hp : r.parts = [p]) (hk : r.kind.heldAtIssue = false) (w : Option Nat)
    (m : BitVec 64) (data : Nat) (rel : Bool) (hb : isHbm p.key = true) (hlen : p.key + p.len ≤ 2 ^ 47) :
    ∃ t, (s.homeStore w p.key p.len m data rel).partDone r 0 = t ∧ t.net = s.net.filter (fun q => q.rid != r.rid) ∧
      (∀ k, t.rdByte k = s.afterStore p.key p.len m data k) ∧ s.onlyTh t r.th (Thread.readied r.rid) := by
  obtain ⟨mem, ps, us, e, hbytes⟩ := s.homeStore_hbm w m data rel hb hlen
  obtain ⟨hnet, hrd, -, hth⟩ := (s.homeStore w p.key p.len m data rel).partDone_frame hp hk
  refine ⟨_, rfl, by rw [hnet, e], fun k => (hrd k).trans (hbytes k), State.onlyTh_of_threads_left hth (by rw [e])⟩

/-- Byte i of a word is the number's. -/
theorem byteOf_eq_ofNat {w : Nat} (x : BitVec w) (i : Nat) : byteOf x i = BitVec.ofNat 8 (x.toNat / 256 ^ i) := by
  show BitVec.ofNat 8 (x.toNat >>> (8 * i)) = _
  rw [Nat.shiftRight_eq_div_pow, Nat.pow_mul]

/-- Global memory takes every bit that is stored to it. -/
theorem State.storedByte_hbm (s : State) {k : Nat} (h : isHbm k = true) (b : Byte) : s.storedByte k b = b := by
  have one : ~~~(0 : Byte) = BitVec.allOnes 8 := rfl
  have zero (x : Byte) : x &&& 0 = 0 := BitVec.and_zero
  have left (x : Byte) : 0 ||| x = x := BitVec.zero_or
  simp only [State.storedByte, fixedBits, wsOf_hbm h, one, zero, left, BitVec.and_allOnes]

theorem State.rdN_lt (s : State) (k n : Nat) : s.rdN k n < 256 ^ n := by
  induction n generalizing k with
  | zero => exact Nat.one_pos
  | succ n ih =>
    have := ih (k + 1)
    have := (s.rdByte k).isLt
    simp only [State.rdN, Nat.pow_succ]
    omega

/-- A word whose bytes have all been stored reads as what was stored. -/
theorem State.rdN_afterStore {s t : State} {key len data : Nat} (hlen : len ≤ 64)
    (h : ∀ k, t.rdByte k = s.afterStore key len (BitVec.allOnes 64) data k) : t.rdN key len = data % 2 ^ (8 * len) := by
  rw [Nat.pow_mul]
  refine State.rdN_of_bytes fun i hi => ?_
  have : i < 64 := by omega
  rw [h, State.afterStore_at s data hi (by rw [BitVec.getLsbD_allOnes]; exact decide_eq_true this)]

/-! ## Loads and stores at their homes -/

section
variable {s : State} {rid : Nat} {r : Req} {p : Part} (h : s.partDue rid 0 r p) (hp : r.parts = [p]) (hf : p.key < fabricBase)
include h hp hf

theorem requestArrival_load (hk : r.kind = .load) (hb : s.bad p.key p.len = false) (hs : (s.thr r.th).spec = none)
    (hr : isHbm p.key = true ∨ spaceOf p.key ≠ 5) :
    ∃ t, exec (.requestArrival rid 0) s = .next t ∧ t.net = s.net.filter (fun q => q.rid != r.rid) ∧ s.bytesKept t ∧
      s.onlyTh t r.th (Thread.filledBy r p (maskedN p.mask (s.loadN p.key p.len) p.len)) := by
  rw [exec_requestArrival_due h (by rw [hk]; rfl) (by rw [Req.hasOwnEvent, hk]; rfl), State.applyPart_load hf h.check hk hb hs hr]
  obtain ⟨t, e, ht⟩ := s.touch_fillPend_partDone hp (by rw [hk]; rfl) (maskedN p.mask (s.loadN p.key p.len) p.len) r.lcore r.ctx
  exact ⟨t, by rw [e], ht⟩

theorem requestArrival_store (hk : r.kind = .store) (hb : isHbm p.key = true) (hlen : p.key + p.len ≤ 2 ^ 47) (hl : p.pte.getLsbD 10 = false)
    (hm : s.mergeBad p.key p.len p.mask p.pte = false) :
    ∃ t, exec (.requestArrival rid 0) s = .next t ∧ t.net = s.net.filter (fun q => q.rid != r.rid) ∧ s.holdsPart t p ∧
      ∀ k, (∀ i < p.len, p.mask.getLsbD i = true → k ≠ p.key + i) → t.rdByte k = s.rdByte k := by
  have hown : r.hasOwnEvent p = false := by
    simp only [Req.hasOwnEvent, hl, pageKey, hb, Bool.not_true, Bool.false_and, Bool.and_false, Bool.or_self]
  rw [exec_requestArrival_due h (by rw [hk]; rfl) hown, State.applyPart_store hf h.check hk hm]
  obtain ⟨t, e, hnet, hrd, -⟩ := (s.touch p r.lcore r.ctx).homeStore_partDone hp (by rw [hk]; rfl) (some r.th) p.mask p.data.toNat r.rel hb hlen
  refine ⟨t, by rw [e], by rw [hnet, State.touch_net], fun i hi hmi => ?_, fun k hk => ?_⟩
  · rw [hrd, State.afterStore_at _ _ hi hmi, ← byteOf_eq_ofNat, State.storedByte_hbm _ (isHbm_of_lt (by omega))]
  · rw [hrd, State.afterStore_other _ _ hk, State.rdByte_touch]
end

/-! ## Atomics at their homes (R250, R251) -/

/-- An atomic's home: the request has left, the word holds the new value, and no other byte has changed. -/
def State.updates (s t : State) (r : Req) (p : Part) (new : Nat) : Prop :=
  t.net = s.net.filter (fun q => q.rid != r.rid) ∧ (∀ k, (∀ i < p.len, k ≠ p.key + i) → t.rdByte k = s.rdByte k) ∧
    t.rdN p.key p.len = new % 2 ^ (8 * p.len)

/-- The write of an atomic in global memory. -/
theorem State.updates_homeStore {s u : State} (hnet : u.net = s.net) (hrd : ∀ k, u.rdByte k = s.rdByte k) {r : Req} {p : Part}
    (hp : r.parts = [p]) (hk : r.kind.heldAtIssue = false) (w : Option Nat) (new : Nat) (hb : isHbm p.key = true)
    (hlen : p.key + p.len ≤ 2 ^ 47) (h8 : p.len ∈ [4, 8]) :
    ∃ t, (u.homeStore w p.key p.len (BitVec.allOnes 64) new false).partDone r 0 = t ∧ s.updates t r p new ∧ u.onlyTh t r.th (Thread.readied r.rid) := by
  obtain ⟨t, e, hn, hbytes, hth⟩ := u.homeStore_partDone hp hk w (BitVec.allOnes 64) new false hb hlen
  have h64 : p.len ≤ 64 := by simp at h8; omega
  refine ⟨t, e, ⟨by rw [hn, hnet], fun k hk => ?_, State.rdN_afterStore h64 hbytes⟩, hth⟩
  rw [hbytes, State.afterStore_other _ _ fun i hi _ => hk i hi, hrd]

/-- An atomic with return: its result takes the old value as well. -/
theorem State.updates_fill (s : State) {r : Req} {p : Part} (hp : r.parts = [p]) (hk : r.kind.heldAtIssue = false) (new old l : Nat)
    (ctx : BitVec 6) (hb : isHbm p.key = true) (hlen : p.key + p.len ≤ 2 ^ 47) (h8 : p.len ∈ [4, 8]) :
    ∃ t, ((((s.touch p l ctx).fillPend r p old).homeStore (some r.th) p.key p.len (BitVec.allOnes 64) new false).partDone r 0) = t ∧
      s.updates t r p new ∧ s.onlyTh t r.th (Thread.filledBy r p old) := by
  obtain ⟨t, e, hu, hth⟩ := State.updates_homeStore (s := s) (u := (s.touch p l ctx).fillPend r p old) (s.touch_net p l ctx) (s.rdByte_touch p l ctx)
    hp hk (some r.th) new hb hlen h8
  have h := (State.onlyTh_modThr (s.touch p l ctx) r.th (Thread.takes r p old)).trans hth
  rw [Thread.readied_comp_takes] at h
  exact ⟨t, e, hu, State.onlyTh_of_threads_left h (s.touch_threads ..)⟩

section
variable {s : State} {rid : Nat} {r : Req} {p : Part} (h : s.partDue rid 0 r p) (hp : r.parts = [p]) (hf : p.key < fabricBase)
  (hb : isHbm p.key = true) (hlen : p.key + p.len ≤ 2 ^ 47) (h8 : p.len ∈ [4, 8]) (hbad : s.bad p.key p.len = false)
  (hm : s.mergeBad p.key p.len (BitVec.allOnes 64) p.pte = false)
include h hp hf hb hlen h8 hbad hm

theorem requestArrival_amo {op : BitVec 4} {b : BitVec 64} (hk : r.kind = .amo op b) :
    ∃ t, exec (.requestArrival rid 0) s = .next t ∧
      s.updates t r p (amoNew op.toNat (8 * p.len) (s.rdN p.key p.len) (b.toNat % 2 ^ (8 * p.len))) ∧
      s.onlyTh t r.th (Thread.filledBy r p (s.rdN p.key p.len)) := by
  rw [exec_requestArrival_due h (by rw [hk]; rfl) (by rw [Req.hasOwnEvent, hk]; rfl), State.applyPart_amo hf h.check hbad hm hk]
  obtain ⟨t, e, ht⟩ := s.updates_fill hp (by rw [hk]; rfl) (amoNew op.toNat (8 * p.len) (s.rdN p.key p.len) (b.toNat % 2 ^ (8 * p.len)))
    (s.rdN p.key p.len) r.lcore r.ctx hb hlen h8
  exact ⟨t, by rw [e], ht⟩

theorem requestArrival_amoc {c b : BitVec 64} (hk : r.kind = .amoc c b) :
    ∃ t, exec (.requestArrival rid 0) s = .next t ∧
      s.updates t r p (if s.rdN p.key p.len = c.toNat % 2 ^ (8 * p.len) then b.toNat % 2 ^ (8 * p.len) else s.rdN p.key p.len) ∧
      s.onlyTh t r.th (Thread.filledBy r p (s.rdN p.key p.len)) := by
  rw [exec_requestArrival_due h (by rw [hk]; rfl) (by rw [Req.hasOwnEvent, hk]; rfl), State.applyPart_amoc hf h.check hbad hm hk]
  obtain ⟨t, e, ht⟩ := s.updates_fill hp (by rw [hk]; rfl)
    (if s.rdN p.key p.len = c.toNat % 2 ^ (8 * p.len) then b.toNat % 2 ^ (8 * p.len) else s.rdN p.key p.len)
    (s.rdN p.key p.len) r.lcore r.ctx hb hlen h8
  exact ⟨t, by rw [e], ht⟩
end

/-- What a compare-and-swap leaves fits its word. -/
theorem State.amocNew_lt (s : State) (p : Part) (c b : BitVec 64) :
    (if s.rdN p.key p.len = c.toNat % 2 ^ (8 * p.len) then b.toNat % 2 ^ (8 * p.len) else s.rdN p.key p.len) < 2 ^ (8 * p.len) := by
  split
  · exact Nat.mod_lt _ (Nat.two_pow_pos _)
  · rw [Nat.pow_mul]
    exact s.rdN_lt p.key p.len

end Sys2Proof.Machine
end

section
/-! SUPPORT. Reductions, refusals, and loads that wait for a version or a full word (R88, R90, R99, R112). -/

namespace Sys2Proof.Machine

/-! ## What stands in a sparse store -/

section
variable {α : Type} {d : α}

theorem Store.mem_of_mem_above {m : Store α} {k : Nat} {x : Nat × α} (h : x ∈ Store.above m k) : x ∈ m := by
  induction m with
  | nil => exact h
  | cons y m ih =>
    simp only [Store.above] at h
    split at h
    · exact List.mem_cons_of_mem y (ih h)
    · exact h

/-- An entry of a store after a write is an old one, or the one written. -/
theorem Store.mem_put [DecidableEq α] {m : Store α} {k : Nat} {v : α} {x : Nat × α} (h : x ∈ Store.put d m k v) : x ∈ m ∨ x = (k, v) := by
  induction m with
  | nil =>
    simp only [Store.put] at h
    split at h
    · exact .inl h
    · exact .inr (List.mem_singleton.mp h)
  | cons y m ih =>
    simp only [Store.put] at h
    split at h
    · split at h
      · exact .inl h
      · exact (List.mem_cons.mp h).symm
    · split at h
      · split at h
        · exact .inl (List.mem_cons_of_mem y (Store.mem_of_mem_above h))
        · exact (List.mem_cons.mp h).symm.imp_left (List.mem_cons_of_mem y)
      · rcases List.mem_cons.mp h with rfl | h
        · exact .inl List.mem_cons_self
        · exact (ih h).imp_left (List.mem_cons_of_mem y)

/-- What a store reads is its default or stands in it. -/
theorem Store.get_eq_or_mem (m : Store α) (k : Nat) : Store.get d m k = d ∨ (k, Store.get d m k) ∈ m := by
  induction m with
  | nil => exact .inl rfl
  | cons y m ih =>
    simp only [Store.get]
    split
    · exact .inl rfl
    · split
      · next h => exact .inr (h ▸ List.mem_cons_self)
      · exact ih.imp_right (List.mem_cons_of_mem y)
end

/-! ## A note at a port core leaves a request due at its home -/

/-- A change of a port core's unit that keeps its slice, its frames, its packets' order and its stack cores' owner. -/
structure Port.Notes (f : Port → Port) : Prop where
  passed : ∀ q, (f q).passed = q.passed
  copy : ∀ q, (f q).copy = q.copy
  direct : ∀ q, (f q).direct = q.direct
  lines : ∀ q, (f q).lines = q.lines
  stkown : ∀ q, (f q).stkown = q.stkown

theorem Port.notes_reds (l : List Nat) : Port.Notes fun q => { q with reds := l } :=
  ⟨fun _ => rfl, fun _ => rfl, fun _ => rfl, fun _ => rfl, fun _ => rfl⟩

theorem Port.notes_kept (g : Nat × Nat → Nat × Nat) : Port.Notes fun q => { q with kept := q.kept.map g } :=
  ⟨fun _ => rfl, fun _ => rfl, fun _ => rfl, fun _ => rfl, fun _ => rfl⟩

/-- What such a change keeps of a port core reads as before. -/
theorem State.port_modPort_proj {α : Type} {s : State} {l : Nat} {f : Port → Port} (g : Port → α) (hg : ∀ q, g (f q) = g q) (j : Nat) : g ((s.modPort l f).port j) = g (s.port j) := by
  by_cases h : j = l
  · rw [h, State.port_modPort_same, hg]
  · rw [State.port_modPort_other s f h]

section
variable {s : State} {l : Nat} {f : Port → Port} (hf : Port.Notes f)
include hf

/-- The requests that passed a fabric's end keep their turn (R128, R133). -/
theorem State.inTurn_modPort {rid j : Nat} (h : s.inTurn rid j = true) : (s.modPort l f).inTurn rid j = true := by
  rw [State.inTurn, List.all_eq_true] at h ⊢
  intro x hx
  rcases Store.mem_put hx with hx | rfl
  · exact h x hx
  · rcases Store.get_eq_or_mem (d := Port.zero) s.ports l with e | e
    · have : (f (s.port l)).passed = [] := by rw [hf.passed, State.port, e]; rfl
      simp only [this, List.contains_nil, Bool.not_false, Bool.true_or]
    · have := h _ e
      simp only [hf.passed]
      exact this

/-- A memory controller's slice and its frames keep what they hold (R140). -/
theorem State.homeReady_modPort (p : Part) : (s.modPort l f).homeReady p = s.homeReady p := by
  simp only [State.homeReady, State.frameHeld, State.memReady, State.port_modPort_proj Port.copy hf.copy,
    State.port_modPort_proj Port.direct hf.direct, State.port_modPort_proj Port.lines hf.lines]

/-- A home's check asks a port core for its stack cores' owner only (R145, R159). -/
theorem State.homeCheck_modPort (r : Req) (p : Part) : (s.modPort l f).homeCheck r p = s.homeCheck r p := by
  have owner (c : Nat) : (s.modPort l f).ownerOf c = s.ownerOf c := by
    simp only [State.ownerOf, State.stackOwner, State.port_modPort_proj Port.stkown hf.stkown]
    rfl
  simp only [State.homeCheck, State.denied, owner]
  rfl

theorem State.partDue_modPort {rid j : Nat} {r : Req} {p : Part} (h : s.partDue rid j r p) : (s.modPort l f).partDue rid j r p := by
  obtain ⟨hreq, hpart, hst, hgo, hready, hok⟩ := h
  refine ⟨hreq, hpart, hst, ?_, by rw [State.homeReady_modPort hf]; exact hready, by rw [State.homeCheck_modPort hf]; exact hok⟩
  rw [State.mayArrive, Bool.and_eq_true] at hgo ⊢
  exact ⟨hgo.1, State.inTurn_modPort hf hgo.2⟩
end

/-! ## Requests that stay in the network -/

/-- A request after its entry has changed. -/
theorem State.req_setReq {s : State} {rid : Nat} {r : Req} (f : Req → Req) (h : s.req rid = some r) (hf : (f r).rid = r.rid) :
    (s.setReq rid f).req rid = some (f r) := by
  have hr : r.rid = rid := by simpa using List.find?_some h
  rw [State.req] at h ⊢
  have key (l : List Req) (h : l.find? (fun q => q.rid == rid) = some r) :
      (l.map fun q => if q.rid = rid then f q else q).find? (fun q => q.rid == rid) = some (f r) := by
    induction l with
    | nil => cases h
    | cons q l ih =>
      by_cases hq : q.rid = rid
      · have : q = r := by simpa [List.find?_cons, hq] using h
        simp [this, hr, hf]
      · have : l.find? (fun q => q.rid == rid) = some r := by simpa [List.find?_cons, hq] using h
        simpa [List.find?_cons, hq] using ih this
  exact key s.net h

/-- A home's refusal leaves its request in the network, refused once more (R112). -/
theorem State.refuseReq_spec {s : State} {r : Req} (h : s.req r.rid = some r) :
    s.bytesKept (s.refuseReq r) ∧ (s.refuseReq r).req r.rid = some { r with st := .refused, refusals := r.refusals + 1 } := by
  obtain ⟨pk, i, e⟩ := s.answerFrom_eq r r.home 0
  rw [State.refuseReq, e]
  exact ⟨fun _ => rfl, State.req_setReq (s := { s with packets := pk, nextPkt := i }) (fun q => { q with st := .refused, refusals := q.refusals + 1 })
    h rfl⟩

/-- A request of its core's own word waits there (R88, R111). -/
theorem State.parkReq_own {s : State} {r : Req} {p : Part} (h : s.req r.rid = some r) (hp : r.parts = [p])
    (hl : r.lcore = r.homeCore) :
    s.bytesKept (s.parkReq r) ∧ (s.parkReq r).req r.rid = some { r with st := .parked s.arrivals, refusals := 0 } := by
  have e : s.parkReq r = ({ s.setReq r.rid (fun q => { q with st := .parked s.arrivals, refusals := 0 }) with arrivals := s.arrivals + 1 } : State).modThr
      r.th fun t => if t.occ && t.park = .none then { t with park := .word r.rid } else t := by
    rw [State.parkReq]
    simp [hp, ← hl]
  rw [e]
  exact ⟨fun _ => rfl, State.req_setReq (fun q => { q with st := .parked s.arrivals, refusals := 0 }) h rfl⟩

/-! ## Reductions at the units that serve them (R99, R250) -/

/-- A unit that serves the only reduction it knows of: none waits, and its kept positions count from now. -/
def State.redNoted (s : State) (l : Nat) : State :=
  (s.modPort l fun q => { q with reds := [] }).modPort l fun q => { q with kept := q.kept.map fun x => (x.1, (s.core l).turns) }

theorem State.partDue_redNoted {s : State} {rid j : Nat} {r : Req} {p : Part} (h : s.partDue rid j r p) (l : Nat) :
    (s.redNoted l).partDue rid j r p :=
  State.partDue_modPort (Port.notes_kept _) (State.partDue_modPort (Port.notes_reds []) h)

theorem State.bytesKept_redNoted (s : State) (l : Nat) : s.bytesKept (s.redNoted l) := fun _ => rfl

section
variable {s : State} {rid : Nat} {r : Req} {p : Part} (h : s.partDue rid 0 r p) (hp : r.parts = [p])
  {op : BitVec 4} {b : BitVec 64} (hk : r.kind = .red op b) (hdue : s.dueAtUnit r = true)
include h hp hk hdue

/-- Where a position is free a reduction acts. -/
theorem redArrive_free (hfree : s.freePositions (redHome p.key) ≠ []) (hreds : (s.port (redHome p.key)).reds = []) :
    s.redArrive rid = (s.redNoted (redHome p.key)).arrive rid 0 := by
  have hlen : (s.freePositions (redHome p.key)).length > 0 := List.length_pos_iff.mpr hfree
  simp only [State.redArrive, State.onReq, h.req_eq, hk, hp, hdue, h.ready, hreds, List.filter_nil, oldestRed, List.foldl_nil, hlen, if_true,
    Bool.not_true, Bool.false_eq_true, if_false, State.redDone]
  rfl

/-- Where none is it is refused. -/
theorem redArrive_full (hfree : s.freePositions (redHome p.key) = []) : ∃ f, s.redArrive rid = (s.modPort (redHome p.key) f).refuseReq r := by
  simp only [State.redArrive, State.onReq, h.req_eq, hk, hp, hdue, h.ready, State.openPositions, hfree, List.filter_nil, List.length_nil,
    ite_self, gt_iff_lt, Nat.lt_irrefl, if_false, Bool.not_true, Bool.false_eq_true]
  exact ⟨_, rfl⟩

theorem redArrival_refused (hfree : s.freePositions (redHome p.key) = []) :
    ∃ t q, exec (.redArrival rid) s = .next t ∧ s.bytesKept t ∧ t.req rid = some q ∧ q.st = .refused ∧ q.refusals = r.refusals + 1 := by
  obtain ⟨f, e⟩ := redArrive_full h hp hk hdue hfree
  obtain ⟨hbytes, hreq⟩ := State.refuseReq_spec (s := s.modPort (redHome p.key) f) (r := r) (by rw [h.rid_eq]; exact h.req_eq)
  exact ⟨_, _, by rw [exec_redArrival, execRedArrival, e], fun k => hbytes k, h.rid_eq ▸ hreq, rfl, rfl⟩

theorem redArrival_applied (hf : p.key < fabricBase) (hb : isHbm p.key = true) (hlen : p.key + p.len ≤ 2 ^ 47) (h8 : p.len ∈ [4, 8])
    (hbad : s.bad p.key p.len = false) (hm : s.mergeBad p.key p.len (BitVec.allOnes 64) p.pte = false)
    (hfree : s.freePositions (redHome p.key) ≠ []) (hreds : (s.port (redHome p.key)).reds = []) :
    ∃ t, exec (.redArrival rid) s = .next t ∧
      s.updates t r p (amoNew op.toNat (8 * p.len) (s.rdN p.key p.len) (b.toNat % 2 ^ (8 * p.len))) := by
  have hdue' : (s.redNoted (redHome p.key)).partDue rid 0 r p := State.partDue_redNoted h _
  have hown : r.hasOwnEvent p = false := by rw [Req.hasOwnEvent, hk]; rfl
  have happ := State.applyPart_red (s := s.redNoted (redHome p.key)) hf hdue'.check hbad hm hk
  rw [State.rdN_of_bytesKept (s.bytesKept_redNoted _)] at happ
  rw [exec_redArrival, execRedArrival, redArrive_free h hp hk hdue hfree hreds, State.arrive_due hdue' hown, happ]
  obtain ⟨t, e, ht, -⟩ := State.updates_homeStore (s := s) (u := (s.redNoted (redHome p.key)).touch p r.lcore r.ctx) (by rw [State.touch_net]; rfl)
    (fun k => (State.rdByte_touch ..).trans (s.bytesKept_redNoted _ k)) hp (by rw [hk]; rfl) (some r.th)
    (amoNew op.toNat (8 * p.len) (s.rdN p.key p.len) (b.toNat % 2 ^ (8 * p.len))) hb hlen h8
  exact ⟨t, by rw [e], ht⟩
end

/-! ## Loads that wait for a version or for a full word (R88, R90) -/

/-- No request is served after another where none waits. -/
theorem State.serveWord_of_none_parked {s : State} (h : ∀ q ∈ s.net, q.isParked = false) (w n : Nat) : s.serveWord w n = s := by
  cases n with
  | zero => rfl
  | succ n =>
    have : s.feHead w = none := by
      have e : (s.net.filter fun r => r.isParked && r.word == w && feReady (s.tag w).full r.kind) = [] :=
        List.filter_eq_nil_iff.mpr fun q hq => by simp [h q hq]
      simp only [State.feHead, e, List.foldl_nil]
    simp only [State.serveWord, this]

section
variable {s : State} {rid : Nat} {r : Req} {p : Part} (h : s.partDue rid 0 r p) (hp : r.parts = [p]) (hf : p.key < fabricBase)
  (hbad : s.bad p.key 4 = false)
include h hp hf hbad

theorem requestArrival_ldv {ver : BitVec 6} (hk : r.kind = .ldv ver) (hv : ((s.tag (p.key / 4)).ver - ver).toNat < 32) :
    ∃ t, exec (.requestArrival rid 0) s = .next t ∧ t.net = s.net.filter (fun q => q.rid != r.rid) ∧ s.bytesKept t ∧
      s.onlyTh t r.th (Thread.filledBy r p (s.rdN p.key 4)) := by
  have hv' : ldvHolds (s.tag (p.key / 4)).ver ver = true := decide_eq_true hv
  rw [exec_requestArrival_due h (by rw [hk]; rfl) (by rw [Req.hasOwnEvent, hk]; rfl), State.applyPart_ldv hf h.check hk hbad, if_pos hv']
  obtain ⟨t, e, ht⟩ := s.touch_fillPend_partDone hp (by rw [hk]; rfl) (s.rdN p.key 4) r.lcore r.ctx
  exact ⟨t, by rw [e], ht⟩

theorem requestArrival_ldv_waits {ver : BitVec 6} (hk : r.kind = .ldv ver) (hv : 32 ≤ ((s.tag (p.key / 4)).ver - ver).toNat)
    (hl : r.lcore = coreOfKey p.key) :
    ∃ t q, exec (.requestArrival rid 0) s = .next t ∧ s.bytesKept t ∧ t.req rid = some q ∧ q.st = .parked s.arrivals ∧ q.refusals = 0 := by
  have hv' : ¬ ldvHolds (s.tag (p.key / 4)).ver ver = true := by simpa [ldvHolds] using hv
  have hcore : r.lcore = r.homeCore := by rw [Req.homeCore, hk, hp]; exact hl
  rw [exec_requestArrival_due h (by rw [hk]; rfl) (by rw [Req.hasOwnEvent, hk]; rfl), State.applyPart_ldv hf h.check hk hbad, if_neg hv']
  have hreq : (s.touch p r.lcore r.ctx).req r.rid = some r := by rw [State.req, State.touch_net, h.rid_eq]; exact h.req_eq
  obtain ⟨hbytes, hq⟩ := State.parkReq_own hreq hp hcore
  exact ⟨_, _, rfl, fun k => (hbytes k).trans (s.rdByte_touch ..), h.rid_eq ▸ hq, by rw [State.touch_arrivals], rfl⟩

theorem requestArrival_ldfe (hk : r.kind = .ldfe) (hfull : (s.tag (p.key / 4)).full = true) (hno : ∀ q ∈ s.net, q.isParked = false) :
    ∃ t, exec (.requestArrival rid 0) s = .next t ∧ t.net = s.net.filter (fun q => q.rid != r.rid) ∧ s.bytesKept t ∧
      (t.tag (p.key / 4)).full = false ∧ s.onlyTh t r.th (Thread.filledBy r p (s.rdN p.key 4)) := by
  obtain ⟨u, hu⟩ : ∃ u, u = s.touch p r.lcore r.ctx := ⟨_, rfl⟩
  have hnet : u.net = s.net := by rw [hu, State.touch_net]
  have hw : r.word = p.key / 4 := by rw [Req.word, hp]
  have hready : feReady (u.tag r.word).full r.kind = true := by rw [hu, State.tag_touch, hw, hfull, hk]; rfl
  obtain ⟨v, hv⟩ : ∃ v, v = (u.fillPend r p (s.rdN p.key 4)).modTag (p.key / 4) fun g => { g with full := false } := ⟨_, rfl⟩
  have hserve : u.serveFe r = v.partDone r 0 := by
    simp only [State.serveFe, hp, hk, hu, State.bad_touch, hbad, State.rdN_touch, hv, Bool.false_eq_true, if_false]
  obtain ⟨gnet, gbytes, gtags, gth⟩ := v.partDone_frame hp (by rw [hk]; rfl)
  have gnet' : (v.partDone r 0).net = s.net.filter (fun q => q.rid != r.rid) := by rw [gnet, hv]; exact congrArg _ hnet
  have hlast : (v.partDone r 0).serveWord r.word (v.partDone r 0).net.length = v.partDone r 0 :=
    State.serveWord_of_none_parked (fun q hq => hno q (List.mem_filter.mp (gnet' ▸ hq)).1) _ _
  have hrun : exec (.requestArrival rid 0) s = .next (v.partDone r 0) := by
    rw [exec_requestArrival_due h (by rw [hk]; rfl) (by rw [Req.hasOwnEvent, hk]; rfl), State.applyPart_ldfe hf h.check hk, ← hu]
    simp only [State.arriveFe, hready, if_true, hserve, hlast]
  have hth := (State.onlyTh_modThr u r.th (Thread.takes r p (s.rdN p.key 4))).trans (State.onlyTh_of_threads_left gth (by rw [hv]; rfl))
  rw [Thread.readied_comp_takes] at hth
  refine ⟨_, hrun, gnet', fun k => ?_, ?_, State.onlyTh_of_threads_left hth (by rw [hu, State.touch_threads])⟩
  · calc (v.partDone r 0).rdByte k = u.rdByte k := by rw [gbytes, hv]; rfl
      _ = s.rdByte k := by rw [hu, State.rdByte_touch]
  · rw [State.tag, gtags, hv]
    exact congrArg WordTag.full (State.tag_modTag_same ..)
end

end Sys2Proof.Machine
end

section
/-! SUPPORT. Traps that were held, results that land, and requests that are sent again or given up (R25, R112, R168, R182). -/

namespace Sys2Proof.Machine

/-! ## The record of a trap (R167) -/

section
variable (f : Failure) (pc : BitVec 48) (ctx : BitVec 6) (pos : Nat) (defer inRep : Bool)

theorem trapRecord_cause : (trapRecord f pc ctx pos defer inRep).extractLsb' 8 8 = f.cause := by
  refine (BitVec.extractLsb'_append_eq_of_le (by decide)).trans ?_
  simp (disch := decide) only [BitVec.extractLsb'_append_eq_of_le]
  exact BitVec.extractLsb'_append_eq_right

theorem trapRecord_srcPc : (trapRecord f pc ctx pos defer inRep).extractLsb' 48 48 = f.src.pc := by
  refine (BitVec.extractLsb'_append_eq_of_le (by decide)).trans ?_
  simp (disch := decide) only [BitVec.extractLsb'_append_eq_of_le]
  exact BitVec.extractLsb'_append_eq_right

theorem trapRecord_pc : (trapRecord f pc ctx pos defer inRep).extractLsb' 96 48 = pc := by
  refine (BitVec.extractLsb'_append_eq_of_le (by decide)).trans ?_
  simp (disch := decide) only [BitVec.extractLsb'_append_eq_of_le]
  exact BitVec.extractLsb'_append_eq_right

theorem trapRecord_defer : (trapRecord f pc ctx pos defer inRep).getLsbD 3 = defer := by
  refine BitVec.getLsbD_append.trans ?_
  simp only [BitVec.getLsbD_append, Nat.reduceLT, Nat.reduceSub, if_true, if_false, BitVec.getLsbD_ofBool, decide_true, Bool.true_and]
end

/-! ## A thread takes a trap (R166, R168) -/

/-- What a change of threads keeps of each, it keeps of any. -/
theorem State.forThreads_keeps {α : Type} {f : Thread → Thread} (g : Thread → α) (hg : ∀ x, g (f x) = g x) (ks : List Nat) (s : State) (th : Nat) :
    g ((s.forThreads ks f).thr th) = g (s.thr th) := by
  induction ks generalizing s with
  | nil => rfl
  | cons k ks ih =>
    have step : g ((s.modThr k f).thr th) = g (s.thr th) := by
      by_cases h : th = k
      · rw [h, State.thr_modThr_same, hg]
      · rw [State.thr_modThr_other s f h]
    exact (ih _).trans step

theorem State.getWs_forThreads (f : Thread → Thread) (ks : List Nat) (s : State) (th : Nat) : (s.forThreads ks f).getWs th = s.getWs th := by
  induction ks generalizing s with
  | nil => rfl
  | cons k ks ih => exact ih _

theorem State.thr_markTile (s : State) (l th : Nat) : (s.markTile l).thr th = s.thr th := by
  unfold State.markTile
  split <;> rfl

theorem State.getWs_markTile (s : State) (l th : Nat) : (s.markTile l).getWs th = s.getWs th := by
  unfold State.markTile
  split <;> rfl

/-- A thread that no one called is trapped, its held failures stay, and its record says why. -/
theorem State.takeTrap_spec (s : State) (th : Nat) (f : Failure) (defer : Bool) (pc : BitVec 48) (inRep : Bool) (hc : (s.thr th).caller = none) :
    ((s.takeTrap th f defer pc inRep).thr th).trapped = true ∧ ((s.takeTrap th f defer pc inRep).thr th).held = (s.thr th).held ∧
      ((s.takeTrap th f defer pc inRep).getWs th).trap = trapRecord f pc (s.thr th).ctx (s.thr th).pos defer inRep := by
  obtain ⟨u, hu⟩ : ∃ u, u = (s.setWs th { (s.getWs th).setPc pc with trap := trapRecord f pc (s.thr th).ctx (s.thr th).pos defer inRep }).modThr th
    fun t => { t with trapped := true, rte := none, park := .none, settle := false, walk := .none } := ⟨_, rfl⟩
  have hthr : (u.thr th).trapped = true ∧ (u.thr th).held = (s.thr th).held := by
    rw [hu, State.thr_modThr_same]
    exact ⟨rfl, rfl⟩
  have hws : (u.getWs th).trap = trapRecord f pc (s.thr th).ctx (s.thr th).pos defer inRep := by
    rw [hu, State.getWs_modThr, State.getWs_setWs_same]
  by_cases hp : (s.thr th).pos = 15
  · have e : s.takeTrap th f defer pc inRep = ((u.sysFreeze (coreOfTh th)).markTile (coreOfTh th)).postErr (portOf (coreOfTh th)) 0x08
        (s.thr th).ctx.toNat (coreOfTh th * 2 ^ 32 + f.cause.toNat) := by
      simp only [State.takeTrap, hc, hp, if_true, hu]
    have keeps {α : Type} (g : Thread → α) (hg : ∀ x : Thread, g { x with sfrz := true } = g x) :
        g ((s.takeTrap th f defer pc inRep).thr th) = g (u.thr th) := by
      rw [e]
      show g (((u.sysFreeze (coreOfTh th)).markTile (coreOfTh th)).thr th) = _
      rw [State.thr_markTile, State.sysFreeze, State.forThreads_keeps g hg]
    refine ⟨(keeps Thread.trapped fun _ => rfl).trans hthr.1, (keeps Thread.held fun _ => rfl).trans hthr.2, ?_⟩
    rw [e]
    show (((u.sysFreeze (coreOfTh th)).markTile (coreOfTh th)).getWs th).trap = _
    rw [State.getWs_markTile, State.sysFreeze, State.getWs_forThreads, hws]
  · have e : s.takeTrap th f defer pc inRep = u.modCore (coreOfTh th) fun c => { c with trapq := c.trapq ++ [trapEntry th (s.thr th).pos f.cause] } := by
      simp only [State.takeTrap, hc, hp, if_false, hu]
    rw [e]
    exact ⟨hthr.1, hthr.2, hws⟩

theorem deferredTrap_strikes {s : State} {th : Nat} {f : Failure} {fs : List Failure} (hdue : s.dueToIssue th = true)
    (hheld : (s.thr th).held = f :: fs) (ht : (s.thr th).trapped = false) (hc : (s.thr th).caller = none) :
    ∃ t, exec (.deferredTrap th) s = .next t ∧ (t.thr th).trapped = true ∧ (t.thr th).held = fs ∧
      (t.getWs th).trap.extractLsb' 8 8 = f.cause ∧ (t.getWs th).trap.extractLsb' 48 48 = f.src.pc ∧
      (t.getWs th).trap.extractLsb' 96 48 = (s.getWs th).pc ∧ (t.getWs th).trap.getLsbD 3 = true := by
  obtain ⟨u, hu⟩ : ∃ u, u = s.modThr th fun x => { x with held := fs } := ⟨_, rfl⟩
  have hrun : exec (.deferredTrap th) s = .next (u.takeTrap th f true (s.getWs th).pc (s.getWs th).repAct) := by
    have hne : (f :: fs != []) = true := rfl
    simp only [exec_deferredTrap, execDeferredTrap, hdue, hheld, hne, Bool.and_true, if_true, ht, Bool.false_eq_true, if_false, State.strike, hu]
  have huth : (u.thr th).held = fs ∧ (u.thr th).caller = none := by
    rw [hu, State.thr_modThr_same]
    exact ⟨rfl, hc⟩
  obtain ⟨htr, hh, hrec⟩ := u.takeTrap_spec th f true (s.getWs th).pc (s.getWs th).repAct huth.2
  exact ⟨_, hrun, htr, hh.trans huth.1, by rw [hrec, trapRecord_cause], by rw [hrec, trapRecord_srcPc], by rw [hrec, trapRecord_pc],
    by rw [hrec, trapRecord_defer]⟩

/-! ## A result lands (R25, R48, R168) -/

section
variable {s : State} {th k : Nat} {p : Pend} (hp : (s.thr th).pend[k]? = some p) (hnext : landsNext (s.thr th).pend p = true)
  (hkind : p.kind = .value ∨ ∃ ks, p.kind = .access ks) (hready : p.ready = true) (hout : p.rid.any s.answerOut = false)
include hp hnext hkind hready hout

theorem exec_longLatencyResult_land : exec (.longLatencyResult th k) s = .next (s.land th p) := by
  rcases hkind with hk | ⟨ks, hk⟩ <;>
    simp only [exec_longLatencyResult, execLongLatencyResult, hp, hnext, hk, hready, hout, Bool.not_true, Bool.not_false, Bool.and_self, if_true,
      Bool.false_eq_true, if_false]

theorem longLatencyResult_lands (hfail : p.fail = none) (hen : (s.getWs th).enabled p.flags = 0) :
    ∃ t, exec (.longLatencyResult th k) s = .next t ∧ s.onlyTh t th (fun x => { x with pend := x.pend.filter fun q => q != p }) ∧
      t.getWs th = (if p.flags = 0 then s.getWs th else (s.getWs th).orFlags p.flags).applyAll p.writes ∧ t = { s with ws := t.ws, threads := t.threads } := by
  refine ⟨_, exec_longLatencyResult_land hp hnext hkind hready hout, ?_⟩
  simp only [State.land, hfail, hen, if_true]
  exact ⟨State.onlyTh_of_threads (State.onlyTh_modThr s th _) rfl, State.getWs_setWs_same .., rfl⟩

theorem longLatencyResult_holds {f : Failure} (hfail : p.fail = some f) (hcause : f.cause ≠ 0x02) (hocc : (s.thr th).occ = true)
    (hc : (s.thr th).caller = none) :
    ∃ t, exec (.longLatencyResult th k) s = .next t ∧
      s.onlyTh t th (fun x => { x with pend := x.pend.filter fun q => q != p, held := insertHeld f x.held }) ∧ t = { s with threads := t.threads } := by
  obtain ⟨u, hu⟩ : ∃ u, u = s.modThr th fun x => { x with pend := x.pend.filter fun q => q != p } := ⟨_, rfl⟩
  have hcause' : ¬ f.cause = cResvFormat := hcause
  have huth : (u.thr th).occ = true ∧ (u.thr th).caller = none := by
    rw [hu, State.thr_modThr_same]
    exact ⟨hocc, hc⟩
  refine ⟨_, exec_longLatencyResult_land hp hnext hkind hready hout, ?_⟩
  have e : s.land th p = u.modThr th fun x => { x with held := insertHeld f x.held } := by
    simp only [State.land, hfail, hcause', if_false, ← hu, State.hold, huth.1, huth.2, if_true]
  rw [e, hu]
  exact ⟨(State.onlyTh_modThr s th _).trans (State.onlyTh_modThr _ th _), rfl⟩
end

/-! ## Refused requests (R112, R182) -/

/-- A request that calls no unit is sent again as it was. -/
theorem State.resend_eq {s : State} {r : Req} (hk : ∀ l v e a w, r.kind ≠ .rcall l v e a w) :
    s.resend r = s.setReq r.rid fun q => { q with st := .inflight, sent := false, legs := [] } := by
  unfold State.resend
  split
  · next h => exact (hk _ _ _ _ _ h).elim
  · rfl

/-- Sent again, it is on its way. -/
theorem State.resend_spec {s : State} {rid : Nat} {r : Req} (h : s.isReq rid r) (hk : ∀ l v e a w, r.kind ≠ .rcall l v e a w) :
    ∃ q, s.resend r = { s with net := (s.resend r).net } ∧ (s.resend r).req rid = some q ∧
      q = { r with st := .inflight, sent := false, legs := [] } := by
  obtain ⟨hreq, rfl, -⟩ := h
  rw [State.resend_eq hk]
  exact ⟨_, rfl, State.req_setReq (fun q => { q with st := .inflight, sent := false, legs := [] }) hreq rfl, rfl⟩

section
variable {s : State} {rid : Nat} {r : Req} (h : s.isReq rid r)
include h

theorem refusal_resends (href : r.isRefused = true) (hlim : r.refusals < s.retryLimOf r) (hfrz : s.waitsFrozen r = false)
    (hout : s.answerOut rid = false) (hk : ∀ l v e a w, r.kind ≠ .rcall l v e a w) :
    ∃ t q, exec (.refusal rid) s = .next t ∧ t = { s with net := t.net } ∧ t.req rid = some q ∧
      q = { r with st := .inflight, sent := false, legs := [] } := by
  obtain ⟨q, ht⟩ := State.resend_spec h hk
  refine ⟨_, q, ?_, ht⟩
  simp only [exec_refusal, execRefusal, State.onReq, h.1, href, hout, hfrz, hlim, decide_true, Bool.or_true, Bool.not_false, Bool.and_self, if_true]

theorem drainedResend_resends {n : Nat} (hst : r.st = .drained n) (htick : n + 1024 ≤ s.tick) (hout : s.answerOut rid = false)
    (hfrz : s.waitsFrozen r = false) (hk : ∀ l v e a w, r.kind ≠ .rcall l v e a w) :
    ∃ t q, exec (.drainedResend rid) s = .next t ∧ t = { s with net := t.net } ∧ t.req rid = some q ∧
      q = { r with st := .inflight, sent := false, legs := [] } := by
  obtain ⟨q, ht⟩ := State.resend_spec h hk
  refine ⟨_, q, ?_, ht⟩
  simp only [exec_drainedResend, execDrainedResend, h.1, hst, ge_iff_le, htick, hout, hfrz, decide_true, Bool.not_false, Bool.and_self, if_true]

theorem retryLimit_gives_up {c : Nat} (href : r.isRefused = true) (hcode : r.kind.retryCode = some c) (hlim : s.retryLimOf r ≤ r.refusals)
    (hout : s.answerOut rid = false) (hpend : (s.thr r.th).pend.any (fun q => q.rid = some rid) = true) :
    ∃ t, exec (.retryLimit rid) s = .next t ∧ (∀ q ∈ t.net, q.rid ≠ rid) ∧
      ∃ q ∈ (t.thr r.th).pend, q.ready = true ∧ q.fail = some ⟨0x08, BitVec.ofNat 26 c, none, r.src⟩ := by
  obtain ⟨hreq, rfl, -⟩ := h
  have hheld : r.kind.heldAtIssue = false := by
    revert hcode
    cases r.kind <;> simp [ReqKind.retryCode, ReqKind.heldAtIssue]
  have hpend' : ((s.dropReq r.rid).thr r.th).pend.any (fun q => q.rid = some r.rid) = true := hpend
  have e : s.failHere r cRetry c none = (s.dropReq r.rid).modThr r.th fun t => { t with
      pend := t.pend.map fun q => if q.rid = some r.rid then { q with ready := true, fail := some ⟨cRetry, BitVec.ofNat 26 c, none, r.src⟩ } else q } := by
    simp only [State.failHere, hheld, Bool.false_and, Bool.false_eq_true, if_false, hpend', if_true, Option.map_none]
  refine ⟨(s.failHere r cRetry c none).unpark r.th r.rid, ?_, ?_, ?_⟩
  · simp only [exec_retryLimit, execRetryLimit, State.onReq, hreq, hcode, href, hout, ge_iff_le, hlim, decide_true, Bool.not_false, Bool.and_self, if_true]
  · rw [e]
    intro q hq
    have : q ∈ s.net.filter fun q => q.rid != r.rid := hq
    simpa using (List.mem_filter.mp this).2
  · obtain ⟨q, hq, hqr⟩ := List.any_eq_true.mp hpend
    have hqr' : q.rid = some r.rid := of_decide_eq_true hqr
    rw [e, State.unpark, State.thr_modThr_same, State.thr_modThr_same]
    exact ⟨{ q with ready := true, fail := some ⟨cRetry, BitVec.ofNat 26 c, none, r.src⟩ },
      List.mem_map.mpr ⟨q, hq, if_pos hqr'⟩, rfl, rfl⟩
end

end Sys2Proof.Machine
end

section
/-! PROOF. Requests at their homes, results, refusals and deferred failures. -/

namespace Sys2Proof

open Machine

/-! ## Requests at their homes: the statement, from what each event does -/

/-- Settles O51: each clause is the lemma above about its event, the home's for an arrival of one part. -/
theorem requestsAtHomes : Obligations.RequestsAtHomes := by
  unfold Obligations.RequestsAtHomes
  refine ⟨?home, ?lands, ?strikes, ?refused, ?drained⟩
  case home =>
    intro s rid r p h hp hf filled gone
    obtain ⟨-, rfl, -⟩ := h.1
    refine ⟨requestArrival_load h hp hf, requestArrival_store h hp hf, ?atomics, ?version, ?full⟩
    case atomics =>
      intro op b c hb hlen h8 hbad hm old kept
      refine ⟨fun hk => ?_, fun hk => ?_, fun hk hdue hfree hreds => ?_, fun hk hdue hfree => ?_⟩
      · obtain ⟨t, hrun, ⟨hnet, hkept, hnew⟩, hth⟩ := requestArrival_amo h hp hf hb hlen h8 hbad hm hk
        exact ⟨t, hrun, hnet, hkept, hnew, hth⟩
      · obtain ⟨t, hrun, ⟨hnet, hkept, hnew⟩, hth⟩ := requestArrival_amoc h hp hf hb hlen h8 hbad hm hk
        exact ⟨t, hrun, hnet, hkept, hnew.trans (Nat.mod_eq_of_lt (s.amocNew_lt p c b)), hth⟩
      · obtain ⟨t, hrun, hnet, hkept, hnew⟩ := redArrival_applied h hp hk hdue hf hb hlen h8 hbad hm hfree hreds
        exact ⟨t, hrun, hnet, hkept, hnew⟩
      · exact redArrival_refused h hp hk hdue hfree
    case version =>
      intro ver hk _ hbad
      refine ⟨requestArrival_ldv h hp hf hbad hk, requestArrival_ldv_waits h hp hf hbad hk⟩
    case full =>
      intro hk _ hbad
      exact requestArrival_ldfe h hp hf hbad hk
  case lands =>
    intro s th k p hp hnext hkind hready hout rest
    exact ⟨longLatencyResult_lands hp hnext hkind hready hout, fun f => longLatencyResult_holds hp hnext hkind hready hout⟩
  case strikes =>
    intro s th f fs
    exact deferredTrap_strikes
  case refused =>
    intro s rid r c h href hcode hfrz hout hk
    exact ⟨fun hlim => refusal_resends h href hlim hfrz hout hk, fun hlim => retryLimit_gives_up h href hcode hlim hout⟩
  case drained =>
    intro s rid r n h hst htick hout hfrz hk
    exact drainedResend_resends h hst htick hout hfrz hk

end Sys2Proof
end

section
/-! SUPPORT. SBCNT in slot B behind a PUSH in slot A (R21, R44, R45). -/

namespace Sys2Proof.Machine

/-! ## SBCNT once chunks are consumed (R44) -/

theorem State.live_sbcnt_consume (s : State) (md n : Nat) : (s.consume md n).live.sbcnt =
    if md = 5 && !s.slotAWritesSbcnt then s.live.sbcnt + BitVec.ofNat 64 ((n + 3) / 4) else s.live.sbcnt := by
  unfold State.consume
  split
  · rw [State.live_upd, Workspace.setSbcnt, Workspace.sbcnt, Workspace.getT_setT_same]
  · rfl

theorem State.live_sbcnt_special {s : State} {d : BitVec 4} {srcs : List (BitVec 4)} {g : BitVec 3} {f : BitVec 4} {r : BitVec 3}
    (htags : s.vtagTrap (srcs.map fun a => (a, f)) = none) (fn : Nat → Exact) : (s.special d srcs g f r fn).live.sbcnt =
      (s.consume (roundMode s.src r.toNat) (64 / Fmt.size f)).live.sbcnt := by
  simp only [State.special, htags, State.unless, State.pendReady, State.pend, State.live_modMe]

theorem exec_vrcp (d a : BitVec 4) (g : BitVec 3) (f : BitVec 4) (r : BitVec 3) (s : State) :
    exec (.vrcp d a g f r) s = .next (s.special d [a] g f r fun i => exactRcp (s.elVal a f i)) := rfl

/-- A VRCP adds its chunks to the SBCNT that stands in the workspace, whatever its operands show (R44). -/
theorem live_sbcnt_of_vrcp {s t : State} {d a : BitVec 4} {g : BitVec 3} {f : BitVec 4} {r : BitVec 3} (htag : s.src.vtag a = f)
    (hrun : exec (.vrcp d a g f r) s = .next t) : t.live.sbcnt =
      if roundMode s.src r.toNat = 5 && !s.slotAWritesSbcnt then s.live.sbcnt + BitVec.ofNat 64 ((64 / Fmt.size f + 3) / 4)
      else s.live.sbcnt := by
  have htags : s.vtagTrap ([a].map fun a => (a, f)) = none := by simp only [List.map, State.vtagTrap, htag, if_true]
  rw [exec_vrcp] at hrun
  rw [← Host.Outcome.next.inj hrun, State.live_sbcnt_special htags, State.live_sbcnt_consume]

/-! ## A bundle that rounds in both slots -/

/-- `PUSH q2, s12`, of a CRD with .rs, beside `VRCP.f32.rs v2, v1`. -/
def roundingBundle : Bundle := ⟨.push 0 12 2, .vrcp 2 1 0 1 5⟩

/-- A thread of core 2, which drives queue 2, issues that bundle with SBCNT 0: v1 holds 3.0 in each lane, s12 to s15 the
CRD, and its descriptor, 0, has one row of four columns. -/
def roundingState : State :=
  let word := BitVec.ofNat 64 (encodeBundle roundingBundle)
  let regs := (((Workspace.fresh 0x108 false).setV 1 (ofElems 4 (List.replicate 16 0x40400000))).setVtag 1 1).putS 12 [0xA0000, 0, 0, 6 * 2 ^ 56]
  { State.reset.startThread 40 Thread.none regs with cur := 40, iss := { Issue.none with pc := 0x100, bundle := word, word := word } }.modTile 0
    fun t => { t with desc := t.desc.set 0 (2 ^ 128 + 4 * 2 ^ 112) }

/-- Where its slot B runs: the PUSH has taken effect, and the operands are those from before (R21). -/
def besidePush : State :=
  let t := after (exec roundingBundle.a roundingState) roundingState
  { t with iss := { t.iss with slotB := true, ops := some roundingState.src } }

/-- The bundle decodes from its word, which the state issues (R190). -/
theorem decodeBundle_roundingState : decodeBundle roundingState.iss.word.toNat = .ok roundingBundle := by rfl

/-- The bundle's VRCP runs there. -/
theorem slots_roundingState : roundingState.slots roundingBundle = after (exec roundingBundle.b besidePush) besidePush := by
  decide +kernel

/-- The PUSH has advanced SBCNT by the chunks of its four elements (R45), which slot B's operands do not show. -/
theorem besidePush_sbcnt : besidePush.src.sbcnt = 0 ∧ besidePush.live.sbcnt = 1 := by decide +kernel

theorem besidePush_slotAWritesSbcnt : besidePush.slotAWritesSbcnt = false := by decide +kernel

theorem besidePush_vtag : besidePush.src.vtag 1 = 1 := by decide +kernel

end Sys2Proof.Machine
end

section
/-! PROOF. The special functions and VRED: what fails is SBCNT behind a PUSH. -/

namespace Sys2Proof

open Machine

/-- Refutes O47: VRCP.f32.rs in slot B, beside a PUSH of a CRD.rs in slot A. Its 16 chunks advance SBCNT by 4 on top of the
PUSH's 1 (R44, R45), from 0 to 5; the statement counts from the operands of before the bundle, and says 4. -/
theorem not_specialFunctions : ¬ Obligations.SpecialFunctions := by
  unfold Obligations.SpecialFunctions
  intro h
  obtain ⟨t, z, m, fl, hrun, -, -, -, hsb, -⟩ := h.1 besidePush 2 1 1 0 1 5 besidePush_vtag besidePush_vtag
    (.vrcp 2 1 0 1 5, fun i => exactRcp (besidePush.elVal 1 1 i)) (by simp [State.elVal, State.el])
  have ht : t.live.sbcnt = 5 := by
    rw [live_sbcnt_of_vrcp besidePush_vtag hrun, besidePush_sbcnt.2, besidePush_slotAWritesSbcnt]
    rfl
  rw [ht, besidePush_sbcnt.1, besidePush_slotAWritesSbcnt] at hsb
  exact absurd hsb (by decide)

end Sys2Proof
end

section
/-! SUPPORT. The address checks of an instruction at its issue (R18, R238), and watches on the own scratchpad (R91, R248). -/

namespace Sys2Proof.Machine

/-! ## The checks of an address (R18, R238) -/

section
variable {s : State} {va : BitVec 64} {size : Nat} {k : AccKind}

theorem State.vaTrap_of_ctx0 (h : s.ctx0Trap va size k = none) : s.vaTrap va size k = s.addrTrap va size k := by
  simp only [State.vaTrap, h]

theorem State.addrTrap_misaligned (h : va.toNat % size ≠ 0) :
    s.addrTrap va size k = some ⟨8, cMisaligned, Nat.log2 size + (if k.writes then 8 else 0), some va⟩ := by
  simp only [State.addrTrap, firstTrap, bne_iff_ne.mpr h, if_true]

/-- An aligned address that no form gives, or that its kind does not reach (R18). -/
theorem State.addrTrap_of_no_form (ha : va.toNat % size = 0)
    (h : fld va.toNat 48 16 ≠ 0 ∨ fld va.toNat 46 2 = 2 ∨ (fld va.toNat 46 2 = 3 ∧ onchip s.lcore va.toNat size = none)) :
    s.addrTrap va size k = some (trapAccess 16 va) := by
  have hbad : (fld va.toNat 48 16 != 0 || fld va.toNat 46 2 == 2 || (fld va.toNat 46 2 == 3 && (onchip s.lcore va.toNat size).isNone)) = true := by
    rcases h with h | h | ⟨h, hc⟩
    · simp [h]
    · simp [h]
    · simp [h, hc]
  simp only [State.addrTrap, firstTrap, ha, bne_self_eq_false, hbad, Bool.false_eq_true, if_false, if_true]

/-- An aligned address of global memory or of the fabric window passes the checks on the address alone. -/
theorem State.addrTrap_of_global (ha : va.toNat % size = 0) (hz : fld va.toNat 48 16 = 0) (hg : fld va.toNat 46 2 < 2) :
    s.addrTrap va size k = none := by
  have h2 : (fld va.toNat 46 2 == 2) = false := by rw [beq_eq_false_iff_ne]; omega
  have h3 : (fld va.toNat 46 2 == 3) = false := by rw [beq_eq_false_iff_ne]; omega
  simp [State.addrTrap, firstTrap, ha, hz, h2, h3]

/-- So does one of on-chip space that a core reaches. -/
theorem State.addrTrap_of_onchip {key : Nat} (ha : va.toNat % size = 0) (hz : fld va.toNat 48 16 = 0) (hg : fld va.toNat 46 2 = 3)
    (hc : onchip s.lcore va.toNat size = some key) : s.addrTrap va size k = none := by
  simp [State.addrTrap, firstTrap, ha, hz, hg, hc]

/-- An access that leads somewhere has passed the checks of its address. -/
theorem State.vaTrap_of_reach {key : Nat} {pte : BitVec 64} (h : s.reach va size k = .at_ key pte) : s.vaTrap va size k = none := by
  unfold State.reach at h
  split at h
  · cases h
  · assumption

/-- An address with no trap has no bit beyond bit 47. -/
theorem State.fld_high_of_vaTrap (h : s.vaTrap va size k = none) : fld va.toNat 48 16 = 0 := by
  refine Decidable.byContradiction fun hne => ?_
  by_cases hc : s.ctx0Trap va size k = none
  · by_cases ha : va.toNat % size = 0
    · rw [State.vaTrap_of_ctx0 hc, State.addrTrap_of_no_form ha (.inl hne)] at h
      cases h
    · rw [State.vaTrap_of_ctx0 hc, State.addrTrap_misaligned ha] at h
      cases h
  · obtain ⟨t, ht⟩ := Option.ne_none_iff_exists'.mp hc
    simp only [State.vaTrap, ht] at h
    cases h

end

/-! ## Words of a scratchpad (R8, R17, R245) -/

/-- A word access leads to an on-chip key that passes the checks of its space. -/
theorem State.reach_word {s : State} {va : BitVec 64} {size key : Nat} {pte : BitVec 64} {st : Bool}
    (h : s.reach va size (.word st) = .at_ key pte) :
    fld va.toNat 46 2 = 3 ∧ onchip s.lcore va.toNat size = some key ∧ s.padTrap key size va (.word st) = none := by
  have hroute {t : State} {v : BitVec 64} {k j : Nat} {e e' : BitVec 64} (hr : t.byRoute v k e = .at_ j e') : k = j := by
    unfold State.byRoute at hr
    split at hr
    · exact (Reach.at_.inj hr).1
    · cases hr
  simp only [State.reach, State.vaTrap_of_reach h] at h
  split at h
  case isFalse => simp [AccKind.isWord] at h
  case isTrue hg =>
    split at h
    · cases h
    · next key' hc =>
      split at h
      · cases h
      · next hp =>
        obtain rfl := hroute h
        exact ⟨hg, hc, hp⟩

/-- The key of an on-chip address is the address, or a byte of a stack core's own SRAM (R16, R214). -/
theorem onchip_eq_some {l va size key : Nat} (h : onchip l va size = some key) :
    key = va ∨ (isStack l = true ∧ key = padKey l (fld va 0 26) ∧ fld va 0 26 + size ≤ 2 ^ 18) := by
  unfold onchip at h
  by_cases hs : (isStack l && fld va 46 18 == 3 && fld va 29 17 == 15 * 4 && fld va 26 3 == 0 && fld va 35 11 == 0) = true
  · by_cases hr : fld va 0 26 + size ≤ 2 ^ 18
    · simp only [hs, hr, if_true, Option.some.injEq] at h
      simp only [Bool.and_eq_true] at hs
      exact .inr ⟨hs.1.1.1.1, h.symm, hr⟩
    · simp only [hs, hr, if_true, if_false, reduceCtorEq] at h
  · simp only [hs, Bool.false_eq_true, if_false, Option.ite_none_right_eq_some, Option.some.injEq] at h
    exact .inl h.2.symm

/-- A key of a stack core's SRAM: where it stands, its offset, its core. -/
theorem padKey_stack {l off : Nat} (h : isStack l = true) : padKey l off = stackBase + l * 2 ^ 18 + off := by
  simp only [padKey, h, if_true]

theorem offOf_padKey_stack {l off : Nat} (h : isStack l = true) (hoff : off < 2 ^ 18) : offOf (padKey l off) = off := by
  have hge : ¬ stackBase + l * 2 ^ 18 + off < stackBase := by omega
  rw [padKey_stack h, offOf, if_neg hge]
  simp only [fld, stackBase]
  omega

/-- A word that passes the checks of its space lies in a scratchpad. -/
theorem State.isPad_of_reach_word {s : State} {va : BitVec 64} {key : Nat} {pte : BitVec 64} {st : Bool}
    (h : s.reach va 4 (.word st) = .at_ key pte) : isPad key = true := by
  obtain ⟨hg, hc, hp⟩ := State.reach_word h
  have hz := State.fld_high_of_vaTrap (State.vaTrap_of_reach h)
  have hva := va.isLt
  rcases onchip_eq_some hc with rfl | ⟨hs, rfl, hroom⟩
  · simp only [fld] at hg hz
    have hlo : va.toNat < stackBase := by simp only [stackBase]; omega
    have hhbm : isHbm va.toNat = false := by simp only [isHbm, decide_eq_false_iff_not]; omega
    have hsp : spaceOf va.toNat = 0 := by
      refine Decidable.byContradiction fun hne => ?_
      simp [State.padTrap, Nat.not_le.mpr hlo, AccKind.isWord, firstTrap, hne] at hp
    simp only [isPad, hhbm, hlo, hsp, if_true, Bool.not_false, beq_self_eq_true, Bool.and_self]
  · have hoff := offOf_padKey_stack hs (off := fld va.toNat 0 26) (by omega)
    have hkey := padKey_stack hs (off := fld va.toNat 0 26)
    have hl : s.lcore ≤ 28031 := by simp only [isStack, Bool.and_eq_true, decide_eq_true_eq] at hs; exact hs.2
    have hge : padKey s.lcore (fld va.toNat 0 26) ≥ stackBase := by omega
    have hsmall : offOf (padKey s.lcore (fld va.toNat 0 26)) + 4 ≤ 65536 := by
      refine Decidable.byContradiction fun hbig => ?_
      simp [State.padTrap, hge, AccKind.isWord, Nat.not_le.mp hbig] at hp
    have hlt : padKey s.lcore (fld va.toNat 0 26) < fabricBase := by simp only [hkey, stackBase, fabricBase]; omega
    have hhbm : isHbm (padKey s.lcore (fld va.toNat 0 26)) = false := by
      simp only [isHbm, decide_eq_false_iff_not, hkey, stackBase]; omega
    have h64 : offOf (padKey s.lcore (fld va.toNat 0 26)) < 65536 := by omega
    simp only [isPad, hhbm, Nat.not_lt.mpr hge, hlt, h64, if_false, Bool.not_false, decide_true, Bool.and_self]

/-! ## A word of the own scratchpad (R248) -/

/-- Outside a speculation a form that a speculation forbids goes on. -/
theorem State.noSpec_of_none {s : State} (h : s.me.spec = none) (major : Nat) (k : State) : s.noSpec major k = k := by
  simp only [State.noSpec, Thread.speculates, h, Bool.false_eq_true, if_false]

section
variable {s : State} {va : BitVec 64} (k : Nat → State)

/-- A word of the own scratchpad that passes its checks. -/
theorem State.onOwnWord_at {key : Nat} {pte : BitVec 64} (h : s.reach va 4 (.word false) = .at_ key pte) (hown : coreOfKey key = s.lcore) :
    s.onOwnWord va k = k (key / 4) := by
  have hno : s.notOwn va = false := by
    simp only [State.notOwn, (State.reach_word h).2.1, hown, State.isPad_of_reach_word h, bne_self_eq_false, Bool.not_true, Bool.or_self]
  simp only [State.onOwnWord, State.vaTrap_of_reach h, State.unless, hno, Bool.and_false, State.check, firstTrap, Bool.false_eq_true, if_false,
    State.onKey, h, hown, if_true]

/-- An address that fails its own checks. -/
theorem State.onOwnWord_trap {t : Trap} (h : s.vaTrap va 4 (.word false) = some t) : s.onOwnWord va k = s.raise t := by
  simp only [State.onOwnWord, h, State.unless]

/-- A word of another core, or of no scratchpad. -/
theorem State.onOwnWord_notOwn (h : s.vaTrap va 4 (.word false) = none) (hg : fld va.toNat 46 2 = 3) (hno : s.notOwn va = true) :
    s.onOwnWord va k = s.raise (trapAccess 16 va) := by
  simp only [State.onOwnWord, h, State.unless, hg, hno, beq_self_eq_true, Bool.and_self, State.check, firstTrap, if_true]

/-- An address of global memory or of the fabric window is no word's (R245). -/
theorem State.onOwnWord_global (h : s.vaTrap va 4 (.word false) = none) (hg : fld va.toNat 46 2 < 2) :
    s.onOwnWord va k = s.raise (trapAccess 16 va) := by
  have h3 : fld va.toNat 46 2 ≠ 3 := by omega
  have hreach : s.reach va 4 (.word false) = .trap (trapAccess 16 va) := by
    simp only [State.reach, h, h3, if_false, AccKind.isWord, Bool.true_or, if_true]
  simp only [State.onOwnWord, h, State.unless, beq_eq_false_iff_ne.mpr h3, Bool.false_and, State.check, firstTrap, Bool.false_eq_true, if_false,
    State.onKey, hreach]

/-- The traps of such a form's address (R238, R245). -/
theorem State.trapsAt_of_onOwnWord {i : Instr} (h : exec i s = .next (s.onOwnWord va k)) : s.trapsAt i va 4 (.word false) := by
  intro hctx
  have hva := State.vaTrap_of_ctx0 hctx
  refine ⟨fun ha => ?_, fun ha => ⟨fun hform => ?_, fun hz hg => ⟨fun _ => ?_, fun hword => nomatch hword⟩⟩⟩
  · rw [h, State.onOwnWord_trap k (hva.trans (State.addrTrap_misaligned ha))]
  · rw [h, State.onOwnWord_trap k (hva.trans (State.addrTrap_of_no_form ha hform))]
  · rw [h, State.onOwnWord_global k (hva.trans (State.addrTrap_of_global ha hz hg)) hg]
end

/-! ## WATCH, UNWATCH and WAIT -/

theorem exec_watch (z : BitVec 1) (d a : BitVec 5) (s : State) : exec (.watch z d a) s = execWatch z d a s := rfl
theorem exec_wait (z : BitVec 1) (s : State) : exec (.wait z) s = execWait z s := rfl

@[simp] theorem State.core_modTag (s : State) (w l : Nat) (f : WordTag → WordTag) : (s.modTag w f).core l = s.core l := rfl

/-- A WATCH of word w, by what the core's table holds of it. -/
def State.watchWord (s : State) (d : BitVec 5) (w : Nat) : State :=
  match (s.core s.lcore).watches.find? fun x => x.1 == w with
  | some x => s.wS d (if x.2 = s.cur then 1 else 0)
  | none =>
    if (s.core s.lcore).watches.length ≥ 64 then s.wS d 0
    else ((s.modCore s.lcore fun c => { c with watches := c.watches ++ [(w, s.cur)] }).modTag w fun g => { g with watch := true }).wS d 1

/-- An UNWATCH of word w. -/
def State.unwatchWord (s : State) (w : Nat) : State :=
  if (s.core s.lcore).watches.contains (w, s.cur) then
    (s.modCore s.lcore fun c => { c with watches := c.watches.erase (w, s.cur) }).modTag w fun g => { g with watch := false }
  else s

theorem exec_watch_of_spec_none {s : State} (h : s.me.spec = none) (z : BitVec 1) (d a : BitVec 5) :
    exec (.watch z d a) s = .next (s.onOwnWord (s.rS a) (s.watchWord d)) := by
  rw [exec_watch, execWatch, State.noSpec_of_none h]
  rfl

theorem exec_unwatch (z : BitVec 1) (a : BitVec 5) (s : State) : exec (.unwatch z a) s = .next (s.onOwnWord (s.rS a) s.unwatchWord) := rfl

/-- WATCH enters the thread in the core's table, sets W and writes 1. -/
theorem State.watchWord_enters {s : State} {w : Nat} (d : BitVec 5) (hfree : ((s.core s.lcore).watches.find? fun x => x.1 == w) = none)
    (hroom : (s.core s.lcore).watches.length < 64) :
    (s.watchWord d w).live.getS d = 1 ∧ s.bytesKeptBut (s.watchWord d w) s.cur [sBytes d] ∧
      s.watchWord d w = { s with ws := (s.watchWord d w).ws, cores := (s.watchWord d w).cores, tags := (s.watchWord d w).tags } ∧
      ((s.watchWord d w).tag w).watch = true ∧ ((s.watchWord d w).core s.lcore).watches = (s.core s.lcore).watches ++ [(w, s.cur)] := by
  obtain ⟨u, hu⟩ : ∃ u, u = (s.modCore s.lcore fun c => { c with watches := c.watches ++ [(w, s.cur)] }).modTag w fun g => { g with watch := true } :=
    ⟨_, rfl⟩
  have e : s.watchWord d w = u.wS d 1 := by
    simp only [State.watchWord, hfree, ge_iff_le, Nat.not_le.mpr hroom, if_false, hu]
  obtain ⟨hreg, -, -, hbytes⟩ := u.onlyS_wS d 1
  rw [e]
  refine ⟨hreg, ?_, by rw [hu]; rfl, ?_, ?_⟩
  · rw [hu] at hbytes ⊢
    exact hbytes
  · have : (u.wS d 1).tag w = u.tag w := rfl
    rw [this, hu, State.tag_modTag_same]
  · have : (u.wS d 1).core s.lcore = u.core s.lcore := rfl
    rw [this, hu, State.core_modTag, State.core_modCore_same]

/-- WATCH of a word that the table holds writes whether the thread is its watcher. -/
theorem State.watchWord_held {s : State} {w : Nat} {x : Nat × Nat} (d : BitVec 5) (h : ((s.core s.lcore).watches.find? fun x => x.1 == w) = some x) :
    s.watchWord d w = s.wS d (if x.2 = s.cur then 1 else 0) := by
  simp only [State.watchWord, h]

/-- WATCH of another word writes 0 where the table is full. -/
theorem State.watchWord_full {s : State} {w : Nat} (d : BitVec 5) (h : ((s.core s.lcore).watches.find? fun x => x.1 == w) = none)
    (hfull : 64 ≤ (s.core s.lcore).watches.length) : s.watchWord d w = s.wS d 0 := by
  simp only [State.watchWord, h, ge_iff_le, hfull, if_true]

/-- UNWATCH by the watcher takes its entry out and clears W. -/
theorem State.unwatchWord_leaves {s : State} {w : Nat} (h : (w, s.cur) ∈ (s.core s.lcore).watches) :
    s.bytesKept (s.unwatchWord w) ∧ ((s.unwatchWord w).tag w).watch = false ∧
      ((s.unwatchWord w).core s.lcore).watches = (s.core s.lcore).watches.erase (w, s.cur) ∧
      s.unwatchWord w = { s with cores := (s.unwatchWord w).cores, tags := (s.unwatchWord w).tags } := by
  have e : s.unwatchWord w =
      (s.modCore s.lcore fun c => { c with watches := c.watches.erase (w, s.cur) }).modTag w fun g => { g with watch := false } := by
    simp only [State.unwatchWord, List.contains_iff_mem.mpr h, if_true]
  rw [e]
  exact ⟨fun _ => rfl, by rw [State.tag_modTag_same], by rw [State.core_modTag, State.core_modCore_same], rfl⟩

/-- UNWATCH by another thread changes nothing. -/
theorem State.unwatchWord_other {s : State} {w : Nat} (h : (w, s.cur) ∉ (s.core s.lcore).watches) : s.unwatchWord w = s := by
  simp only [State.unwatchWord, List.contains_iff_mem, h, if_false]

/-- A change of the issuing thread leaves everything else. -/
theorem State.onlyThread_modMe (s : State) (f : Thread → Thread) : s.onlyThread (s.modMe f) f :=
  ⟨rfl, State.me_modMe s f, fun _ h => State.thr_modThr_other s f h⟩

end Sys2Proof.Machine
end

section
/-! PROOF. WATCH, UNWATCH and WAIT. -/

namespace Sys2Proof

open Machine

/-- Settles O21: each clause is what a WATCH or an UNWATCH of a word of the own scratchpad does, or the trap of its address. -/
theorem watching : Obligations.Watching := by
  unfold Obligations.Watching
  refine ⟨?enters, ?refused, ?again, ?traps, ?unwatch, ?wait⟩
  case enters =>
    intro s z d a key pte h hown hspec hfree hroom
    exact ⟨_, by rw [exec_watch_of_spec_none hspec, State.onOwnWord_at _ h hown], State.watchWord_enters d hfree hroom⟩
  case refused =>
    intro s z d a key pte h hown hspec hother hno
    refine ⟨s.wS d 0, ?_, s.onlyS_wS d 0⟩
    rw [exec_watch_of_spec_none hspec, State.onOwnWord_at _ h hown]
    cases hfind : (s.core s.lcore).watches.find? fun x => x.1 == key / 4 with
    | some x => rw [State.watchWord_held d hfind, if_neg (hother x hfind)]
    | none => rw [State.watchWord_full d hfind (hno.resolve_left fun c => c hfind)]
  case again =>
    intro s z d a key pte h hown hspec hmine
    refine ⟨s.wS d 1, ?_, s.onlyS_wS d 1⟩
    rw [exec_watch_of_spec_none hspec, State.onOwnWord_at _ h hown, State.watchWord_held d hmine, if_pos rfl]
  case traps =>
    intro s z d a hspec
    have hw := exec_watch_of_spec_none hspec z d a
    have hu := exec_unwatch z a s
    refine ⟨State.trapsAt_of_onOwnWord _ hw, State.trapsAt_of_onOwnWord _ hu, fun hva hg hno => ⟨?_, ?_⟩⟩
    · rw [hw, State.onOwnWord_notOwn _ hva hg hno]
    · rw [hu, State.onOwnWord_notOwn _ hva hg hno]
  case unwatch =>
    intro s z a key pte h hown
    rw [exec_unwatch, State.onOwnWord_at _ h hown]
    exact ⟨fun hmem => ⟨_, rfl, State.unwatchWord_leaves hmem⟩, fun hno => by rw [State.unwatchWord_other hno]⟩
  case wait =>
    intro s z
    exact ⟨_, exec_wait z s, s.onlyThread_modMe _⟩

end Sys2Proof
end

section
/-! SUPPORT. Fences (R86, R249), and cache hints with the misses that they leave at a slice (R140, R141, R252). -/

namespace Sys2Proof.Machine

/-! ## FENCE (R86, R249) -/

/-- Two changes of the issuing thread, one after the other. -/
theorem State.onlyThread.trans {s t u : State} {f g : Thread → Thread} (h : s.onlyThread t f) (k : t.onlyThread u g) :
    s.onlyThread u (g ∘ f) := by
  obtain ⟨ht, hme, hother⟩ := h
  obtain ⟨hu, hme', hother'⟩ := k
  have hcur : t.cur = s.cur := by rw [ht]
  refine ⟨by rw [hu, ht], by rw [hme', hme, Function.comp], fun th hth => ?_⟩
  rw [hother' th (by rw [hcur]; exact hth), hother th hth]

/-- The issuing thread under a REL fence of a scope, over the accesses before its bundle. -/
def State.underFence (s : State) (scope : Nat) (x : Thread) : Thread :=
  { x with fences := (x.fences.filter fun f => !(s.earlier s.cur f.seq).isEmpty || f.scope == 6) ++ [⟨x.seq, scope⟩] }

/-- A thread that waits at an ACQ or FULL fence. -/
def Thread.atFence (kind scope : Nat) (x : Thread) : Thread := { x with park := .fence kind scope x.seq }

theorem State.onlyThread_addFence (s : State) (scope : Nat) : s.onlyThread (s.addFence scope) (s.underFence scope) :=
  s.onlyThread_modMe _

/-- REL puts the issuing thread under a fence. -/
theorem exec_fence_rel (z : BitVec 1) (sc : BitVec 3) (s : State) : exec (.fence z sc 1) s = .next (s.addFence sc.toNat) := rfl

/-- ACQ parks it. -/
theorem exec_fence_acq (z : BitVec 1) (sc : BitVec 3) (s : State) : exec (.fence z sc 2) s = .next (s.modMe (Thread.atFence 2 sc.toNat)) := rfl

/-- FULL does both. -/
theorem exec_fence_full (z : BitVec 1) (sc : BitVec 3) (s : State) :
    exec (.fence z sc 3) s = .next ((s.addFence sc.toNat).modMe (Thread.atFence 3 sc.toNat)) := rfl

/-! ## Hints (R252) -/

theorem exec_pfh (z : BitVec 1) (a : BitVec 5) (s : State) :
    exec (.pfh z a) s = .next (s.hint (s.rS a) fun key pte => if s.lineIn key then s else s.fillAhead key pte none) := rfl

/-- The class and the count of a line that stands in the slice of its home. -/
def State.classed (s : State) (key : Nat) (c : BitVec 2) (r : BitVec 4) : State :=
  s.modPort (memPort key) fun p => { p with lines := p.lines.map fun x => if x.line = key / 128 then { x with cls := c, count := r } else x }

theorem exec_tcls (z : BitVec 1) (a : BitVec 5) (c : BitVec 2) (r : BitVec 4) (s : State) :
    exec (.tcls z a c r) s = .next (s.hint (s.rS a) fun key pte => if s.lineIn key then s.classed key c r else s.fillAhead key pte (some (c, r))) := rfl

section
variable {s : State} {va : BitVec 64} (k : Nat → BitVec 64 → State)

theorem State.hint_at {key : Nat} {pte : BitVec 64} (h : s.reach va 1 .load = .at_ key pte) (hk : isHbm key = true) (hn : pte.getLsbD 9 = false) :
    s.hint va k = k key pte := by
  simp only [State.hint, h, hk, hn, Bool.not_false, Bool.and_self, if_true]

theorem State.hint_dropped {key : Nat} {pte : BitVec 64} (h : s.reach va 1 .load = .at_ key pte) (hk : isHbm key = false ∨ pte.getLsbD 9 = true) :
    s.hint va k = s := by
  have : (isHbm key && !pte.getLsbD 9) = false := by rcases hk with hk | hk <;> simp only [hk, Bool.false_and, Bool.not_true, Bool.and_false]
  simp only [State.hint, h, this, Bool.false_eq_true, if_false]

theorem State.hint_trap {t : Trap} (h : s.reach va 1 .load = .trap t) : s.hint va k = s.modMe fun x => { x with walk := .none } := by
  simp only [State.hint, h]

theorem State.hint_walk {vpn : Nat} (h : s.reach va 1 .load = .walk vpn) : s.hint va k = s.stallWalk vpn := by
  simp only [State.hint, h]
end

theorem State.lineIn_iff (s : State) (key : Nat) : s.lineIn key = true ↔ ∃ x ∈ (s.port (memPort key)).lines, x.line = key / 128 := by
  simp only [State.lineIn, List.any_eq_true, beq_iff_eq]

/-! ## Misses of a slice (R140, R141) -/

/-- Nothing but port cores has changed. -/
def State.onlyPorts (s t : State) : Prop := t = { s with ports := t.ports }

theorem State.onlyPorts.trans {s t u : State} (h : s.onlyPorts t) (k : t.onlyPorts u) : s.onlyPorts u := by
  rw [State.onlyPorts] at h k ⊢
  rw [k, h]

theorem State.onlyPorts.upsets {s t : State} (h : s.onlyPorts t) : t.upsets = s.upsets := by rw [h]

theorem State.ports_wrByte (s : State) (k : Nat) (b : Byte) : (s.wrByte k b).ports = s.ports := by
  unfold State.wrByte
  split <;> rfl

theorem State.ports_wrN (s : State) (k n x : Nat) : (s.wrN k n x).ports = s.ports := by
  induction n generalizing s k x with
  | zero => rfl
  | succ n ih => rw [State.wrN, ih, State.ports_wrByte]

/-- What HBM keeps of a line's failing units. -/
theorem State.ports_foldl_wrN {α : Type} (l : List α) (k x : α → Nat) (s : State) :
    (l.foldl (fun s u => s.wrN (k u) 8 (x u)) s).ports = s.ports := by
  induction l generalizing s with
  | nil => rfl
  | cons u l ih => rw [List.foldl_cons, ih, State.ports_wrN]

/-- A log entry leaves the misses of its port core. -/
theorem State.misses_postErr (s : State) (port kind ctx detail j : Nat) : ((s.postErr port kind ctx detail).port j).misses = (s.port j).misses := by
  refine State.port_modPort_proj Port.misses (fun q => ?_) j
  split <;> rfl

/-- A port core's unit once a line has left its slice: a dirty one is to be written back (R141). -/
def Port.without (p : Port) (x : Line) (tick : Nat) : Port :=
  { p with lines := p.lines.filter fun y => y != x, queue := if x.was.isSome then p.queue ++ [⟨x.line, false, true, x.compress, ⟨tick, 0⟩, 0⟩] else p.queue }

/-- The state without a line of a slice, and what fails in the slice alone. -/
def State.withoutLine (s : State) (port : Nat) (x : Line) : State :=
  { s.modPort port fun p => p.without x s.tick with upsets := s.upsets.filter fun u => !unitOf x.line u || x.bad.contains u }

/-- A line that leaves its slice is gone; beside, where a word of it fails, HBM keeps what it held of such words, and the loss is logged (R177). -/
theorem State.evict_eq (s : State) (port : Nat) (x : Line) : s.evict port x = s.withoutLine port x ∨
    (s.upsets ≠ [] ∧ ∃ (l : List Nat) (k g : Nat → Nat),
      s.evict port x = (l.foldl (fun s u => s.wrN (k u) 8 (g u)) (s.withoutLine port x)).postErr port 0x04 0 (x.line * 128)) := by
  unfold State.evict
  cases hw : x.was with
  | none => exact .inl (by simp only [State.withoutLine, Port.without, hw]; rfl)
  | some w =>
    by_cases hf : s.upsets.filter (unitOf x.line) = []
    · exact .inl (by simp only [hf, if_true, State.withoutLine, Port.without, hw]; rfl)
    · refine .inr ⟨fun h => hf (by rw [h, List.filter_nil]), s.upsets.filter (unitOf x.line), (· * 8), fun u => getF w (64 * (u % 16)) 64, ?_⟩
      simp only [hf, if_false, State.withoutLine, Port.without, hw]
      rfl

/-- A line that leaves its slice leaves the misses as they are. -/
theorem State.misses_evict (s : State) (port : Nat) (x : Line) (j : Nat) : ((s.evict port x).port j).misses = (s.port j).misses := by
  have hline : ((s.withoutLine port x).port j).misses = (s.port j).misses :=
    State.port_modPort_proj (s := s) (f := fun p => p.without x s.tick) Port.misses (fun _ => rfl) j
  rcases s.evict_eq port x with e | ⟨-, l, k, g, e⟩
  · rw [e, hline]
  · rw [e, State.misses_postErr, State.port, State.ports_foldl_wrN]
    exact hline

/-- Where no word anywhere has an uncorrectable error, it changes nothing but its port core. -/
theorem State.onlyPorts_evict {s : State} (h : s.upsets = []) (port : Nat) (x : Line) : s.onlyPorts (s.evict port x) := by
  rcases s.evict_eq port x with e | ⟨hne, -⟩
  · rw [e, State.withoutLine, h, List.filter_nil, ← h]
    rfl
  · exact absurd h hne

/-- A miss as its own start may leave it: it waits, or is outstanding. -/
def Miss.begun (m x : Miss) : Prop := x = m ∨ x = { m with started := true }

/-- A port core's unit once a miss is outstanding: the controller has its claim (R141). -/
def Port.begins (p : Port) (m : Miss) : Port :=
  { p with
    misses := p.misses.map fun x => if x.same m then { x with started := true } else x
    queue := p.queue ++ [⟨m.line, m.near, m.near && m.write, m.compress, m.claim, 0⟩] }

theorem Port.mem_begins {p : Port} {m : Miss} (hm : m ∈ p.misses) (first : Miss) : ∃ x ∈ (p.begins first).misses, m.begun x := by
  refine ⟨if m.same first then { m with started := true } else m, List.mem_map.mpr ⟨m, hm, rfl⟩, ?_⟩
  split
  · exact .inr rfl
  · exact .inl rfl

/-- No miss starts, or one does, for which a line may have left its slice. -/
theorem State.startMiss_eq (s : State) (port : Nat) : s.startMiss port = s ∨
    ∃ m u, s.startMiss port = u.modPort port (fun p => p.begins m) ∧ (u = s ∨ ∃ x, u = s.evict port x) := by
  unfold State.startMiss
  simp only
  split
  · exact .inl rfl
  · refine .inr ⟨_, _, rfl, ?_⟩
    split
    · exact .inl rfl
    · split
      · exact .inl rfl
      · exact .inr ⟨_, rfl⟩

/-- Every miss stays, waiting or outstanding. -/
theorem State.mem_startMiss {s : State} {port : Nat} {m : Miss} (hm : m ∈ (s.port port).misses) :
    ∃ x ∈ ((s.startMiss port).port port).misses, m.begun x := by
  rcases s.startMiss_eq port with e | ⟨first, u, e, hu⟩
  · exact ⟨m, by rw [e]; exact hm, .inl rfl⟩
  · have hkeep : (u.port port).misses = (s.port port).misses := by
      rcases hu with rfl | ⟨x, rfl⟩
      · rfl
      · exact s.misses_evict port x port
    rw [e, State.port_modPort_same]
    exact Port.mem_begins (hkeep ▸ hm) first

theorem State.onlyPorts_startMiss {s : State} (h : s.upsets = []) (port : Nat) : s.onlyPorts (s.startMiss port) := by
  rcases s.startMiss_eq port with e | ⟨first, u, e, hu⟩
  · rw [e]
    rfl
  · rw [e]
    rcases hu with rfl | ⟨x, rfl⟩
    · rfl
    · exact (State.onlyPorts_evict h port x).trans rfl

/-- A line that is asked for, and is not yet, becomes a miss of its slice. -/
theorem State.askLine_spec {s : State} {port : Nat} {m : Miss} (h : (s.port port).misses.any m.same = false) :
    (∃ x ∈ ((s.askLine port m).port port).misses, m.begun x) ∧ (s.upsets = [] → s.onlyPorts (s.askLine port m)) := by
  obtain ⟨u, hu⟩ : ∃ u, u = s.modPort port fun p => { p with misses := p.misses ++ [m] } := ⟨_, rfl⟩
  have e : s.askLine port m = u.startMiss port := by
    simp only [State.askLine, h, Bool.false_eq_true, if_false, hu]
  have hm : m ∈ (u.port port).misses := by
    rw [hu, State.port_modPort_same]
    exact List.mem_append_right _ (List.mem_singleton_self m)
  have hu' : s.onlyPorts u := by rw [hu]; rfl
  rw [e]
  exact ⟨State.mem_startMiss hm, fun hup => hu'.trans (State.onlyPorts_startMiss (hu'.upsets.trans hup) port)⟩

/-- An absent line that a hint names becomes a miss of the slice, with the hint. -/
theorem State.fillAhead_spec {s : State} {key : Nat} (h : ∀ m ∈ (s.port (memPort key)).misses, m.line = key / 128 → m.near = true) (pte : BitVec 64)
    (hint : Option (BitVec 2 × BitVec 4)) :
    (s.upsets = [] → s.onlyPorts (s.fillAhead key pte hint)) ∧
      ∃ m ∈ ((s.fillAhead key pte hint).port (memPort key)).misses, m.line = key / 128 ∧ m.near = false ∧ m.ahead = true ∧ m.hint = hint := by
  have hnone : (s.port (memPort key)).misses.any (Miss.same ⟨key / 128, false, false, pte.getLsbD 11, hint, true, ⟨s.tick, s.tid s.cur⟩, false⟩) = false := by
    rw [List.any_eq_false]
    intro m hm hsame
    simp only [Miss.same, Bool.and_eq_true, beq_iff_eq] at hsame
    exact Bool.false_ne_true (hsame.2.trans (h m hm hsame.1.symm))
  obtain ⟨⟨x, hx, hb⟩, honly⟩ := State.askLine_spec hnone
  refine ⟨honly, x, hx, ?_⟩
  rcases hb with rfl | rfl <;> exact ⟨rfl, rfl, rfl, rfl⟩

end Sys2Proof.Machine
end

section
/-! PROOF. FENCE, PFH and TCLS. -/

namespace Sys2Proof

open Machine

/-- Settles O22: a FENCE is one or two changes of the issuing thread; a hint acts on a line that stands in its slice, or
leaves a miss there. -/
theorem fencesAndHints : Obligations.FencesAndHints := by
  unfold Obligations.FencesAndHints
  refine ⟨?fence, ?acts, ?dropped, ?fails⟩
  case fence =>
    intro s z sc k hk
    have hfence {x : Thread} : (⟨x.seq, sc.toNat⟩ : RelFence) ∈ (s.underFence sc.toNat x).fences := List.mem_append_right _ (List.mem_singleton_self _)
    obtain rfl | rfl | rfl : k = 1 ∨ k = 2 ∨ k = 3 := by revert k; decide
    · obtain ⟨ht, hme, hother⟩ := s.onlyThread_addFence sc.toNat
      exact ⟨_, exec_fence_rel z sc s, ht, hother, fun _ => hme ▸ hfence, fun h => absurd h (by decide), by rw [hme]; rfl⟩
    · obtain ⟨ht, hme, hother⟩ := s.onlyThread_modMe (Thread.atFence 2 sc.toNat)
      exact ⟨_, exec_fence_acq z sc s, ht, hother, fun h => absurd rfl h, fun _ => by rw [hme]; rfl, by rw [hme]; rfl⟩
    · obtain ⟨ht, hme, hother⟩ := (s.onlyThread_addFence sc.toNat).trans ((s.addFence sc.toNat).onlyThread_modMe (Thread.atFence 3 sc.toNat))
      exact ⟨_, exec_fence_full z sc s, ht, hother, fun _ => hme ▸ hfence, fun h => absurd h (by decide), by rw [hme]; rfl⟩
  case acts =>
    intro s z a c r key pte h hk hn port
    simp only [exec_pfh, exec_tcls, State.hint_at _ h hk hn]
    refine ⟨fun hin => ?_, fun habsent hmiss => ?_⟩
    · have hline : s.lineIn key = true := (s.lineIn_iff key).mpr hin
      rw [if_pos hline, if_pos hline]
      exact ⟨rfl, _, rfl, rfl, fun q hq => State.port_modPort_other s _ hq, congrArg Port.lines (State.port_modPort_same s (memPort key) _)⟩
    · have hline : ¬ s.lineIn key = true := fun hin => by
        obtain ⟨x, hx, e⟩ := (s.lineIn_iff key).mp hin
        exact habsent x hx e
      rw [if_neg hline, if_neg hline]
      exact ⟨⟨_, rfl, State.fillAhead_spec hmiss pte none⟩, _, rfl, State.fillAhead_spec hmiss pte (some (c, r))⟩
  case dropped =>
    intro s z a c r key pte h hk
    simp only [exec_pfh, exec_tcls, State.hint_dropped _ h hk, and_self]
  case fails =>
    intro s z a c r i hi
    obtain ⟨k, hexec⟩ : ∃ k, exec i s = .next (s.hint (s.rS a) k) := by
      simp only [List.mem_cons, List.not_mem_nil, or_false] at hi
      obtain rfl | rfl := hi
      · exact ⟨_, exec_tcls z a c r s⟩
      · exact ⟨_, exec_pfh z a s⟩
    rw [hexec]
    exact ⟨fun tr h => ⟨_, by rw [State.hint_trap k h], s.onlyThread_modMe _⟩, fun vpn h => by rw [State.hint_walk k h]⟩

end Sys2Proof
end

section
/-! SUPPORT. The nearest unit of an address (R253), and RCALL at its issue (R93, R197, R255). -/

namespace Sys2Proof.Machine

/-! ## Addresses without a unit (R253) -/

/-- A global address has no bit beyond bit 45. -/
theorem fld_of_global {x : Nat} (h : fld x 46 18 = 0) : fld x 48 16 = 0 ∧ fld x 46 2 = 0 := by
  simp only [fld] at h ⊢
  omega

section
variable {s : State} {va : BitVec 64}

theorem State.nearest_no_form
    (h : fld va.toNat 48 16 ≠ 0 ∨ fld va.toNat 46 2 = 2 ∨ (fld va.toNat 46 2 = 3 ∧ onchip s.lcore va.toNat 1 = none)) :
    s.nearest va = .trap (trapAccess 16 va) := by
  simp only [State.nearest, State.addrTrap_of_no_form (k := .load) (Nat.mod_one _) h]

/-- The fabric window has no unit. -/
theorem State.nearest_fabric (hz : fld va.toNat 48 16 = 0) (hg : fld va.toNat 46 2 = 1) : s.nearest va = .trap (trapAccess 16 va) := by
  have h3 : ¬ fld va.toNat 46 2 = 3 := by omega
  simp only [State.nearest, State.addrTrap_of_global (k := .load) (Nat.mod_one _) hz (by omega), if_neg h3, if_pos hg]

/-- A stack core's own SRAM has none. -/
theorem State.nearest_sram {key : Nat} (hz : fld va.toNat 48 16 = 0) (hg : fld va.toNat 46 2 = 3) (hc : onchip s.lcore va.toNat 1 = some key)
    (hs : stackBase ≤ key) : s.nearest va = .trap (trapAccess 16 va) := by
  simp only [State.nearest, State.addrTrap_of_onchip (k := .load) (Nat.mod_one _) hz hg hc, hg, hc, ge_iff_le, hs, if_true]

/-- A global page whose walk has failed. -/
theorem State.nearest_walk_failed {r : Nat} (hz : fld va.toNat 46 18 = 0) (ht : s.tlbFind s.lcore s.me.ctx (va.toNat / 65536) = none)
    (hw : s.me.walk = .failed (va.toNat / 65536) r) : s.nearest va = .trap ⟨8, cPageFault, r, some va⟩ := by
  obtain ⟨hhigh, hg⟩ := fld_of_global hz
  have h3 : ¬ fld va.toNat 46 2 = 3 := by omega
  have h1 : ¬ fld va.toNat 46 2 = 1 := by omega
  simp only [State.nearest, State.addrTrap_of_global (k := .load) (Nat.mod_one _) hhigh (by omega), if_neg h3, if_neg h1, ht, hw, if_true]

/-- A global page without a translation, whose walk is to be awaited. -/
theorem State.nearest_not_walked (hz : fld va.toNat 46 18 = 0) (ht : s.tlbFind s.lcore s.me.ctx (va.toNat / 65536) = none)
    (hw : ∀ r, s.me.walk ≠ .failed (va.toNat / 65536) r) : s.nearest va = .walk (va.toNat / 65536) := by
  obtain ⟨hhigh, hg⟩ := fld_of_global hz
  have h3 : ¬ fld va.toNat 46 2 = 3 := by omega
  have h1 : ¬ fld va.toNat 46 2 = 1 := by omega
  simp only [State.nearest, State.addrTrap_of_global (k := .load) (Nat.mod_one _) hhigh (by omega), if_neg h3, if_neg h1, ht]
  split
  · next v r hf => exact if_neg fun hv => hw r (by rw [hf, hv])
  · rfl

/-! ## The checks of a unit (R159, R181) -/

variable {k : Nat → State}

theorem State.onUnit_trap {t : Trap} (migr : Bool) (h : s.nearest va = .trap t) : s.onUnit va migr k = s.raise t := by
  simp only [State.onUnit, h]

theorem State.onUnit_walk {vpn : Nat} (migr : Bool) (h : s.nearest va = .walk vpn) : s.onUnit va migr k = s.stallWalk vpn := by
  simp only [State.onUnit, h]

variable {l : Nat} {pte : BitVec 64} (h : s.nearest va = .at_ l pte)
include h

/-- A unit of another context. -/
theorem State.onUnit_denied (hmay : s.mayCall s.me.ctx l = false) : s.onUnit va false k = s.raise (trapAccess 18 va) := by
  simp only [State.onUnit, h, State.check, firstTrap, Bool.false_and, Bool.false_eq_true, if_false, hmay, Bool.not_false, if_true]

/-- A unit without a route. -/
theorem State.onUnit_unrouted (hmay : s.mayCall s.me.ctx l = true) (hr : s.routable (dieOfCore s.lcore) (dieOfCore l) = false) :
    s.onUnit va false k = s.raise (trapAccess 22 va) := by
  simp only [State.onUnit, h, State.check, firstTrap, Bool.false_and, Bool.false_eq_true, if_false, hmay, Bool.not_true, hr, Bool.not_false, if_true]

theorem State.onUnit_at (hmay : s.mayCall s.me.ctx l = true) (hr : s.routable (dieOfCore s.lcore) (dieOfCore l) = true) :
    s.onUnit va false k = k l := by
  simp only [State.onUnit, h, State.check, firstTrap, Bool.false_and, Bool.false_eq_true, if_false, hmay, Bool.not_true, hr]
end

/-! ## RCALL at its issue (R93, R197, R255) -/

/-- The request of an RCALL to unit l. -/
def State.callKind (s : State) (sa a n : BitVec 5) (v : BitVec 4) (c : BitVec 3) (l : Nat) : ReqKind :=
  .rcall l (s.rS a) (s.iss.pc + BitVec.ofInt 48 (8 * callOff s.callImm)) (s.rSs sa n.toNat) (s.src.getVs v c.toNat)

/-- The registers that IMM26 names for its results. -/
def State.callDests (s : State) (v : BitVec 4) : List Reg :=
  (List.range (callDS s.callImm)).map (fun j => Reg.s (callSD s.callImm + j)) ++ (List.range (callDV s.callImm)).map fun j => Reg.v (v.toNat + j)

/-- The call, not yet sent. -/
def State.newCall (s : State) (v : BitVec 4) : Call :=
  ⟨s.nextRid, s.issSrc, callSD s.callImm, callDS s.callImm, v.toNat, callDV s.callImm, s.tick, s.src.rcTimeout * Config.cyclesPerUs, false⟩

/-- The call leaves as a request, its results are expected, and its thread waits until it is sent. -/
def State.sendsCall (s : State) (sa a n : BitVec 5) (v : BitVec 4) (c : BitVec 3) (l : Nat) : State :=
  ((s.pendReq s.nextRid (s.callDests v) []).addReq (s.newReq s.cur s.issSrc (s.callKind sa a n v c l) [] true)).modMe fun t =>
    { t with park := .answer s.nextRid, calls := t.calls ++ [s.newCall v] }

theorem exec_rcall {s : State} (h : s.me.spec = none) (z : BitVec 1) (sa a n : BitVec 5) (v : BitVec 4) (c : BitVec 3) :
    exec (.rcall z sa a n v c) s = .next (s.onUnit (s.rS a) false fun l =>
      if !sameTile s.lcore l && s.slotsFull s.lcore then s.stall else s.sendsCall sa a n v c l) := by
  have e : exec (.rcall z sa a n v c) s = .next (s.noSpec 0x31 (s.onUnit (s.rS a) false fun l =>
      if !sameTile s.lcore l && s.slotsFull s.lcore then s.stall else s.sendsCall sa a n v c l)) := rfl
  rw [e, State.noSpec_of_none h]

/-- What the issuing thread is then. -/
theorem State.sendsCall_me (s : State) (sa a n : BitVec 5) (v : BitVec 4) (c : BitVec 3) (l : Nat) :
    (s.sendsCall sa a n v c l).me = { s.me with
      pend := s.me.pend ++ [⟨s.issSrc, .value, some s.nextRid, false, s.callDests v, [], 0, none⟩], park := .answer s.nextRid,
      calls := s.me.calls ++ [s.newCall v] } := by
  simp only [State.sendsCall, State.me_modMe, State.me_addReq, State.pendReq, State.pend]

/-- Beside it only the request is new. -/
theorem State.sendsCall_sends (s : State) (sa a n : BitVec 5) (v : BitVec 4) (c : BitVec 3) (l : Nat) :
    s.sends (s.sendsCall sa a n v c l) (s.callKind sa a n v c l) [] true := by
  refine ⟨⟨_, rfl, rfl, rfl, rfl, rfl, rfl, rfl, rfl, rfl, rfl, rfl⟩, rfl, fun th hth => ?_⟩
  have outer := State.thr_modThr_other ((s.pendReq s.nextRid (s.callDests v) []).addReq (s.newReq s.cur s.issSrc (s.callKind sa a n v c l) [] true))
    (fun t => { t with park := .answer s.nextRid, calls := t.calls ++ [s.newCall v] }) hth
  have inner := State.thr_modThr_other s (fun t => { t with pend := t.pend ++ [⟨s.issSrc, .value, some s.nextRid, false, s.callDests v, [], 0, none⟩] }) hth
  exact outer.trans inner

end Sys2Proof.Machine
end

section
/-! PROOF. RCALL at its issue. -/

namespace Sys2Proof

open Machine

/-- Settles O24: a unit that passes its checks is sent the call, or the bundle keeps its place; an address without one takes
its trap. -/
theorem callSends : Obligations.CallSends := by
  unfold Obligations.CallSends
  intro s z sa a n v c hspec
  rw [exec_rcall hspec]
  refine ⟨?unit, ?no_form, ?fabric, ?sram, ?untranslated⟩
  case unit =>
    intro l near h routed
    refine ⟨fun hmay hr hroom => ?_, fun hmay hr hfar hfull => ?_, fun hmay => ?_, fun hmay hr => ?_⟩
    · have hgo : (!sameTile s.lcore l && s.slotsFull s.lcore) = false := by
        rcases hroom with hroom | hroom <;> simp only [hroom, Bool.not_true, Bool.false_and, Bool.and_false]
      refine ⟨s.sendsCall sa a n v c l, _, _, ?_, s.sendsCall_sends sa a n v c l, s.sendsCall_me sa a n v c l, rfl, rfl, rfl, rfl, rfl, rfl, rfl⟩
      rw [State.onUnit_at h hmay hr, hgo]
      rfl
    · rw [State.onUnit_at h hmay hr, hfar, hfull]
      rfl
    · rw [State.onUnit_denied h hmay, trapAccess]
    · rw [State.onUnit_unrouted h hmay hr, trapAccess]
  case no_form =>
    intro h
    rw [State.onUnit_trap false (State.nearest_no_form h)]
  case fabric =>
    intro hz hg
    rw [State.onUnit_trap false (State.nearest_fabric hz hg)]
  case sram =>
    intro key hz hg hc hs
    rw [State.onUnit_trap false (State.nearest_sram hz hg hc hs)]
  case untranslated =>
    intro hz ht
    exact ⟨fun r hw => by rw [State.onUnit_trap false (State.nearest_walk_failed hz ht hw)],
      fun hw => by rw [State.onUnit_walk false (State.nearest_not_walked hz ht hw)]⟩

end Sys2Proof
end

section
/-! SUPPORT. A new thread's registers (R223, R254, R256), and calls at their units and callers (R93, R120, R174, R256). -/

namespace Sys2Proof.Machine

/-! ## Fields of a word -/

theorem testBit_getF {w : Nat} (x : BitVec w) (lo len i : Nat) : (getF x lo len).testBit i = (decide (i < len) && x.getLsbD (lo + i)) := by
  rw [getF, Nat.testBit_mod_two_pow, Nat.testBit_div_two_pow, BitVec.testBit_toNat, Nat.add_comm]

/-- A replaced field reads as what replaced it. -/
theorem getF_putF_same {w : Nat} (x : BitVec w) {lo len v : Nat} (h : lo + len ≤ w) (hv : v < 2 ^ len) : getF (putF x lo len v) lo len = v := by
  refine Nat.eq_of_testBit_eq fun i => ?_
  rw [testBit_getF, getLsbD_putF]
  by_cases hi : i < len
  · have h1 : lo + i < w := by omega
    have h2 : lo ≤ lo + i ∧ lo + i < lo + len := by omega
    simp only [hi, h1, h2, decide_true, Bool.true_and, and_self, if_true, Nat.add_sub_cancel_left]
  · rw [Nat.testBit_lt_two_pow (Nat.lt_of_lt_of_le hv (Nat.pow_le_pow_right (by decide) (Nat.not_lt.mp hi)))]
    simp only [hi, decide_false, Bool.false_and]

/-- Another field stays. -/
theorem getF_putF_other {w : Nat} (x : BitVec w) {lo len v lo' len' : Nat} (h : lo' + len' ≤ lo ∨ lo + len ≤ lo') :
    getF (putF x lo len v) lo' len' = getF x lo' len' := by
  refine Nat.eq_of_testBit_eq fun i => ?_
  rw [testBit_getF, testBit_getF, getLsbD_putF]
  by_cases hi : i < len'
  · have hout : ¬ (lo ≤ lo' + i ∧ lo' + i < lo + len) := by omega
    by_cases hw : lo' + i < w
    · simp only [hi, hw, hout, decide_true, Bool.true_and, if_false]
    · simp only [hw, decide_false, Bool.false_and, BitVec.getLsbD_of_ge x _ (Nat.not_lt.mp hw), Bool.and_false]
  · simp only [hi, decide_false, Bool.false_and]

/-! ## Format tags (R38) -/

@[simp] theorem Workspace.getV_setVtag (w : Workspace) (r q : BitVec 4) (t : BitVec 4) : (w.setVtag r t).getV q = w.getV q := rfl
@[simp] theorem Workspace.getS_setVtag (w : Workspace) (r : BitVec 4) (q : BitVec 5) (t : BitVec 4) : (w.setVtag r t).getS q = w.getS q := rfl
@[simp] theorem Workspace.vtag_setV (w : Workspace) (r q : BitVec 4) (x : Vec) : (w.setV r x).vtag q = w.vtag q := rfl

theorem Workspace.vtag_setVtag_same (w : Workspace) (r t : BitVec 4) : (w.setVtag r t).vtag r = t := by
  have hr := r.isLt
  rw [Workspace.vtag, Workspace.tsF, Workspace.setVtag, Workspace.setTsF, Workspace.getT_setT_same, getF_putF_same _ (by omega) t.isLt]
  exact BitVec.ofNat_toNat 4 t

theorem Workspace.vtag_setVtag_other (w : Workspace) {r q : BitVec 4} (t : BitVec 4) (h : q ≠ r) : (w.setVtag r t).vtag q = w.vtag q := by
  have hne : q.toNat ≠ r.toNat := fun e => h (BitVec.eq_of_toNat_eq e)
  rw [Workspace.vtag, Workspace.tsF, Workspace.setVtag, Workspace.setTsF, Workspace.getT_setT_same, getF_putF_other _ (by omega)]
  rfl

@[simp] theorem Workspace.pc_setVtag (w : Workspace) (r t : BitVec 4) : (w.setVtag r t).pc = w.pc := by
  rw [Workspace.pc, Workspace.setVtag, Workspace.setTsF, Workspace.getT_setT_other _ _ (by decide)]
  rfl

/-! ## Registers that a new thread takes from a list (R254, R256) -/

/-- Numbers below the size of a file name different registers. -/
theorem ofNat_ne_of_lt {n i j : Nat} (hi : i < 2 ^ n) (hj : j < 2 ^ n) (h : i ≠ j) : BitVec.ofNat n i ≠ BitVec.ofNat n j := fun e => h (by
  have := congrArg BitVec.toNat e
  rwa [BitVec.toNat_ofNat, BitVec.toNat_ofNat, Nat.mod_eq_of_lt hi, Nat.mod_eq_of_lt hj] at this)

/-- Scalar registers from a list leave all that is no scalar register. -/
theorem Workspace.putS_eq (l : List (BitVec 64)) (w : Workspace) (i : Nat) : w.putS i l = { w with s := (w.putS i l).s } := by
  induction l generalizing w i with
  | nil => rfl
  | cons x l ih =>
    rw [Workspace.putS, ih]
    rfl

/-- A scalar register below the first one written stays. -/
theorem Workspace.getS_putS_below (l : List (BitVec 64)) (w : Workspace) {i j : Nat} (hl : i + l.length ≤ 32) (hj : j < i) (hj32 : j < 32) :
    (w.putS i l).getS (BitVec.ofNat 5 j) = w.getS (BitVec.ofNat 5 j) := by
  induction l generalizing w i with
  | nil => rfl
  | cons x l ih =>
    rw [List.length_cons] at hl
    rw [Workspace.putS, ih _ (by omega) (by omega), Workspace.getS_setS_other _ _ (ofNat_ne_of_lt (by omega) (by omega) (by omega))]

/-- A scalar register takes its element. -/
theorem Workspace.getS_putS (l : List (BitVec 64)) (w : Workspace) {i j : Nat} (hl : i + l.length ≤ 32) (h : j < l.length) :
    (w.putS i l).getS (BitVec.ofNat 5 (i + j)) = l[j] := by
  induction l generalizing w i j with
  | nil => exact absurd h (Nat.not_lt_zero j)
  | cons x l ih =>
    rw [List.length_cons] at hl h
    cases j with
    | zero =>
      show ((w.setS (BitVec.ofNat 5 i) x).putS (i + 1) l).getS (BitVec.ofNat 5 i) = x
      rw [Workspace.getS_putS_below _ _ (by omega) (by omega) (by omega), Workspace.getS_setS_same]
    | succ j =>
      have := ih (w.setS (BitVec.ofNat 5 i) x) (i := i + 1) (j := j) (by omega) (by omega)
      rwa [Nat.add_assoc, Nat.add_comm 1 j] at this

/-- Vector registers from a list leave the scalar registers and PC. -/
theorem Workspace.getS_putV (l : List (Vec × BitVec 4)) (w : Workspace) (i : Nat) (q : BitVec 5) : (w.putV i l).getS q = w.getS q := by
  induction l generalizing w i with
  | nil => rfl
  | cons x l ih =>
    rw [Workspace.putV, ih, Workspace.getS_setVtag]
    rfl

theorem Workspace.pc_putV (l : List (Vec × BitVec 4)) (w : Workspace) (i : Nat) : (w.putV i l).pc = w.pc := by
  induction l generalizing w i with
  | nil => rfl
  | cons x l ih =>
    rw [Workspace.putV, ih, Workspace.pc_setVtag]
    rfl

/-- A vector register below the first one written stays, with its tag. -/
theorem Workspace.getV_putV_below (l : List (Vec × BitVec 4)) (w : Workspace) {i j : Nat} (hl : i + l.length ≤ 16) (hj : j < i) (hj16 : j < 16) :
    (w.putV i l).getV (BitVec.ofNat 4 j) = w.getV (BitVec.ofNat 4 j) ∧ (w.putV i l).vtag (BitVec.ofNat 4 j) = w.vtag (BitVec.ofNat 4 j) := by
  induction l generalizing w i with
  | nil => exact ⟨rfl, rfl⟩
  | cons x l ih =>
    rw [List.length_cons] at hl
    have hne : BitVec.ofNat 4 j ≠ BitVec.ofNat 4 i := ofNat_ne_of_lt (by omega) (by omega) (by omega)
    obtain ⟨hv, ht⟩ := ih ((w.setV (BitVec.ofNat 4 i) x.1).setVtag (BitVec.ofNat 4 i) x.2) (i := i + 1) (by omega) (by omega)
    rw [Workspace.putV, hv, ht, Workspace.getV_setVtag, Workspace.getV_setV_other _ _ hne, Workspace.vtag_setVtag_other _ _ hne, Workspace.vtag_setV]
    exact ⟨rfl, rfl⟩

/-- A vector register takes its element, with the tag. -/
theorem Workspace.getV_putV (l : List (Vec × BitVec 4)) (w : Workspace) {i j : Nat} (hl : i + l.length ≤ 16) (h : j < l.length) :
    (w.putV i l).getV (BitVec.ofNat 4 (i + j)) = l[j].1 ∧ (w.putV i l).vtag (BitVec.ofNat 4 (i + j)) = l[j].2 := by
  induction l generalizing w i j with
  | nil => exact absurd h (Nat.not_lt_zero j)
  | cons x l ih =>
    rw [List.length_cons] at hl h
    cases j with
    | zero =>
      obtain ⟨hv, ht⟩ := Workspace.getV_putV_below l ((w.setV (BitVec.ofNat 4 i) x.1).setVtag (BitVec.ofNat 4 i) x.2) (i := i + 1) (j := i)
        (by omega) (by omega) (by omega)
      rw [Workspace.getV_setVtag, Workspace.getV_setV_same] at hv
      rw [Workspace.vtag_setVtag_same] at ht
      exact ⟨hv, ht⟩
    | succ j =>
      have := ih ((w.setV (BitVec.ofNat 4 i) x.1).setVtag (BitVec.ofNat 4 i) x.2) (i := i + 1) (j := j) (by omega) (by omega)
      rwa [Nat.add_assoc, Nat.add_comm 1 j] at this

/-- A new thread's PC is its entry (R223). -/
theorem Workspace.pc_fresh (entry : BitVec 48) (lend : Bool) : (Workspace.fresh entry lend).pc = entry := by
  refine BitVec.eq_of_getLsbD_eq fun i hi => ?_
  have hlend : (BitVec.ofNat 64 (lend.toNat * 2 ^ 49)).getLsbD i = false := by
    rw [BitVec.getLsbD_ofNat, Nat.testBit_mul_two_pow, decide_eq_false (Nat.not_le.mpr (by omega : i < 49)), Bool.false_and, Bool.and_false]
  have hword : (Workspace.fresh entry lend).getT 0 = entry.setWidth 64 ||| BitVec.ofNat 64 (lend.toNat * 2 ^ 49) := rfl
  rw [Workspace.pc, hword, BitVec.getLsbD_setWidth, BitVec.getLsbD_or, hlend, BitVec.getLsbD_setWidth]
  simp only [hi, decide_true, Bool.true_and, Bool.or_false, decide_eq_true (by omega : i < 64)]

/-! ## A callee starts (R256) -/

section
variable {s : State} {rid : Nat} {r : Req}

theorem State.onReq_of_req (h : s.req rid = some r) (k : Req → State) : s.onReq rid k = k r := by simp only [State.onReq, h]

/-- A send that passes its unit's checks acts there (R159, R182). -/
theorem State.ifUnit_takes {l : Nat} (h : s.unitTakes r l) (k : State) : s.ifUnit r l k = k := by
  obtain ⟨hdrain, hmay, hgone⟩ := h
  simp only [State.ifUnit, hdrain, hmay, hgone, Bool.not_true, Bool.false_eq_true, if_false]

/-- The lowest open position is where an ordinary thread starts. -/
theorem State.ordPlace_of_open {l p : Nat} {ps : List Nat} (h : s.openPositions l = p :: ps) : s.ordPlace l = some (p, p) := by
  simp only [State.ordPlace, h, List.head?_cons, Option.map_some]

/-- The registers of a callee. -/
def calleeWs (entry : BitVec 48) (args : List (BitVec 64)) (vecs : List (Vec × BitVec 4)) : Workspace :=
  ((Workspace.fresh entry false).putS 0 args).putV 0 vecs

/-- The thread of a callee. -/
def Req.callee (r : Req) (pos : Nat) : Thread :=
  { Thread.none with
    occ := true, pos := pos, kind := .callee, ctx := r.ctx, lid := r.lid, seed := r.seed, cls := r.cls, col := r.part, root := r.root
    caller := some ⟨r.th, r.rid, r.born⟩ }

theorem State.startCallee_eq (s : State) (r : Req) (u : Nat) (entry : BitVec 48) (args : List (BitVec 64)) (vecs : List (Vec × BitVec 4)) (w pos : Nat) :
    s.startCallee r u entry args vecs w pos =
      (((s.setWs (u * 20 + w) (calleeWs entry args vecs)).setThr (u * 20 + w) (r.callee pos)).dropReq r.rid) := rfl

/-- A callee's window, and all the others. -/
theorem State.startCallee_windows (s : State) (r : Req) (u : Nat) (entry : BitVec 48) (args : List (BitVec 64)) (vecs : List (Vec × BitVec 4))
    (w pos : Nat) :
    let t := s.startCallee r u entry args vecs w pos
    t.thr (u * 20 + w) = r.callee pos ∧ t.getWs (u * 20 + w) = calleeWs entry args vecs ∧
      ∀ k, k ≠ u * 20 + w → t.thr k = s.thr k ∧ t.getWs k = s.getWs k := by
  rw [State.startCallee_eq]
  exact ⟨State.thr_setThr_same (s.setWs (u * 20 + w) (calleeWs entry args vecs)) (u * 20 + w) (r.callee pos),
    State.getWs_setWs_same s (u * 20 + w) (calleeWs entry args vecs),
    fun k hk => ⟨State.thr_setThr_other (s.setWs (u * 20 + w) (calleeWs entry args vecs)) (r.callee pos) hk, State.getWs_setWs_other s _ hk⟩⟩

theorem calleeWs_pc (entry : BitVec 48) (args : List (BitVec 64)) (vecs : List (Vec × BitVec 4)) : (calleeWs entry args vecs).pc = entry := by
  rw [calleeWs, Workspace.pc_putV, Workspace.putS_eq]
  exact Workspace.pc_fresh entry false

theorem calleeWs_getS (entry : BitVec 48) {args : List (BitVec 64)} (vecs : List (Vec × BitVec 4)) (hl : args.length ≤ 31) {j : Nat}
    (h : j < args.length) : (calleeWs entry args vecs).getS (BitVec.ofNat 5 j) = args[j] := by
  have := Workspace.getS_putS args (Workspace.fresh entry false) (i := 0) (by omega) h
  rw [Nat.zero_add] at this
  rw [calleeWs, Workspace.getS_putV, this]

theorem calleeWs_getV (entry : BitVec 48) (args : List (BitVec 64)) {vecs : List (Vec × BitVec 4)} (hl : vecs.length ≤ 16) {j : Nat}
    (h : j < vecs.length) : (calleeWs entry args vecs).getV (BitVec.ofNat 4 j) = vecs[j].1 ∧
      (calleeWs entry args vecs).vtag (BitVec.ofNat 4 j) = vecs[j].2 := by
  have := Workspace.getV_putV vecs ((Workspace.fresh entry false).putS 0 args) (i := 0) (by omega) h
  rwa [Nat.zero_add] at this

theorem exec_rcallArrival (rid : Nat) (s : State) : exec (.rcallArrival rid) s = execRcallArrival rid s := rfl

/-- An RCALL that is due at a unit with an open position starts its callee there. -/
theorem rcallArrival_starts {u p : Nat} {va : BitVec 64} {entry : BitVec 48} {args : List (BitVec 64)} {vecs : List (Vec × BitVec 4)} {ps : List Nat}
    (h : s.isDue rid r) (hk : r.kind = .rcall u va entry args vecs) (hruns : s.callRuns r = true) (htakes : s.unitTakes r u)
    (hopen : s.openPositions u = p :: ps) :
    exec (.rcallArrival rid) s = .next (s.startCallee r u entry args vecs p p) := by
  obtain ⟨⟨hreq, -, -⟩, hdue⟩ := h
  simp only [exec_rcallArrival, execRcallArrival, State.onReq_of_req hreq, hk, hdue, hruns, Bool.not_true, Bool.or_self, Bool.false_eq_true, if_false,
    State.ifUnit_takes htakes, State.ordPlace_of_open hopen]

/-! ## A call ends (R120, R174, R255) -/

theorem exec_rcallReply (rid : Nat) (s : State) : exec (.rcallReply rid) s = execRcallReply rid s := rfl
theorem exec_faultRecord (rid : Nat) (s : State) : exec (.faultRecord rid) s = execFaultRecord rid s := rfl
theorem exec_rcallTimeout (th call : Nat) (s : State) : exec (.rcallTimeout th call) s = execRcallTimeout th call s := rfl

/-- What the end of a call leaves of its thread: the call is over, and its results are ready. -/
def Thread.callEnded (call : Nat) (writes : List RegWrite) (fail : Option Failure) (x : Thread) : Thread :=
  { x with
    calls := x.calls.filter fun c => c.rid != call
    pend := x.pend.map fun p => if p.rid = some call then { p with ready := true, rid := .none, writes := writes, fail := fail } else p }

/-- The end of a call, once some requests have left the network. -/
theorem State.endCall_spec (s : State) (net : List Req) (th call : Nat) (writes : List RegWrite) (fail : Option Failure) :
    let t := ({ s with net := net } : State).endCall th call writes fail
    t = { s with threads := t.threads, net := net } ∧ s.onlyTh t th (Thread.callEnded call writes fail) :=
  ⟨rfl, State.onlyTh_modThr { s with net := net } th _⟩

section
variable {th call : Nat} (h : s.isDue rid r) (hdrain : s.refuses (padKey (coreOfTh th) 0) = false)
include h hdrain

/-- An answer that is due at a caller's core that takes it acts there (R183). -/
theorem State.ifCaller_due (k : State) : s.ifCaller r th k = k := by
  simp only [State.ifCaller, h.2, hdrain, Bool.not_true, Bool.false_eq_true, if_false]

/-- A reply ends its call with its values. -/
theorem rcallReply_ends {c : Call} {ss : List (BitVec 64)} {vs : List (Vec × BitVec 4)} (hk : r.kind = .reply th call ss vs)
    (hlive : s.liveCall th call = some c) : exec (.rcallReply rid) s = .next ((s.dropReq rid).endCall th call (c.writes ss vs) none) := by
  simp only [exec_rcallReply, execRcallReply, State.onReq_of_req h.1.1, hk, State.ifCaller_due h hdrain, hlive]

/-- A reply to a call that is no longer outstanding is dropped (R174). -/
theorem rcallReply_dropped {ss : List (BitVec 64)} {vs : List (Vec × BitVec 4)} (hk : r.kind = .reply th call ss vs)
    (hlive : s.liveCall th call = none) : exec (.rcallReply rid) s = .next (s.dropReq rid) := by
  simp only [exec_rcallReply, execRcallReply, State.onReq_of_req h.1.1, hk, State.ifCaller_due h hdrain, hlive]

/-- A fault record ends its call with REMOTE_FAULT (R173). -/
theorem faultRecord_ends {c : Call} {cause : BitVec 8} {l : Nat} {va : Option (BitVec 48)} (hk : r.kind = .faultRec th call cause l va)
    (hlive : s.liveCall th call = some c) : exec (.faultRecord rid) s =
      .next ((s.dropReq rid).endCall th call [] (some ⟨cRemote, BitVec.ofNat 26 (cause.toNat + l * 256), va, c.src⟩)) := by
  simp only [exec_faultRecord, execFaultRecord, State.onReq_of_req h.1.1, hk, State.ifCaller_due h hdrain, hlive]

theorem faultRecord_dropped {cause : BitVec 8} {l : Nat} {va : Option (BitVec 48)} (hk : r.kind = .faultRec th call cause l va)
    (hlive : s.liveCall th call = none) : exec (.faultRecord rid) s = .next (s.dropReq rid) := by
  simp only [exec_faultRecord, execFaultRecord, State.onReq_of_req h.1.1, hk, State.ifCaller_due h hdrain, hlive]
end

/-- The network once a call is given up: what was sent for it and nobody took has left (R174). -/
def withoutUntaken (net : List Req) (call : Nat) : List Req :=
  net.filter fun r => r.rid != call || !(r.isRefused || (match r.st with | .drained _ => true | _ => false))

/-- A call that is outstanding longer than its time ends with RCALL_TIMEOUT (R120). -/
theorem rcallTimeout_ends {th call : Nat} {c : Call} (hc : ((s.thr th).calls.find? fun x => x.rid == call) = some c) (hruns : c.running = true)
    (htime : c.sentAt + c.timeout < s.tick) : exec (.rcallTimeout th call) s =
      .next (({ s with net := withoutUntaken s.net call } : State).endCall th call [] (some ⟨cTimeout, 0, none, c.src⟩)) := by
  simp only [exec_rcallTimeout, execRcallTimeout, hc, hruns, gt_iff_lt, htime, decide_true, Bool.and_self, if_true]
  rfl
end

end Sys2Proof.Machine
end

section
/-! PROOF. Calls at their units, and their ends. -/

namespace Sys2Proof

open Machine

/-- Settles O27: a callee's window is what its start writes there; each end of a call is one change of the caller. -/
theorem remoteCalls : Obligations.RemoteCalls := by
  unfold Obligations.RemoteCalls
  refine ⟨?starts, ?replied, ?faulted, ?dropped, ?late⟩
  case starts =>
    intro s rid r u va entry args vecs p ps h hk hruns htakes hargs hvecs hopen
    obtain ⟨hthr, hws, hother⟩ := s.startCallee_windows r u entry args vecs p p
    have hrid : r.rid = rid := h.1.2.1
    refine ⟨_, rcallArrival_starts h hk hruns htakes hopen, ?_, ?_, hother, ?_, fun j hj => ?_, fun j hj => ?_⟩
    · rw [← hrid]
      rfl
    · rw [hthr, Req.callee, hrid]
    · rw [hws, calleeWs_pc]
    · rw [hws, calleeWs_getS entry vecs hargs hj]
    · rw [hws]
      exact calleeWs_getV entry args hvecs hj
  case replied =>
    intro s rid r th call c ss vs h hk hdrain hlive
    exact ⟨_, rcallReply_ends h hdrain hk hlive, s.endCall_spec _ th call (c.writes ss vs) none⟩
  case faulted =>
    intro s rid r th call c cause l va h hk hdrain hlive
    exact ⟨_, faultRecord_ends h hdrain hk hlive, s.endCall_spec _ th call [] _⟩
  case dropped =>
    intro s rid r th call ss vs cause l va h hdrain hlive
    exact ⟨fun hk => rcallReply_dropped h hdrain hk hlive, fun hk => faultRecord_dropped h hdrain hk hlive⟩
  case late =>
    intro s th call c hc hruns htime
    exact ⟨_, rcallTimeout_ends hc hruns htime, s.endCall_spec (withoutUntaken s.net call) th call [] _⟩

end Sys2Proof
end

section
/-! SUPPORT. An LDFE whose request carries the sign-extension mark of a scalar load (R90, R240). -/

namespace Sys2Proof.Machine

/-- The word at 0xA000 of core 0's scratchpad, beyond its workspaces, as a part. -/
def signedWord : Part := onePart (3 * 2 ^ 46 + 0xA000) (BitVec.ofNat 64 (3 * 2 ^ 46 + 0xA000)) 0 4 0 0

/-- Request 9, of thread 0: an LDFE of that word, with the mark by which a load extends its value. -/
def signedLdfe : Req := { Req.hw signedWord with rid := 9, th := 0, kind := .ldfe, sext := true }

/-- The result that waits for it, in s3. -/
def signedPend : Pend := ⟨⟨0, 0, false, 0⟩, .access [signedWord.key], some 9, false, [.s 3], [.s 3 0], 0, none⟩

/-- The request is on its way, and the word is full and holds 2^31. -/
def signedState : State :=
  ((({ State.reset with net := [signedLdfe], nextRid := 10 } : State).wrByte (signedWord.key + 3) 0x80).modTag (signedWord.key / 4)
    fun g => { g with full := true }).modThr 0 fun x => { x with occ := true, pend := [signedPend] }

theorem signedState_partDue : signedState.partDue 9 0 signedLdfe signedWord := by
  unfold State.partDue State.isReq
  decide +kernel

theorem signedState_full : (signedState.tag (signedWord.key / 4)).full = true := by decide +kernel

theorem signedState_good : signedState.bad signedWord.key 4 = false := by decide +kernel

theorem signedState_none_parked : ∀ q ∈ signedState.net, q.isParked = false := by decide +kernel

/-- Its home gives the result the value sign-extended. -/
theorem signedLdfe_result : (Thread.filledBy signedLdfe signedWord (signedState.rdN signedWord.key 4) (signedState.thr signedLdfe.th)).pend =
    [{ signedPend with ready := true, writes := [.s 3 0xFFFFFFFF80000000] }] := by decide +kernel

theorem signedState_value : signedState.rdN signedWord.key 4 = 2 ^ 31 := by decide +kernel

end Sys2Proof.Machine
end

section
/-! PROOF. VRCL, and versions and full words at their home: what fails is the value of an LDFE whose request carries the
sign-extension mark. -/

namespace Sys2Proof

open Machine

/-- Refutes O20: its clause of an LDFE on a full word says that the result takes the word's value as it is, of every request.
A home extends the value where the request carries the mark of a signed load, which the statement does not exclude (no LDFE
that the model issues carries it): an LDFE with the mark, of a word that holds 2^31, brings 0xFFFFFFFF80000000. -/
theorem not_versionReclaim : ¬ Obligations.VersionReclaim := by
  unfold Obligations.VersionReclaim
  intro h
  obtain ⟨-, -, -, home, -, -⟩ := h
  obtain ⟨-, atOnce, -⟩ := home signedState 9 signedLdfe signedWord signedState_partDue rfl (by decide) (by decide) rfl rfl
  obtain ⟨-, ldfe⟩ := atOnce fun q hq hp => absurd hp (by rw [signedState_none_parked q hq]; decide)
  obtain ⟨t, hrun, -, -, -, hpend⟩ := ldfe rfl signedState_full signedState_good
  obtain ⟨t', hrun', -, -, -, hth, -⟩ :=
    requestArrival_ldfe signedState_partDue rfl (by decide) signedState_good rfl signedState_full signedState_none_parked
  obtain rfl : t' = t := Host.Outcome.next.inj (hrun'.symm.trans hrun)
  have hq : signedPend ∈ (signedState.thr 0).pend := by decide +kernel
  have hmem := hpend signedPend hq rfl 3 0 rfl
  rw [hth, signedLdfe_result, signedState_value] at hmem
  exact absurd hmem (by decide)

end Sys2Proof
end

section
/-! SUPPORT. STD to a register among the addresses: what the answer of a held bundle decides, what leaves, and what a core's own
memory takes at once (R150, R239, R358). -/

namespace Sys2Proof.Machine

/-! ## The keys of registers (R142, R158) -/

/-- A port core's page holds no OWNER register. -/
theorem ownerKey_of_pageKey {key : Nat} (h : pageKey key = true) : ownerKey key = false := by
  simp only [pageKey, Bool.and_eq_true] at h
  simp [ownerKey, h.1.2]

theorem pageKey_of_treeKey {key : Nat} (h : treeKey key = true) : pageKey key = true := by
  rw [treeKey, Bool.and_eq_true] at h
  exact h.1

/-- A port core's number is below every stack core's, so that no core's own memory holds a page of registers (R15, R142). -/
theorem isLocalKey_of_keyPort {l key : Nat} (hp : keyPort key = true) (hdie : fld key 42 3 < 6) : isLocalKey l key = false := by
  have hlt : key < stackBase := by simp only [keyPort, Bool.and_eq_true, decide_eq_true_eq] at hp; exact hp.1
  by_cases hl : isStack l = true
  · have hge : 27648 ≤ l := by simp only [isStack, Bool.and_eq_true, decide_eq_true_eq] at hl; exact hl.1
    have hport : fld key 31 4 = 8 := by simp only [keyPort, Bool.and_eq_true, beq_iff_eq] at hp; exact hp.2
    have hne : coreOfKey key ≠ l := by
      have h1 : fld key 39 3 < 8 := Nat.mod_lt _ (by decide)
      have h2 : fld key 35 4 < 16 := Nat.mod_lt _ (by decide)
      have h3 : fld key 29 2 < 4 := Nat.mod_lt _ (by decide)
      simp only [coreOfKey, hlt, if_true, lcoreOf, hport]
      omega
    simp [isLocalKey, hl, hne]
  · simp [isLocalKey, hl, hp]

/-- A page of registers that an on-chip address names stands on one of the six dies (R18). -/
theorem fld_die_of_onchip {l va size key : Nat} (h : onchip l va size = some key) (hp : keyPort key = true) : fld key 42 3 < 6 := by
  have hlt : key < stackBase := by simp only [keyPort, Bool.and_eq_true, decide_eq_true_eq] at hp; exact hp.1
  unfold onchip at h
  split at h
  case isTrue hs =>
    simp only [Bool.and_eq_true] at hs
    obtain ⟨-, hkey⟩ := Option.ite_none_right_eq_some.mp h
    rw [← Option.some.inj hkey, padKey_stack hs.1.1.1.1] at hlt
    omega
  case isFalse =>
    obtain ⟨hok, hkey⟩ := Option.ite_none_right_eq_some.mp h
    simp only [Bool.and_eq_true, decide_eq_true_eq] at hok
    obtain ⟨⟨⟨⟨⟨-, hdie⟩, -⟩, -⟩, -⟩, -⟩ := hok
    rwa [← Option.some.inj hkey]

section
variable {s : State} {va : BitVec 64} {size key : Nat} {k : AccKind} {pte : BitVec 64}

theorem State.key_of_byRoute {j : Nat} {e : BitVec 64} (h : s.byRoute va j e = .at_ key pte) : j = key := by
  unfold State.byRoute at h
  split at h
  · exact (Reach.at_.inj h).1
  · cases h

theorem State.onchip_of_reach (hg : fld va.toNat 46 2 = 3) (h : s.reach va size k = .at_ key pte) :
    onchip s.lcore va.toNat size = some key := by
  simp only [State.reach, State.vaTrap_of_reach h, hg, if_true] at h
  split at h
  · cases h
  next key' hc =>
    split at h
    · cases h
    · rw [hc, State.key_of_byRoute h]

end

/-! ## A store of one part (R239, R358) -/

section
variable {s : State} {p : Part}

theorem State.storeAll_owner (hspec : s.me.spec = none) (hslot : s.noSlot [p] = false) (hk : ownerKey p.key = true) (scalar : Bool) :
    s.storeAll [p] scalar = s.heldForm (s.holdBundle .owner [p] false) fun _ => s := by
  simp [State.storeAll, hspec, hslot, hk]

theorem State.storeAll_tree (hspec : s.me.spec = none) (hslot : s.noSlot [p] = false) (hk : treeKey p.key = true) (hlen : p.len = 8) :
    s.storeAll [p] true = s.heldForm (s.holdBundle .page [p] false) fun _ => s := by
  simp [State.storeAll, hspec, hslot, ownerKey_of_pageKey (pageKey_of_treeKey hk), hk, hlen]

theorem State.storeAll_plain (hspec : s.me.spec = none) (hslot : s.noSlot [p] = false) (ho : ownerKey p.key = false)
    (ht : treeKey p.key = false) (scalar : Bool) : s.storeAll [p] scalar = s.storeParts .store [p] false := by
  simp [State.storeAll, hspec, hslot, ho, ht]

/-- Stores that are not made at once leave as one request. -/
theorem State.storeParts_sends {ps : List Part} (hspec : s.me.spec = none) (hslot : s.noSlot ps = false)
    (hfar : s.direct ps true = false) : s.sends (s.storeParts .store ps false) .store ps false ∧
      (s.storeParts .store ps false).threads = s.threads := by
  simp only [State.storeParts, hspec, hfar, hslot, Bool.false_and, Bool.false_eq_true, if_false]
  exact ⟨⟨⟨_, rfl, rfl, rfl, rfl, rfl, rfl, rfl, rfl, rfl, rfl, rfl⟩, rfl, fun _ _ => rfl⟩, rfl⟩

/-- A store that is made at once takes effect in the issuing core's own memory. -/
theorem State.storeParts_direct (hspec : s.me.spec = none) (hown : s.direct [p] true = true)
    (hhere : s.gone s.me.ctx s.me.lid p.key = false) :
    s.storeParts .store [p] false = s.homeStore (some s.cur) p.key p.len p.mask p.data.toNat false := by
  simp [State.storeParts, hspec, hown, hhere]

theorem State.direct_of_not_local {store : Bool} (h : isLocalKey s.lcore p.key = false) : s.direct [p] store = false := by
  simp [State.direct, h]

/-- A bundle that takes its slot is held at issue (R147, R358). -/
theorem State.holdBundle_holdsAt {ps : List Part} (hslot : s.noSlot ps = false) (kind : ReqKind) (hold : Bool) :
    s.holdsAt (s.holdBundle kind ps hold) kind ps hold := by
  simp only [State.holdBundle, hslot, Bool.false_eq_true, if_false]
  have me := State.me_modMe (s.addReq (s.newReq s.cur s.issSrc kind ps hold)) fun t => { t with park := .held s.nextRid s.iss.word s.src }
  have others := fun th (hth : th ≠ s.cur) => State.thr_modThr_other (s.addReq (s.newReq s.cur s.issSrc kind ps hold))
    (fun t => { t with park := .held s.nextRid s.iss.word s.src }) hth
  exact ⟨⟨_, rfl, rfl, rfl, rfl, rfl, rfl, rfl, rfl, rfl, rfl, rfl⟩, me, others, rfl⟩

end

/-! ## A form held at issue (R358) -/

section
variable {s first : State} {done : Answer → State} {x : Answer}

theorem State.heldForm_first (h : s.iss.answer = none) : s.heldForm first done = first := by
  simp only [State.heldForm, h]

theorem State.heldForm_done (h : s.iss.answer = some x) (hf : x.fail = none) : s.heldForm first done = done x := by
  simp only [State.heldForm, h, hf]

theorem State.heldForm_trap {c : BitVec 8} {n : BitVec 26} {v : Option (BitVec 48)} (h : s.iss.answer = some x)
    (hf : x.fail = some (c, n, v)) : s.heldForm first done = s.raise ⟨10, c, n.toNat, v.map (·.setWidth 64)⟩ := by
  simp only [State.heldForm, h, hf]

end

/-! ## STD (R240) -/

section
variable {s : State} {a : BitVec 5} {i : BitVec 10} {key : Nat} {pte : BitVec 64}

theorem exec_std_at (h : s.reach (s.rS a + s.immS i) 8 .store = .at_ key pte) (z : BitVec 1) (d : BitVec 5) :
    exec (.std z d a i) s = .next (s.storeAll [onePart key (s.rS a + s.immS i) pte 8 0 (s.rS d).toNat] true) := by
  have e : exec (.std z d a i) s = .next (s.onKey (s.rS a + s.immS i) 8 .store fun key pte =>
      s.storeAll [onePart key (s.rS a + s.immS i) pte 8 0 ((s.rS d).toNat % 256 ^ 8)] true) := rfl
  have hv : (s.rS d).toNat % 256 ^ 8 = (s.rS d).toNat := Nat.mod_eq_of_lt (s.rS d).isLt
  rw [e, hv, State.onKey, h]

/-- By an on-chip address it sends a register of a port core's page its value (R142, R150). -/
theorem exec_std_page (hspec : s.me.spec = none) (h : s.reach (s.rS a + s.immS i) 8 .store = .at_ key pte)
    (hg : fld (s.rS a + s.immS i).toNat 46 2 = 3) (hp : pageKey key = true) (ht : treeKey key = false) (z : BitVec 1) (d : BitVec 5)
    (hslot : s.noSlot [onePart key (s.rS a + s.immS i) pte 8 0 (s.rS d).toNat] = false) :
    ∃ t, exec (.std z d a i) s = .next t ∧ s.sends t .store [onePart key (s.rS a + s.immS i) pte 8 0 (s.rS d).toNat] false ∧
      t.threads = s.threads := by
  have hport : keyPort key = true := by simp only [pageKey, Bool.and_eq_true] at hp; exact hp.1.2
  have hfar := isLocalKey_of_keyPort (l := s.lcore) hport (fld_die_of_onchip (State.onchip_of_reach hg h) hport)
  rw [exec_std_at h, State.storeAll_plain hspec hslot (ownerKey_of_pageKey hp) ht]
  exact ⟨_, rfl, State.storeParts_sends hspec hslot (State.direct_of_not_local hfar)⟩

/-- To OWNER, TREELD or CLGO it is a form held at issue, whose second issue has no effect of its own (R358). -/
theorem exec_std_held (hspec : s.me.spec = none) (h : s.reach (s.rS a + s.immS i) 8 .store = .at_ key pte)
    (hk : ownerKey key = true ∨ treeKey key = true) (z : BitVec 1) (d : BitVec 5)
    (hslot : s.noSlot [onePart key (s.rS a + s.immS i) pte 8 0 (s.rS d).toNat] = false) :
    exec (.std z d a i) s = .next (s.heldForm (s.holdBundle (if ownerKey key = true then .owner else .page)
      [onePart key (s.rS a + s.immS i) pte 8 0 (s.rS d).toNat] false) fun _ => s) := by
  rw [exec_std_at h]
  rcases hk with hk | hk
  · rw [State.storeAll_owner hspec hslot hk, if_pos hk]
  · rw [State.storeAll_tree hspec hslot hk rfl, if_neg (by simp [ownerKey_of_pageKey (pageKey_of_treeKey hk)])]

theorem exec_std_held_first (hspec : s.me.spec = none) (h : s.reach (s.rS a + s.immS i) 8 .store = .at_ key pte)
    (hk : ownerKey key = true ∨ treeKey key = true) (z : BitVec 1) (d : BitVec 5)
    (hslot : s.noSlot [onePart key (s.rS a + s.immS i) pte 8 0 (s.rS d).toNat] = false) (hans : s.iss.answer = none) :
    ∃ t, exec (.std z d a i) s = .next t ∧ s.holdsAt t (if ownerKey key = true then .owner else .page)
      [onePart key (s.rS a + s.immS i) pte 8 0 (s.rS d).toNat] false := by
  rw [exec_std_held hspec h hk z d hslot, State.heldForm_first hans]
  exact ⟨_, rfl, State.holdBundle_holdsAt hslot _ false⟩

theorem exec_std_held_again (hspec : s.me.spec = none) (h : s.reach (s.rS a + s.immS i) 8 .store = .at_ key pte)
    (hk : ownerKey key = true ∨ treeKey key = true) (z : BitVec 1) (d : BitVec 5)
    (hslot : s.noSlot [onePart key (s.rS a + s.immS i) pte 8 0 (s.rS d).toNat] = false) {x : Answer} (hans : s.iss.answer = some x) :
    (x.fail = none → exec (.std z d a i) s = .next s) ∧ ∀ c n v, x.fail = some (c, n, v) →
      exec (.std z d a i) s = .next (s.raise ⟨10, c, n.toNat, v.map (·.setWidth 64)⟩) := by
  rw [exec_std_held hspec h hk z d hslot]
  exact ⟨fun hf => congrArg _ (State.heldForm_done hans hf), fun _ _ _ hf => congrArg _ (State.heldForm_trap hans hf)⟩

end

/-! ## A page of registers on a seventh die -/

/-- Offset 0x58 of a page of registers that names die 6: as a core its block has number 27680, which is a stack core's. No on-chip
address leads there (R18). -/
def strayKey : Nat := 3 * 2 ^ 46 + 6 * 2 ^ 42 + 8 * 2 ^ 31 + 5 * 2 ^ 26 + 0x58

/-- A thread of context 0 of that stack core, with 0x58 in s1 and 5 in s2. Its group's second level translates page 0 to that page,
as to a frame. -/
def strayState : State :=
  let regs := ((Workspace.fresh 0x108 false).setS 1 0x58).setS 2 5
  let s := { State.reset.startThread (27680 * 20) Thread.none regs with cur := 27680 * 20, iss := { Issue.none with pc := 0x100 } }
  s.modPort (portOf 27680) fun p => { p with l2 := [⟨0, 0, 1, strayKey / 65536⟩] }

/-- What its STD stores. -/
def strayPart : Part := onePart strayKey (strayState.rS 1 + strayState.immS (0 : BitVec 10)) 1 8 0 (strayState.rS 2).toNat

theorem strayState_spec : strayState.me.spec = none := by decide +kernel

theorem strayState_reach : strayState.reach (strayState.rS 1 + strayState.immS (0 : BitVec 10)) 8 .store = .at_ strayKey 1 := by
  decide +kernel

theorem strayState_noSlot : strayState.noSlot [strayPart] = false := by decide +kernel

theorem strayState_direct : strayState.direct [strayPart] true = true := by decide +kernel

theorem strayState_here : strayState.gone strayState.me.ctx strayState.me.lid strayPart.key = false := by decide +kernel

/-- The store is made at once, as one to the core's own SRAM. -/
theorem exec_std_stray : exec (.std 0 2 1 0) strayState =
    .next (strayState.homeStore (some strayState.cur) strayPart.key strayPart.len strayPart.mask strayPart.data.toNat false) := by
  rw [exec_std_at strayState_reach, ← State.storeParts_direct strayState_spec strayState_direct strayState_here]
  exact congrArg _ (State.storeAll_plain strayState_spec strayState_noSlot (by decide) (by decide) true)

/-- It sends nothing. -/
theorem stray_homeStore_net : (strayState.homeStore (some strayState.cur) strayPart.key strayPart.len strayPart.mask strayPart.data.toNat
    false).net = strayState.net := by decide +kernel

end Sys2Proof.Machine
end

section
/-! PROOF. STD to a register: what fails is a store to a page of registers that the issuing core takes for its own memory. -/

namespace Sys2Proof

open Machine

/-- Refutes O15: its first clause says that a store to a page of registers leaves as a request, of every key that a translation
gives. Where one gives a page that names die 6, whose number as a core is a stack core's, that stack core takes the page for its
own SRAM, and its STD is made at once and sends nothing. The statement does not exclude such a translation (no walk gives a global
address a frame that lies outside HBM, R153). By on-chip addresses the clause holds (`exec_std_page`), and the others hold as they
stand (`exec_std_held_first`, `exec_std_held_again`). -/
theorem not_registerStores : ¬ Obligations.RegisterStores := by
  unfold Obligations.RegisterStores
  intro h
  obtain ⟨sends, -, -⟩ := h strayState 0 2 1 0 strayKey 1 strayState_spec strayState_reach strayState_noSlot
  obtain ⟨t, hrun, ⟨⟨r, hnet, -⟩, -⟩, -⟩ := sends (by decide) (by decide)
  obtain rfl := Host.Outcome.next.inj (exec_std_stray.symm.trans hrun)
  rw [stray_homeStore_net] at hnet
  exact absurd hnet (by simp)

end Sys2Proof
end
